-- ==== Sys2Proof/Word.lean ====
section
/-! DEFINITION. The words of the Vuden architecture (R1): 8-bit bytes, 32-bit register elements, 64-bit addresses. -/

namespace Sys2Proof

/-- One byte of a record or of memory. -/
abbrev Byte := BitVec 8

/-- One 32-bit register element, the width of a lane of v0 to v127 and of s0 to s63. -/
abbrev Word := BitVec 32

/-- A virtual address, or any other 64-bit value. -/
abbrev Addr := BitVec 64

end Sys2Proof
end

