-- ==== Sys2Proof/Config.lean ====
section
/-! DEFINITION. What the spec leaves to a board, a fuse or an implementation: values without a body, so that nothing can be
proved from a choice of them. -/

namespace Sys2Proof

/-- The L2 set that holds a line (R59): the spec gives 512 sets of 16 ways and no index function (DESIGN CHOICE, log 6). -/
opaque Config.l2Set : Nat → Nat

/-- The L1 set that holds a line (R10): the spec gives 128 KiB in 8-way sets and no index function (DESIGN CHOICE, log 6). -/
opaque Config.l1Set : Nat → Nat

/-- SHAKE256 of a byte string, by output length in bytes (R433). The spec names the function and does not define it. -/
opaque Config.shake256 : List (BitVec 8) → Nat → List (BitVec 8)

/-- Whether an Ed448ph signature with an empty context verifies, by key, digest and signature (R433, RFC 8032). -/
opaque Config.ed448phVerify : List (BitVec 8) → List (BitVec 8) → List (BitVec 8) → Bool

/-- The Ed448 signature by die 0's identity key of a digest, which the fuses fix (R433, R435). -/
opaque Config.identitySign : List (BitVec 8) → List (BitVec 8)

/-- Die 0's Ed448 identity public key, 57 bytes, which the fuses fix (R433, R435). -/
opaque Config.identityKey : List (BitVec 8)

/-- The fused digest of the vendor's key, 32 bytes (R433) (DESIGN CHOICE, log 12). -/
opaque Config.vendorKeyDigest : List (BitVec 8)

/-- The board configuration as read at boot (R433). -/
opaque Config.boardConfig : List (BitVec 8)

/-- QDOOR's IPA, which Apex publishes at boot (R268). -/
opaque Config.qdoor : Nat

/-- The updates of header-table entries that a flit's payload carries, each an entry and its new header (R430): the spec does not give how they
are coded (DESIGN CHOICE, log 17). -/
opaque Config.headerUpdates : List (BitVec 8) → List (Nat × List (BitVec 8))

/-- Where the context save area of a die lies in its HBM, in units of its 2 GiB (R414): Apex reserves it at boot. -/
opaque Config.saveArea : Nat → Nat

/-- The number of the port, among those a mask allows, that a hash of a remote IPA chooses (R429). -/
opaque Config.portHash : Nat → Nat

end Sys2Proof
end

