-- ==== Sys2Proof/Operand.lean ====
section
/-! DEFINITION. The fields of an instruction word with their register numbers and codes turned into names:
operands (R111), destinations (R115), and one record of fields per format (R109). -/

namespace Sys2Proof

/-- A source field (R111). `code` is a field that its opcode reads as a code, not as a source. -/
inductive Src where
  | v (n : Fin 128)
  | s (n : Fin 64)
  | c (n : Fin 32)
  | const (n : Fin 8)
  | lane
  | strand
  | group
  | team
  | active
  | q (n : Fin 10)
  | lit (value : Word)
  | imm
  | code (n : BitVec 8)
  deriving DecidableEq, Repr

/-- A destination field (R115). `none` is the unused field, which holds zero. -/
inductive Dst where
  | v (n : Fin 128)
  | s (n : Fin 64)
  | q (n : Fin 8)
  | p (n : Fin 7)
  | none
  deriving DecidableEq, Repr

/-- The unused operand field 0xE0 (R110). -/
abbrev Src.unused : Src := .const 0

/-- A VF word (R109). `neg` and `abs` hold the bits of A, B and C at bits 2, 1 and 0, as `reuse` does. -/
structure VF where
  dst : Dst
  a : Src
  b : Src
  c : Src
  neg : BitVec 3
  abs : BitVec 3
  clamp : Bool
  scale : BitVec 3
  reuse : BitVec 3
  pred : BitVec 3
  pinv : Bool
  deriving DecidableEq, Repr

/-- A VI word (R109). `neg` and `abs` hold the bits of A and B at bits 1 and 0. -/
structure VI where
  dst : Dst
  a : Src
  b : Src
  neg : BitVec 2
  abs : BitVec 2
  pred : BitVec 3
  pinv : Bool
  imm : BitVec 20
  deriving DecidableEq, Repr

/-- An SF word (R109). -/
structure SF where
  dst : Dst
  a : Src
  b : Src
  c : Src
  imm : BitVec 20
  deriving DecidableEq, Repr

/-- A MEM word (R109). -/
structure MEM where
  data : Src
  base : Src
  sb : Src
  offset : BitVec 16
  fe : BitVec 2
  scope : BitVec 2
  acq : Bool
  rel : Bool
  sync : Bool
  nt : Bool
  flag : BitVec 4
  deriving DecidableEq, Repr

/-- A CTL word (R109). -/
structure CTL where
  cond : Src
  f12 : BitVec 12
  offset : BitVec 32
  deriving DecidableEq, Repr

/-- An ENG word (R109). -/
structure ENG where
  a : Src
  b : Src
  c : Src
  imm : BitVec 16
  scope : BitVec 2
  acq : Bool
  rel : Bool
  sub : BitVec 4
  flag : BitVec 4
  deriving DecidableEq, Repr

/-- A GFX word (R109). -/
structure GFX where
  dst : Src
  a : Src
  b : Src
  c : Src
  kreg : BitVec 4
  imm : BitVec 8
  sub : BitVec 4
  flag : BitVec 4
  deriving DecidableEq, Repr

/-- The operand fields of one PAIR slot (R109). -/
structure SlotArgs where
  dst : Fin 128
  a : Src
  b : Src
  deriving DecidableEq, Repr

/-- The opcodes of a PAIR slot (R127). -/
inductive SlotOp where
  | fadd | fmul | fmin | fmax | iadd | isub | imul | and | or | xor | shl | shr | sar | mov
  | imin | imax | hadd2 | hmul2 | nop
  deriving DecidableEq, Repr

/-- The second slot of a PAIR word. -/
structure PairSlot where
  op : SlotOp
  args : SlotArgs
  deriving DecidableEq, Repr

end Sys2Proof
end

