-- ==== Sys2Proof/Syntax.lean ====
section
/-! DEFINITION. The instructions of the Vuden architecture and the steps of the machine's other agents: one
constructor per row of the table of operations and events, each docstring the row's rule. An event reads its
arguments from the field `ev` of the state; the constructors with fields come first. -/

namespace Sys2Proof

/-- One step of the machine, as the table of operations and events lists them. -/
inductive Instr where
  /-- FADD (R232). VF form: adds sources A and B per acting lane with one RNE rounding after scale. -/
  | fadd (x : VF)
  /-- FADD_IMM (R232). VI form of FADD with the 20-bit float immediate as source B. -/
  | faddImm (x : VI)
  /-- FMUL (R232). VF form: multiplies A by B per acting lane with one rounding. -/
  | fmul (x : VF)
  /-- FMUL_IMM (R232). VI form of FMUL with the immediate as source B. -/
  | fmulImm (x : VI)
  /-- FFMA (R232). VF form: computes A times B plus C with the product unrounded and one final rounding. -/
  | ffma (x : VF)
  /-- FFMA_IMM (R232). VI form of FFMA with the immediate as source C. -/
  | ffmaImm (x : VI)
  /-- FMIN (R232). VF form: writes minimumNumber of A and B. -/
  | fmin (x : VF)
  /-- FMIN_IMM (R232). VI form of FMIN with the immediate as source B. -/
  | fminImm (x : VI)
  /-- FMAX (R232). VF form: writes maximumNumber of A and B. -/
  | fmax (x : VF)
  /-- FMAX_IMM (R232). VI form of FMAX with the immediate as source B. -/
  | fmaxImm (x : VI)
  /-- FRCP (R233). VF form: correctly rounded reciprocal of A. -/
  | frcp (x : VF)
  /-- FRCP_IMM (R233). VI form of FRCP with the immediate as A. -/
  | frcpImm (x : VI)
  /-- FSQRT (R233). VF form: correctly rounded square root of A. -/
  | fsqrt (x : VF)
  /-- FSQRT_IMM (R233). VI form of FSQRT with the immediate as A. -/
  | fsqrtImm (x : VI)
  /-- FRSQ (R233). VF form: correctly rounded reciprocal square root of A. -/
  | frsq (x : VF)
  /-- FRSQ_IMM (R233). VI form of FRSQ with the immediate as A. -/
  | frsqImm (x : VI)
  /-- FEXP2 (R233). VF form: correctly rounded 2 to the power A. -/
  | fexp2 (x : VF)
  /-- FEXP2_IMM (R233). VI form of FEXP2 with the immediate as A. -/
  | fexp2Imm (x : VI)
  /-- FLOG2 (R233). VF form: correctly rounded base-2 logarithm of A. -/
  | flog2 (x : VF)
  /-- FLOG2_IMM (R233). VI form of FLOG2 with the immediate as A. -/
  | flog2Imm (x : VI)
  /-- FSINPI (R233). VF form: correctly rounded sin(pi A). -/
  | fsinpi (x : VF)
  /-- FSINPI_IMM (R233). VI form of FSINPI with the immediate as A. -/
  | fsinpiImm (x : VI)
  /-- FCOSPI (R233). VF form: correctly rounded cos(pi A). -/
  | fcospi (x : VF)
  /-- FCOSPI_IMM (R233). VI form of FCOSPI with the immediate as A. -/
  | fcospiImm (x : VI)
  /-- FFLOOR (R233). VF form: largest integer not above A. -/
  | ffloor (x : VF)
  /-- FFLOOR_IMM (R233). VI form of FFLOOR with the immediate as A. -/
  | ffloorImm (x : VI)
  /-- FFRACT (R233). VF form: A minus floor(A), rounded once. -/
  | ffract (x : VF)
  /-- FFRACT_IMM (R233). VI form of FFRACT with the immediate as A. -/
  | ffractImm (x : VI)
  /-- FSETP (R234). Compares A with B as floats under a condition code and writes each acting lane's predicate bit. -/
  | fsetp (x : VF)
  /-- HADD2 (R235). VF form: adds two FP16 halves per lane. -/
  | hadd2 (x : VF)
  /-- HADD2_IMM (R235). VI form of HADD2 reading the immediate as a 32-bit pattern. -/
  | hadd2Imm (x : VI)
  /-- HMUL2 (R235). VF form: multiplies two FP16 halves per lane. -/
  | hmul2 (x : VF)
  /-- HMUL2_IMM (R235). VI form of HMUL2 with the immediate as B. -/
  | hmul2Imm (x : VI)
  /-- HFMA2 (R235). VF form: fused multiply-add on two FP16 halves per lane. -/
  | hfma2 (x : VF)
  /-- HFMA2_IMM (R235). VI form of HFMA2 with the immediate as C. -/
  | hfma2Imm (x : VI)
  /-- BFMA2 (R235). VF form: fused multiply-add on two BF16 halves per lane. -/
  | bfma2 (x : VF)
  /-- BFMA2_IMM (R235). VI form of BFMA2 with the immediate as C. -/
  | bfma2Imm (x : VI)
  /-- DOT16E4 (R236). Forms the exact 16-term E4M3 dot product plus C with one rounding per lane. -/
  | dot16e4 (x : VF)
  /-- DOT16E5 (R236). Forms the exact 16-term E5M2 dot product plus C with one rounding per lane. -/
  | dot16e5 (x : VF)
  /-- IDP4 (R237). VF form: signed dot product of four INT8 pairs plus C. -/
  | idp4 (x : VF)
  /-- IDP4_IMM (R237). VI form of IDP4 with the immediate as C. -/
  | idp4Imm (x : VI)
  /-- IADD (R238). VF form: integer A plus B, wrapping or saturating. -/
  | iadd (x : VF)
  /-- IADD_IMM (R238). VI form of IADD with the sign-extended immediate as B. -/
  | iaddImm (x : VI)
  /-- ISUB (R238). VF form: integer A minus B. -/
  | isub (x : VF)
  /-- ISUB_IMM (R238). VI form of ISUB with the immediate as B. -/
  | isubImm (x : VI)
  /-- IMUL (R238). VF form: low 32 bits of signed A times B. -/
  | imul (x : VF)
  /-- IMUL_IMM (R238). VI form of IMUL with the immediate as B. -/
  | imulImm (x : VI)
  /-- IMULH (R238). VF form: high word of signed A times B. -/
  | imulh (x : VF)
  /-- IMULH_IMM (R238). VI form of IMULH with the immediate as B. -/
  | imulhImm (x : VI)
  /-- UMULH (R238). VF form: high word of unsigned A times B. -/
  | umulh (x : VF)
  /-- UMULH_IMM (R238). VI form of UMULH with the immediate as B. -/
  | umulhImm (x : VI)
  /-- IMAD (R238). VF form: integer A times B plus C. -/
  | imad (x : VF)
  /-- IMAD_IMM (R238). VI form of IMAD with the immediate as C. -/
  | imadImm (x : VI)
  /-- IMIN (R238). VF form: signed minimum of A and B. -/
  | imin (x : VF)
  /-- IMIN_IMM (R238). VI form of IMIN with the immediate as B. -/
  | iminImm (x : VI)
  /-- IMAX (R238). VF form: signed maximum of A and B. -/
  | imax (x : VF)
  /-- IMAX_IMM (R238). VI form of IMAX with the immediate as B. -/
  | imaxImm (x : VI)
  /-- UMIN (R238). VF form: unsigned minimum of A and B. -/
  | umin (x : VF)
  /-- UMIN_IMM (R238). VI form of UMIN with the immediate as B. -/
  | uminImm (x : VI)
  /-- UMAX (R238). VF form: unsigned maximum of A and B. -/
  | umax (x : VF)
  /-- UMAX_IMM (R238). VI form of UMAX with the immediate as B. -/
  | umaxImm (x : VI)
  /-- ISETP (R234). Compares A with B as signed integers and writes each acting lane's predicate bit. -/
  | isetp (x : VF)
  /-- USETP (R234). Compares A with B as unsigned integers and writes each acting lane's predicate bit. -/
  | usetp (x : VF)
  /-- AND (R239). VF form: bitwise A and B. -/
  | and (x : VF)
  /-- AND_IMM (R239). VI form of AND with the immediate as B. -/
  | andImm (x : VI)
  /-- OR (R239). VF form: bitwise A or B. -/
  | or (x : VF)
  /-- OR_IMM (R239). VI form of OR with the immediate as B. -/
  | orImm (x : VI)
  /-- XOR (R239). VF form: bitwise A xor B. -/
  | xor (x : VF)
  /-- XOR_IMM (R239). VI form of XOR with the immediate as B. -/
  | xorImm (x : VI)
  /-- SHL (R239). VF form: logical left shift of A by B. -/
  | shl (x : VF)
  /-- SHL_IMM (R239). VI form of SHL with the immediate shift count. -/
  | shlImm (x : VI)
  /-- SHR (R239). VF form: logical right shift of A by B. -/
  | shr (x : VF)
  /-- SHR_IMM (R239). VI form of SHR with the immediate shift count. -/
  | shrImm (x : VI)
  /-- SAR (R239). VF form: arithmetic right shift of A by B. -/
  | sar (x : VF)
  /-- SAR_IMM (R239). VI form of SAR with the immediate shift count. -/
  | sarImm (x : VI)
  /-- BFE (R240). VF form: extracts a bit field under a control word. -/
  | bfe (x : VF)
  /-- BFE_IMM (R240). VI form of BFE with the immediate control word. -/
  | bfeImm (x : VI)
  /-- BFI (R240). VF form: inserts a bit field into a base under a control word. -/
  | bfi (x : VF)
  /-- BFI_IMM (R240). VI form of BFI with the immediate base. -/
  | bfiImm (x : VI)
  /-- POPC (R239). VF form: counts the 1 bits of A. -/
  | popc (x : VF)
  /-- POPC_IMM (R239). VI form of POPC with the immediate as A. -/
  | popcImm (x : VI)
  /-- CLZ (R239). VF form: counts leading zero bits of A. -/
  | clz (x : VF)
  /-- CLZ_IMM (R239). VI form of CLZ with the immediate as A. -/
  | clzImm (x : VI)
  /-- BREV (R239). VF form: reverses the bits of A. -/
  | brev (x : VF)
  /-- BREV_IMM (R239). VI form of BREV with the immediate as A. -/
  | brevImm (x : VI)
  /-- MOV (R241). VF form: copies A to the destination. -/
  | mov (x : VF)
  /-- MOV_IMM (R241). VI form of MOV loading the sign-extended immediate. -/
  | movImm (x : VI)
  /-- SEL (R241). Writes A where the named predicate bit is 1 and B elsewhere. -/
  | sel (x : VF)
  /-- VIDX (R242). Reads a per-lane indexed vector register into the destination. -/
  | vidx (x : VF)
  /-- VIDXW (R242). Writes B into a per-lane indexed vector register. -/
  | vidxw (x : VF)
  /-- CVT (R244). Converts A between the formats named by the conversion code in SC. -/
  | cvt (x : VF)
  /-- CVTEF (R245). Narrows A with error feedback through a residue register. -/
  | cvtef (x : VF)
  /-- CVTSR (R246). Narrows A to FP16 or BF16 with stochastic rounding from B. -/
  | cvtsr (x : VF)
  /-- RNG (R247). Writes the counter hash of seed, counter and immediate stream per lane. -/
  | rng (x : VI)
  /-- SHFL (R248). VF form: reads A from the lane each lane names, or C when out of width. -/
  | shfl (x : VF)
  /-- SHFL_IMM (R248). VI form of SHFL with the immediate fallback C. -/
  | shflImm (x : VI)
  /-- PUTL (R249). VF form: writes A into the lanes each acting lane names. -/
  | putl (x : VF)
  /-- PUTL_IMM (R249). VI form of PUTL with the immediate lane number. -/
  | putlImm (x : VI)
  /-- VOTE (R250). Writes ANY, ALL or EQ of A over the acting lanes to a predicate. -/
  | vote (x : VF)
  /-- BALLOT (R250). VF form: writes the mask of acting lanes with A non-zero. -/
  | ballot (x : VF)
  /-- BALLOT_IMM (R250). VI form of BALLOT with the immediate as A. -/
  | ballotImm (x : VI)
  /-- REDUX (R251). Reduces A over the acting lanes in lane order and writes the result to each. -/
  | redux (x : VF)
  /-- FADD_SLOT (R258). PAIR slot performing FADD on the gang's active lanes. -/
  | faddSlot (x : SlotArgs) (y : PairSlot)
  /-- FMUL_SLOT (R258). PAIR slot performing FMUL. -/
  | fmulSlot (x : SlotArgs) (y : PairSlot)
  /-- FMIN_SLOT (R258). PAIR slot performing FMIN. -/
  | fminSlot (x : SlotArgs) (y : PairSlot)
  /-- FMAX_SLOT (R258). PAIR slot performing FMAX. -/
  | fmaxSlot (x : SlotArgs) (y : PairSlot)
  /-- IADD_SLOT (R258). PAIR slot performing IADD. -/
  | iaddSlot (x : SlotArgs) (y : PairSlot)
  /-- ISUB_SLOT (R258). PAIR slot performing ISUB. -/
  | isubSlot (x : SlotArgs) (y : PairSlot)
  /-- IMUL_SLOT (R258). PAIR slot performing IMUL. -/
  | imulSlot (x : SlotArgs) (y : PairSlot)
  /-- AND_SLOT (R258). PAIR slot performing AND. -/
  | andSlot (x : SlotArgs) (y : PairSlot)
  /-- OR_SLOT (R258). PAIR slot performing OR. -/
  | orSlot (x : SlotArgs) (y : PairSlot)
  /-- XOR_SLOT (R258). PAIR slot performing XOR. -/
  | xorSlot (x : SlotArgs) (y : PairSlot)
  /-- SHL_SLOT (R258). PAIR slot performing SHL. -/
  | shlSlot (x : SlotArgs) (y : PairSlot)
  /-- SHR_SLOT (R258). PAIR slot performing SHR. -/
  | shrSlot (x : SlotArgs) (y : PairSlot)
  /-- SAR_SLOT (R258). PAIR slot performing SAR. -/
  | sarSlot (x : SlotArgs) (y : PairSlot)
  /-- MOV_SLOT (R258). PAIR slot performing MOV. -/
  | movSlot (x : SlotArgs) (y : PairSlot)
  /-- IMIN_SLOT (R258). PAIR slot performing IMIN. -/
  | iminSlot (x : SlotArgs) (y : PairSlot)
  /-- IMAX_SLOT (R258). PAIR slot performing IMAX. -/
  | imaxSlot (x : SlotArgs) (y : PairSlot)
  /-- HADD2_SLOT (R258). PAIR slot performing HADD2. -/
  | hadd2Slot (x : SlotArgs) (y : PairSlot)
  /-- HMUL2_SLOT (R258). PAIR slot performing HMUL2. -/
  | hmul2Slot (x : SlotArgs) (y : PairSlot)
  /-- SLOT_NOP (R122). PAIR slot that does nothing. -/
  | slotNop (y : PairSlot)
  /-- SADD (R253). Adds scalars A and B in each strand of the gang. -/
  | sadd (x : SF)
  /-- SSUB (R253). Subtracts scalar B from A per strand. -/
  | ssub (x : SF)
  /-- SMUL (R253). Low 32 bits of scalar A times B per strand. -/
  | smul (x : SF)
  /-- SMULH (R253). Signed high word of scalar A times B per strand. -/
  | smulh (x : SF)
  /-- SAND (R253). Bitwise and of scalars per strand. -/
  | sand (x : SF)
  /-- SOR (R253). Bitwise or of scalars per strand. -/
  | sor (x : SF)
  /-- SXOR (R253). Bitwise xor of scalars per strand. -/
  | sxor (x : SF)
  /-- SSHL (R253). Scalar logical left shift per strand. -/
  | sshl (x : SF)
  /-- SSHR (R253). Scalar logical right shift per strand. -/
  | sshr (x : SF)
  /-- SSAR (R253). Scalar arithmetic right shift per strand. -/
  | ssar (x : SF)
  /-- SMIN (R253). Signed scalar minimum per strand. -/
  | smin (x : SF)
  /-- SMAX (R253). Signed scalar maximum per strand. -/
  | smax (x : SF)
  /-- SMOV (R253). Copies a scalar source into a scalar register per strand. -/
  | smov (x : SF)
  /-- SSETP (R254). Compares scalars and sets all four lane bits of each strand in a predicate. -/
  | ssetp (x : SF)
  /-- SSEL (R254). Selects scalar A or B per strand by its predicate slice. -/
  | ssel (x : SF)
  /-- SFADD (R253). FP32 scalar add per strand. -/
  | sfadd (x : SF)
  /-- SFMUL (R253). FP32 scalar multiply per strand. -/
  | sfmul (x : SF)
  /-- SFFMA (R253). FP32 scalar fused multiply-add per strand. -/
  | sffma (x : SF)
  /-- SBFE (R253). Scalar bit-field extract per strand. -/
  | sbfe (x : SF)
  /-- SPOPC (R253). Scalar population count per strand. -/
  | spopc (x : SF)
  /-- SREAD (R256). Reads a system register once per gang into every strand's scalar copy. -/
  | sread (x : SF)
  /-- SWRITE (R256). Writes a system register from the lowest strand's scalar, affecting later instructions. -/
  | swrite (x : SF)
  /-- SFROMV (R257). Copies one lane of a vector register into each strand's scalar. -/
  | sfromv (x : SF)
  /-- LD_B (R136). Loads one byte per acting lane, zero-extended, plain or immediate. -/
  | ldB (x : MEM)
  /-- LD_H (R136). Loads a halfword per lane, zero-extended. -/
  | ldH (x : MEM)
  /-- LD_W (R136). Loads a word per lane. -/
  | ldW (x : MEM)
  /-- LD_D (R136). Loads 8 bytes per lane into a register pair. -/
  | ldD (x : MEM)
  /-- LD_Q (R136). Loads 16 bytes per lane into a run of four registers. -/
  | ldQ (x : MEM)
  /-- LD_BS (R136). Loads one byte per lane, sign-extended. -/
  | ldBs (x : MEM)
  /-- LD_HS (R136). Loads a halfword per lane, sign-extended. -/
  | ldHs (x : MEM)
  /-- ST_B (R136). Stores one byte per acting lane, plain or immediate. -/
  | stB (x : MEM)
  /-- ST_H (R136). Stores a halfword per lane. -/
  | stH (x : MEM)
  /-- ST_W (R136). Stores a word per lane. -/
  | stW (x : MEM)
  /-- ST_D (R136). Stores 8 bytes per lane from a register pair. -/
  | stD (x : MEM)
  /-- ST_Q (R136). Stores 16 bytes per lane from a run of four registers. -/
  | stQ (x : MEM)
  /-- LDU_W (R139). Loads one word once per gang into every strand's scalar. -/
  | lduW (x : MEM)
  /-- LDU_D (R139). Loads 8 bytes once per gang into a scalar pair. -/
  | lduD (x : MEM)
  /-- LDC (R140). Reads the launch constant bank by index. -/
  | ldc (x : MEM)
  /-- LDS_W (R141). Loads 4 bytes from local space under a full/empty mode. -/
  | ldsW (x : MEM)
  /-- LDS_D (R141). Loads 8 bytes from local space. -/
  | ldsD (x : MEM)
  /-- LDS_Q (R141). Loads 16 bytes from local space. -/
  | ldsQ (x : MEM)
  /-- STS_W (R141). Stores 4 bytes to local space, optionally setting full. -/
  | stsW (x : MEM)
  /-- STS_D (R141). Stores 8 bytes to local space. -/
  | stsD (x : MEM)
  /-- STS_Q (R141). Stores 16 bytes to local space. -/
  | stsQ (x : MEM)
  /-- ATOM_ADD (R143). Atomic wrapping add returning old values. -/
  | atomAdd (x : MEM)
  /-- ATOM_MIN (R143). Atomic signed minimum returning old values. -/
  | atomMin (x : MEM)
  /-- ATOM_MAX (R143). Atomic signed maximum returning old values. -/
  | atomMax (x : MEM)
  /-- ATOM_UMIN (R143). Atomic unsigned minimum returning old values. -/
  | atomUmin (x : MEM)
  /-- ATOM_UMAX (R143). Atomic unsigned maximum returning old values. -/
  | atomUmax (x : MEM)
  /-- ATOM_AND (R143). Atomic bitwise and returning old values. -/
  | atomAnd (x : MEM)
  /-- ATOM_OR (R143). Atomic bitwise or returning old values. -/
  | atomOr (x : MEM)
  /-- ATOM_XOR (R143). Atomic bitwise xor returning old values. -/
  | atomXor (x : MEM)
  /-- ATOM_XCHG (R143). Atomic exchange returning old values. -/
  | atomXchg (x : MEM)
  /-- ATOM_CAS (R143). Atomic compare-and-swap returning old values. -/
  | atomCas (x : MEM)
  /-- ATOM_FADD (R143). Atomic FP32 add applied lane by lane, returning old values. -/
  | atomFadd (x : MEM)
  /-- ATOM_FMIN (R143). Atomic FP32 minimumNumber returning old values. -/
  | atomFmin (x : MEM)
  /-- ATOM_FMAX (R143). Atomic FP32 maximumNumber returning old values. -/
  | atomFmax (x : MEM)
  /-- RED_ADD (R143). Atomic add writing no register. -/
  | redAdd (x : MEM)
  /-- RED_MIN (R143). Atomic signed minimum reduction. -/
  | redMin (x : MEM)
  /-- RED_MAX (R143). Atomic signed maximum reduction. -/
  | redMax (x : MEM)
  /-- RED_UMIN (R143). Atomic unsigned minimum reduction. -/
  | redUmin (x : MEM)
  /-- RED_UMAX (R143). Atomic unsigned maximum reduction. -/
  | redUmax (x : MEM)
  /-- RED_AND (R143). Atomic bitwise and reduction. -/
  | redAnd (x : MEM)
  /-- RED_OR (R143). Atomic bitwise or reduction. -/
  | redOr (x : MEM)
  /-- RED_XOR (R143). Atomic bitwise xor reduction. -/
  | redXor (x : MEM)
  /-- RED_XCHG (R143). Atomic exchange writing no register. -/
  | redXchg (x : MEM)
  /-- RED_CAS (R143). Atomic compare-and-swap writing no register. -/
  | redCas (x : MEM)
  /-- RED_FADD (R143). Atomic FP32 add reduction applied lane by lane. -/
  | redFadd (x : MEM)
  /-- RED_FMIN (R143). Atomic FP32 minimum reduction. -/
  | redFmin (x : MEM)
  /-- RED_FMAX (R143). Atomic FP32 maximum reduction. -/
  | redFmax (x : MEM)
  /-- PHASE (R144). Completes a release, an acquire or both at the given scope. -/
  | phase (x : MEM)
  /-- PREF (R145). Asks for each active lane's line to be filled into L2 and CACHE banks without trapping. -/
  | pref (x : MEM)
  /-- CPY_IN (R146). Copy engine command moving bytes from memory to local space, optionally pushing a q9 token. -/
  | cpyIn (x : MEM)
  /-- CPY_OUT (R146). Copy engine command moving bytes from local space to memory. -/
  | cpyOut (x : MEM)
  /-- CBANK (R148). Privileged change of the mode of the named cluster banks. -/
  | cbank (x : MEM)
  /-- QBIND (R149). Binds or unbinds a queue register to a ring in a FIFO bank. -/
  | qbind (x : MEM)
  /-- WAKE_TOKEN (R151). Privileged re-performance of the wait-table entry named by a fault token. -/
  | wakeToken (x : MEM)
  /-- WAKE_PAGE (R151). Privileged re-performance of the wait-table entry for the page holding an IPA. -/
  | wakePage (x : MEM)
  /-- BRA (R195). Branches each strand by its .any or .all predicate decision, parting the gang if they differ. -/
  | bra (x : CTL)
  /-- BRX (R196). Sends each strand to the target in its own scalar pair. -/
  | brx (x : CTL)
  /-- CALL (R197). Writes the link pair and sends the gang to its target. -/
  | call (x : CTL)
  /-- RET (R197). Sends the gang to the address in the lowest strand's link pair. -/
  | ret (x : CTL)
  /-- PPUSH (R194). Pushes the active mask and-ed with a predicate on each strand's stack. -/
  | ppush (x : CTL)
  /-- WAITF (R201). Waits until the named flags are clear and ends tracking of their registers. -/
  | waitf (x : CTL)
  /-- TRAP (R205). Raises SOFT with the trap number in TRAPADDR. -/
  | trap (x : CTL)
  /-- BAR_INIT (R209). Sets a barrier's expected count and marks resident groups as participants. -/
  | barInit (x : CTL)
  /-- BAR_ARV (R209). Arrives at a barrier, completing it when the count reaches EXPECT. -/
  | barArv (x : CTL)
  /-- BAR_WAIT (R209). Waits until the group's arrival generation has completed. -/
  | barWait (x : CTL)
  /-- BAR_SYNC (R209). Arrives at a barrier, then waits on it. -/
  | barSync (x : CTL)
  /-- BAR_DROP (R209). Removes the group from a barrier and lowers EXPECT. -/
  | barDrop (x : CTL)
  /-- SLOOP (R198). Decrements each strand's counter and branches while it is non-zero. -/
  | sloop (x : CTL)
  /-- SYSCALL (R206). Places a request in Apex's service queue and makes the gang wait for the answer. -/
  | syscall (x : CTL)
  /-- MMLOAD (R292). Latches a BFP weight tile from memory into the Prism array. -/
  | mmload (x : ENG)
  /-- MMRUN (R293). Reserves an activation stream and accumulates S steps of V vectors into accumulator rows. -/
  | mmrun (x : ENG)
  /-- MMDRAIN_MEM (R296). Converts accumulator rows and writes them to memory. -/
  | mmdrainMem (x : ENG)
  /-- MMDRAIN_LOC (R296). Converts accumulator rows and writes them to local space, setting granules full. -/
  | mmdrainLoc (x : ENG)
  /-- MMDRAIN_RING (R296). Converts accumulator rows and pushes them into a bound FIFO ring. -/
  | mmdrainRing (x : ENG)
  /-- MMDRAIN_Q8 (R296). Converts accumulator rows and pushes their words to the group's q8. -/
  | mmdrainQ8 (x : ENG)
  /-- MMDRAIN_STAT (R297). Pushes the NANBLK status word to q8, optionally clearing it. -/
  | mmdrainStat (x : ENG)
  /-- SPAWN (R184). Starts a new group in the spawner's team if a context and space are free, returning a status. -/
  | spawn (x : ENG)
  /-- TASK (R388). Enqueues a child task with a timestamp and lineage tie, returning status and id. -/
  | task (x : ENG)
  /-- TWAIT (R390). Waits until FRONTIER exceeds a timestamp or the task is the frontier task. -/
  | twait (x : ENG)
  /-- TEX_S (R336). Samples a texture with fallback to coarser levels and writes colour and status. -/
  | texS (x : GFX)
  /-- TEX_L (R336). Fetches a texel at an integer position and level with fallback. -/
  | texL (x : GFX)
  /-- TEX_Q (R336). Reports level sizes, residency and map byte without reading texels. -/
  | texQ (x : GFX)
  /-- RAY_T (R313). Traces rays and returns the nearest hit's t, ids and barycentrics. -/
  | rayT (x : GFX)
  /-- RAY_O (R313). Traces rays and returns whether any triangle is hit. -/
  | rayO (x : GFX)
  /-- RAY_A (R314). Traces rays and returns the nearest hit with its world-space normal. -/
  | rayA (x : GFX)
  /-- KCLR (R358). Sets a closure register to a frame and empties it. -/
  | kclr (x : GFX)
  /-- KLOBE (R343). Pushes a conditioned leaf lobe onto the closure's build stack. -/
  | klobe (x : GFX)
  /-- KMIX (R343). Combines the top two subtrees under a MIX node. -/
  | kmix (x : GFX)
  /-- KLAYER (R343). Layers the top coat leaf over the subtree below it. -/
  | klayer (x : GFX)
  /-- KSCALE (R343). Scales the weight or scale of the top node. -/
  | kscale (x : GFX)
  /-- KSAMPLE (R355). Samples a direction from the closure and returns value, pdf and info. -/
  | ksample (x : GFX)
  /-- KEVAL (R356). Evaluates the closure's f times cos for two directions. -/
  | keval (x : GFX)
  /-- KDENS (R356). Returns the closure's sampling density for two directions. -/
  | kdens (x : GFX)
  /-- KSPILL (R359). Stores a lane's 256 closure bytes to memory. -/
  | kspill (x : GFX)
  /-- KFILL (R359). Loads a lane's 256 closure bytes from memory. -/
  | kfill (x : GFX)
  /-- KINFO (R360). Reads one 32-bit word of a closure register. -/
  | kinfo (x : GFX)
  /-- KMOV (R360). Copies a whole closure register to another. -/
  | kmov (x : GFX)
  /-- PINV (R194). Inverts the top entry against the entry below on each strand's stack. -/
  | pinv
  /-- PPOP (R194). Pops each strand's predicate stack. -/
  | ppop
  /-- REGANG (R199). Makes the gang wait until every live strand reaches a REGANG. -/
  | regang
  /-- YIELD (R202). Gives issue to other ready groups, or ends the turn in a deterministic launch. -/
  | yield
  /-- EXIT (R203). Exits every strand of the issuing gang. -/
  | exit
  /-- NOP (R204). Occupies an issue slot and does nothing. -/
  | nop
  /-- TRAPRET (R410). Restores the control state saved at trap entry and leaves the handler. -/
  | trapret
  /-- LITEXEC (R114). A LIT word reached as an instruction raises LITEXEC with no other effect. -/
  | litexec
  /-- TABORT_RETRY (R389). Aborts the running task and requeues it. -/
  | tabortRetry
  /-- TABORT_DROP (R389). Discards the task's versions and descendants and leaves it finished. -/
  | tabortDrop
  /-- INV (R38). Translation command dropping TLB and walk-cache entries overlapping a span. -/
  | tcInv
  /-- INVFLUSH (R38). Translation command invalidating a span and writing back and dropping its L2 lines. -/
  | tcInvFlush
  /-- INVALL (R38). Translation command dropping every TLB and walk-cache entry. -/
  | tcInvAll
  /-- PCOPY (R38). Translation command copying one physical page. -/
  | tcPcopy
  /-- TCCMD_INVALID (R38). A TCCMD write with an unknown OP, bad argument or while busy starts nothing and sets ERR. -/
  | tccmdInvalid
  /-- TC_COMMAND_DONE (R39). A translation command finishes, held write-backs are re-walked and BUSY clears. -/
  | tcCommandDone
  /-- TCSTAT_READ (R37). Reading TCSTAT returns BUSY and ERR and clears ERR. -/
  | tcstatRead
  /-- REGISTER_WRITE (R423). Write to a control-space or BAR0 register that has no behaviour of its own. -/
  | registerWrite
  /-- TRANSLATION_ANSWER (R32). The memory side answers a translation and the outcome is routed by access kind. -/
  | translationAnswer
  /-- RELEASE_BOUNDARY (R92). A release begins once earlier accesses complete, publishes pending versions and completes on acknowledgement. -/
  | releaseBoundary
  /-- ACQUIRE_BOUNDARY (R93). An acquire drops clean L1 sectors, SNAPSHOT versions and the metadata cache. -/
  | acquireBoundary
  /-- IMPLICIT_BOUNDARY (R67). A core reaching a version-block limit completes an implicit release or acquire. -/
  | implicitBoundary
  /-- IMMEDIATE_AT_HOME (R98). An immediate access is performed on COMMITTED at its home slice. -/
  | immediateAtHome
  /-- ATOMIC_AT_HOME (R100). An atomic request is applied lane by lane at its home slice as one operation. -/
  | atomicAtHome
  /-- LONG_LATENCY_COMPLETE (R120). A long-latency instruction completes and its flag clears. -/
  | longLatencyComplete
  /-- CLBMODE_WRITE (R54). An Apex write to CLBMODE starts mode changes on the banks whose field differs. -/
  | clbmodeWrite
  /-- BANK_MODE_CHANGE (R55). Once its accesses and held commands drain, a bank changes mode and waiting accesses are judged. -/
  | bankModeChange
  /-- GRANULE_SERVE (R57). A waiting local access is served when its granule's full/empty bit allows. -/
  | granuleServe
  /-- QUEUE_ELEMENT_SERVE (R150). A waiting queue push or pop is served when its granule becomes empty or full. -/
  | queueElementServe
  /-- TEAM_PLACEMENT (R179). A waiting team is placed on a core when contexts, registers and rows allow. -/
  | teamPlacement
  /-- GROUP_RETIRE (R186). After its long-latency instructions complete a group frees its context and drops barriers. -/
  | groupRetire
  /-- ACTIVE_SET_EXCHANGE (R278). Every 64 cycles the oldest active group is exchanged for the oldest ready pending group. -/
  | activeSetExchange
  /-- ISTAB_WRITE (R276). An ISTAB write takes effect at the next cycle with CLOCK mod 64 equal to 0. -/
  | istabWrite
  /-- REGANG_MEET (R199). When every live strand reaches REGANG they form one gang or REGANG traps. -/
  | regangMeet
  /-- YIELD_END (R202). A yielding group may issue again after others were offered issue or 64 cycles passed. -/
  | yieldEnd
  /-- QDOOR (R268). A doorbell write makes Apex read a queue's new packets. -/
  | qdoor
  /-- NOP_PACKET (R270). Queue packet that does nothing. -/
  | nopPacket
  /-- LAUNCH (R270). Queue packet placing the launch of a record. -/
  | launchPacket
  /-- LAUNCH_IND (R270). Queue packet placing a launch with its top extent read from memory. -/
  | launchIndPacket
  /-- WAIT (R270). Queue packet waiting until a word reaches a value. -/
  | waitPacket
  /-- WAIT_RECHECK (R270). A waiting WAIT packet re-reads its word at least every 2 microseconds. -/
  | waitRecheck
  /-- SIGNAL (R270). Queue packet writing or adding to a word with release after earlier launches complete. -/
  | signalPacket
  /-- COPY (R270). Queue packet copying memory after earlier launches complete. -/
  | copyPacket
  /-- LOOP (R270). Queue packet repeating the packets up to ENDLOOP a count of times. -/
  | loopPacket
  /-- ENDLOOP (R270). Queue packet closing the innermost loop. -/
  | endLoopPacket
  /-- IF (R270). Queue packet skipping the next n packets when a condition fails. -/
  | ifPacket
  /-- ORDER (R270). Queue packet waiting for every earlier launch of the queue. -/
  | orderPacket
  /-- QUEUE_TIMESLICE (R269). After 50 microseconds an unpinned queue yields its slot to a waiting queue. -/
  | queueTimeslice
  /-- DEADLINE_MISS (R274). TIMEB passing a class-0 launch's DEADLINE counts a miss and posts an event. -/
  | deadlineMiss
  /-- QUEUE_REGISTER (R424). QRCMD 1 registers a queue descriptor, writing DONE and mapping pinned queues. -/
  | queueRegister
  /-- QUEUE_UNREGISTER (R424). QRCMD 2 unregisters a queue and frees its slot. -/
  | queueUnregister
  /-- SYSCALL_ANSWER (R426). A SCANS SEQ write delivers the answer words to the waiting gang or its image. -/
  | syscallAnswer
  /-- RING_POSTING (R425). A waiting fault or service posting is written to its ring when room and setup allow. -/
  | ringPosting
  /-- RING_REG_WRITE (R425). A write to a fault or service ring's BASE or TAIL retries waiting postings. -/
  | ringRegWrite
  /-- EVENT_POST (R427). Apex writes a waiting event record and advances EVHEAD with release. -/
  | eventPost
  /-- EVQ_REG_WRITE (R427). A write to EVBASE, EVLOG or EVTAIL retries waiting events. -/
  | evqRegWrite
  /-- GKILL (R421). A write of a halted group's index retires that group. -/
  | gkill
  /-- ACMD (R435). A write of 1 to ACMD starts an attestation report. -/
  | acmd
  /-- ATTEST_REPORT_READY (R435). The signed attestation report is complete and ASTAT reads 2. -/
  | attestReportReady
  /-- CARE_CLEAR (R437). A host write to a CARE counter clears it. -/
  | careClear
  /-- HOST_IPA_ACCESS (R422). A BAR4 host access is performed immediately on COMMITTED at its home slice. -/
  | hostIpaAccess
  /-- FLIT_RECEIVE (R430). A Smihus Link flit arrives, is CRC-checked and accepted in order or refused with NAK. -/
  | flitReceive
  /-- FLIT_REPLAY (R431). On a NAK the sender resends every later flit bit-identically. -/
  | flitReplay
  /-- LANE_FAILURE (R432). A failed link lane is remapped to a spare, or the port narrows or goes down. -/
  | laneFailure
  /-- TIMEB_SYNC (R449). A package follows the lowest-NODEID package's TIMEB over its links. -/
  | timebSync
  /-- BOOT_ROM (R433). At reset Apex core 0 reads the board configuration and fetches the image. -/
  | bootRom
  /-- IMAGE_VERIFY (R434). A fetched image is checked and verified, starting Apex or retrying and failing. -/
  | imageVerify
  /-- FULL_SERVICE_START (R436). When training and bring-up finish the clock moves to 3.0 GHz and waiting accesses proceed. -/
  | fullServiceStart
  /-- CLOCK_STRETCH (R438). A supply sag makes droop sensors stretch the clock. -/
  | clockStretch
  /-- CORE_FAILURE (R9). A failing core is exchanged with a spare or taken out of service. -/
  | coreFailure
  /-- L2_SLICE_FAILURE (R437). A failing L2 slice is written back and replaced by a spare slice. -/
  | l2SliceFailure
  /-- SOFT_ERROR (R437). A soft error in SRAM, registers or L2 is corrected and scrubbed. -/
  | softError
  /-- UNCORRECTABLE_GROUP_ERROR (R437). An uncorrectable error in group state halts that group with an event. -/
  | uncorrectableGroupError
  /-- PREEMPT_TEAM (R414). Apex stops a team, settles in-flight work, releases and writes its image. -/
  | preemptTeam
  /-- RESUME_TEAM (R414). A pre-empted team is placed whole, acquires and restores its images. -/
  | resumeTeam
  /-- TASK_DISPATCH (R374). The task unit gives a dispatchable task to a free worker. -/
  | taskDispatch
  /-- TASK_FINISH (R373). A task finishes when its last strand exits and its accesses complete. -/
  | taskFinish
  /-- TASK_COMMIT (R379). The finished frontier task's versions are merged and FRONTIER advances. -/
  | taskCommit
  /-- TOKEN_PASS (R397). The determinism token passes to the next group once conditions are met. -/
  | tokenPass
  /-- FOREIGN_ATOMIC_APPLY (R403). A foreign floating atomic waiting on an open line is applied and INTRUDE counts it. -/
  | foreignAtomicApply
  /-- PRISM_COMMAND_START (R283). The Prism sequencer begins the next arrived command after the previous one. -/
  | prismCommandStart
  /-- RAY_LANE_FINISH (R315). A traced lane finishes and its results are written. -/
  | rayLaneFinish
  /-- ILLEGAL_INSTRUCTION (R127). A fetched word with a reserved format code or an unlisted opcode raises ILLEGAL at decode and does nothing. -/
  | illegalInstruction
  /-- FETCH_FAULT (R32). An instruction fetch that is misaligned or whose translation answers a fault parks the group under a token or traps at once. -/
  | fetchFault
  /-- HBM_SYMBOL_ERROR (R437). An HBM symbol error is corrected per pseudo-channel, rows are spared after repeats, and CARE counts it. -/
  | hbmSymbolError
  /-- PAGE_TABLE_WRITE (R41). Apex or the host writes an aligned 8-byte page-table entry to physical memory, performed at the stack before it completes. -/
  | pageTableWrite
  deriving DecidableEq, Repr

end Sys2Proof
end

