-- ==== Sys2Proof/WellFormed.lean ====
section
/-! DEFINITION. The word form of each instruction and the decode checks of R110 to R131, R183, R190, R289, R294, R306,
R335, R357 and R387: an instruction is well-formed when some word encodes it. -/

namespace Sys2Proof

/-- The fields of an unused PAIR slot (R122). -/
def SlotArgs.unused : SlotArgs := ⟨0, .unused, .unused⟩

/-- An instruction as its format, its opcode and its fields. -/
inductive Form where
  | vf (op : Nat) (x : VF)
  | vi (op : Nat) (x : VI)
  | sf (op : Nat) (x : SF)
  | mem (op : Nat) (x : MEM)
  | ctl (op : Nat) (x : CTL)
  | eng (op : Nat) (x : ENG)
  | gfx (op : Nat) (x : GFX)
  | pair (op : SlotOp) (x : SlotArgs) (y : PairSlot)
  | lit
  | event
  deriving DecidableEq, Repr

/-- The word format, opcode and fields of a constructor; `event` for a row that no word encodes. -/
def Instr.form : Instr → Form
  | .fadd x => .vf 0x00 x
  | .fmul x => .vf 0x01 x
  | .ffma x => .vf 0x02 x
  | .fmin x => .vf 0x03 x
  | .fmax x => .vf 0x04 x
  | .frcp x => .vf 0x05 x
  | .fsqrt x => .vf 0x06 x
  | .frsq x => .vf 0x07 x
  | .fexp2 x => .vf 0x08 x
  | .flog2 x => .vf 0x09 x
  | .fsinpi x => .vf 0x0a x
  | .fcospi x => .vf 0x0b x
  | .ffloor x => .vf 0x0c x
  | .ffract x => .vf 0x0d x
  | .fsetp x => .vf 0x0e x
  | .hadd2 x => .vf 0x10 x
  | .hmul2 x => .vf 0x11 x
  | .hfma2 x => .vf 0x12 x
  | .bfma2 x => .vf 0x13 x
  | .dot16e4 x => .vf 0x18 x
  | .dot16e5 x => .vf 0x19 x
  | .idp4 x => .vf 0x1a x
  | .iadd x => .vf 0x20 x
  | .isub x => .vf 0x21 x
  | .imul x => .vf 0x22 x
  | .imulh x => .vf 0x23 x
  | .umulh x => .vf 0x24 x
  | .imad x => .vf 0x25 x
  | .imin x => .vf 0x26 x
  | .imax x => .vf 0x27 x
  | .umin x => .vf 0x28 x
  | .umax x => .vf 0x29 x
  | .isetp x => .vf 0x2a x
  | .usetp x => .vf 0x2b x
  | .and x => .vf 0x30 x
  | .or x => .vf 0x31 x
  | .xor x => .vf 0x32 x
  | .shl x => .vf 0x33 x
  | .shr x => .vf 0x34 x
  | .sar x => .vf 0x35 x
  | .bfe x => .vf 0x36 x
  | .bfi x => .vf 0x37 x
  | .popc x => .vf 0x38 x
  | .clz x => .vf 0x39 x
  | .brev x => .vf 0x3a x
  | .mov x => .vf 0x40 x
  | .sel x => .vf 0x41 x
  | .vidx x => .vf 0x42 x
  | .vidxw x => .vf 0x43 x
  | .cvt x => .vf 0x48 x
  | .cvtef x => .vf 0x49 x
  | .cvtsr x => .vf 0x4a x
  | .shfl x => .vf 0x50 x
  | .putl x => .vf 0x51 x
  | .vote x => .vf 0x52 x
  | .ballot x => .vf 0x53 x
  | .redux x => .vf 0x54 x
  | .faddImm x => .vi 0x00 x
  | .fmulImm x => .vi 0x01 x
  | .ffmaImm x => .vi 0x02 x
  | .fminImm x => .vi 0x03 x
  | .fmaxImm x => .vi 0x04 x
  | .frcpImm x => .vi 0x05 x
  | .fsqrtImm x => .vi 0x06 x
  | .frsqImm x => .vi 0x07 x
  | .fexp2Imm x => .vi 0x08 x
  | .flog2Imm x => .vi 0x09 x
  | .fsinpiImm x => .vi 0x0a x
  | .fcospiImm x => .vi 0x0b x
  | .ffloorImm x => .vi 0x0c x
  | .ffractImm x => .vi 0x0d x
  | .hadd2Imm x => .vi 0x10 x
  | .hmul2Imm x => .vi 0x11 x
  | .hfma2Imm x => .vi 0x12 x
  | .bfma2Imm x => .vi 0x13 x
  | .idp4Imm x => .vi 0x1a x
  | .iaddImm x => .vi 0x20 x
  | .isubImm x => .vi 0x21 x
  | .imulImm x => .vi 0x22 x
  | .imulhImm x => .vi 0x23 x
  | .umulhImm x => .vi 0x24 x
  | .imadImm x => .vi 0x25 x
  | .iminImm x => .vi 0x26 x
  | .imaxImm x => .vi 0x27 x
  | .uminImm x => .vi 0x28 x
  | .umaxImm x => .vi 0x29 x
  | .andImm x => .vi 0x30 x
  | .orImm x => .vi 0x31 x
  | .xorImm x => .vi 0x32 x
  | .shlImm x => .vi 0x33 x
  | .shrImm x => .vi 0x34 x
  | .sarImm x => .vi 0x35 x
  | .bfeImm x => .vi 0x36 x
  | .bfiImm x => .vi 0x37 x
  | .popcImm x => .vi 0x38 x
  | .clzImm x => .vi 0x39 x
  | .brevImm x => .vi 0x3a x
  | .movImm x => .vi 0x40 x
  | .shflImm x => .vi 0x50 x
  | .putlImm x => .vi 0x51 x
  | .ballotImm x => .vi 0x53 x
  | .rng x => .vi 0x4b x
  | .sadd x => .sf 0x00 x
  | .ssub x => .sf 0x01 x
  | .smul x => .sf 0x02 x
  | .smulh x => .sf 0x03 x
  | .sand x => .sf 0x04 x
  | .sor x => .sf 0x05 x
  | .sxor x => .sf 0x06 x
  | .sshl x => .sf 0x07 x
  | .sshr x => .sf 0x08 x
  | .ssar x => .sf 0x09 x
  | .smin x => .sf 0x0a x
  | .smax x => .sf 0x0b x
  | .smov x => .sf 0x0c x
  | .ssetp x => .sf 0x0d x
  | .ssel x => .sf 0x0e x
  | .sfadd x => .sf 0x0f x
  | .sfmul x => .sf 0x10 x
  | .sffma x => .sf 0x11 x
  | .sbfe x => .sf 0x12 x
  | .spopc x => .sf 0x13 x
  | .sread x => .sf 0x14 x
  | .swrite x => .sf 0x15 x
  | .sfromv x => .sf 0x16 x
  | .ldB x => .mem 0x00 x
  | .ldH x => .mem 0x01 x
  | .ldW x => .mem 0x02 x
  | .ldD x => .mem 0x03 x
  | .ldQ x => .mem 0x04 x
  | .ldBs x => .mem 0x05 x
  | .ldHs x => .mem 0x06 x
  | .stB x => .mem 0x08 x
  | .stH x => .mem 0x09 x
  | .stW x => .mem 0x0a x
  | .stD x => .mem 0x0b x
  | .stQ x => .mem 0x0c x
  | .lduW x => .mem 0x10 x
  | .lduD x => .mem 0x11 x
  | .ldc x => .mem 0x12 x
  | .ldsW x => .mem 0x18 x
  | .ldsD x => .mem 0x19 x
  | .ldsQ x => .mem 0x1a x
  | .stsW x => .mem 0x1c x
  | .stsD x => .mem 0x1d x
  | .stsQ x => .mem 0x1e x
  | .atomAdd x => .mem 0x20 x
  | .atomMin x => .mem 0x21 x
  | .atomMax x => .mem 0x22 x
  | .atomUmin x => .mem 0x23 x
  | .atomUmax x => .mem 0x24 x
  | .atomAnd x => .mem 0x25 x
  | .atomOr x => .mem 0x26 x
  | .atomXor x => .mem 0x27 x
  | .atomXchg x => .mem 0x28 x
  | .atomCas x => .mem 0x29 x
  | .atomFadd x => .mem 0x2a x
  | .atomFmin x => .mem 0x2b x
  | .atomFmax x => .mem 0x2c x
  | .redAdd x => .mem 0x30 x
  | .redMin x => .mem 0x31 x
  | .redMax x => .mem 0x32 x
  | .redUmin x => .mem 0x33 x
  | .redUmax x => .mem 0x34 x
  | .redAnd x => .mem 0x35 x
  | .redOr x => .mem 0x36 x
  | .redXor x => .mem 0x37 x
  | .redXchg x => .mem 0x38 x
  | .redCas x => .mem 0x39 x
  | .redFadd x => .mem 0x3a x
  | .redFmin x => .mem 0x3b x
  | .redFmax x => .mem 0x3c x
  | .phase x => .mem 0x40 x
  | .pref x => .mem 0x41 x
  | .cbank x => .mem 0x49 x
  | .qbind x => .mem 0x4a x
  | .cpyIn x => .mem 0x48 x
  | .cpyOut x => .mem 0x48 x
  | .wakeToken x => .mem 0x4b x
  | .wakePage x => .mem 0x4b x
  | .bra x => .ctl 0x00 x
  | .brx x => .ctl 0x01 x
  | .call x => .ctl 0x02 x
  | .ret x => .ctl 0x03 x
  | .ppush x => .ctl 0x04 x
  | .pinv => .ctl 0x05 ⟨.unused, 0, 0⟩
  | .ppop => .ctl 0x06 ⟨.unused, 0, 0⟩
  | .regang => .ctl 0x07 ⟨.unused, 0, 0⟩
  | .waitf x => .ctl 0x08 x
  | .yield => .ctl 0x09 ⟨.unused, 0, 0⟩
  | .exit => .ctl 0x0a ⟨.unused, 0, 0⟩
  | .trap x => .ctl 0x0b x
  | .nop => .ctl 0x0c ⟨.unused, 0, 0⟩
  | .barInit x => .ctl 0x0d x
  | .barArv x => .ctl 0x0e x
  | .barWait x => .ctl 0x0f x
  | .barSync x => .ctl 0x10 x
  | .barDrop x => .ctl 0x11 x
  | .sloop x => .ctl 0x12 x
  | .trapret => .ctl 0x13 ⟨.unused, 0, 0⟩
  | .syscall x => .ctl 0x14 x
  | .mmload x => .eng 0x00 x
  | .mmrun x => .eng 0x01 x
  | .spawn x => .eng 0x08 x
  | .task x => .eng 0x09 x
  | .twait x => .eng 0x0b x
  | .mmdrainMem x => .eng 0x02 x
  | .mmdrainLoc x => .eng 0x02 x
  | .mmdrainRing x => .eng 0x02 x
  | .mmdrainQ8 x => .eng 0x02 x
  | .mmdrainStat x => .eng 0x02 x
  | .tabortRetry => .eng 0x0a ⟨.unused, .unused, .unused, 0, 0, false, false, 0, 15⟩
  | .tabortDrop => .eng 0x0a ⟨.unused, .unused, .unused, 0, 0, false, false, 1, 15⟩
  | .texS x => .gfx 0x00 x
  | .texL x => .gfx 0x01 x
  | .texQ x => .gfx 0x02 x
  | .rayT x => .gfx 0x08 x
  | .rayO x => .gfx 0x09 x
  | .rayA x => .gfx 0x0a x
  | .kclr x => .gfx 0x10 x
  | .klobe x => .gfx 0x11 x
  | .kmix x => .gfx 0x12 x
  | .klayer x => .gfx 0x13 x
  | .kscale x => .gfx 0x14 x
  | .ksample x => .gfx 0x15 x
  | .keval x => .gfx 0x16 x
  | .kdens x => .gfx 0x17 x
  | .kspill x => .gfx 0x18 x
  | .kfill x => .gfx 0x19 x
  | .kinfo x => .gfx 0x1a x
  | .kmov x => .gfx 0x1b x
  | .faddSlot x y => .pair .fadd x y
  | .fmulSlot x y => .pair .fmul x y
  | .fminSlot x y => .pair .fmin x y
  | .fmaxSlot x y => .pair .fmax x y
  | .iaddSlot x y => .pair .iadd x y
  | .isubSlot x y => .pair .isub x y
  | .imulSlot x y => .pair .imul x y
  | .andSlot x y => .pair .and x y
  | .orSlot x y => .pair .or x y
  | .xorSlot x y => .pair .xor x y
  | .shlSlot x y => .pair .shl x y
  | .shrSlot x y => .pair .shr x y
  | .sarSlot x y => .pair .sar x y
  | .movSlot x y => .pair .mov x y
  | .iminSlot x y => .pair .imin x y
  | .imaxSlot x y => .pair .imax x y
  | .hadd2Slot x y => .pair .hadd2 x y
  | .hmul2Slot x y => .pair .hmul2 x y
  | .slotNop y => .pair .nop SlotArgs.unused y
  | .litexec => .lit
  | .tcInv => .event
  | .tcInvFlush => .event
  | .tcInvAll => .event
  | .tcPcopy => .event
  | .tccmdInvalid => .event
  | .tcCommandDone => .event
  | .tcstatRead => .event
  | .registerWrite => .event
  | .translationAnswer => .event
  | .releaseBoundary => .event
  | .acquireBoundary => .event
  | .implicitBoundary => .event
  | .immediateAtHome => .event
  | .atomicAtHome => .event
  | .longLatencyComplete => .event
  | .clbmodeWrite => .event
  | .bankModeChange => .event
  | .granuleServe => .event
  | .queueElementServe => .event
  | .teamPlacement => .event
  | .groupRetire => .event
  | .activeSetExchange => .event
  | .istabWrite => .event
  | .regangMeet => .event
  | .yieldEnd => .event
  | .qdoor => .event
  | .nopPacket => .event
  | .launchPacket => .event
  | .launchIndPacket => .event
  | .waitPacket => .event
  | .waitRecheck => .event
  | .signalPacket => .event
  | .copyPacket => .event
  | .loopPacket => .event
  | .endLoopPacket => .event
  | .ifPacket => .event
  | .orderPacket => .event
  | .queueTimeslice => .event
  | .deadlineMiss => .event
  | .queueRegister => .event
  | .queueUnregister => .event
  | .syscallAnswer => .event
  | .ringPosting => .event
  | .ringRegWrite => .event
  | .eventPost => .event
  | .evqRegWrite => .event
  | .gkill => .event
  | .acmd => .event
  | .attestReportReady => .event
  | .careClear => .event
  | .hostIpaAccess => .event
  | .flitReceive => .event
  | .flitReplay => .event
  | .laneFailure => .event
  | .timebSync => .event
  | .bootRom => .event
  | .imageVerify => .event
  | .fullServiceStart => .event
  | .clockStretch => .event
  | .coreFailure => .event
  | .l2SliceFailure => .event
  | .softError => .event
  | .uncorrectableGroupError => .event
  | .preemptTeam => .event
  | .resumeTeam => .event
  | .taskDispatch => .event
  | .taskFinish => .event
  | .taskCommit => .event
  | .tokenPass => .event
  | .foreignAtomicApply => .event
  | .prismCommandStart => .event
  | .rayLaneFinish => .event
  | .illegalInstruction => .event
  | .fetchFault => .event
  | .hbmSymbolError => .event
  | .pageTableWrite => .event

/-- The VF opcodes (R127). -/
def vfTable : List (Nat × (VF → Instr)) :=
  [(0x00, Instr.fadd), (0x01, Instr.fmul), (0x02, Instr.ffma), (0x03, Instr.fmin), (0x04, Instr.fmax), (0x05, Instr.frcp), (0x06, Instr.fsqrt), (0x07, Instr.frsq), (0x08, Instr.fexp2), (0x09, Instr.flog2), (0x0a, Instr.fsinpi), (0x0b, Instr.fcospi), (0x0c, Instr.ffloor), (0x0d, Instr.ffract), (0x0e, Instr.fsetp), (0x10, Instr.hadd2), (0x11, Instr.hmul2), (0x12, Instr.hfma2), (0x13, Instr.bfma2), (0x18, Instr.dot16e4), (0x19, Instr.dot16e5), (0x1a, Instr.idp4), (0x20, Instr.iadd), (0x21, Instr.isub), (0x22, Instr.imul), (0x23, Instr.imulh), (0x24, Instr.umulh), (0x25, Instr.imad), (0x26, Instr.imin), (0x27, Instr.imax), (0x28, Instr.umin), (0x29, Instr.umax), (0x2a, Instr.isetp), (0x2b, Instr.usetp), (0x30, Instr.and), (0x31, Instr.or), (0x32, Instr.xor), (0x33, Instr.shl), (0x34, Instr.shr), (0x35, Instr.sar)] ++
  [(0x36, Instr.bfe), (0x37, Instr.bfi), (0x38, Instr.popc), (0x39, Instr.clz), (0x3a, Instr.brev), (0x40, Instr.mov), (0x41, Instr.sel), (0x42, Instr.vidx), (0x43, Instr.vidxw), (0x48, Instr.cvt), (0x49, Instr.cvtef), (0x4a, Instr.cvtsr), (0x50, Instr.shfl), (0x51, Instr.putl), (0x52, Instr.vote), (0x53, Instr.ballot), (0x54, Instr.redux)]

/-- The VI opcodes (R127). -/
def viTable : List (Nat × (VI → Instr)) :=
  [(0x00, Instr.faddImm), (0x01, Instr.fmulImm), (0x02, Instr.ffmaImm), (0x03, Instr.fminImm), (0x04, Instr.fmaxImm), (0x05, Instr.frcpImm), (0x06, Instr.fsqrtImm), (0x07, Instr.frsqImm), (0x08, Instr.fexp2Imm), (0x09, Instr.flog2Imm), (0x0a, Instr.fsinpiImm), (0x0b, Instr.fcospiImm), (0x0c, Instr.ffloorImm), (0x0d, Instr.ffractImm), (0x10, Instr.hadd2Imm), (0x11, Instr.hmul2Imm), (0x12, Instr.hfma2Imm), (0x13, Instr.bfma2Imm), (0x1a, Instr.idp4Imm), (0x20, Instr.iaddImm), (0x21, Instr.isubImm), (0x22, Instr.imulImm), (0x23, Instr.imulhImm), (0x24, Instr.umulhImm), (0x25, Instr.imadImm), (0x26, Instr.iminImm), (0x27, Instr.imaxImm), (0x28, Instr.uminImm), (0x29, Instr.umaxImm), (0x30, Instr.andImm), (0x31, Instr.orImm), (0x32, Instr.xorImm), (0x33, Instr.shlImm), (0x34, Instr.shrImm), (0x35, Instr.sarImm), (0x36, Instr.bfeImm), (0x37, Instr.bfiImm), (0x38, Instr.popcImm), (0x39, Instr.clzImm), (0x3a, Instr.brevImm)] ++
  [(0x40, Instr.movImm), (0x50, Instr.shflImm), (0x51, Instr.putlImm), (0x53, Instr.ballotImm), (0x4b, Instr.rng)]

/-- The SF opcodes (R127). -/
def sfTable : List (Nat × (SF → Instr)) :=
  [(0x00, Instr.sadd), (0x01, Instr.ssub), (0x02, Instr.smul), (0x03, Instr.smulh), (0x04, Instr.sand), (0x05, Instr.sor), (0x06, Instr.sxor), (0x07, Instr.sshl), (0x08, Instr.sshr), (0x09, Instr.ssar), (0x0a, Instr.smin), (0x0b, Instr.smax), (0x0c, Instr.smov), (0x0d, Instr.ssetp), (0x0e, Instr.ssel), (0x0f, Instr.sfadd), (0x10, Instr.sfmul), (0x11, Instr.sffma), (0x12, Instr.sbfe), (0x13, Instr.spopc), (0x14, Instr.sread), (0x15, Instr.swrite), (0x16, Instr.sfromv)]

/-- The MEM opcodes (R127) whose word is one row of the table of operations. -/
def memTable : List (Nat × (MEM → Instr)) :=
  [(0x00, Instr.ldB), (0x01, Instr.ldH), (0x02, Instr.ldW), (0x03, Instr.ldD), (0x04, Instr.ldQ), (0x05, Instr.ldBs), (0x06, Instr.ldHs), (0x08, Instr.stB), (0x09, Instr.stH), (0x0a, Instr.stW), (0x0b, Instr.stD), (0x0c, Instr.stQ), (0x10, Instr.lduW), (0x11, Instr.lduD), (0x12, Instr.ldc), (0x18, Instr.ldsW), (0x19, Instr.ldsD), (0x1a, Instr.ldsQ), (0x1c, Instr.stsW), (0x1d, Instr.stsD), (0x1e, Instr.stsQ), (0x20, Instr.atomAdd), (0x21, Instr.atomMin), (0x22, Instr.atomMax), (0x23, Instr.atomUmin), (0x24, Instr.atomUmax), (0x25, Instr.atomAnd), (0x26, Instr.atomOr), (0x27, Instr.atomXor), (0x28, Instr.atomXchg), (0x29, Instr.atomCas), (0x2a, Instr.atomFadd), (0x2b, Instr.atomFmin), (0x2c, Instr.atomFmax), (0x30, Instr.redAdd), (0x31, Instr.redMin), (0x32, Instr.redMax), (0x33, Instr.redUmin), (0x34, Instr.redUmax), (0x35, Instr.redAnd)] ++
  [(0x36, Instr.redOr), (0x37, Instr.redXor), (0x38, Instr.redXchg), (0x39, Instr.redCas), (0x3a, Instr.redFadd), (0x3b, Instr.redFmin), (0x3c, Instr.redFmax), (0x40, Instr.phase), (0x41, Instr.pref), (0x49, Instr.cbank), (0x4a, Instr.qbind)]

/-- The CTL opcodes (R127). -/
def ctlTable : List (Nat × (CTL → Instr)) :=
  [(0x00, Instr.bra), (0x01, Instr.brx), (0x02, Instr.call), (0x03, Instr.ret), (0x04, Instr.ppush), (0x05, fun _ => Instr.pinv), (0x06, fun _ => Instr.ppop), (0x07, fun _ => Instr.regang), (0x08, Instr.waitf), (0x09, fun _ => Instr.yield), (0x0a, fun _ => Instr.exit), (0x0b, Instr.trap), (0x0c, fun _ => Instr.nop), (0x0d, Instr.barInit), (0x0e, Instr.barArv), (0x0f, Instr.barWait), (0x10, Instr.barSync), (0x11, Instr.barDrop), (0x12, Instr.sloop), (0x13, fun _ => Instr.trapret), (0x14, Instr.syscall)]

/-- The ENG opcodes (R127) whose word is one row of the table of operations. -/
def engTable : List (Nat × (ENG → Instr)) :=
  [(0x00, Instr.mmload), (0x01, Instr.mmrun), (0x08, Instr.spawn), (0x09, Instr.task), (0x0b, Instr.twait)]

/-- The GFX opcodes (R127). -/
def gfxTable : List (Nat × (GFX → Instr)) :=
  [(0x00, Instr.texS), (0x01, Instr.texL), (0x02, Instr.texQ), (0x08, Instr.rayT), (0x09, Instr.rayO), (0x0a, Instr.rayA), (0x10, Instr.kclr), (0x11, Instr.klobe), (0x12, Instr.kmix), (0x13, Instr.klayer), (0x14, Instr.kscale), (0x15, Instr.ksample), (0x16, Instr.keval), (0x17, Instr.kdens), (0x18, Instr.kspill), (0x19, Instr.kfill), (0x1a, Instr.kinfo), (0x1b, Instr.kmov)]

/-- The first slot of a PAIR word (R127). -/
def slotInstr (op : SlotOp) (x : SlotArgs) (y : PairSlot) : Instr :=
  match op with
  | .fadd => .faddSlot x y
  | .fmul => .fmulSlot x y
  | .fmin => .fminSlot x y
  | .fmax => .fmaxSlot x y
  | .iadd => .iaddSlot x y
  | .isub => .isubSlot x y
  | .imul => .imulSlot x y
  | .and => .andSlot x y
  | .or => .orSlot x y
  | .xor => .xorSlot x y
  | .shl => .shlSlot x y
  | .shr => .shrSlot x y
  | .sar => .sarSlot x y
  | .mov => .movSlot x y
  | .imin => .iminSlot x y
  | .imax => .imaxSlot x y
  | .hadd2 => .hadd2Slot x y
  | .hmul2 => .hmul2Slot x y
  | .nop => .slotNop y

/-- How an opcode uses a source field. -/
inductive SrcKind where
  /-- Not used: 0xE0 (R110). -/
  | unused
  /-- Any source its format admits (R111). -/
  | src
  /-- A vector register. -/
  | vreg
  /-- The first of an aligned run of four vector registers (R236). -/
  | run4
  /-- A code below the bound (R127). -/
  | below (n : Nat)
  /-- The conversion code of CVT (R243). -/
  | conv
  /-- The conversion code of CVTEF (R245). -/
  | convEf
  /-- The conversion code of CVTSR (R246). -/
  | convSr
  /-- The immediate 0xFF, naming a system register (R255). -/
  | sysreg
  deriving DecidableEq, Repr

/-- How an opcode uses its destination field (R115). -/
inductive DstKind where
  | v
  | vq
  | s
  | p
  | unused
  deriving DecidableEq, Repr

/-- The opcode classes (R117). -/
inductive OpClass where
  | F
  | H
  | D
  | Q
  | I
  | C
  | X
  deriving DecidableEq, Repr

/-- What the opcode map gives one VF opcode. `viSrcs` is its count of sources in VI, zero where it has no VI form. -/
structure VecSpec where
  cls : OpClass
  dst : DstKind
  a : SrcKind
  b : SrcKind
  c : SrcKind
  viSrcs : Nat
  deriving DecidableEq, Repr

/-- One source. -/
abbrev spec1 (k : OpClass) : VecSpec := ⟨k, .vq, .src, .unused, .unused, 1⟩
/-- Two sources. -/
abbrev spec2 (k : OpClass) : VecSpec := ⟨k, .vq, .src, .src, .unused, 2⟩
/-- Three sources. -/
abbrev spec3 (k : OpClass) : VecSpec := ⟨k, .vq, .src, .src, .src, 3⟩

/-- The VF and VI opcode map (R127) with the limits of R234 to R251. -/
def vecSpec (op : Nat) : VecSpec :=
  match op with
  | 0x00 | 0x01 | 0x03 | 0x04 => spec2 .F
  | 0x02 => spec3 .F
  | 0x05 | 0x06 | 0x07 | 0x08 | 0x09 | 0x0a | 0x0b | 0x0c | 0x0d => spec1 .F
  | 0x0e => ⟨.C, .p, .src, .src, .below 8, 0⟩
  | 0x10 | 0x11 => spec2 .H
  | 0x12 | 0x13 => spec3 .H
  | 0x18 | 0x19 => ⟨.D, .vq, .run4, .run4, .src, 0⟩
  | 0x1a => ⟨.Q, .vq, .vreg, .vreg, .src, 3⟩
  | 0x20 | 0x21 | 0x22 | 0x23 | 0x24 | 0x26 | 0x27 | 0x28 | 0x29 => spec2 .I
  | 0x25 => spec3 .I
  | 0x2a | 0x2b => ⟨.C, .p, .src, .src, .below 6, 0⟩
  | 0x30 | 0x31 | 0x32 | 0x33 | 0x34 | 0x35 | 0x36 => spec2 .X
  | 0x37 => spec3 .X
  | 0x38 | 0x39 | 0x3a | 0x40 | 0x53 => spec1 .X
  | 0x41 => ⟨.X, .vq, .src, .src, .below 8, 0⟩
  | 0x42 => ⟨.X, .vq, .vreg, .src, .unused, 0⟩
  | 0x43 => ⟨.X, .v, .src, .src, .unused, 0⟩
  | 0x48 => ⟨.X, .vq, .src, .unused, .conv, 0⟩
  | 0x49 => ⟨.X, .vq, .src, .below 8, .convEf, 0⟩
  | 0x4a => ⟨.X, .vq, .src, .src, .convSr, 0⟩
  | 0x4b => ⟨.X, .vq, .src, .src, .unused, 3⟩
  | 0x50 => ⟨.X, .vq, .vreg, .src, .src, 3⟩
  | 0x51 => ⟨.X, .v, .vreg, .src, .unused, 2⟩
  | 0x52 => ⟨.X, .p, .src, .unused, .below 3, 0⟩
  | 0x54 => ⟨.X, .vq, .src, .unused, .below 11, 0⟩
  | _ => ⟨.X, .unused, .unused, .unused, .unused, 0⟩

/-- Narrow element counts of a conversion and whether every rounding MODE is admitted (R243). -/
def convRow (conv : Nat) : Option (Nat × Bool) :=
  match conv with
  | 0 | 1 => some (2, true)
  | 2 | 3 => some (4, true)
  | 4 | 5 => some (2, false)
  | 6 | 7 => some (4, false)
  | 8 | 9 | 10 | 11 | 12 => some (1, true)
  | _ => none

/-- The conversion codes of R243. -/
def convOk (code : Nat) : Bool :=
  match convRow (code / 16) with
  | some (elems, modes) => decide (code / 4 % 4 < elems) && (modes || code % 4 == 0)
  | none => false

namespace Src

/-- Operands a VF or VI source field may hold (R111). -/
def vecOk : Src → Bool
  | .imm | .code _ => false
  | _ => true

/-- Operands a PAIR slot source may hold (R122) (DEDUCED, log 19). -/
def slotOk : Src → Bool
  | .v _ | .s _ | .c _ | .const _ => true
  | _ => false

/-- Operands an SF source field may hold (R111). -/
def scalarOk : Src → Bool
  | .s _ | .c _ | .const _ | .lane | .strand | .group | .team | .active | .lit _ | .imm => true
  | _ => false

/-- Operands the SB field of an atomic may hold (R131). -/
def memSbOk : Src → Bool
  | .v _ | .s _ | .c _ | .const _ | .lit _ => true
  | _ => false

/-- The vector register a field names. -/
def vreg? : Src → Option Nat
  | .v n => some n.val
  | _ => none

/-- The scalar register a field names. -/
def sreg? : Src → Option Nat
  | .s n => some n.val
  | _ => none

/-- A vector register that starts a run of `len` registers at a multiple of `align` (R111, R135). -/
def isVRun (len align : Nat) : Src → Bool
  | .v n => decide (n.val + len ≤ 128) && n.val % align == 0
  | _ => false

/-- A scalar register that starts a run of `len` registers at a multiple of `align` (R115, R131). -/
def isSRun (len align : Nat) : Src → Bool
  | .s n => decide (n.val + len ≤ 64) && n.val % align == 0
  | _ => false

/-- A vector or scalar pair (R131). -/
def isPair (x : Src) : Bool := x.isVRun 2 2 || x.isSRun 2 2

/-- A vector or scalar register. -/
def isVS (x : Src) : Bool := x.isVRun 1 1 || x.isSRun 1 1

/-- Whether a field holds what its opcode requires. `any` says which sources the format admits. -/
def okFor (any : Src → Bool) (k : SrcKind) (x : Src) : Bool :=
  match k, x with
  | .unused, x => x == .unused
  | .src, x => any x
  | .vreg, x => x.isVRun 1 1
  | .run4, x => x.isVRun 4 4
  | .below n, .code w => decide (w.toNat < n)
  | .conv, .code w => convOk w.toNat
  | .convEf, .code w => convOk w.toNat && decide (w.toNat < 0x40) && w.toNat % 4 == 0
  | .convSr, .code w => convOk w.toNat && decide (w.toNat < 0x20) && w.toNat % 4 == 0
  | .sysreg, x => x == .imm
  | _, _ => false

/-- The literal a field reads, where it reads one (R114). -/
def lit? : Src → Option Word
  | .lit w => some w
  | _ => none

end Src

/-- Whether a destination field holds what its opcode requires (R115). -/
def Dst.okFor (k : DstKind) (d : Dst) : Bool :=
  match k, d with
  | .v, .v _ => true
  | .vq, .v _ => true
  | .vq, .q _ => true
  | .s, .s _ => true
  | .p, .p _ => true
  | .unused, .none => true
  | _, _ => false

/-- One LIT word serves every literal field (R114). -/
def litsAgree (xs : List Src) : Bool :=
  match xs.filterMap Src.lit? with
  | [] => true
  | v :: vs => vs.all (· == v)

/-- Which modifier bits a class admits on a source (R117). -/
def OpClass.modOk (k : OpClass) (pos : Nat) (sk : SrcKind) : Bool :=
  match k with
  | .F | .H | .I => sk != .unused
  | .D | .Q => pos == 2
  | .C => decide (pos < 2)
  | .X => false

/-- A pair of modifier bits set only where the class admits it. -/
def modBits (ok neg abs : Bool) : Bool := ok || (!neg && !abs)

/-- Whether a class rounds after SCALE (R117). -/
def OpClass.scales : OpClass → Bool
  | .F | .H | .D => true
  | _ => false

/-- Whether a class accepts CLAMP (R117). -/
def OpClass.clamps : OpClass → Bool
  | .F | .H | .D | .Q | .I => true
  | _ => false

/-- PRED 7 is written with PINV 0 (R119). -/
def predOk (pred : BitVec 3) (pinv : Bool) : Bool := pred != 7 || !pinv

/-- The VF checks (R110, R111, R115, R117, R119). -/
def VF.wf (op : Nat) (x : VF) : Bool :=
  let k := vecSpec op
  x.dst.okFor k.dst && x.a.okFor Src.vecOk k.a && x.b.okFor Src.vecOk k.b && x.c.okFor Src.vecOk k.c
    && modBits (k.cls.modOk 0 k.a) (x.neg.getLsbD 2) (x.abs.getLsbD 2)
    && modBits (k.cls.modOk 1 k.b) (x.neg.getLsbD 1) (x.abs.getLsbD 1)
    && modBits (k.cls.modOk 2 k.c) (x.neg.getLsbD 0) (x.abs.getLsbD 0)
    && (k.cls.clamps || !x.clamp)
    && (if k.cls.scales then x.scale != 4 else x.scale == 0)
    && predOk x.pred x.pinv && litsAgree [x.a, x.b, x.c]

/-- What the A and B fields of a VI word must be (R112). -/
def viKind (used : Bool) (k : SrcKind) : SrcKind := if used then k else .unused

/-- The VI checks (R110 to R112, R115, R117, R119). -/
def VI.wf (op : Nat) (x : VI) : Bool :=
  let k := vecSpec op
  let ka := viKind (decide (2 ≤ k.viSrcs)) k.a
  let kb := viKind (decide (3 ≤ k.viSrcs)) k.b
  decide (1 ≤ k.viSrcs) && x.dst.okFor k.dst && x.a.okFor Src.vecOk ka && x.b.okFor Src.vecOk kb
    && modBits (k.cls.modOk 0 ka && ka != .unused) (x.neg.getLsbD 1) (x.abs.getLsbD 1)
    && modBits (k.cls.modOk 1 kb && kb != .unused) (x.neg.getLsbD 0) (x.abs.getLsbD 0)
    && predOk x.pred x.pinv && litsAgree [x.a, x.b]

/-- What SWRITE may do with a system register (R255). -/
inductive SysWrite where
  | illegal
  | any
  | privileged
  deriving DecidableEq, Repr

/-- The width of a system register and its SWRITE column, none for an unlisted number (R255). -/
def sysReg? (n : Nat) : Option (Nat × SysWrite) :=
  match n with
  | 0x000 | 0x001 | 0x003 | 0x008 | 0x009 | 0x012 => some (32, .illegal)
  | 0x002 | 0x004 | 0x005 | 0x010 | 0x011 | 0x013 => some (64, .illegal)
  | 0x00A | 0x018 | 0x01B => some (32, .any)
  | 0x019 | 0x01A => some (64, .any)
  | 0x020 => some (64, .privileged)
  | _ => if 0x100 ≤ n ∧ n < 0x130 then some (64, .privileged) else none

/-- SREAD's destination: a pair for a 64-bit register (R115, R255). -/
def sreadOk (x : SF) : Bool :=
  match sysReg? x.imm.toNat, x.dst with
  | some (64, _), .s n => n.val % 2 == 0
  | some _, .s _ => true
  | _, _ => false

/-- SWRITE's register and value (R255). -/
def swriteOk (x : SF) : Bool :=
  match sysReg? x.imm.toNat with
  | some (_, .illegal) => false
  | some (64, _) => x.b.isSRun 2 2
  | some _ => x.b.scalarOk && x.b != .imm
  | none => false

/-- Destination and sources of each SF opcode (R127, R254, R255, R257). -/
def sfSpec (op : Nat) : DstKind × SrcKind × SrcKind × SrcKind :=
  match op with
  | 0x0c | 0x13 => (.s, .src, .unused, .unused)
  | 0x0d => (.p, .src, .src, .below 6)
  | 0x0e => (.s, .src, .src, .below 8)
  | 0x11 => (.s, .src, .src, .src)
  | 0x14 => (.s, .sysreg, .unused, .unused)
  | 0x15 => (.unused, .sysreg, .src, .unused)
  | 0x16 => (.s, .vreg, .src, .unused)
  | _ => (.s, .src, .src, .unused)

/-- The SF checks (R109 to R115, R252 to R257). -/
def SF.wf (op : Nat) (x : SF) : Bool :=
  match sfSpec op with
  | (d, a, b, c) =>
    x.dst.okFor d && x.a.okFor Src.scalarOk a && x.b.okFor Src.scalarOk b && x.c.okFor Src.scalarOk c
      && ([x.a, x.b, x.c].contains .imm || x.imm == 0) && litsAgree [x.a, x.b, x.c]
      && (op != 0x14 || sreadOk x) && (op != 0x15 || swriteOk x)

/-- A completion flag: f0 to f11, or 15 for none (R120). -/
def flagOk (f : BitVec 4) : Bool := decide (f.toNat < 12) || f == 15

/-- Bytes and run length of a load, a store or a local access (R135, R141). -/
def memRun (op : Nat) : Nat :=
  match op with
  | 0x03 | 0x0b | 0x11 | 0x19 | 0x1d => 2
  | 0x04 | 0x0c | 0x1a | 0x1e => 4
  | _ => 1

/-- No acquire and no release. -/
def MEM.plain (x : MEM) : Bool := !x.acq && !x.rel

/-- The MEM field table (R131, R144, R146, R148, R149, R151). -/
def MEM.fieldsOk (op : Nat) (x : MEM) : Bool :=
  let run := memRun op
  if op ≤ 0x06 ∨ (0x08 ≤ op ∧ op ≤ 0x0c) then
    x.data.isVRun run run && x.base.isPair && x.sb == .unused && x.fe == 0 && (x.sync || x.plain)
  else if op = 0x10 ∨ op = 0x11 then
    x.data.isSRun run run && x.base.isSRun 2 2 && x.sb == .unused && x.fe == 0 && (x.sync || x.plain)
  else if op = 0x12 then
    x.data.isVS && x.base.isVS && (x.data.isVRun 1 1 || x.base.isSRun 1 1) && x.sb == .unused && x.fe == 0
      && x.plain && !x.sync && !x.nt
  else if 0x18 ≤ op ∧ op ≤ 0x1a then
    x.data.isVRun run run && x.base.isVS && x.sb == .unused && x.fe != 3 && x.plain && x.scope == 0
      && !x.sync && !x.nt
  else if 0x1c ≤ op ∧ op ≤ 0x1e then
    x.data.isVRun run run && x.base.isVS && x.sb == .unused && (x.fe == 0 || x.fe == 3) && x.plain
      && x.scope == 0 && !x.sync && !x.nt
  else if 0x20 ≤ op ∧ op ≤ 0x2c then
    x.data.isVRun 1 1 && x.base.isPair && x.sb.memSbOk && x.fe == 0 && !x.sync && !x.nt
  else if 0x30 ≤ op ∧ op ≤ 0x3c then
    (if op = 0x39 then x.data.isVRun 1 1 else x.data == .unused) && x.base.isPair && x.sb.memSbOk && x.fe == 0
      && !x.sync && !x.nt
  else if op = 0x40 then
    x.data == .unused && x.base == .unused && x.sb == .unused && x.offset == 0 && x.fe == 0 && !x.plain
      && !x.sync && !x.nt
  else if op = 0x41 then
    x.data == .unused && x.base.isPair && x.sb == .unused && x.fe == 0 && x.plain && !x.sync
  else if op = 0x48 then
    x.data.isSRun 1 1 && x.base.isSRun 2 2 && x.sb.isSRun 1 1 && decide (x.offset.toNat < 4) && x.fe == 0
      && !x.sync
  else if op = 0x49 then
    x.data == .unused && x.base == .unused && x.sb == .unused && x.fe != 3 && x.plain && !x.sync && !x.nt
  else if op = 0x4a then
    (match x.data with | .q n => decide (n.val < 8) | _ => false) && x.base.isSRun 1 1
      && (match x.sb with | .s _ | .c _ | .const _ | .lit _ => true | _ => false)
      && x.offset == 0 && x.fe == 0 && x.plain && !x.sync && !x.nt
  else
    x.data == .unused && (if x.offset = 0 then x.base.isSRun 1 1 else x.base.isSRun 2 2) && x.sb == .unused
      && decide (x.offset.toNat < 2) && x.fe == 0 && x.plain && !x.sync && !x.nt

/-- The MEM checks (R109, R131). -/
def MEM.wf (op : Nat) (x : MEM) : Bool := x.fieldsOk op && x.scope != 3 && flagOk x.flag

/-- The CTL field table (R190). -/
def CTL.wf (op : Nat) (x : CTL) : Bool :=
  let predCode := match x.cond with | .code c => decide (c.toNat < 16) | _ => false
  match op with
  | 0x00 => predCode && decide (x.f12.toNat < 2)
  | 0x01 => x.cond.isSRun 2 2 && x.f12 == 0 && x.offset == 0
  | 0x02 => x.cond.isSRun 2 2 && x.f12 == 0
  | 0x03 => x.cond.isSRun 2 2 && x.f12 == 0 && x.offset == 0
  | 0x04 => predCode && x.f12 == 0 && x.offset == 0
  | 0x08 | 0x0b | 0x14 => x.cond == .unused && x.offset == 0
  | 0x0d => x.cond == .unused && decide (x.f12.toNat < 16) && decide (1 ≤ x.offset.toNat)
      && decide (x.offset.toNat ≤ 64)
  | 0x0e | 0x0f | 0x10 | 0x11 => x.cond == .unused && decide (x.f12.toNat < 16) && x.offset == 0
  | 0x12 => x.cond.isSRun 1 1 && x.f12 == 0
  | _ => x.cond == .unused && x.f12 == 0 && x.offset == 0

/-- FMT, MODE and MB of MMDRAIN (R293, R294). -/
def drainFmtOk (imm : Nat) : Bool :=
  let fmt := imm % 8
  let mode := imm / 8 % 8
  let mb := imm / 64 % 16
  let zeroing := imm / 1024 % 2
  decide (fmt < 6) && decide (mode < 6) && (fmt != 0 || mode == 0) && !(mode == 5 && (fmt == 3 || fmt == 4))
    && !(mode == 4 && zeroing == 1) && (if fmt = 5 then decide (2 ≤ mb ∧ mb ≤ 8) else mb == 0)
    && decide (imm < 16384)

/-- MMDRAIN's fields for each SUB (R289, R293). -/
def drainOk (x : ENG) : Bool :=
  let imm := x.imm.toNat
  let stride := if x.sub = 0 ∨ imm / 8 % 8 = 5 then x.c.isSRun 2 2 else x.c == .unused
  let queue := imm / 2048 % 8
  match x.sub.toNat with
  | 0 => x.a.isSRun 2 2 && x.b.isSRun 1 1 && stride && drainFmtOk imm && queue == 0
  | 1 => x.a.isSRun 1 1 && x.b.isSRun 1 1 && stride && drainFmtOk imm && queue == 0 && !x.rel
  | 2 => x.a == .unused && x.b.isSRun 1 1 && stride && drainFmtOk imm && !x.rel
  | 3 => x.a == .unused && x.b.isSRun 1 1 && stride && drainFmtOk imm && queue == 0 && !x.rel
  | 4 => x.a == .unused && x.b == .unused && x.c == .unused && decide (imm < 2) && !x.rel
  | _ => false

/-- No acquire, no release and scope 0. -/
def ENG.plain (x : ENG) : Bool := !x.acq && !x.rel && x.scope == 0

/-- The ENG field tables (R183, R289, R387). -/
def ENG.fieldsOk (op : Nat) (x : ENG) : Bool :=
  match op with
  | 0x00 => x.a.isSRun 2 2 && x.b == .unused && x.c == .unused
      && decide (2 ≤ x.imm.toNat ∧ x.imm.toNat ≤ 8) && !x.rel && x.sub == 0
  | 0x01 => x.a.isSRun 1 1 && x.b.isSRun 1 1 && x.c == .unused && decide (x.imm.toNat < 256)
      && decide (2 ≤ x.imm.toNat % 16 ∧ x.imm.toNat % 16 ≤ 8) && !x.rel && x.sub == 0
  | 0x02 => !x.acq && drainOk x
  | 0x08 | 0x09 => x.a.isSRun 2 2 && x.b.isSRun 8 1 && x.c.isSRun 2 2 && x.imm == 0 && x.plain && x.sub == 0
  | 0x0a => x.a == .unused && x.b == .unused && x.c == .unused && x.imm == 0 && x.plain
      && decide (x.sub.toNat < 2) && x.flag == 15
  | _ => x.a.isSRun 2 2 && x.b == .unused && x.c == .unused && x.imm == 0 && x.plain && x.sub == 0 && x.flag == 15

/-- The ENG checks (R109, R128). -/
def ENG.wf (op : Nat) (x : ENG) : Bool := x.fieldsOk op && x.scope != 3 && flagOk x.flag

/-- The register field 0x00 that a GFX opcode without a destination holds (R110, R357). -/
def Src.zeroField : Src := .v 0

/-- Registers of the KLOBE run of each lobe type (R357). -/
def lobeRun (type : Nat) : Nat :=
  match type with
  | 1 => 3
  | 2 => 7
  | _ => 5

/-- IMM8 as SCOPE and ACQ, with NOFB where admitted (R306, R335, R357). -/
def gfxScopeOk (nofb : Bool) (imm : BitVec 8) : Bool :=
  imm.toNat % 4 != 3 && decide (imm.toNat < if nofb then 16 else 8)

/-- The GFX field tables (R306, R335, R357). -/
def GFX.fieldsOk (op : Nat) (x : GFX) : Bool :=
  let k := decide (x.kreg.toNat < 8)
  let idx := x.c.isVS && x.kreg == 0 && x.sub == 0
  let closure := x.c == .unused && x.b == .unused
  let pdst := decide (x.imm.toNat < 8)
  match op with
  | 0x00 | 0x01 => x.dst.isVRun 5 1 && x.a.isVRun 4 1 && x.b == .unused && idx && gfxScopeOk true x.imm
  | 0x02 => x.dst.isVRun 4 1 && x.a.isVRun 4 1 && x.b == .unused && idx && gfxScopeOk false x.imm
  | 0x08 => x.dst.isVRun 5 1 && x.a.isVRun 10 1 && x.b == .unused && idx && gfxScopeOk false x.imm
  | 0x09 => x.dst.isVRun 1 1 && x.a.isVRun 10 1 && x.b == .unused && idx && gfxScopeOk false x.imm
  | 0x0a => x.dst.isVRun 8 1 && x.a.isVRun 10 1 && x.b == .unused && idx && gfxScopeOk false x.imm
  | 0x10 => x.dst == .zeroField && x.a.isVRun 6 1 && k && x.imm == 0 && x.sub == 0 && closure
  | 0x11 => x.dst == .zeroField && decide (1 ≤ x.kreg.toNat ∧ x.kreg.toNat ≤ 4)
      && x.a.isVRun (lobeRun x.kreg.toNat) 1 && pdst && decide (x.sub.toNat < 8) && closure
  | 0x12 => x.dst == .zeroField && x.a == .unused && k && pdst && x.sub == 0 && closure
  | 0x13 => x.dst == .zeroField && x.a.isVRun 3 1 && k && pdst && x.sub == 0 && closure
  | 0x14 => x.dst == .zeroField && x.a.isVRun 3 1 && k && x.imm == 0 && x.sub == 0 && closure
  | 0x15 => x.dst.isVRun 8 1 && x.a.isVRun 6 1 && k && gfxScopeOk false x.imm && x.sub == 0 && closure
  | 0x16 => x.dst.isVRun 3 1 && x.a.isVRun 6 1 && k && gfxScopeOk false x.imm && x.sub == 0 && closure
  | 0x17 => x.dst.isVRun 1 1 && x.a.isVRun 6 1 && k && gfxScopeOk false x.imm && x.sub == 0 && closure
  | 0x18 | 0x19 => x.dst == .zeroField && x.a.isVRun 2 2 && k && x.imm == 0 && x.sub == 0 && closure
  | 0x1a => x.dst.isVRun 1 1 && x.a == .unused && k && decide (x.imm.toNat < 64) && x.sub == 0 && closure
  | _ => x.dst == .zeroField && x.a == .unused && k && x.imm == 0 && decide (x.sub.toNat < 8) && closure

/-- The GFX checks (R109, R128). -/
def GFX.wf (op : Nat) (x : GFX) : Bool := x.fieldsOk op && flagOk x.flag

/-- One PAIR slot (R122): its sources, the MOV slot's unused SB and the NOP slot's fixed fields. -/
def slotOk (op : SlotOp) (x : SlotArgs) : Bool :=
  match op with
  | .nop => x == SlotArgs.unused
  | .mov => x.a.slotOk && x.b == .unused
  | _ => x.a.slotOk && x.b.slotOk

/-- The destinations of two slots differ; a NOP slot has none (R122). -/
def slotDstsDiffer (op : SlotOp) (x : SlotArgs) (y : PairSlot) : Bool :=
  op == .nop || y.op == .nop || x.dst != y.args.dst

/-- The rows among which CPY, WAKE, MMDRAIN and TABORT words divide (R146, R151, R289, R387). -/
def memInstr? (op : Nat) (x : MEM) : Option Instr :=
  match op with
  | 0x48 => some (if x.offset.toNat % 2 = 0 then .cpyIn x else .cpyOut x)
  | 0x4b => some (if x.offset = 0 then .wakeToken x else .wakePage x)
  | _ => (memTable.lookup op).map (· x)

/-- The ENG opcodes, MMDRAIN and TABORT by SUB (R289, R387). -/
def engInstr? (op : Nat) (x : ENG) : Option Instr :=
  match op with
  | 0x02 =>
    match x.sub.toNat with
    | 0 => some (.mmdrainMem x)
    | 1 => some (.mmdrainLoc x)
    | 2 => some (.mmdrainRing x)
    | 3 => some (.mmdrainQ8 x)
    | 4 => some (.mmdrainStat x)
    | _ => none
  | 0x0a =>
    match x.sub.toNat with
    | 0 => some .tabortRetry
    | 1 => some .tabortDrop
    | _ => none
  | _ => (engTable.lookup op).map (· x)

/-- The instruction the opcode map gives a word's opcode (R127), none for an unlisted opcode. -/
def Form.instr? : Form → Option Instr
  | .vf op x => (vfTable.lookup op).map (· x)
  | .vi op x => (viTable.lookup op).map (· x)
  | .sf op x => (sfTable.lookup op).map (· x)
  | .mem op x => memInstr? op x
  | .ctl op x => (ctlTable.lookup op).map (· x)
  | .eng op x => engInstr? op x
  | .gfx op x => (gfxTable.lookup op).map (· x)
  | .pair op x y => some (slotInstr op x y)
  | .lit => some .litexec
  | .event => none

/-- The checks of a word's fields, by format. -/
def Form.wf : Form → Bool
  | .vf op x => x.wf op
  | .vi op x => x.wf op
  | .sf op x => x.wf op
  | .mem op x => x.wf op
  | .ctl op x => x.wf op
  | .eng op x => x.wf op
  | .gfx op x => x.wf op
  | .pair op x y => slotOk op x && slotOk y.op y.args && slotDstsDiffer op x y
  | .lit => true
  | .event => false

/-- Some instruction word encodes the instruction: its fields pass the checks, and the opcode map gives its word this
row. A row that no word encodes is not well-formed. -/
def Instr.wf (i : Instr) : Bool := i.form.wf && decide (i.form.instr? = some i)

end Sys2Proof
end

