-- ==== Sys2Proof/Decode.lean ====
section
/-! DEFINITION. From instruction words to instructions and back (R107 to R128). Decoding is total and rejects by name. -/

namespace Sys2Proof

/-- Why a word is no instruction (R126, step 1). -/
inductive Reject where
  /-- A reserved format code (R108). -/
  | format
  /-- A reserved operand code or a non-zero RSVD field (R109, R111, R115). -/
  | operand
  /-- An unlisted opcode (R127). -/
  | opcode
  /-- A field outside what the opcode admits (R110). -/
  | field
  /-- A literal word that is none (R114). -/
  | literal
  /-- Fewer bytes than the instruction occupies. -/
  | short
  deriving DecidableEq, Repr

/-! ### Packing fields -/

/-- A word from its fields, each with its width, the lowest field first. -/
def pack : List (Nat × Nat) → Nat
  | [] => 0
  | (w, v) :: fs => v % 2 ^ w + 2 ^ w * pack fs

/-- The fields of a word, the lowest first. -/
def unpack : List Nat → Nat → List Nat
  | [], _ => []
  | w :: ws, n => n % 2 ^ w :: unpack ws (n / 2 ^ w)

/-- One bit as a field. -/
def bit (b : Bool) : Nat := if b then 1 else 0

/-- Eight bytes as one little-endian value. -/
def leValue : List Byte → Nat
  | [] => 0
  | b :: bs => b.toNat + 256 * leValue bs

/-- The low `n` bytes of a value, little-endian. -/
def leBytes : Nat → Nat → List Byte
  | 0, _ => []
  | n + 1, v => BitVec.ofNat 8 v :: leBytes n (v / 256)

/-! ### Operands and destinations -/

/-- The source of an operand code (R111). `lit` is the VALUE of the following word. -/
def Src.ofCode (lit : Word) (c : Nat) : Option Src :=
  if c < 0x80 then some (.v (Fin.ofNat 128 c))
  else if c < 0xC0 then some (.s (Fin.ofNat 64 c))
  else if c < 0xE0 then some (.c (Fin.ofNat 32 c))
  else if c < 0xE8 then some (.const (Fin.ofNat 8 c))
  else match c with
    | 0xE8 => some .lane
    | 0xE9 => some .strand
    | 0xEA => some .group
    | 0xEB => some .team
    | 0xEC => some .active
    | 0xFE => some (.lit lit)
    | 0xFF => some .imm
    | _ => if 0xF0 ≤ c ∧ c < 0xFA then some (.q (Fin.ofNat 10 (c - 0xF0))) else none

/-- The operand code of a source (R111). -/
def Src.toCode : Src → Nat
  | .v n => n.val
  | .s n => 0x80 + n.val
  | .c n => 0xC0 + n.val
  | .const n => 0xE0 + n.val
  | .lane => 0xE8
  | .strand => 0xE9
  | .group => 0xEA
  | .team => 0xEB
  | .active => 0xEC
  | .q n => 0xF0 + n.val
  | .lit _ => 0xFE
  | .imm => 0xFF
  | .code n => n.toNat

/-- A field its opcode reads as a code (R110). -/
def SrcKind.isCode : SrcKind → Bool
  | .below _ | .conv | .convEf | .convSr => true
  | _ => false

/-- A source field under its opcode's use of it. -/
def Src.ofField (asCode : Bool) (lit : Word) (c : Nat) : Option Src :=
  if asCode then some (.code (BitVec.ofNat 8 c)) else Src.ofCode lit c

/-- A destination field under its opcode's use of it (R115). -/
def Dst.ofField (k : DstKind) (c : Nat) : Option Dst :=
  match k with
  | .v => if c < 0x80 then some (.v (Fin.ofNat 128 c)) else Option.none
  | .vq =>
    if c < 0x80 then some (.v (Fin.ofNat 128 c))
    else if 0xF0 ≤ c ∧ c < 0xF8 then some (.q (Fin.ofNat 8 (c - 0xF0))) else Option.none
  | .s => if 0x80 ≤ c ∧ c < 0xC0 then some (.s (Fin.ofNat 64 c)) else Option.none
  | .p => if c < 7 then some (.p (Fin.ofNat 7 c)) else Option.none
  | .unused => if c = 0 then some Dst.none else Option.none

/-- The code of a destination (R115). -/
def Dst.toCode : Dst → Nat
  | .v n => n.val
  | .s n => 0x80 + n.val
  | .q n => 0xF0 + n.val
  | .p n => n.val
  | .none => 0

/-! ### The formats (R109) -/

/-- VF: RSVD, PINV, PRED, REUSE, SCALE, CLAMP, ABSC, NEGC, ABSB, NEGB, ABSA, NEGA, SC, SB, SA, DST, OP, format. -/
def vfWidths : List Nat := [3, 1, 3, 3, 3, 1, 1, 1, 1, 1, 1, 1, 8, 8, 8, 8, 8, 4]
/-- VI: IMM20, PINV, PRED, ABSB, NEGB, ABSA, NEGA, SB, SA, DST, OP, format. -/
def viWidths : List Nat := [20, 1, 3, 1, 1, 1, 1, 8, 8, 8, 8, 4]
/-- SF: IMM20, SC, SB, SA, DST, OP, format. -/
def sfWidths : List Nat := [20, 8, 8, 8, 8, 8, 4]
/-- MEM: FLAG, NT, SYNC, REL, ACQ, SCOPE, FE, OFFSET, SB, BASE, DATA, OP, format. -/
def memWidths : List Nat := [4, 1, 1, 1, 1, 2, 2, 16, 8, 8, 8, 8, 4]
/-- CTL: OFFSET, F12, COND, OP, format. -/
def ctlWidths : List Nat := [32, 12, 8, 8, 4]
/-- ENG: FLAG, SUB, REL, ACQ, SCOPE, IMM16, SC, SB, SA, OP, format. -/
def engWidths : List Nat := [4, 4, 1, 1, 2, 16, 8, 8, 8, 8, 4]
/-- GFX: FLAG, SUB, IMM8, KREG, SC, SB, SA, DST, OP, format. -/
def gfxWidths : List Nat := [4, 4, 8, 4, 8, 8, 8, 8, 8, 4]
/-- PAIR: SB, SA, DST, OP6 of slot 1, then of slot 0, format. -/
def pairWidths : List Nat := [8, 8, 8, 6, 8, 8, 8, 6, 4]

/-- Three one-bit fields as the bits 2, 1 and 0 of one vector. -/
def bits3 (hi mid lo : Nat) : BitVec 3 := BitVec.ofNat 3 (hi * 4 + mid * 2 + lo)

/-- Two one-bit fields as the bits 1 and 0 of one vector. -/
def bits2 (hi lo : Nat) : BitVec 2 := BitVec.ofNat 2 (hi * 2 + lo)

/-- A VF word (R109). -/
def parseVF (lit : Word) (n : Nat) : Option Form :=
  match unpack vfWidths n with
  | [rsvd, pinv, pred, reuse, scale, clamp, absC, negC, absB, negB, absA, negA, sc, sb, sa, dst, op, _] =>
    if rsvd ≠ 0 then none else do
      let k := vecSpec op
      let d ← Dst.ofField k.dst dst
      let a ← Src.ofField k.a.isCode lit sa
      let b ← Src.ofField k.b.isCode lit sb
      let c ← Src.ofField k.c.isCode lit sc
      return .vf op ⟨d, a, b, c, bits3 negA negB negC, bits3 absA absB absC, clamp == 1, BitVec.ofNat 3 scale,
        BitVec.ofNat 3 reuse, BitVec.ofNat 3 pred, pinv == 1⟩
  | _ => none

/-- A VI word (R109). -/
def parseVI (lit : Word) (n : Nat) : Option Form :=
  match unpack viWidths n with
  | [imm, pinv, pred, absB, negB, absA, negA, sb, sa, dst, op, _] => do
    let k := vecSpec op
    let d ← Dst.ofField k.dst dst
    let a ← Src.ofCode lit sa
    let b ← Src.ofCode lit sb
    return .vi op ⟨d, a, b, bits2 negA negB, bits2 absA absB, BitVec.ofNat 3 pred, pinv == 1, BitVec.ofNat 20 imm⟩
  | _ => none

/-- An SF word (R109). -/
def parseSF (lit : Word) (n : Nat) : Option Form :=
  match unpack sfWidths n with
  | [imm, sc, sb, sa, dst, op, _] => do
    let d ← Dst.ofField (sfSpec op).1 dst
    let a ← Src.ofCode lit sa
    let b ← Src.ofCode lit sb
    let c ← Src.ofField (sfSpec op).2.2.2.isCode lit sc
    return .sf op ⟨d, a, b, c, BitVec.ofNat 20 imm⟩
  | _ => none

/-- A MEM word (R109). -/
def parseMEM (lit : Word) (n : Nat) : Option Form :=
  match unpack memWidths n with
  | [flag, nt, sync, rel, acq, scope, fe, offset, sb, base, data, op, _] => do
    let d ← Src.ofCode lit data
    let a ← Src.ofCode lit base
    let b ← Src.ofCode lit sb
    return .mem op ⟨d, a, b, BitVec.ofNat 16 offset, BitVec.ofNat 2 fe, BitVec.ofNat 2 scope, acq == 1, rel == 1,
      sync == 1, nt == 1, BitVec.ofNat 4 flag⟩
  | _ => none

/-- COND is a predicate code in BRA and PPUSH (R190). -/
def condIsCode (op : Nat) : Bool := op == 0x00 || op == 0x04

/-- A CTL word (R109). -/
def parseCTL (n : Nat) : Option Form :=
  match unpack ctlWidths n with
  | [offset, f12, cond, op, _] => do
    let c ← Src.ofField (condIsCode op) 0 cond
    return .ctl op ⟨c, BitVec.ofNat 12 f12, BitVec.ofNat 32 offset⟩
  | _ => none

/-- An ENG word (R109). -/
def parseENG (n : Nat) : Option Form :=
  match unpack engWidths n with
  | [flag, sub, rel, acq, scope, imm, sc, sb, sa, op, _] => do
    let a ← Src.ofCode 0 sa
    let b ← Src.ofCode 0 sb
    let c ← Src.ofCode 0 sc
    return .eng op ⟨a, b, c, BitVec.ofNat 16 imm, BitVec.ofNat 2 scope, acq == 1, rel == 1, BitVec.ofNat 4 sub,
      BitVec.ofNat 4 flag⟩
  | _ => none

/-- A GFX word (R109). -/
def parseGFX (n : Nat) : Option Form :=
  match unpack gfxWidths n with
  | [flag, sub, imm, kreg, sc, sb, sa, dst, op, _] => do
    let d ← Src.ofCode 0 dst
    let a ← Src.ofCode 0 sa
    let b ← Src.ofCode 0 sb
    let c ← Src.ofCode 0 sc
    return .gfx op ⟨d, a, b, c, BitVec.ofNat 4 kreg, BitVec.ofNat 8 imm, BitVec.ofNat 4 sub, BitVec.ofNat 4 flag⟩
  | _ => none

/-- The operation of a slot opcode (R127). -/
def SlotOp.ofCode? (c : Nat) : Option SlotOp :=
  match c with
  | 0x00 => some .fadd
  | 0x01 => some .fmul
  | 0x02 => some .fmin
  | 0x03 => some .fmax
  | 0x04 => some .iadd
  | 0x05 => some .isub
  | 0x06 => some .imul
  | 0x07 => some .and
  | 0x08 => some .or
  | 0x09 => some .xor
  | 0x0A => some .shl
  | 0x0B => some .shr
  | 0x0C => some .sar
  | 0x0D => some .mov
  | 0x0E => some .imin
  | 0x0F => some .imax
  | 0x10 => some .hadd2
  | 0x11 => some .hmul2
  | 0x3F => some .nop
  | _ => none

/-- The slot opcode of an operation (R127). -/
def SlotOp.toCode : SlotOp → Nat
  | .fadd => 0x00
  | .fmul => 0x01
  | .fmin => 0x02
  | .fmax => 0x03
  | .iadd => 0x04
  | .isub => 0x05
  | .imul => 0x06
  | .and => 0x07
  | .or => 0x08
  | .xor => 0x09
  | .shl => 0x0A
  | .shr => 0x0B
  | .sar => 0x0C
  | .mov => 0x0D
  | .imin => 0x0E
  | .imax => 0x0F
  | .hadd2 => 0x10
  | .hmul2 => 0x11
  | .nop => 0x3F

/-- The fields of a PAIR slot (R109, R115). -/
def parseSlot (dst sa sb : Nat) : Option SlotArgs :=
  if dst < 0x80 then do
    let a ← Src.ofCode 0 sa
    let b ← Src.ofCode 0 sb
    return ⟨Fin.ofNat 128 dst, a, b⟩
  else none

/-- A PAIR word (R109). -/
def parsePAIR (n : Nat) : Option Form :=
  match unpack pairWidths n with
  | [sb1, sa1, dst1, op1, sb0, sa0, dst0, op0, _] => do
    let p ← SlotOp.ofCode? op0
    let q ← SlotOp.ofCode? op1
    let x ← parseSlot dst0 sa0 sb0
    let y ← parseSlot dst1 sa1 sb1
    return .pair p x ⟨q, y⟩
  | _ => none

/-- The fields of a word by its format code (R108). -/
def parse (lit : Word) (n : Nat) : Except Reject Form :=
  let some' (f : Option Form) : Except Reject Form := match f with | some f => .ok f | none => .error .operand
  match n / 2 ^ 60 with
  | 0x0 => some' (parseVF lit n)
  | 0x1 => some' (parseVI lit n)
  | 0x2 => some' (parseSF lit n)
  | 0x4 => some' (parseMEM lit n)
  | 0x5 => some' (parseCTL n)
  | 0x6 => some' (parseENG n)
  | 0x7 => some' (parseGFX n)
  | 0x8 => some' (parsePAIR n)
  | 0xF => .ok .lit
  | _ => .error .format

/-- The source fields of a word. -/
def Form.srcs : Form → List Src
  | .vf _ x => [x.a, x.b, x.c]
  | .vi _ x => [x.a, x.b]
  | .sf _ x => [x.a, x.b, x.c]
  | .mem _ x => [x.data, x.base, x.sb]
  | .ctl _ x => [x.cond]
  | .eng _ x => [x.a, x.b, x.c]
  | .gfx _ x => [x.dst, x.a, x.b, x.c]
  | .pair _ x y => [x.a, x.b, y.args.a, y.args.b]
  | .lit | .event => []

/-- The literal a word takes, where it takes one (R114). -/
def Form.lit? (f : Form) : Option Word := (f.srcs.filterMap Src.lit?).head?

/-- The literal of an instruction. -/
def Instr.lit? (i : Instr) : Option Word := i.form.lit?

/-- The bytes an instruction occupies (R107). -/
def Instr.size (i : Instr) : Nat := if i.lit?.isSome then 16 else 8

/-- A LIT word: format code 0xF and zero bits 59:32 (R114). -/
def isLitWord (w : BitVec 64) : Bool := w.toNat / 2 ^ 32 == 0xF0000000

/-- The instruction of a word and of the word that follows it, which is looked at only for a literal (R114, R126) (DEDUCED, log 20). -/
def decode (w next : BitVec 64) : Except Reject Instr :=
  match parse (BitVec.ofNat 32 next.toNat) w.toNat with
  | .error e => .error e
  | .ok f =>
    match f.instr? with
    | none => .error .opcode
    | some i =>
      if !f.wf then .error .field
      else if f.lit?.isSome && !isLitWord next then .error .literal
      else .ok i

/-- Whether decoding a word needs the word that follows it (R114). -/
def wordTakesLit (w : BitVec 64) : Bool :=
  match decode w 0xF000000000000000 with
  | .ok i => i.lit?.isSome
  | .error _ => false

/-- The instruction at the head of a byte list, with the bytes that follow it. -/
def decodeBytes (bs : List Byte) : Except Reject (Instr × List Byte) :=
  if bs.length < 8 then .error .short
  else
    let w := BitVec.ofNat 64 (leValue (bs.take 8))
    if wordTakesLit w && decide (bs.length < 16) then .error .short
    else
      match decode w (BitVec.ofNat 64 (leValue ((bs.drop 8).take 8))) with
      | .error e => .error e
      | .ok i => .ok (i, bs.drop i.size)

/-! ### Encoding -/

/-- The word of a form. -/
def Form.word : Form → Nat
  | .vf op x =>
    pack [(3, 0), (1, bit x.pinv), (3, x.pred.toNat), (3, x.reuse.toNat), (3, x.scale.toNat), (1, bit x.clamp),
      (1, bit (x.abs.getLsbD 0)), (1, bit (x.neg.getLsbD 0)), (1, bit (x.abs.getLsbD 1)),
      (1, bit (x.neg.getLsbD 1)), (1, bit (x.abs.getLsbD 2)), (1, bit (x.neg.getLsbD 2)),
      (8, x.c.toCode), (8, x.b.toCode), (8, x.a.toCode), (8, x.dst.toCode), (8, op), (4, 0x0)]
  | .vi op x =>
    pack [(20, x.imm.toNat), (1, bit x.pinv), (3, x.pred.toNat), (1, bit (x.abs.getLsbD 0)),
      (1, bit (x.neg.getLsbD 0)), (1, bit (x.abs.getLsbD 1)), (1, bit (x.neg.getLsbD 1)), (8, x.b.toCode),
      (8, x.a.toCode), (8, x.dst.toCode), (8, op), (4, 0x1)]
  | .sf op x =>
    pack [(20, x.imm.toNat), (8, x.c.toCode), (8, x.b.toCode), (8, x.a.toCode), (8, x.dst.toCode), (8, op), (4, 0x2)]
  | .mem op x =>
    pack [(4, x.flag.toNat), (1, bit x.nt), (1, bit x.sync), (1, bit x.rel), (1, bit x.acq), (2, x.scope.toNat),
      (2, x.fe.toNat), (16, x.offset.toNat), (8, x.sb.toCode), (8, x.base.toCode), (8, x.data.toCode), (8, op), (4, 0x4)]
  | .ctl op x => pack [(32, x.offset.toNat), (12, x.f12.toNat), (8, x.cond.toCode), (8, op), (4, 0x5)]
  | .eng op x =>
    pack [(4, x.flag.toNat), (4, x.sub.toNat), (1, bit x.rel), (1, bit x.acq), (2, x.scope.toNat), (16, x.imm.toNat),
      (8, x.c.toCode), (8, x.b.toCode), (8, x.a.toCode), (8, op), (4, 0x6)]
  | .gfx op x =>
    pack [(4, x.flag.toNat), (4, x.sub.toNat), (8, x.imm.toNat), (4, x.kreg.toNat), (8, x.c.toCode), (8, x.b.toCode),
      (8, x.a.toCode), (8, x.dst.toCode), (8, op), (4, 0x7)]
  | .pair op x y =>
    pack [(8, y.args.b.toCode), (8, y.args.a.toCode), (8, y.args.dst.val), (6, y.op.toCode), (8, x.b.toCode),
      (8, x.a.toCode), (8, x.dst.val), (6, op.toCode), (4, 0x8)]
  | .lit => 0xF000000000000000
  | .event => 0

/-- The words of a well-formed instruction (R107, R114). -/
def encode (i : Instr) : List (BitVec 64) :=
  BitVec.ofNat 64 i.form.word ::
    match i.lit? with
    | some v => [BitVec.ofNat 64 (0xF000000000000000 + v.toNat)]
    | none => []

/-- The instruction of a list of words. -/
def decodeWords : List (BitVec 64) → Except Reject Instr
  | [] => .error .short
  | [w] => if wordTakesLit w then .error .short else decode w 0
  | w :: next :: _ => decode w next

/-- The instruction the decoder reads from bits numbered as the opcode table numbers them; bits above `nbits` are zero. -/
def decodeTableWord (nbits w : Nat) : Option Instr :=
  match decodeBytes (leBytes 16 (w % 2 ^ nbits)) with
  | .ok (i, _) => some i
  | .error _ => none

end Sys2Proof
end

