-- ==== Sys2Proof/Machine/Float.lean ====
section
/-! DEFINITION. Number formats and their rounding (R213 to R226): exact results as signed fractions, and one rounding of an
exact result to a format. Formats hold values as Nat bit patterns of their width. -/

namespace Sys2Proof.Machine

/-- A floating-point format (R213): widths of the exponent and fraction fields. `sat` marks E4M3 (R215, R223). -/
structure Fmt where
  ebits : Nat
  fbits : Nat
  sat : Bool
  deriving DecidableEq, Repr

/-- FP32 (R213). -/
def f32 : Fmt := ⟨8, 23, false⟩
/-- FP16 (R213). -/
def f16 : Fmt := ⟨5, 10, false⟩
/-- BF16 (R213). -/
def bf16 : Fmt := ⟨8, 7, false⟩
/-- FP8 E4M3 (R213). -/
def e4m3 : Fmt := ⟨4, 3, true⟩
/-- FP8 E5M2 (R213). -/
def e5m2 : Fmt := ⟨5, 2, false⟩

/-- The exponent bias (R213). -/
def Fmt.bias (f : Fmt) : Nat := 2 ^ (f.ebits - 1) - 1
/-- The sign bit's weight. -/
def Fmt.signBit (f : Fmt) : Nat := 2 ^ (f.ebits + f.fbits)
/-- The pattern of +∞, which E4M3 does not have (R215). -/
def Fmt.inf (f : Fmt) : Nat := (2 ^ f.ebits - 1) * 2 ^ f.fbits
/-- The largest finite magnitude (R213). -/
def Fmt.maxFin (f : Fmt) : Nat := if f.sat then 0x7E else f.inf - 1
/-- The canonical NaN (R213, R216). -/
def Fmt.nan (f : Fmt) : Nat := if f.sat then 0x7F else f.inf + 2 ^ (f.fbits - 1)
/-- The pattern of 1.0. -/
def Fmt.one (f : Fmt) : Nat := f.bias * 2 ^ f.fbits
/-- The pattern of a sign and a magnitude. -/
def Fmt.signed (f : Fmt) (neg : Bool) (mag : Nat) : Nat := if neg then f.signBit + mag else mag

/-- Rounding modes, in the order of their codes (R223, R243). -/
inductive Rnd where
  | rne
  | rtz
  | rup
  | rdn
  deriving DecidableEq, Repr

/-- The mode of a MODE code (R243). -/
def rndOf (n : Nat) : Rnd :=
  match n % 4 with
  | 0 => .rne
  | 1 => .rtz
  | 2 => .rup
  | _ => .rdn

/-- An exact result before its rounding: a NaN, an infinity, a signed fraction `num / den` (a zero keeps its sign), or a
value known to lie between two fractions over one denominator. -/
inductive Exact where
  | nan
  | inf (neg : Bool)
  | frac (neg : Bool) (num den : Nat)
  | between (neg : Bool) (lo hi den : Nat)
  deriving DecidableEq, Repr

/-- A fraction `m * 2^e`. -/
def Exact.dyadic (neg : Bool) (m : Nat) (e : Int) : Exact :=
  if 0 ≤ e then .frac neg (m * 2 ^ e.toNat) 1 else .frac neg m (2 ^ (-e).toNat)

/-- The value of a pattern (R214, R215). -/
def Fmt.value (f : Fmt) (bits : Nat) : Exact :=
  let neg := bits / f.signBit % 2 == 1
  let mag := bits % f.signBit
  let e := mag / 2 ^ f.fbits
  let m := mag % 2 ^ f.fbits
  if f.sat && mag == 0x7F then .nan
  else if !f.sat && e == 2 ^ f.ebits - 1 then (if m = 0 then .inf neg else .nan)
  else if e = 0 then .dyadic neg m (1 - (f.bias : Int) - f.fbits)
  else .dyadic neg (2 ^ f.fbits + m) ((e : Int) - f.bias - f.fbits)

/-- Whether a pattern is a NaN. -/
def Fmt.isNan (f : Fmt) (bits : Nat) : Bool :=
  let mag := bits % f.signBit
  if f.sat then mag == 0x7F else decide (f.inf < mag)

/-- Whether a pattern is an infinity. -/
def Fmt.isInf (f : Fmt) (bits : Nat) : Bool := !f.sat && bits % f.signBit == f.inf

/-- `floor (log2 (num / den))` for a positive fraction. -/
def floorLog2 (num den : Nat) : Int :=
  let e : Int := (Nat.log2 num : Int) - Nat.log2 den
  let below := if 0 ≤ e then decide (num < den * 2 ^ e.toNat) else decide (num * 2 ^ (-e).toNat < den)
  if below then e - 1 else e

/-- Whether a mode rounds away from zero, given the parity of the truncation and its remainder over `den` (R223). -/
def Rnd.up (r : Rnd) (neg odd : Bool) (rem den : Nat) : Bool :=
  match r with
  | .rne => decide (den < 2 * rem) || (decide (2 * rem = den) && odd)
  | .rtz => false
  | .rup => !neg && rem != 0
  | .rdn => neg && rem != 0

/-- A non-negative fraction rounded to an integer by a mode, under its sign (R223). -/
def roundNat (r : Rnd) (neg : Bool) (num den : Nat) : Nat :=
  let q := num / den
  if r.up neg (q % 2 == 1) (num % den) den then q + 1 else q

/-- Overflow of a finite magnitude (R223): infinity or the largest finite value. -/
def Fmt.overflow (f : Fmt) (r : Rnd) (neg : Bool) : Nat :=
  if f.sat then f.maxFin
  else match r with
    | .rne => f.inf
    | .rtz => f.maxFin
    | .rup => if neg then f.maxFin else f.inf
    | .rdn => if neg then f.inf else f.maxFin

/-- The magnitude of a non-negative fraction rounded to a format, on the subnormal grid where it falls there (R223). -/
def Fmt.roundMag (f : Fmt) (r : Rnd) (neg : Bool) (num den : Nat) : Nat :=
  if num = 0 then 0
  else
    let emin : Int := 1 - (f.bias : Int)
    let e := max (floorLog2 num den) emin
    let q := e - f.fbits
    let n := if 0 ≤ q then roundNat r neg num (den * 2 ^ q.toNat) else roundNat r neg (num * 2 ^ (-q).toNat) den
    let bits := (e - emin).toNat * 2 ^ f.fbits + n
    if f.maxFin < bits then f.overflow r neg else bits

/-- One rounding of an exact result to a format (R6, R216, R223). An infinite value becomes ±448 in E4M3. Where a value is
known between two fractions, both ends round alike by the choice of their distance. -/
def Fmt.round (f : Fmt) (r : Rnd) : Exact → Nat
  | .nan => f.nan
  | .inf neg => f.signed neg (if f.sat then f.maxFin else f.inf)
  | .frac neg num den => f.signed neg (f.roundMag r neg num den)
  | .between neg lo _ den => f.signed neg (f.roundMag r neg lo den)

/-- Multiplication by a power of two, exact (R118). -/
def Exact.scale (k : Int) : Exact → Exact
  | .nan => .nan
  | .inf n => .inf n
  | .frac n a d => if 0 ≤ k then .frac n (a * 2 ^ k.toNat) d else .frac n a (d * 2 ^ (-k).toNat)
  | .between n a b d =>
    if 0 ≤ k then .between n (a * 2 ^ k.toNat) (b * 2 ^ k.toNat) d else .between n a b (d * 2 ^ (-k).toNat)

/-- The exponent of the destination scale SCALE (R118); the code 100 is illegal. -/
def scaleExp (code : Nat) : Int :=
  match code with
  | 1 => 1
  | 2 => 2
  | 3 => 3
  | 5 => -3
  | 6 => -2
  | 7 => -1
  | _ => 0

/-- CLAMP of a rounded float to [0, 1], a NaN and -0 to +0 (R117, R232). -/
def Fmt.clamp01 (f : Fmt) (bits : Nat) : Nat :=
  if f.isNan bits then 0
  else if f.signBit ≤ bits then 0
  else min bits f.one

/-- The signed numerator of a fraction over a denominator it divides into. -/
def signedNum (neg : Bool) (num : Nat) : Int := if neg then -(num : Int) else num

/-- A signed fraction with a non-zero value, or a zero of the given sign. -/
def Exact.ofInt (n : Int) (den : Nat) (zeroNeg : Bool) : Exact :=
  if n = 0 then .frac zeroNeg 0 1 else .frac (decide (n < 0)) n.natAbs den

/-- Negation of an exact value. -/
def Exact.neg : Exact → Exact
  | .nan => .nan
  | .inf n => .inf (!n)
  | .frac n a d => .frac (!n) a d
  | .between n a b d => .between (!n) a b d

/-- The exact sum, to be rounded in a mode: a zero from opposite values is -0 in RDN and +0 in every other; two zeros of one sign keep it
(R223, R232). -/
def Exact.addIn (r : Rnd) (x y : Exact) : Exact :=
  match x, y with
  | .inf a, .inf b => if a = b then .inf a else .nan
  | .inf a, .frac _ _ _ => .inf a
  | .frac _ _ _, .inf b => .inf b
  | .frac a p d, .frac b q e =>
    Exact.ofInt (signedNum a p * e + signedNum b q * d) (d * e) (if p == 0 && q == 0 && a == b then a else r == .rdn)
  | _, _ => .nan

/-- The exact sum, to be rounded in a mode other than RDN (R232). -/
def Exact.add (x y : Exact) : Exact := Exact.addIn .rne x y

/-- The exact product (R232). -/
def Exact.mul (x y : Exact) : Exact :=
  match x, y with
  | .inf a, .inf b => .inf (a != b)
  | .inf a, .frac b q _ => if q = 0 then .nan else .inf (a != b)
  | .frac a p _, .inf b => if p = 0 then .nan else .inf (a != b)
  | .frac a p d, .frac b q e => .frac (a != b) (p * q) (d * e)
  | _, _ => .nan

/-- The order key of a float pattern that is no NaN, -0 below +0 (R213, R232). -/
def Fmt.key (f : Fmt) (bits : Nat) : Int :=
  if f.signBit ≤ bits then -((bits - f.signBit : Nat) : Int) - 1 else bits

/-- minimumNumber (R232): a NaN yields the other operand. -/
def Fmt.minNum (f : Fmt) (a b : Nat) : Nat :=
  if f.isNan a then (if f.isNan b then f.nan else b)
  else if f.isNan b then a
  else if f.key a ≤ f.key b then a else b

/-- maximumNumber (R232). -/
def Fmt.maxNum (f : Fmt) (a b : Nat) : Nat :=
  if f.isNan a then (if f.isNan b then f.nan else b)
  else if f.isNan b then a
  else if f.key b ≤ f.key a then a else b

/-- The sign of a comparison of two values, none where one is a NaN; -0 equals +0 (R234). -/
def Exact.cmp? (x y : Exact) : Option Int :=
  match x, y with
  | .inf a, .inf b => some (signedNum a 1 - signedNum b 1)
  | .inf a, .frac _ _ _ => some (signedNum a 1)
  | .frac _ _ _, .inf b => some (-signedNum b 1)
  | .frac a p d, .frac b q e => some (signedNum a p * e - signedNum b q * d)
  | _, _ => none

/-! ### Integers (R224) -/

/-- A 32-bit pattern as a signed integer. -/
def sint (w : Word) : Int := w.toInt

/-- An integer reduced to 32 bits. -/
def wrap32 (i : Int) : Word := BitVec.ofInt 32 i

/-- Saturation to a range (R117). -/
def satInt (lo hi i : Int) : Int := max lo (min hi i)

/-- Saturation to the signed 32-bit range. -/
def satS32 (i : Int) : Word := BitVec.ofInt 32 (satInt (-2 ^ 31) (2 ^ 31 - 1) i)

/-- A float value rounded to an integer in a mode and saturated (R224): a NaN gives 0. -/
def Exact.toIntSat (r : Rnd) (lo hi : Int) : Exact → Int
  | .nan => 0
  | .inf neg => if neg then lo else hi
  | .frac neg num den => satInt lo hi (signedNum neg (roundNat r neg num den))
  | .between neg a _ den => satInt lo hi (signedNum neg (roundNat r neg a den))

/-- An integer as an exact value, zero being +0. -/
def Exact.int (i : Int) : Exact := .frac (decide (i < 0)) i.natAbs 1

/-! ### FP32 operations -/

/-- The value of an FP32 pattern. -/
def val32 (w : Word) : Exact := f32.value w.toNat

/-- An exact result rounded once to FP32, RNE. -/
def rne32 (x : Exact) : Word := BitVec.ofNat 32 (f32.round .rne x)

/-- FP32 addition, rounded once RNE. -/
def fadd32 (a b : Word) : Word := rne32 ((val32 a).add (val32 b))

/-- FP32 multiplication, rounded once RNE. -/
def fmul32 (a b : Word) : Word := rne32 ((val32 a).mul (val32 b))

/-- FP32 multiply-add, rounded once RNE. -/
def ffma32 (a b c : Word) : Word := rne32 (((val32 a).mul (val32 b)).add (val32 c))

/-- FP32 minimumNumber. -/
def fmin32 (a b : Word) : Word := BitVec.ofNat 32 (f32.minNum a.toNat b.toNat)

/-- FP32 maximumNumber. -/
def fmax32 (a b : Word) : Word := BitVec.ofNat 32 (f32.maxNum a.toNat b.toNat)

/-- Whether an FP32 pattern is a NaN. -/
def isNan32 (a : Word) : Bool := f32.isNan a.toNat

/-- Whether an FP32 pattern is a NaN or an infinity. -/
def notFinite32 (a : Word) : Bool := f32.isNan a.toNat || f32.isInf a.toNat

/-- Whether a comparison of two FP32 patterns has a sign that a test accepts; false with a NaN. -/
def fcmp32 (test : Int → Bool) (a b : Word) : Bool :=
  match (val32 a).cmp? (val32 b) with
  | some i => test i
  | none => false

/-- a < b. -/
def flt32 (a b : Word) : Bool := fcmp32 (fun i => decide (i < 0)) a b
/-- a ≤ b. -/
def fle32 (a b : Word) : Bool := fcmp32 (fun i => decide (i ≤ 0)) a b

/-! ### Error feedback and stochastic rounding -/

/-- An FP32 value in a narrow format, in a mode (R223, R244). -/
def narrow (f : Fmt) (r : Rnd) (w : Word) : Nat := f.round r (val32 w)

/-- A narrow value in FP32, exact (R244). -/
def widen (f : Fmt) (bits : Nat) : Word := rne32 (f.value bits)

/-- CVTEF (R225): the narrowed value and the new residue. -/
def errorFeedback (f : Fmt) (a e : Word) : Nat × Word :=
  let t := fadd32 a e
  let q := narrow f .rne t
  let finite := !notFinite32 t && !f.isNan q && !f.isInf q
  let saturated := f.sat && decide (f.maxFin = q % f.signBit) && fcmp32 (fun i => decide (0 < i)) (t &&& 0x7FFFFFFF) 0x43E00000
  (q, if finite && !saturated then rne32 ((val32 t).add (val32 (widen f q)).neg) else 0)

/-- CVTSR (R226): stochastic rounding with the random bits `r`, taken mod 2^16. -/
def stochastic (f : Fmt) (x r : Word) : Nat :=
  match val32 x with
  | .frac neg num den =>
    if num = 0 then f.signed neg 0
    else
      let lo := min (f.roundMag .rtz neg num den) f.maxFin
      match f.value lo, f.value (max lo (2 ^ f.fbits)) with
      | .frac _ a d, .frac _ b e =>
        -- the unit in the last place at `lo`: the value of its binade over 2^fbits
        let u := floorLog2 b e - f.fbits
        let diff := num * d - a * den
        let fr :=
          if 0 ≤ u then diff * 2 ^ 16 / (den * d * 2 ^ u.toNat) else diff * 2 ^ 16 * 2 ^ (-u).toNat / (den * d)
        f.signed neg (min (if 2 ^ 16 ≤ fr + r.toNat % 2 ^ 16 then lo + 1 else lo) f.maxFin)
      | _, _ => f.nan
  | .inf neg => f.signed neg f.inf
  | _ => f.nan

end Sys2Proof.Machine
end

