-- ==== Sys2Proof/Machine/Transcend.lean ====
section
/-! DEFINITION. The one-source functions of R233 as exact results: fractions where they are rational, and enclosures by
fixed-point series elsewhere. An enclosure is refined until both its ends round to one value. -/

namespace Sys2Proof.Machine

/-- An integer square root by bits, from the highest candidate bit down. -/
def isqrtBits : Nat → Nat → Nat → Nat
  | 0, _, r => r
  | k + 1, n, r =>
    let c := r + 2 ^ k
    isqrtBits k n (if c * c ≤ n then c else r)

/-- The integer square root, rounded down. -/
def isqrt (n : Nat) : Nat := isqrtBits (Nat.log2 n / 2 + 1) n 0

/-- The square root of a positive fraction, enclosed with `p` bits below its leading bit. -/
def sqrtEncl (p : Nat) (num den : Nat) : Nat × Nat × Nat :=
  -- num / den * 4^s has at least 2 p bits
  let s := p + (Nat.log2 den + 1)
  let n := num * 4 ^ s / den
  let r := isqrt n
  if r * r * den = num * 4 ^ s then (r, r, 2 ^ s) else (r, r + 1, 2 ^ s)

/-! ### Fixed-point series: a value `x` stands for `x / 2^p`, each step rounding down -/

/-- `sum of x^k / k!` from the term `t` of index `k`. -/
def expSum (p x : Nat) : Nat → Nat → Nat → Nat
  | 0, _, _ => 0
  | fuel + 1, k, t => if t = 0 then 0 else t + expSum p x fuel (k + 1) (t * x / (2 ^ p * (k + 1)))

/-- `sum of z^(2k+1) / (2k+1)` from the power `t`, with `zz = z^2`. -/
def atanhSum (p zz : Nat) : Nat → Nat → Nat → Nat
  | 0, _, _ => 0
  | fuel + 1, k, t => if t = 0 then 0 else t / (2 * k + 1) + atanhSum p zz fuel (k + 1) (t * zz / 2 ^ p)

/-- The alternating sum of arctan: even terms minus odd terms. -/
def atanSum (n : Nat) : Nat → Nat → Int → Int
  | 0, _, _ => 0
  | fuel + 1, k, t =>
    if t = 0 then 0
    else (if k % 2 = 0 then t / (2 * k + 1) else -(t / (2 * k + 1))) + atanSum n fuel (k + 1) (t / (n * n))

/-- ln 2, as twice artanh (1/3). -/
def ln2Fix (p : Nat) : Nat := 2 * atanhSum p (2 ^ p / 9) p 0 (2 ^ p / 3)

/-- π by Machin's formula. -/
def piFix (p : Nat) : Nat := (16 * atanSum 5 p 0 (2 ^ p / 5) - 4 * atanSum 239 p 0 (2 ^ p / 239)).toNat

/-- `x^k / k!` alternating in sign every second index: sine from `k = 1`, cosine from `k = 0`. -/
def sinSum (p x : Nat) : Nat → Nat → Nat → Bool → Int
  | 0, _, _, _ => 0
  | fuel + 1, k, t, neg =>
    if t = 0 then 0
    else (if neg then -(t : Int) else t)
      + sinSum p x fuel (k + 2) (t * x / (2 ^ p * (k + 1)) * x / (2 ^ p * (k + 2))) (!neg)

/-- More than the error of any series above, in units of `2^-p`, for every `p` in use. -/
def slack : Nat := 2 ^ 16

/-- An enclosure around a fixed-point value. -/
def around (v : Int) : Nat × Nat := ((v - slack).toNat, (v + slack).toNat)

/-- `2^f` for `0 ≤ num / den < 1`. -/
def exp2Encl (p num den : Nat) : Nat × Nat :=
  let x := num * ln2Fix p / den
  around (expSum p x p 0 (2 ^ p))

/-- ln of `num / den` in [1, 2), as twice artanh ((m - 1) / (m + 1)). -/
def lnFix (p num den : Nat) : Nat :=
  let z := (num - den) * 2 ^ p / (num + den)
  2 * atanhSum p (z * z / 2 ^ p) p 0 z

/-- log2 of `num / den` in [1, 2). -/
def log2Encl (p num den : Nat) : Nat × Nat := around ((lnFix p num den * 2 ^ p / ln2Fix p : Nat) : Int)

/-- sin (π num / den) for `0 < num / den ≤ 1/4`. -/
def sinpiEncl (p num den : Nat) : Nat × Nat :=
  let x := num * piFix p / den
  around (sinSum p x p 1 x false)

/-- cos (π num / den) for `0 ≤ num / den ≤ 1/4`. -/
def cospiEncl (p num den : Nat) : Nat × Nat :=
  let x := num * piFix p / den
  around (sinSum p x p 0 (2 ^ p) false)

/-- sin (π r) for a fraction `r` strictly between 0 and 1/2. -/
def sinpiHalf (p num den : Nat) : Nat × Nat :=
  if 4 * num ≤ den then sinpiEncl p num den else cospiEncl p (den - 2 * num) (2 * den)

/-- Whether both ends of an enclosure round to one value. -/
def Exact.settled (f : Fmt) (r : Rnd) : Exact → Bool
  | .between neg lo hi den => f.roundMag r neg lo den == f.roundMag r neg hi den
  | _ => true

/-- The first enclosure that settles, at rising precision. -/
def refine (f : Fmt) (r : Rnd) (encl : Nat → Exact) : List Nat → Exact
  | [] => encl 1024
  | p :: ps => if (encl p).settled f r then encl p else refine f r encl ps

/-- The precisions tried. -/
def precisions : List Nat := [128, 256, 512]

/-- The one-source class F functions (R233). -/
inductive Fn where
  | rcp
  | sqrt
  | rsq
  | exp2
  | log2
  | sinpi
  | cospi
  | floor
  | fract
  deriving DecidableEq, Repr

/-- sin or cos of π times a fraction, reduced to a first-quadrant sine with its sign. `shift` quarter turns are added. -/
def trigExact (f : Fmt) (r : Rnd) (k : Int) (neg : Bool) (num den shift : Nat) : Exact :=
  -- half turns in units of 1 / (2 den): the angle is t / (2 den) half turns, 0 ≤ t < 4 den
  let t := (2 * num + shift * den) % (4 * den)
  let sign := neg != decide (2 * den ≤ t)
  let u := t % (2 * den)
  let v := if den < u then 2 * den - u else u
  if v = 0 then .frac neg 0 1
  else if v = den then (Exact.frac sign 1 1).scale k
  else
    let guardBits := Nat.log2 (2 * den) + 2
    refine f r (fun p =>
      let b := sinpiHalf (p + guardBits) v (2 * den)
      (Exact.between sign b.1 b.2 (2 ^ (p + guardBits))).scale k) precisions

/-- The exact result, times `2^k`, of a one-source function (R233), to be rounded to a format in a mode. -/
def Fn.apply (fn : Fn) (f : Fmt) (r : Rnd) (k : Int) (x : Exact) : Exact :=
  match fn, x with
  | _, .nan => .nan
  | _, .between _ _ _ _ => .nan
  | .rcp, .inf neg => .frac neg 0 1
  | .rcp, .frac neg num den => if num = 0 then .inf neg else (Exact.frac neg den num).scale k
  | .sqrt, .inf neg => if neg then .nan else .inf false
  | .sqrt, .frac neg num den =>
    if num = 0 then .frac neg 0 1
    else if neg then .nan
    else refine f r (fun p =>
      let b := sqrtEncl p num den
      (if b.1 = b.2.1 then Exact.frac false b.1 b.2.2 else Exact.between false b.1 b.2.1 b.2.2).scale k) precisions
  | .rsq, .inf neg => if neg then .nan else .frac false 0 1
  | .rsq, .frac neg num den =>
    if num = 0 then .inf neg
    else if neg then .nan
    else refine f r (fun p =>
      let b := sqrtEncl p den num
      (if b.1 = b.2.1 then Exact.frac false b.1 b.2.2 else Exact.between false b.1 b.2.1 b.2.2).scale k) precisions
  | .exp2, .inf neg => if neg then .frac false 0 1 else .inf false
  | .exp2, .frac neg num den =>
    let whole := num / den
    let rem := num % den
    -- 2^A = 2^n * 2^fr with 0 ≤ fr < 1; an exponent beyond every format's range is cut off
    let cap := min whole 2048
    let n : Int := if neg then (if rem = 0 then -(cap : Int) else -(cap : Int) - 1) else cap
    let fr := if neg && rem != 0 then den - rem else rem
    if fr = 0 then (Exact.frac false 1 1).scale (n + k)
    else refine f r (fun p => let b := exp2Encl p fr den; (Exact.between false b.1 b.2 (2 ^ p)).scale (n + k)) precisions
  | .log2, .inf neg => if neg then .nan else .inf false
  | .log2, .frac neg num den =>
    if num = 0 then .inf true
    else if neg then .nan
    else
      let e := floorLog2 num den
      let a := if 0 ≤ e then num else num * 2 ^ (-e).toNat
      let b := if 0 ≤ e then den * 2 ^ e.toNat else den
      if a = b then (Exact.int e).scale k
      else refine f r (fun p =>
        let l := log2Encl p a b
        let lo := e * 2 ^ p + l.1
        let hi := e * 2 ^ p + l.2
        (if e < 0 then Exact.between true (-hi).toNat (-lo).toNat (2 ^ p) else Exact.between false lo.toNat hi.toNat (2 ^ p)).scale k)
        precisions
  | .sinpi, .inf _ => .nan
  | .sinpi, .frac neg num den => trigExact f r k neg num den 0
  | .cospi, .inf _ => .nan
  | .cospi, .frac _ num den =>
    match trigExact f r k false num den 1 with
    | .frac neg m d => .frac (neg && m != 0) m d
    | e => e
  | .floor, .inf neg => .inf neg
  | .floor, .frac neg num den =>
    if num = 0 then .frac neg 0 1 else (Exact.frac neg (roundNat .rdn neg num den) 1).scale k
  | .fract, .inf _ => .nan
  | .fract, .frac neg num den =>
    let m := num % den
    (Exact.frac false (if neg && m != 0 then den - m else m) den).scale k

end Sys2Proof.Machine
end

