-- ==== Sys2Proof/Machine/Flags.lean ====
section
/-! DEFINITION. Lane arithmetic: what one lane of each VF, VI, SF and PAIR opcode computes from its source words, with
modifiers, SCALE and CLAMP (R116 to R118, R224 to R258). The architecture has no condition flags; a compare's bit is the
one it writes to a predicate. -/

namespace Sys2Proof.Machine

/-- How SCALE and CLAMP finish a result (R118). A VI word and a PAIR slot have neither. -/
structure Finish where
  scale : BitVec 3
  clamp : Bool
  deriving DecidableEq, Repr

/-- Neither SCALE nor CLAMP. -/
def Finish.none : Finish := ⟨0, false⟩

/-- Class F and D: scale, one RNE rounding to a format, clamp (R118). -/
def finishF (f : Fmt) (c : Finish) (y : Exact) : Nat :=
  let r := f.round .rne (y.scale (scaleExp c.scale.toNat))
  if c.clamp then f.clamp01 r else r

/-- Class I and Q: saturate under CLAMP, else reduce mod 2^32 (R117). -/
def finishI (c : Finish) (y : Int) : Word := if c.clamp then satS32 y else wrap32 y

/-! ### Modifiers (R116) -/

/-- ABS then NEG on the sign bits of an operand, given their mask. -/
def modSign (mask : Word) (neg abs : Bool) (x : Word) : Word :=
  let y := if abs then x &&& ~~~mask else x
  if neg then y ^^^ mask else y

/-- ABS then NEG as two's complement. -/
def modInt (neg abs : Bool) (x : Word) : Word :=
  let y := if abs && x.msb then -x else x
  if neg then -y else y

/-- ABS then NEG as the class of the opcode reads them. `isFloat` tells FSETP from the integer compares. -/
def applyMod (k : OpClass) (isFloat : Bool) (neg abs : Bool) (x : Word) : Word :=
  match k with
  | .F | .D => modSign 0x80000000 neg abs x
  | .H => modSign 0x80008000 neg abs x
  | .Q | .I => modInt neg abs x
  | .C => if isFloat then modSign 0x80000000 neg abs x else modInt neg abs x
  | .X => x

/-! ### Floats -/

/-- The two-operand and three-operand float operations. -/
inductive FOp where
  | add
  | mul
  | fma
  | min
  | max
  deriving DecidableEq, Repr

/-- One float operation in a format, scaled, rounded once and clamped (R232, R235). -/
def floatOp (f : Fmt) (op : FOp) (c : Finish) (a b d : Nat) : Nat :=
  match op with
  | .add => finishF f c ((f.value a).add (f.value b))
  | .mul => finishF f c ((f.value a).mul (f.value b))
  | .fma => finishF f c (((f.value a).mul (f.value b)).add (f.value d))
  | .min => finishF f c (f.value (f.minNum a b))
  | .max => finishF f c (f.value (f.maxNum a b))

/-- A class F operation on FP32 words. -/
def op32 (op : FOp) (c : Finish) (a b d : Word) : Word :=
  BitVec.ofNat 32 (floatOp f32 op c a.toNat b.toNat d.toNat)

/-- A class F function of one FP32 word (R233). -/
def fn32 (fn : Fn) (c : Finish) (a : Word) : Word :=
  let r := f32.round .rne (fn.apply f32 .rne (scaleExp c.scale.toNat) (val32 a))
  BitVec.ofNat 32 (if c.clamp then f32.clamp01 r else r)

/-- A class H operation: each half as class F in its format (R235). -/
def op16 (f : Fmt) (op : FOp) (c : Finish) (a b d : Word) : Word :=
  let half (k : Nat) (w : Word) := w.toNat / 2 ^ (16 * k) % 2 ^ 16
  let r (k : Nat) := floatOp f op c (half k a) (half k b) (half k d)
  BitVec.ofNat 32 (r 1 * 2 ^ 16 + r 0)

/-- The conditions of FSETP (R234). -/
def fsetpBit (cond : Nat) (a b : Word) : Bool :=
  match (val32 a).cmp? (val32 b) with
  | none => cond == 1 || cond == 7
  | some i =>
    match cond with
    | 0 => decide (i = 0)
    | 1 => decide (i ≠ 0)
    | 2 => decide (i < 0)
    | 3 => decide (i ≤ 0)
    | 4 => decide (0 < i)
    | 5 => decide (0 ≤ i)
    | 6 => true
    | _ => false

/-- The conditions of ISETP, USETP and SSETP on the operands' values (R234, R254). -/
def setpBit (cond : Nat) (a b : Int) : Bool :=
  match cond with
  | 0 => decide (a = b)
  | 1 => decide (a ≠ b)
  | 2 => decide (a < b)
  | 3 => decide (a ≤ b)
  | 4 => decide (b < a)
  | _ => decide (b ≤ a)

/-! ### DOT16 (R228) -/

/-- The four bytes of a word. -/
def wordBytes (w : Word) : List Nat := [w.toNat % 256, w.toNat / 256 % 256, w.toNat / 65536 % 256, w.toNat / 16777216]

/-- The largest exponent of the non-zero products. -/
def dotEmax : List Exact → Option Int
  | [] => none
  | .frac _ num den :: xs =>
    if num = 0 then dotEmax xs
    else match dotEmax xs with
      | none => some (floorLog2 num den)
      | some e => some (max e (floorLog2 num den))
  | _ :: xs => dotEmax xs

/-- A product truncated to 23 bits below `2^emax`, signed. -/
def dotTerm (emax : Int) : Exact → Int
  | .frac neg num den =>
    let k := 23 - emax
    signedNum neg (if 0 ≤ k then num * 2 ^ k.toNat / den else num / (den * 2 ^ (-k).toNat))
  | _ => 0

/-- The exact sum of the 16 products and C, before SCALE and rounding. -/
def dotExact (ps : List Exact) (c : Exact) : Exact :=
  if ps.contains .nan || c == .nan then .nan
  else if ps.contains (.inf false) && ps.contains (.inf true) then .nan
  else if ps.contains (.inf false) then (if c = .inf true then .nan else .inf false)
  else if ps.contains (.inf true) then (if c = .inf false then .nan else .inf true)
  else
    match dotEmax ps with
    | none => (Exact.frac (ps.all (fun p => match p with | .frac neg _ _ => neg | _ => false)) 0 1).add c
    | some emax =>
      ((Exact.ofInt ((ps.map (dotTerm emax)).foldl (· + ·) 0) 1 false).scale (emax - 23)).add c

/-- DOT16E4 and DOT16E5: `a` and `b` hold the words of the two runs (R217, R228). -/
def dot16 (f : Fmt) (fin : Finish) (a b : List Word) (c : Word) : Word :=
  let xs := (a.map wordBytes).flatten.map f.value
  let ys := (b.map wordBytes).flatten.map f.value
  BitVec.ofNat 32 (finishF f32 fin (dotExact (List.zipWith Exact.mul xs ys) (val32 c)))

/-- The four signed bytes of a word. -/
def wordSBytes (w : Word) : List Int := (wordBytes w).map (fun b => if b < 128 then (b : Int) else (b : Int) - 256)

/-- IDP4 (R237). -/
def idp4Word (fin : Finish) (a b c : Word) : Word :=
  finishI fin (sint c + (List.zipWith (· * ·) (wordSBytes a) (wordSBytes b)).foldl (· + ·) 0)

/-! ### Integers and bits -/

/-- The class I operations. -/
inductive IOp where
  | add
  | sub
  | mul
  | mulh
  | umulh
  | mad
  | smin
  | smax
  | umin
  | umax
  deriving DecidableEq, Repr

/-- The exact integer result (R238). -/
def intExact (op : IOp) (a b c : Word) : Int :=
  match op with
  | .add => sint a + sint b
  | .sub => sint a - sint b
  | .mul => sint a * sint b
  | .mulh => (sint a * sint b) / 2 ^ 32
  | .umulh => ((a.toNat * b.toNat / 2 ^ 32 : Nat) : Int)
  | .mad => sint a * sint b + sint c
  | .smin => min (sint a) (sint b)
  | .smax => max (sint a) (sint b)
  | .umin => ((min a.toNat b.toNat : Nat) : Int)
  | .umax => ((max a.toNat b.toNat : Nat) : Int)

/-- A class I result. -/
def intOp (op : IOp) (fin : Finish) (a b c : Word) : Word := finishI fin (intExact op a b c)

/-- The bit operations of two operands. -/
inductive BOp where
  | and
  | or
  | xor
  | shl
  | shr
  | sar
  deriving DecidableEq, Repr

/-- Logic and shifts, by a count read as unsigned (R239). -/
def bitOp (op : BOp) (a b : Word) : Word :=
  match op with
  | .and => a &&& b
  | .or => a ||| b
  | .xor => a ^^^ b
  | .shl => if b.toNat < 32 then a <<< b.toNat else 0
  | .shr => if b.toNat < 32 then a >>> b.toNat else 0
  | .sar => if b.toNat < 32 then a.sshiftRight b.toNat else a.sshiftRight 31

/-- The number of 1 bits of `w` among bits `n - 1` to 0. -/
def popCount (w : Word) : Nat → Nat
  | 0 => 0
  | n + 1 => (if w.getLsbD n then 1 else 0) + popCount w n

/-- The number of leading 0 bits (R239). -/
def leadingZeros (w : Word) : Nat := if w = 0 then 32 else 31 - Nat.log2 w.toNat

/-- Bits `n - 1` to 0 as given by a test of the index. -/
def ofBits (f : Nat → Bool) : Nat → Nat
  | 0 => 0
  | n + 1 => ofBits f n + (if f n then 2 ^ n else 0)

/-- BREV (R239). -/
def bitReverse (w : Word) : Word := BitVec.ofNat 32 (ofBits (fun i => w.getLsbD (31 - i)) 32)

/-- POS of a bit-field control word (R240). -/
def ctlPos (c : Word) : Nat := c.toNat / 256 % 32
/-- LEN of a bit-field control word, at most 32 (R240). -/
def ctlLen (c : Word) : Nat := min 32 (c.toNat % 64)
/-- SIGN of a bit-field control word (R240). -/
def ctlSign (c : Word) : Bool := c.getLsbD 16

/-- BFE (R240). -/
def bitExtract (value control : Word) : Word :=
  let len := ctlLen control
  let pos := ctlPos control
  let top := if ctlSign control then value.getLsbD 31 else false
  let f (i : Nat) : Bool := if pos + i ≤ 31 then value.getLsbD (pos + i) else top
  if len = 0 then 0
  else BitVec.ofNat 32 (ofBits (fun i => if i < len then f i else ctlSign control && f (len - 1)) 32)

/-- BFI (R240). -/
def bitInsert (field control base : Word) : Word :=
  let pos := ctlPos control
  BitVec.ofNat 32 (ofBits (fun i =>
    if pos ≤ i ∧ i < pos + ctlLen control then field.getLsbD (i - pos) else base.getLsbD i) 32)

/-! ### Conversions -/

/-- An element of a word (R217). -/
def elem (width k : Nat) (w : Word) : Nat := w.toNat / 2 ^ (width * k) % 2 ^ width

/-- A word with one element replaced (R244). -/
def setElem (width k : Nat) (old : Word) (v : Nat) : Word :=
  BitVec.ofNat 32 (old.toNat - elem width k old * 2 ^ (width * k) + v % 2 ^ width * 2 ^ (width * k))

/-- The narrow format of a conversion and its width. -/
def convFmt (conv : Nat) : Fmt × Nat :=
  match conv % 4 with
  | 0 => (f16, 16)
  | 1 => (bf16, 16)
  | 2 => (e4m3, 8)
  | _ => (e5m2, 8)

/-- CONV 0xC (R244). -/
def roundToInt32 (r : Rnd) (a : Word) : Word :=
  match val32 a with
  | .frac neg num den =>
    if num = 0 ∨ 2 ^ 23 * den ≤ num then a
    else rne32 (.frac neg (roundNat r neg num den) 1)
  | .inf _ => a
  | _ => 0x7FC00000

/-- CVT (R243, R244). `old` is the destination's old value, zero for a queue. -/
def convert (code : Nat) (a old : Word) : Word :=
  let conv := code / 16
  let k := code / 4 % 4
  let r := rndOf code
  let fw := convFmt conv
  match conv with
  | 0 | 1 | 2 | 3 => setElem fw.2 k old (narrow fw.1 r a)
  | 4 | 5 | 6 | 7 => widen fw.1 (elem fw.2 k a)
  | 8 => wrap32 ((val32 a).toIntSat r (-2 ^ 31) (2 ^ 31 - 1))
  | 9 => wrap32 ((val32 a).toIntSat r 0 (2 ^ 32 - 1))
  | 10 => BitVec.ofNat 32 (f32.round r (.int (sint a)))
  | 11 => BitVec.ofNat 32 (f32.round r (.int a.toNat))
  | _ => roundToInt32 r a

/-- CVTEF (R245): the destination word and the new residue. -/
def convertEf (code : Nat) (a old residue : Word) : Word × Word :=
  let fw := convFmt (code / 16)
  let r := errorFeedback fw.1 a residue
  (setElem fw.2 (code / 4 % 4) old r.1, r.2)

/-- CVTSR (R246). -/
def convertSr (code : Nat) (a rnd old : Word) : Word :=
  let fw := convFmt (code / 16)
  setElem fw.2 (code / 4 % 4) old (stochastic fw.1 a rnd)

/-- One round of the counter hash (R227). -/
def rngRound (xy : Word × Word) : Word × Word :=
  let x := (xy.1 * 0xCC9E2D51).rotateLeft 15 ^^^ xy.2
  (x ^^^ (x >>> 16), xy.2 + 0x9E3779B9)

/-- RNG (R227). -/
def rngHash (seed counter stream : Word) : Word :=
  (rngRound (rngRound (rngRound (rngRound (counter ^^^ (stream <<< 12), seed))))).1

/-! ### Reductions (R251) -/

/-- One step of REDUX. -/
def reduxStep (op : Nat) (r a : Word) : Word :=
  match op with
  | 0 => r + a
  | 1 => intOp .smin Finish.none r a 0
  | 2 => intOp .smax Finish.none r a 0
  | 3 => intOp .umin Finish.none r a 0
  | 4 => intOp .umax Finish.none r a 0
  | 5 => r &&& a
  | 6 => r ||| a
  | 7 => r ^^^ a
  | 8 => fadd32 r a
  | 9 => fmin32 r a
  | _ => fmax32 r a

/-- REDUX over the words of the acting lanes in ascending lane order. -/
def reduxWord (op : Nat) : List Word → Word
  | [] => 0
  | a :: as => as.foldl (reduxStep op) (if 8 ≤ op ∧ isNan32 a then 0x7FC00000 else a)

/-! ### The inline constants (R111) -/

/-- An inline constant, as a 32-bit pattern. -/
def inlineConst (n : Nat) : Word :=
  match n with
  | 0 => 0x00000000
  | 1 => 0x00000001
  | 2 => 0xFFFFFFFF
  | 3 => 0x00000002
  | 4 => 0x3F800000
  | 5 => 0xBF800000
  | 6 => 0x3F000000
  | _ => 0x40000000

/-- An inline constant as class H reads it: a float constant in both halves of the opcode's half format. -/
def inlineConstHalf (f : Fmt) (n : Nat) : Word :=
  if n < 4 then inlineConst n
  else
    let h := narrow f .rne (inlineConst n)
    BitVec.ofNat 32 (h * 65536 + h)

end Sys2Proof.Machine
end

