-- ==== Sys2Proof/Machine/Sparse.lean ====
section
/-! DEFINITION. Finite tables in one canonical form: pairs of a key and a value, keys strictly rising. A table of values with
a default lists no entry that holds the default, so that equal tables are equal data. -/

namespace Sys2Proof.Machine

/-- A table: keys strictly rising. -/
abbrev Table (α : Type) := List (Nat × α)

/-- The entry of a key. -/
def tfind {α : Type} (k : Nat) : Table α → Option α
  | [] => none
  | (j, v) :: t => if k = j then some v else tfind k t

/-- The entry of a key, or the default. -/
def tget {α : Type} (d : α) (t : Table α) (k : Nat) : α := (tfind k t).getD d

/-- The table without a key. -/
def terase {α : Type} (k : Nat) : Table α → Table α
  | [] => []
  | (j, v) :: t => if k = j then terase k t else (j, v) :: terase k t

/-- The table with a key at a value, in key order. -/
def tinsert {α : Type} (k : Nat) (v : α) : Table α → Table α
  | [] => [(k, v)]
  | (j, w) :: t => if k < j then (k, v) :: (j, w) :: t else if k = j then (k, v) :: t else (j, w) :: tinsert k v t

/-- A write to a table with a default: writing the default removes the entry. -/
def tset {α : Type} [DecidableEq α] (d : α) (t : Table α) (k : Nat) (v : α) : Table α :=
  if v = d then terase k t else tinsert k v t

/-- Keys strictly rising from a bound. -/
def tsortedFrom {α : Type} (b : Nat) : Table α → Bool
  | [] => true
  | (j, _) :: t => decide (b ≤ j) && tsortedFrom (j + 1) t

/-- Keys strictly rising. -/
def tsorted {α : Type} (t : Table α) : Bool := tsortedFrom 0 t

/-- The canonical form of a table with a default. -/
def tcanon {α : Type} [DecidableEq α] (d : α) (t : Table α) : Bool := tsorted t && t.all (fun e => decide (e.2 ≠ d))

/-- The values of a table in key order. -/
def tvalues {α : Type} (t : Table α) : List α := t.map (·.2)

/-- An update of the entry of a key, where there is one. -/
def tmodify {α : Type} (k : Nat) (f : α → α) : Table α → Table α
  | [] => []
  | (j, v) :: t => if k = j then (j, f v) :: t else (j, v) :: tmodify k f t

/-- `n` bytes of a byte table from an address, little-endian, unlisted bytes reading as zero. -/
def treadLE (t : Table Byte) (a : Nat) : Nat → Nat
  | 0 => 0
  | n + 1 => (tget 0 t a).toNat + 256 * treadLE t (a + 1) n

/-- `n` bytes of a value written to a byte table, little-endian. -/
def twriteLE (t : Table Byte) (a v : Nat) : Nat → Table Byte
  | 0 => t
  | n + 1 => twriteLE (tset 0 t a (BitVec.ofNat 8 v)) (a + 1) (v / 256) n

/-- Bits `len + lo - 1` to `lo` of a number. -/
def bitsOf (v lo len : Nat) : Nat := v / 2 ^ lo % 2 ^ len

/-- The update of the element at a position. -/
def lset {α : Type} (l : List α) (i : Nat) (f : α → α) : List α :=
  match l, i with
  | [], _ => []
  | x :: xs, 0 => f x :: xs
  | x :: xs, i + 1 => x :: lset xs i f

/-- A round-up division. -/
def ceilDiv (a b : Nat) : Nat := (a + b - 1) / b

end Sys2Proof.Machine
end

