-- ==== Sys2Proof/Machine/Types.lean ====
section
/-! DEFINITION. The parts the state is made of: groups and their registers, teams, launches, task domains, the memory
hierarchy, and instructions in flight. All plain data. -/

namespace Sys2Proof.Machine

/-! ### Groups (R168 to R182) -/

/-- Why a gang issues nothing (R187). `retry` marks a gang whose instruction was offered and could not proceed, `flags` one in WAITF,
`boundary` one that a boundary holds back, `claim` one that waits for a Prism array (R282), `overflow` one whose atomic the version blocks of its lines' sets hold back (R401), `slots` one that waits for ray slots (R309); `bar b` is the wait half of BAR.SYNC on barrier b, `bar (16 + b)` a BAR.WAIT on it. -/
inductive GangWait where
  | ready
  | retry
  | flags (m : BitVec 12)
  | boundary
  | overflow (lines : List (Nat × Nat))
  | slots (n : Nat)
  | claim
  | regang
  | bar (b : Nat)
  | syscall (seq number : Nat)
  deriving DecidableEq, Repr

/-- One strand (R169): program counter, predicate stack with its top first, and the gang it belongs to, named by that
gang's lowest strand. -/
structure Strand where
  pc : Addr
  stack : List (BitVec 4)
  exited : Bool
  gang : Nat
  wait : GangWait
  deriving DecidableEq, Repr

/-- A trap found late, attached to a flag or to the group (R32, R405); `page` is the IPA at which a task's access was found absent (R33, R384). -/
structure LateTrap where
  cause : Nat
  sub : Nat
  addr : Addr
  ipaAddr : Bool
  page : Nat
  deriving DecidableEq, Repr

/-- When a late trap of an instruction without a flag is taken (R32, R291, R362). -/
inductive LatePoint where
  | next
  | waitOrRelease
  | prism
  | closure
  deriving DecidableEq, Repr

/-- A completion flag (R120): busy, owner not yet waited on, the codes of the registers tracked against it, late trap. -/
structure Flag where
  busy : Bool
  owned : Bool
  tracked : List Nat
  late : Option LateTrap
  deriving DecidableEq, Repr

/-- A clear flag. -/
def Flag.clear : Flag := ⟨false, false, [], none⟩

/-- A queue binding (R149): ring start, size and the two positions, in bytes of local space. -/
structure QBind where
  start : Nat
  size : Nat
  rd : Nat
  wr : Nat
  deriving DecidableEq, Repr

/-- An instruction inside its queue pops or pushes (R113, R150, R417), with the instruction itself. Pops are (field, queue, lane), in
service order; `since` numbers the moment its present element reached the queue (R57). -/
structure Pending where
  strand : Nat
  instr : Instr
  pops : List (Nat × Nat × Nat)
  popped : Table Word
  pushes : List (Nat × Nat × Word)
  pushing : Bool
  next : Addr
  since : Nat
  deriving DecidableEq, Repr

/-- The control state a trap saves (R408). -/
structure HandlerSave where
  strands : List Strand
  s60 : Table Word
  p6 : BitVec 32
  trapGang : Nat
  pending : Table Pending
  deriving DecidableEq, Repr

/-- What a task's gang was stopped by before the frontier (R383), or a TASK without a free slot (R385). -/
inductive Deferred where
  | issue
  | late (t : LateTrap)
  | slot
  deriving DecidableEq, Repr

/-- A group (R168 to R182, R255, R408). `gid` is the model's own number of it. Registers are tables with default 0: v(n) of
lane l at 32 n + l, s(n) of strand t at 64 t + n, e(n) of lane l at 32 n + l, byte b of k(n) of lane l at
256 (32 n + l) + b, and system registers 0x100 to 0x12F at their numbers. Accesses numbered from `fence` on stand after a PHASE of
scope 0 (R90). `served` is the strand after the gang served last (R188), `readyFrom` the time since which it has had a ready gang (R279). -/
structure Group where
  gid : Nat
  launch : Nat
  team : Nat
  pos : Nat
  index : BitVec 64
  quarter : Nat
  ctx : Nat
  resident : Bool
  spawned : Bool
  strands : List Strand
  v : Table Word
  s : Table Word
  p : Table (BitVec 32)
  e : Table Word
  k : Table Byte
  flags : Table Flag
  late : List (LatePoint × LateTrap)
  qbinds : Table QBind
  q9 : List Word
  q9Promised : Nat
  pending : Table Pending
  ranges : Table (BitVec 64)
  rheap : Addr
  fbovf : Word
  trapCause : Word
  trapPc : Addr
  trapAddr : Addr
  trapToken : Word
  handler : Addr
  hdata : BitVec 64
  inHandler : Option HandlerSave
  halted : Bool
  retiring : Bool
  active : Bool
  since : Nat
  yielded : Option Nat
  offers : List Nat
  latch : List (Nat × Nat)
  heldBy : Option Nat
  task : Option Nat
  deferred : Option (Nat × Deferred)
  fence : Nat
  served : Nat
  readyFrom : Nat
  deriving DecidableEq, Repr

/-- A core's Prism array (R281 to R299): the claiming team, the latched tile (MW 0 for VOID), the MW and address of the
latest MMLOAD that issued under the claim, the step tile of the running command, the accumulator memory with entry (a, n) at 128 a + n, the NaN status, the q8 queues by team position, and the
commands in their order. -/
structure Prism where
  team : Option Nat
  mw : Nat
  wbase : Addr
  issued : Nat × Addr
  tile : Table Byte
  step : Table Byte
  acc : Table Word
  nanblk : Bool
  q8 : Table (List Word)
  cmds : List Nat
  deriving DecidableEq, Repr

/-- An unclaimed array. -/
def Prism.reset : Prism := ⟨none, 0, 0, (0, 0), [], [], [], false, [], []⟩

/-- A barrier (R208). -/
structure Barrier where
  expect : Nat
  count : Nat
  part : BitVec 64
  pend : BitVec 64
  arrived : BitVec 64
  deriving DecidableEq, Repr

/-- A team (R172, R189, R208, R414): its number in the launch and its team index, its core and when it was placed there. `saving`
marks a team that a pre-emption has stopped or a move holds, `stay` one that a spare core takes over, `image` where its image
lies in the save area of its die and the bytes it takes there, and `prism` the array it had claimed. -/
structure Team where
  id : Nat
  launch : Nat
  number : Nat
  index : Nat
  core : Nat
  placedAt : Nat
  size : Nat
  barriers : Table Barrier
  turn : Nat
  preempted : Bool
  saving : Bool
  stay : Bool
  image : Option (Nat × Nat)
  prism : Option Prism
  deriving DecidableEq, Repr

/-- A level of a level table (R173). -/
structure Level where
  extent : Nat
  kind : Nat
  scope : Nat
  deriving DecidableEq, Repr

/-- The fields of a launch record (R176). -/
structure LaunchRec where
  entry : Nat
  rangeset : Nat
  taskdom : Nat
  ovfbase : Nat
  ovfsize : Nat
  scrbytes : Nat
  deadline : Nat
  nregs : Nat
  nkregs : Nat
  nstrands : Nat
  prio : Nat
  mode : Nat
  levels : List Level
  fabpos : Nat
  rheap : Nat
  consts : List Word
  deriving DecidableEq, Repr

/-- An accepted launch (R177 to R181, R272 to R274, R397 to R403): `ranges` its range-register set as read last, through the set `via` of its
queue, `claims` by cluster the first bank and the number of banks claimed there, `units` where its cluster and die units lie, at 2 unit and
2 unit + 1. -/
structure Launch where
  id : Nat
  record : LaunchRec
  addr : Nat
  slot : Nat
  queue : Nat
  number : Nat
  tenant : Nat
  ranges : Table (BitVec 64)
  via : Table (BitVec 64)
  teams : Nat
  placed : List Nat
  retired : List Nat
  started : Bool
  spawns : Nat
  live : Nat
  token : Option Nat
  intrude : Word
  ovfUsed : Nat
  ovfFull : Bool
  claims : Table (Nat × Nat)
  units : Table Nat
  missed : Bool
  coresRun : List Nat
  releases : List Nat
  deriving DecidableEq, Repr

/-! ### Tasks (R368 to R392) -/

/-- A task record with what the task unit keeps of it (R370). -/
structure TaskRec where
  entry : Nat
  args : List Word
  ts : Nat
  tie : Nat
  parent : Nat
  spawns : Nat
  state : Nat
  gid : Option Nat
  retryAt : Option Nat
  token : Option Nat
  confirmed : Bool
  deriving DecidableEq, Repr

/-- A task domain (R368, R374, R379, R385, R386). `committing` is the slot whose commit is in progress, `shown` are SPAWNS and STATE of each
slot as queue memory holds them (R370). -/
structure Domain where
  launch : Nat
  base : Nat
  qbase : Nat
  qcap : Nat
  specwin : Nat
  dstatus : Nat
  commits : Nat
  lastts : Nat
  recs : Table TaskRec
  frontier : Nat
  committing : Option Nat
  ended : Bool
  shown : Table Nat
  deriving DecidableEq, Repr

/-! ### Memory (R47 to R67) -/

/-- Where an access leads: home slice, IPA, and for a compressed range the address of its count nibble, twice the byte's
IPA plus one for the high nibble (R22, R60). -/
structure Loc where
  home : Nat
  ipa : Nat
  md : Option Nat
  deriving DecidableEq, Repr

/-- A committed sector held in L2, with the count nibble of its line in a compressed range. -/
structure L2Sector where
  data : BitVec 128
  dirty : Bool
  md : Option Nat
  deriving DecidableEq, Repr

/-- A sector a core holds: pending bytes and a pinned value, in L1 or, for pending bytes evicted to a CACHE bank, there
(R47, R48). `banked` is that bank, `fault` the
address of a store whose confirmation faulted (R32). -/
structure CoreSector where
  loc : Loc
  pmask : BitVec 16
  pdata : BitVec 128
  pinned : Option (BitVec 128)
  whole : Bool
  banked : Option Nat
  fault : Option Nat
  deriving DecidableEq, Repr

/-- Kinds of versions other than COMMITTED (R62). A task is its launch and its slot; `command` are the PENDING bytes that an engine
command with REL wrote for its core, which the command's own release publishes (R104). -/
inductive VKind where
  | pending (core : Nat)
  | command (core op : Nat)
  | snapshot (core : Nat)
  | spec (launch slot : Nat)
  | ordered (launch index : Nat)
  deriving DecidableEq, Repr

/-- Whose block a version lies in: the bytes a command wrote are PENDING bytes of its core (R59, R104). -/
def VKind.owner : VKind → VKind
  | .command core _ => .pending core
  | k => k

/-- Where a version block lies (R66). -/
inductive Place where
  | set
  | spill
  | overflow
  deriving DecidableEq, Repr

/-- A sector version at its home slice (R62). `whole` marks a version that came as part of a whole compressed line (R83);
`fault` is the address of a store whose confirmation faulted (R32). -/
structure Version where
  kind : VKind
  home : Nat
  sector : Nat
  md : Option Nat
  mask : BitVec 16
  data : BitVec 128
  whole : Bool
  fault : Option Nat
  place : Place
  deriving DecidableEq, Repr

/-- A read mark (R375): the task, the sector, and the slots of the tasks whose versions it read; `committed` for
COMMITTED. -/
structure Mark where
  launch : Nat
  slot : Nat
  home : Nat
  sector : Nat
  from_ : List Nat
  committed : Bool
  place : Place
  deriving DecidableEq, Repr

/-- A buffered request of a deterministic launch (R153, R398): the operation in flight and its request. -/
structure OrderedReq where
  launch : Nat
  index : Nat
  home : Nat
  sector : Nat
  op : Nat
  req : Nat
  deriving DecidableEq, Repr

/-- A cached translation (R27, R28): `big` for a 256 MiB leaf. -/
structure TlbEntry where
  big : Bool
  pa : Nat
  w : Bool
  mig : Bool
  deriving DecidableEq, Repr

/-- A write-back held at a translation unit (R43, R46). -/
structure HeldWb where
  unit : Nat
  home : Nat
  sector : Nat
  md : Option Nat
  data : BitVec 128
  token : Option Nat
  deriving DecidableEq, Repr

/-- A store of Apex or of the task unit that waits for its slice (R43, R46). -/
structure PostedStore where
  loc : Loc
  size : Nat
  value : Nat
  deriving DecidableEq, Repr

/-- A wait-table entry (R33, R412): the page and the parked accesses, each an operation and a request number, a release and a sector
key, or 0 and the launch whose overflow area met the page (R400). -/
structure WaitEntry where
  die : Nat
  token : Nat
  page : Nat
  kind : Nat
  accesses : List (Nat × Nat)
  deriving DecidableEq, Repr

/-! ### Instructions in flight (R120, R121) -/

/-- The progress of one request. -/
inductive ReqState where
  | waiting
  | parked (token : Nat)
  | confirmed
  | buffered
  | held (launches : List Nat)
  | done
  | failed (cause sub ipa : Nat)
  deriving DecidableEq, Repr

/-- One request of an access: for an atomic, all lanes that name one location, with operand and compare value (R100). -/
structure Req where
  lane : Nat
  va : Nat
  loc : Loc
  size : Nat
  data : Nat
  args : List (Nat × Word × Word)
  state : ReqState
  deriving DecidableEq, Repr

/-- A register element an instruction in flight writes when it completes. -/
inductive RegElem where
  | v (n lane : Nat)
  | s (n strand : Nat)
  | p (n lane : Nat)
  | k (n lane byte : Nat)
  deriving DecidableEq, Repr

/-- The atomic operations (R142). -/
inductive AtomOp where
  | add
  | min
  | max
  | umin
  | umax
  | and
  | or
  | xor
  | xchg
  | cas
  | fadd
  | fmin
  | fmax
  deriving DecidableEq, Repr

/-- A Prism command at its array (R285 to R296): rows, steps, its memory or local address or its ring with the next position, the
granules it moves in all, those moved and those of a run's current vector that it holds, the step tile read last, and whether it
has begun. -/
structure PrismCmd where
  row : Nat
  count : Nat
  steps : Nat
  addr : Nat
  stride : Nat
  seed : Word
  ring : Nat
  size : Nat
  pos : Nat
  total : Nat
  moved : Nat
  held : List Nat
  loaded : Nat
  begun : Bool
  void : Bool
  deriving DecidableEq, Repr

/-- A candidate of the feedback ring (R330, R331): the words of its entry, its ring, the lowest lane that formed it, whether the
core's filter has let it pass, and the slot reserved for it. -/
structure FeedbackCand where
  who : Nat
  tileX : Nat
  tileY : Nat
  layer : Nat
  ring : Nat
  log : Nat
  lane : Nat
  passed : Bool
  slot : Option Nat
  deriving DecidableEq, Repr

/-- What an instruction in flight is. -/
inductive OpKind where
  /-- A plain load of `size` bytes to a run of registers, sign-extended where `sgn`; scalar for LDU. -/
  | load (size run dst : Nat) (sgn scalar : Bool)
  /-- A plain store. -/
  | store (size : Nat)
  /-- An immediate load. -/
  | immLoad (size run dst : Nat) (sgn scalar : Bool)
  /-- An immediate store. -/
  | immStore (size : Nat)
  /-- An atomic, with its destination for ATOM. -/
  | atomic (op : AtomOp) (dst : Option Nat)
  /-- PHASE. -/
  | phase
  /-- PREF. -/
  | pref
  /-- An instruction fetch that parked (R32). -/
  | fetch
  /-- An instruction whose results were formed at issue. -/
  | fixed
  /-- A local access (R141). -/
  | local (store : Bool) (fe size dst : Nat)
  /-- CPY (R146). -/
  | cpy (out : Bool) (la va bytes : Nat) (token : Bool)
  /-- CBANK (R148), with the banks still to change. -/
  | cbank (cluster mode : Nat) (banks : List Nat)
  /-- WAKE (R151). -/
  | wake
  /-- SPAWN (R184). -/
  | spawn
  /-- A Prism command (R282). -/
  | prism (i : Instr) (p : PrismCmd)
  /-- TEX (R336), with the feedback candidates formed and not yet written or dropped. -/
  | tex (i : Instr) (cands : List FeedbackCand)
  /-- RAY (R308). -/
  | ray (i : Instr)
  /-- A closure instruction (R358). -/
  | closure (i : Instr)
  /-- KSPILL and KFILL (R359). -/
  | spillFill (i : Instr)
  deriving DecidableEq, Repr

/-- An instruction in flight, with its word as `instr`. `src` holds operand words captured at issue, word k of lane l at 32 k + l. `rel` is the
release its sending waits for, `acqId` the acquire it waits for, `banks` the banks it holds (R55), `arrived` numbers the moment a local
access reached its bank (R57), `parked` says that it has parked its group, which waits for its completion (R33), and `resumed` that it came back
pending with its team, so that its gang waits until it has been performed (R417). -/
structure Op where
  id : Nat
  gid : Nat
  core : Nat
  flag : Nat
  pc : Addr
  strand : Nat
  instr : Instr
  kind : OpKind
  scope : Nat
  rel : Bool
  relId : Option Nat
  acq : Bool
  acqId : Option Nat
  sent : Bool
  lanes : List Nat
  banks : List Nat
  src : Table Word
  ranges : Table (BitVec 64)
  rheap : Addr
  reqs : List Req
  results : List (RegElem × Word)
  task : Option (Nat × Nat)
  performed : Bool
  lateTrap : Option LateTrap
  arrived : Nat
  parked : Bool
  resumed : Bool
  deriving DecidableEq, Repr

/-- Who asked for a boundary (R91). -/
inductive BoundarySource where
  | op (id : Nat)
  | group (gid : Nat)
  | launch (id : Nat)
  | placement (launch : Nat)
  | implicit
  | move (team : Nat)
  deriving DecidableEq, Repr

/-- A release in progress (R49, R92): what it publishes, the sectors it has still to send home, those sent and not yet published, and those
whose page is absent (R32). -/
structure Rel where
  id : Nat
  core : Nat
  scope : Nat
  source : BoundarySource
  of_ : VKind
  begun : Bool
  todo : List Nat
  sent : List Nat
  parked : List Nat
  fault : Option LateTrap
  deriving DecidableEq, Repr

/-- An acquire in progress (R93). -/
structure Acq where
  id : Nat
  core : Nat
  scope : Nat
  source : BoundarySource
  deriving DecidableEq, Repr

/-- A mode change in progress, with the CBANK that asked for it (R55, R148). -/
structure BankChange where
  cluster : Nat
  bank : Nat
  mode : Nat
  op : Option Nat
  deriving DecidableEq, Repr

/-- The arguments of an event, held in the state for the event that the next step performs. -/
structure EvArgs where
  a : Nat
  b : Nat
  c : Nat
  val : BitVec 64
  on : Bool
  secs : List Nat
  late : List Nat
  bytes : List Byte
  deriving DecidableEq, Repr

/-- No arguments. -/
def EvArgs.zero : EvArgs := ⟨0, 0, 0, 0, false, [], [], []⟩

end Sys2Proof.Machine
end

