-- ==== Sys2Proof/Machine/State.lean ====
section
/-! DEFINITION. The state of one Grikai-960 package as plain data, what can stop the machine, and the state after reset. -/

namespace Sys2Proof.Machine

/-- Why the machine stops with a fault. -/
inductive Fault where
  /-- A worker was to be handed a task whose record in queue memory is not the one the task unit wrote: a write by another
  party, which R371 leaves undefined. Raised by the dispatch of the task. Safe: the spec promises nothing afterwards. -/
  | taskQueueWritten
  deriving DecidableEq, Repr

/-- Why an instruction has no meaning. -/
inductive Refusal where
  /-- The instruction is not modelled. Raised by the dispatch of an instruction without a meaning; safe. -/
  | notModelled (mnemonic : String)
  deriving DecidableEq, Repr

/-- A core beside its groups (R9, R10, R67, R78, R80, R103, R276, R331): its array, whether it is in service, implicit-boundary
counts, the metadata cache and stream trackers (hints), the copies its engines have read, at
(unit * 256 + home) * 2^48 + ipa / 16 for texture, traversal and Facet units 0 to 2, of their resource records at units 8 to 10, the
feedback filter's keys with the cycle each was accepted, oldest first, the issue-slot table, with entries written but not yet in effect,
and the lines of its instruction cache and the launches whose constants its constant cache holds, latest first. -/
structure CoreState where
  prism : Prism
  outOfService : Bool
  implicitRel : Nat
  implicitAcq : Nat
  mdCache : List (Nat × BitVec 128)
  streams : List (Nat × Nat × Nat × Nat)
  engineCopies : Table (BitVec 128)
  fbFilter : List (List Nat × Nat)
  istab : Table Word
  istabNew : Table Word
  icache : List Nat
  ccache : List Nat
  deriving DecidableEq, Repr

/-- ISTAB entries read 0x8F8F_8F8F at reset (R276); the table lists the entries that differ. -/
def istabReset : Word := 0x8F8F8F8F#32

/-- A core at reset. -/
def CoreState.reset : CoreState := ⟨Prism.reset, false, 0, 0, [], [], [], [], [], [], [], []⟩

/-- The translation control block (R37), and the command that runs with its arguments as it was written. -/
structure TcBlock where
  root : BitVec 64
  node : BitVec 64
  arg0 : BitVec 64
  arg1 : BitVec 64
  cmd : BitVec 64
  err : Bool
  busy : Bool
  runOp : Nat
  runFirst : Nat
  runCount : Nat
  deriving DecidableEq, Repr

/-- A record ring with its registers and the postings that wait (R425, R427). -/
structure Ring where
  base : BitVec 64
  log : Word
  head : Word
  tail : Word
  waiting : List (List Byte)
  stalled : Bool
  /-- Whether BASE has been written since reset. -/
  based : Bool
  deriving DecidableEq, Repr

/-- A ring at reset. -/
def Ring.reset : Ring := ⟨0, 0, 0, 0, [], false, false⟩

/-- A registered user queue (R267 to R273): the descriptor's fields Apex keeps, its slot, the bytes consumed and produced, the
next packet with its open loops (start, passes left), whether a packet read waits, the launches it started in order with
those that have completed, the length of the completed run, and the time since which it has its slot. -/
structure UQueue where
  ipa : Nat
  slot : Option Nat
  pinned : Bool
  priv : Bool
  tenant : Nat
  ring : Nat
  ringLog : Nat
  qrange : Nat
  rd : Nat
  wr : Nat
  cursor : Nat
  loops : List (Nat × Nat)
  halted : Bool
  waiting : Bool
  launches : List Nat
  finished : List Nat
  count : Nat
  done : Nat
  sliceFrom : Nat
  deriving DecidableEq, Repr

/-- One direction's header table of a port (R430): its 64 entries, unlisted ones empty, and the updates not yet in effect, each with the SEQ
of the flit that carried it. -/
structure Headers where
  table : Table (List Byte)
  new : List (Nat × Nat × List Byte)
  deriving DecidableEq, Repr

/-- A Smihus Link port (R428 to R432): the sequence numbers of the next flit to send and the next to accept, whether a NAK is owed,
whether one has been received, the flits not yet acknowledged, the flits put on the wire, and the payloads accepted, each oldest
first, failed lanes, lanes remapped, whether the port is up, and the header tables it sends and receives by. -/
structure Port where
  sent : Nat
  expected : Nat
  nak : Bool
  resend : Bool
  replay : List (List Byte)
  wire : List (List Byte)
  accepted : List (List Byte)
  failed : List Nat
  remapped : Nat
  up : Bool
  sends : Headers
  receives : Headers
  deriving DecidableEq, Repr

/-- A port at reset. -/
def Port.reset : Port := ⟨0, 0, false, false, [], [], [], [], 0, true, ⟨[], []⟩, ⟨[], []⟩⟩

/-- What the boot ROM keeps (R433 to R436): the fetched image, fetches tried, its digests and version, and Apex's boot memory, by offset: 32 MiB
of the SRAM of clusters 0 to 7, outside the bank modes until the image releases it (R434). -/
structure Boot where
  phase : Nat
  tries : Nat
  image : List Byte
  imageDigest : List Byte
  configDigest : List Byte
  imageVer : BitVec 64
  mem : Table Byte
  deriving DecidableEq, Repr

/-- What an Apex control core runs (R433): nothing yet, the boot ROM, the boot image, or nothing more after a failed boot. -/
inductive ApexRun where
  | waiting
  | rom
  | image
  | stopped
  deriving DecidableEq, Repr

/-- An Apex control core (R7, R433, R434): what it runs, its program counter, for the boot image a byte offset in Apex's boot memory, and
the registers of RV64GC, whose instructions the spec does not give (log 76). -/
structure ApexCore where
  run : ApexRun
  pc : BitVec 64
  x : Table (BitVec 64)
  f : Table (BitVec 64)
  fcsr : Word
  deriving DecidableEq, Repr

/-- An Apex core that has not been started. -/
def ApexCore.idle : ApexCore := ⟨.waiting, 0, [], [], 0⟩

/-- The attestation mailbox (R435). -/
structure Attest where
  stat : Nat
  nonce : Table Byte
  report : List Byte
  deriving DecidableEq, Repr

/-- Who moves next: the free choices of the machine's schedule, as plain data. -/
inductive Turn where
  /-- A group that its quarter picks issues (R279). -/
  | issue (gid : Nat)
  /-- An event with its arguments. -/
  | ev (i : Instr) (x : EvArgs)
  /-- L1 evicts the sectors of a line, its pending ones to a CACHE bank where there is one (R48). -/
  | l1Evict (core home line bank : Nat)
  /-- A CACHE bank evicts a core's pending copies of a line to the home slice (R48, R55). -/
  | bankEvict (core home line : Nat)
  /-- A slice evicts a committed line (R86). -/
  | l2Evict (home line : Nat)
  /-- A translation unit drops a cached entry, or a cached table pointer. -/
  | tlbDrop (walk : Bool) (key : Nat)
  /-- A byte of memory can no longer be read, or can again (R437). -/
  | poison (pa : Nat) (on : Bool)
  /-- A port sends a flit with a payload, whose coding the spec does not give (R428, R430). -/
  | flitSend (port : Nat) (payload : List Byte)
  /-- Nothing moves for a cycle. -/
  | idle
  deriving DecidableEq, Repr

/-- The whole machine. Tables of bytes and words read zero where unlisted, unless their field says otherwise. -/
structure State where
  /-- The groups by the model's numbers (R168 to R182). -/
  groups : Table Group
  /-- The teams (R172). -/
  teams : Table Team
  /-- The launches (R176). -/
  launches : Table Launch
  /-- The task domains by launch (R368). -/
  domains : Table Domain
  /-- Core clock (R255) and time base (R449), with the thirds of a nanosecond run and the stretched cycles counted. -/
  clock : Nat
  timeb : Nat
  thirds : Nat
  stretched : Nat
  /-- How far TIMEB is ahead of the package it follows, and half a nanosecond counted at half rate (R449). -/
  timebAhead : Nat
  timebHalf : Bool
  /-- HBM bytes by PA, canonical with default zero. -/
  hbm : Table Byte
  /-- PAs whose reads are uncorrectable (R437). -/
  poison : List Nat
  /-- Committed sectors in L2, at home * 2^48 + ipa / 16 (R59, R62). -/
  l2 : Table L2Sector
  /-- Confirmed lines, at home * 2^48 + ipa / 128: 1 readable, 2 writable (R31). -/
  conf : Table Nat
  /-- Clusters with a copy of a line in a CACHE bank, as a mask, by line (R53). -/
  copies : Table Nat
  /-- Versions other than COMMITTED, oldest first (R62). -/
  versions : List Version
  /-- Read marks (R375). -/
  marks : List Mark
  /-- Buffered atomics, oldest first (R398). -/
  ordered : List OrderedReq
  /-- Sectors the cores hold, at (core * 256 + home) * 2^48 + ipa / 16 (R47, R48). -/
  sectors : Table CoreSector
  /-- Lines a core's L1 remembers as confirmed writable, at (core * 256 + home) * 2^48 + ipa / 128 (R138). -/
  l1conf : Table Bool
  /-- Cached translations, at unit * 2^40 + 2 * page + big (R26, R41). -/
  tlb : Table TlbEntry
  /-- Cached table pointers, at (unit * 4 + level) * 2^40 + index (R38). -/
  walkCache : Table Nat
  /-- Write-backs held at the translation units (R43, R46). -/
  held : List HeldWb
  /-- Stores of Apex and of the task unit whose slices stall, oldest first (R43, R46). -/
  posted : List PostedStore
  /-- The wait tables (R33) and the next sequence number of each unit. -/
  waits : List WaitEntry
  tokenSeq : Table Nat
  /-- Bank modes, at 16 * cluster + bank: 0 CACHE, 1 SCRATCH, 2 FIFO (R52, R54). -/
  bankModes : Table Nat
  /-- Local bytes, at cluster * 2^22 + local address (R17). -/
  banks : Table Byte
  /-- Full granules, at cluster * 2^18 + granule (R56). -/
  full : Table Bool
  /-- Mode changes in progress (R55). -/
  changes : List BankChange
  /-- Memory of other packages by IPA (R16), and the host's memory by host address (R422). -/
  remote : Table Byte
  hostMem : Table Byte
  /-- Cores beside their groups, by number; an unlisted core is as at reset. -/
  cores : Table CoreState
  /-- Instructions in flight, oldest first, and the boundaries in progress. -/
  ops : List Op
  rels : List Rel
  acqs : List Acq
  /-- Apex: translation control (R37), trap vectors at 2 * tenant and 2 * tenant + 1 (R407), queue registration (R424). -/
  tc : TcBlock
  tvtab : Table (BitVec 64)
  qripa : BitVec 64
  qrcmd : Nat
  qrstat : Nat
  /-- The descriptor whose registration is under way while QRSTAT reads busy. -/
  qrBusy : Option Nat
  queues : Table UQueue
  doors : List Nat
  /-- QDOOR's IPA once boot has published it, and the descriptors rung there that Apex has not yet looked at, oldest first (R268, R436). -/
  qdoor : Option Nat
  rung : List Nat
  /-- The fault, service and event rings (R425, R427) and the SYSCALL answer registers (R426). -/
  fq : Ring
  sq : Ring
  evq : Ring
  ans0 : Word
  ans1 : Word
  ansSeq : Word
  syscallSeq : Nat
  /-- Host registers (R421, R422), routing (R429), ports, spare slices used by die, counters by index (R437). -/
  ipawin : BitVec 64
  hostbase : BitVec 64
  rtab : Table (BitVec 64)
  ports : Table Port
  spareSlices : Table Nat
  spareCores : Table Nat
  /-- The slot from which a launch of each class 1 to 3 was placed last (R274). -/
  lastSlot : Table Nat
  care : Table (BitVec 64)
  boot : Boot
  attest : Attest
  /-- The eight Apex control cores (R7, R433), by number; an unlisted one has not been started. -/
  apex : Table ApexCore
  /-- Bytes read by the last register or window read of an agent outside the cores. -/
  busRead : BitVec 64
  /-- Bytes read by the last BAR4 access longer than 8 bytes. -/
  busBytes : List Byte
  /-- Identifiers given out by the model. -/
  nextId : Nat
  /-- The gang that issues, and the arguments of the event that runs: set by the step. -/
  cur : Nat × Nat
  ev : EvArgs
  word : BitVec 64
  /-- The schedule of free choices, and the default schedule's cursor. -/
  agenda : List Turn
  cursor : Nat
  deriving DecidableEq, Repr

/-- The machine right after reset: BOOTSTAT 0 with Apex core 0 in the boot ROM (R433), every bank CACHE (R54), TIMEB 0 (R449), ISTAB open (R276); nothing is
resident, no translation is cached, and memory lists nothing (DESIGN CHOICE, log 1) (DESIGN CHOICE, log 2). -/
def State.reset : State where
  groups := []
  teams := []
  launches := []
  domains := []
  clock := 0
  timeb := 0
  thirds := 0
  stretched := 0
  timebAhead := 0
  timebHalf := false
  hbm := []
  poison := []
  l2 := []
  conf := []
  copies := []
  versions := []
  marks := []
  ordered := []
  sectors := []
  l1conf := []
  tlb := []
  walkCache := []
  held := []
  posted := []
  waits := []
  tokenSeq := []
  bankModes := []
  banks := []
  full := []
  changes := []
  remote := []
  hostMem := []
  cores := []
  ops := []
  rels := []
  acqs := []
  tc := ⟨0, 0, 0, 0, 0, false, false, 0, 0, 0⟩
  tvtab := []
  qripa := 0
  qrcmd := 0
  qrstat := 0
  qrBusy := none
  queues := []
  doors := []
  qdoor := none
  rung := []
  fq := Ring.reset
  sq := Ring.reset
  evq := Ring.reset
  ans0 := 0
  ans1 := 0
  ansSeq := 0
  syscallSeq := 0
  ipawin := 0
  hostbase := 0
  rtab := []
  ports := []
  spareSlices := []
  spareCores := []
  lastSlot := []
  care := []
  boot := ⟨0, 0, [], [], [], 0, []⟩
  attest := ⟨0, [], []⟩
  apex := [(0, { ApexCore.idle with run := .rom })]
  busRead := 0
  busBytes := []
  nextId := 1
  cur := (0, 0)
  ev := EvArgs.zero
  word := 0
  agenda := []
  cursor := 0

end Sys2Proof.Machine
end

