-- ==== Sys2Proof/Machine/Operands.lean ====
section
/-! DEFINITION. Operand forms (R109 to R115, R132): which registers a word names, what a source reads in a lane or strand,
and the widened immediate. -/

namespace Sys2Proof.Machine

open Sys2Proof

/-! ### Register codes (R120) -/

/-- The codes of a run of registers from a field: n for vn, 0x80 + n for sn. -/
def runCodes (x : Src) (len : Nat) : List Nat :=
  match x with
  | .v n => (List.range len).map (n.val + ·)
  | .s n => (List.range len).map (0x80 + n.val + ·)
  | _ => []

/-- The code of a predicate register p0 to p6; p7 is no register. -/
def predCode (n : Nat) : List Nat := if n < 7 then [0x100 + n] else []

/-- The code of a destination. -/
def dstCodes (d : Dst) (len : Nat) : List Nat :=
  match d with
  | .v n => [n.val]
  | .s n => (List.range len).map (0x80 + n.val + ·)
  | .p n => predCode n.val
  | _ => []

/-- The predicate a code field names, p7 reading as all ones. -/
def codeVal (x : Src) : Nat :=
  match x with
  | .code n => n.toNat
  | _ => 0

/-- Registers a GFX word names (R306, R335, R357). -/
def gfxCodes (op : Nat) (x : GFX) : List Nat :=
  let k (n : Nat) := [0x200 + n]
  let kreg := k x.kreg.toNat
  let pdst := predCode (x.imm.toNat % 8)
  match op with
  | 0x00 | 0x01 => runCodes x.dst 5 ++ runCodes x.a 4 ++ runCodes x.c 1
  | 0x02 => runCodes x.dst 4 ++ runCodes x.a 4 ++ runCodes x.c 1
  | 0x08 => runCodes x.dst 5 ++ runCodes x.a 10 ++ runCodes x.c 1
  | 0x09 => runCodes x.dst 1 ++ runCodes x.a 10 ++ runCodes x.c 1
  | 0x0a => runCodes x.dst 8 ++ runCodes x.a 10 ++ runCodes x.c 1
  | 0x10 => runCodes x.a 6 ++ kreg
  | 0x11 => runCodes x.a (lobeRun x.kreg.toNat) ++ k x.sub.toNat ++ pdst
  | 0x12 => kreg ++ pdst
  | 0x13 => runCodes x.a 3 ++ kreg ++ pdst
  | 0x14 => runCodes x.a 3 ++ kreg
  | 0x15 => runCodes x.dst 8 ++ runCodes x.a 6 ++ kreg
  | 0x16 => runCodes x.dst 3 ++ runCodes x.a 6 ++ kreg
  | 0x17 => runCodes x.dst 1 ++ runCodes x.a 6 ++ kreg
  | 0x18 | 0x19 => runCodes x.a 2 ++ kreg
  | 0x1a => runCodes x.dst 1 ++ kreg
  | _ => kreg ++ k x.sub.toNat

/-- Registers an ENG word names (R183, R289, R387). -/
def engCodes (op : Nat) (x : ENG) : List Nat :=
  match op with
  | 0x00 => runCodes x.a 2
  | 0x01 => runCodes x.a 1 ++ runCodes x.b 1
  | 0x02 => runCodes x.a (if x.sub = 0 then 2 else 1) ++ runCodes x.b 1 ++ runCodes x.c 2
  | 0x08 | 0x09 => runCodes x.a 2 ++ runCodes x.b 8 ++ runCodes x.c 2
  | 0x0a => []
  | _ => runCodes x.a 2

/-- Registers a MEM word names (R131). -/
def memCodes (op : Nat) (x : MEM) : List Nat :=
  let run := memRun op
  if op ≤ 0x11 then runCodes x.data run ++ runCodes x.base 2
  else if op = 0x12 then runCodes x.data 1 ++ runCodes x.base 1
  else if op < 0x20 then runCodes x.data run ++ runCodes x.base 1
  else if op < 0x40 then runCodes x.data 1 ++ runCodes x.base 2 ++ runCodes x.sb 1
  else if op = 0x48 then runCodes x.data 1 ++ runCodes x.base 2 ++ runCodes x.sb 1
  else if op = 0x4a then runCodes x.base 1 ++ runCodes x.sb 1
  else if op = 0x4b then runCodes x.base (if x.offset = 0 then 1 else 2)
  else runCodes x.base 2

/-- Registers a VF word names beside its predicate. -/
def vfCodes (op : Nat) (x : VF) : List Nat :=
  let run := if op = 0x18 ∨ op = 0x19 then 4 else 1
  dstCodes x.dst 1 ++ runCodes x.a run ++ runCodes x.b run ++ runCodes x.c 1
    ++ (if op = 0x41 then predCode (codeVal x.c) else [])

/-- Registers an SF word names. -/
def sfCodes (op : Nat) (x : SF) : List Nat :=
  let wide := match sysReg? x.imm.toNat with | some (64, _) => true | _ => false
  let n := if (op = 0x14 ∨ op = 0x15) ∧ wide = true then 2 else 1
  dstCodes x.dst (if op = 0x14 then n else 1) ++ runCodes x.a 1 ++ runCodes x.b (if op = 0x15 then n else 1)
    ++ runCodes x.c 1 ++ (if op = 0x0e then predCode (codeVal x.c) else [])

/-- Registers a CTL word names or uses: s0 to s7 for SYSCALL, and s60 to s63 and p6 for TRAPRET (R190, R192, R206, R410). -/
def ctlCodes (op : Nat) (x : CTL) : List Nat :=
  match op with
  | 0x00 | 0x04 => predCode (codeVal x.cond % 8)
  | 0x01 | 0x02 | 0x03 => runCodes x.cond 2
  | 0x12 => runCodes x.cond 1
  | 0x13 => (List.range 4).map (0x80 + 60 + ·) ++ predCode 6
  | 0x14 => (List.range 8).map (0x80 + ·)
  | _ => []

/-- Every register a word names, by its code (R111, R120). -/
def formCodes : Form → List Nat
  | .vf op x => vfCodes op x ++ predCode x.pred.toNat
  | .vi _ x => dstCodes x.dst 1 ++ runCodes x.a 1 ++ runCodes x.b 1 ++ predCode x.pred.toNat
  | .sf op x => sfCodes op x
  | .mem op x => memCodes op x
  | .ctl op x => ctlCodes op x
  | .eng op x => engCodes op x
  | .gfx op x => gfxCodes op x
  | .pair op x y => (if op = .nop then [] else [x.dst.val]) ++ runCodes x.a 1 ++ runCodes x.b 1 ++ (if y.op = .nop then [] else [y.args.dst.val])
      ++ runCodes y.args.a 1 ++ runCodes y.args.b 1
  | .lit | .event => []

/-- The registers a word reads or writes whatever its lanes hold (R120, R242). -/
def hazardCodes (f : Form) : List Nat :=
  match f with
  | .vf op x =>
    if op = 0x42 then dstCodes x.dst 1 ++ runCodes x.b 1 ++ predCode x.pred.toNat
    else if op = 0x43 then runCodes x.a 1 ++ runCodes x.b 1 ++ predCode x.pred.toNat
    else formCodes f
  | f => formCodes f

/-- The completion flag a word names, 15 for none (R120). -/
def formFlag : Form → Nat
  | .mem _ x => x.flag.toNat
  | .eng _ x => x.flag.toNat
  | .gfx _ x => x.flag.toNat
  | _ => 15

/-- Queue registers a word reads, with the field, A to C as 0 to 2 (R113). -/
def formPops : Form → List (Nat × Nat)
  | .vf _ x => queueFields [x.a, x.b, x.c] 0
  | .vi _ x => queueFields [x.a, x.b] 0
  | _ => []
where
  queueFields : List Src → Nat → List (Nat × Nat)
    | [], _ => []
    | .q n :: xs, k => (k, n.val) :: queueFields xs (k + 1)
    | _ :: xs, k => queueFields xs (k + 1)

/-- The queue register a word pushes to. -/
def formPush : Form → Option Nat
  | .vf _ x => match x.dst with | .q n => some n.val | _ => none
  | .vi _ x => match x.dst with | .q n => some n.val | _ => none
  | _ => none

/-- Vector registers a slot's sources name, by bank (R123). -/
def slotBanks (x : SlotArgs) : List Nat := ([x.a, x.b].filterMap Src.vreg?).map (· % 4)

/-- Whether the two slots of a PAIR word read one bank (R123). -/
def pairBankClash (x : SlotArgs) (y : PairSlot) : Bool := (slotBanks x).any ((slotBanks y.args).contains ·)

/-! ### Immediates (R112) -/

/-- A 20-bit immediate as a VI opcode reads it. -/
def viImm (op : Nat) (imm : BitVec 20) : Word :=
  match (vecSpec op).cls with
  | .F | .H | .D => imm.zeroExtend 32 <<< 12
  | _ => if op = 0x4b then imm.zeroExtend 32 else imm.signExtend 32

/-- A 20-bit immediate as an SF opcode reads it. -/
def sfImm (op : Nat) (imm : BitVec 20) : Word :=
  if op = 0x0f ∨ op = 0x10 ∨ op = 0x11 then imm.zeroExtend 32 <<< 12 else imm.signExtend 32

/-! ### The issuing gang -/

/-- What an instruction knows of its issuer: the group, the gang's strands in ascending order, their program counter, the
core, and what the launch gives every group of it. -/
structure Ctx where
  g : Group
  strands : List Nat
  lowest : Nat
  pc : Addr
  core : Nat
  nregs : Nat
  nkregs : Nat
  nstrands : Nat
  consts : List Word
  priv : Bool
  det : Bool
  teamIndex : Nat
  deriving DecidableEq, Repr

/-- The element of a list of strands, absent strands standing exited. -/
def Group.strand (g : Group) (t : Nat) : Strand := g.strands.getD t ⟨0, [], true, t, .ready⟩

/-- The active mask of a strand: the top of its stack, none when it has exited (R169, R193). -/
def Group.mask (g : Group) (t : Nat) : BitVec 4 :=
  if (g.strand t).exited then 0 else (g.strand t).stack.headD 0

/-- Whether a lane is active (R169). -/
def Group.laneActive (g : Group) (l : Nat) : Bool := (g.mask (l / 4)).getLsbD (l % 4)

/-- The lanes of a list of strands. -/
def lanesOf (strands : List Nat) : List Nat := (strands.map (fun t => (List.range 4).map (4 * t + ·))).flatten

/-- The active lanes of the issuing gang, ascending. -/
def Ctx.active (c : Ctx) : List Nat := (lanesOf c.strands).filter c.g.laneActive

/-- A set of lanes as a mask. -/
def laneMask (ls : List Nat) : Word := BitVec.ofNat 32 (ofBits (fun i => ls.contains i) 32)

/-- v(n) of a lane. -/
def Group.vget (g : Group) (n l : Nat) : Word := tget 0 g.v (32 * n + l)
/-- s(n) of a strand. -/
def Group.sget (g : Group) (n t : Nat) : Word := tget 0 g.s (64 * t + n)
/-- p(n); p7 reads as all ones (R127). -/
def Group.pget (g : Group) (n : Nat) : BitVec 32 := if n = 7 then BitVec.allOnes 32 else tget 0 g.p n
/-- e(n) of a lane. -/
def Group.eget (g : Group) (n l : Nat) : Word := tget 0 g.e (32 * n + l)

/-- A write of v(n) in a lane. -/
def Group.vset (g : Group) (n l : Nat) (w : Word) : Group := { g with v := tset 0 g.v (32 * n + l) w }
/-- A write of s(n) in a strand. -/
def Group.sset (g : Group) (n t : Nat) (w : Word) : Group := { g with s := tset 0 g.s (64 * t + n) w }
/-- A write of p(n). -/
def Group.pset (g : Group) (n : Nat) (w : BitVec 32) : Group := { g with p := tset 0 g.p n w }
/-- A write of e(n) in a lane. -/
def Group.eset (g : Group) (n l : Nat) (w : Word) : Group := { g with e := tset 0 g.e (32 * n + l) w }

/-- Bit `i` of a mask at a value. -/
def setBit (m : BitVec 32) (i : Nat) (b : Bool) : BitVec 32 :=
  if b then m ||| BitVec.twoPow 32 i else m &&& ~~~(BitVec.twoPow 32 i)

/-- The lanes that act under PRED and PINV (R119). -/
def Ctx.acting (c : Ctx) (pred : BitVec 3) (pinv : Bool) : List Nat :=
  if pred = 7 then c.active else c.active.filter (fun l => (c.g.pget pred.toNat).getLsbD l != pinv)

/-- The 64-bit value of scalar pair n in a strand, low word first (R115). -/
def Group.spair (g : Group) (n t : Nat) : Nat := (g.sget n t).toNat + (g.sget (n + 1) t).toNat * 2 ^ 32

/-- A 64-bit value written to a scalar pair of a strand. -/
def Group.spairSet (g : Group) (n t : Nat) (v : Nat) : Group :=
  (g.sset n t (BitVec.ofNat 32 v)).sset (n + 1) t (BitVec.ofNat 32 (v / 2 ^ 32))

/-- What a source reads in a lane (R111). `popped` is the element a queue source popped. `half` is the half format in which
class H reads the float inline constants. -/
def Ctx.read (c : Ctx) (half : Option Fmt) (imm : Word) (popped : Word) (x : Src) (l : Nat) : Word :=
  match x with
  | .v n => c.g.vget n.val l
  | .s n => c.g.sget n.val (l / 4)
  | .c n => c.consts.getD n.val 0
  | .const n => match half with | some f => inlineConstHalf f n.val | none => inlineConst n.val
  | .lane => BitVec.ofNat 32 l
  | .strand => BitVec.ofNat 32 (l / 4)
  | .group => BitVec.ofNat 32 c.g.index.toNat
  | .team => BitVec.ofNat 32 c.teamIndex
  | .active => laneMask c.active
  | .q _ => popped
  | .lit w => w
  | .imm => imm
  | .code n => n.zeroExtend 32

/-- What an SF source reads in a strand: as in its first lane, LANE being 4 times the strand number (R111, R252). -/
def Ctx.sread (c : Ctx) (imm : Word) (x : Src) (t : Nat) : Word := c.read none imm 0 x (4 * t)

/-- A per-lane or uniform 64-bit address base (R132). -/
def Ctx.base64 (c : Ctx) (x : Src) (l : Nat) : Nat :=
  match x with
  | .v n => (c.g.vget n.val l).toNat + (c.g.vget (n.val + 1) l).toNat * 2 ^ 32
  | .s n => c.g.spair n.val (l / 4)
  | _ => 0

/-- The virtual address of a lane (R132). -/
def Ctx.va (c : Ctx) (x : MEM) (l : Nat) : Nat :=
  (BitVec.ofNat 64 (c.base64 x.base l) + x.offset.signExtend 64).toNat

/-- The local address of a lane (R132). -/
def Ctx.la (c : Ctx) (x : MEM) (l : Nat) : Nat :=
  (c.read none 0 0 x.base l + x.offset.signExtend 32).toNat

/-- The registers `n` to `n + len - 1` of a field's run in a lane. -/
def Ctx.run (c : Ctx) (x : Src) (len l : Nat) : List Word :=
  match x with
  | .v n => (List.range len).map (fun k => c.g.vget (n.val + k) l)
  | .s n => (List.range len).map (fun k => c.g.sget (n.val + k) (l / 4))
  | _ => List.replicate len 0

/-- The scalar a field names in the gang's lowest strand (R171). -/
def Ctx.scalar (c : Ctx) (x : Src) : Word := c.sread 0 x c.lowest

/-- The scalar pair a field names in the gang's lowest strand (R171). -/
def Ctx.pair (c : Ctx) (x : Src) : Nat :=
  match x with
  | .s n => c.g.spair n.val c.lowest
  | _ => 0

end Sys2Proof.Machine
end

