-- ==== Sys2Proof/Machine/Checks.lean ====
section
/-! DEFINITION. What an access is checked against as it issues (R17 to R23, R55, R134, R146): trap causes, range registers, homes (R60) and
local addresses. -/

namespace Sys2Proof.Machine

open Sys2Proof

/-! ### Trap causes (R405) -/

/-- ILLEGAL. -/
def causeIllegal : Nat := 0x01
/-- LITEXEC. -/
def causeLitexec : Nat := 0x02
/-- PAIRBANK. -/
def causePairbank : Nat := 0x03
/-- REGRANGE. -/
def causeRegrange : Nat := 0x04
/-- HAZARD. -/
def causeHazard : Nat := 0x05
/-- PSTACK. -/
def causePstack : Nat := 0x06
/-- BARRIER. -/
def causeBarrier : Nat := 0x07
/-- ALIGN. -/
def causeAlign : Nat := 0x08
/-- QUEUE. -/
def causeQueue : Nat := 0x09
/-- PRIV. -/
def causePriv : Nat := 0x0A
/-- REGANG. -/
def causeRegang : Nat := 0x0B
/-- XLATE. -/
def causeXlate : Nat := 0x10
/-- PROT. -/
def causeProt : Nat := 0x11
/-- RANGE. -/
def causeRange : Nat := 0x12
/-- CLOSURE. -/
def causeClosure : Nat := 0x18
/-- NETREC. -/
def causeNetrec : Nat := 0x19
/-- SOFT. -/
def causeSoft : Nat := 0x20
/-- ENGINE. -/
def causeEngine : Nat := 0x30

/-! ### Places -/

/-- The cluster of a core (R8). -/
def clusterOf (core : Nat) : Nat := core / 4
/-- The die of a core (R8). -/
def dieOf (core : Nat) : Nat := core / 96

/-! ### Range registers (R19 to R22) -/

/-- What R22 answers: where the access leads, or a cause and subcode. -/
inductive Xlate where
  | ok (loc : Loc)
  | bad (cause sub : Nat)
  deriving DecidableEq, Repr

/-- RANGEBASEn. -/
def rangeBase (r : Table (BitVec 64)) (n : Nat) : Nat := (tget 0 r (0x100 + n)).toNat
/-- RANGELIMn. -/
def rangeLim (r : Table (BitVec 64)) (n : Nat) : Nat := (tget 0 r (0x110 + n)).toNat
/-- RANGEOFFn. -/
def rangeOff (r : Table (BitVec 64)) (n : Nat) : Nat := (tget 0 r (0x120 + n)).toNat

/-- The lowest-numbered enabled range that holds an address. -/
def rangeHit (r : Table (BitVec 64)) (va : Nat) : Option Nat :=
  (List.range 16).find? (fun n =>
    bitsOf (rangeBase r n) 3 1 == 1 && decide (rangeBase r n / 65536 ≤ va / 65536)
      && decide (va / 65536 ≤ rangeLim r n / 65536))

/-- The exclusive or of bit fields of a number, each given by its lowest bit and length. -/
def xorFields (v : Nat) : List (Nat × Nat) → Nat
  | [] => 0
  | (lo, len) :: fs => Nat.xor (bitsOf v lo len) (xorFields v fs)

/-- The home slice of an IPA (R60). -/
def homeOf (ipa : Nat) (comp : Bool) : Nat :=
  if comp then xorFields ipa [(16, 8), (24, 8), (32, 8), (40, 8), (48, 4)]
  else xorFields ipa [(7, 8), (15, 8), (23, 8), (31, 8), (39, 8), (47, 5)]

/-- The address of a line's count nibble: twice its byte's IPA, plus one for bits 7 to 4 (R22). -/
def mdOf (off ipa : Nat) : Nat :=
  let base := bitsOf off 52 12 * 2 ^ 40 + bitsOf off 0 16 * 2 ^ 24
  let page := (ipa - bitsOf off 16 36 * 65536) / 65536
  2 * (base + page * 256 + bitsOf ipa 7 9 / 2) + bitsOf ipa 7 1

/-- The location of an IPA reached through a range (R22, R60). -/
def locOf (r : Table (BitVec 64)) (n ipa : Nat) : Loc :=
  let comp := bitsOf (rangeBase r n) 2 1 == 1
  ⟨homeOf ipa comp, ipa, if comp then some (mdOf (rangeOff r n) ipa) else none⟩

/-- The translation of an access of `size` bytes that reads, writes or fetches (R22). -/
def translate (r : Table (BitVec 64)) (va size : Nat) (rd wr fetch : Bool) : Xlate :=
  match rangeHit r va with
  | none => .bad causeRange 0
  | some n =>
    if (va + size - 1) / 65536 > rangeLim r n / 65536 then .bad causeRange 0
    else
      let ipa := va - rangeBase r n / 65536 * 65536 + bitsOf (rangeOff r n) 16 36 * 65536
      if ipa + size - 1 ≥ 2 ^ 52 then .bad causeRange 0
      else if rd && bitsOf (rangeBase r n) 0 1 == 0 then .bad causeProt 2
      else if wr && bitsOf (rangeBase r n) 1 1 == 0 then .bad causeProt 1
      else if fetch && bitsOf (rangeBase r n) 2 1 == 1 then .bad causeProt 5
      else .ok (locOf r n ipa)

/-! ### Local addresses (R17, R18, R55) -/

/-- Local banks (R52): the mode of a bank of a cluster. -/
def State.bankMode (s : State) (cluster bank : Nat) : Nat := tget 0 s.bankModes (16 * cluster + bank)

/-- The bank of a local address (R17). -/
def bankOf (la : Nat) : Nat := la / 2 ^ 18

/-- The key of a local byte. -/
def bankKey (cluster la : Nat) : Nat := cluster * 2 ^ 22 + la

/-- The key of a granule's full/empty bit. -/
def granuleKey (cluster la : Nat) : Nat := cluster * 2 ^ 18 + la / 16

/-- Whether a granule is full (R56). -/
def State.isFull (s : State) (cluster la : Nat) : Bool := tget false s.full (granuleKey cluster la)

/-- Whether a bank's mode is being changed, so that accesses to it wait (R55). -/
def State.bankChanging (s : State) (cluster bank : Nat) : Bool :=
  s.changes.any (fun b => b.cluster == cluster && b.bank == bank)

/-- The check of one lane's local access; one that meets a bank whose mode is changing is judged once it has changed (R17, R18, R55,
R134). -/
def localFault (s : State) (cluster la size : Nat) : Option (Nat × Nat) :=
  if la % size ≠ 0 then some (causeAlign, 0)
  else if la ≥ 2 ^ 22 then some (causeRange, 0)
  else if s.bankMode cluster (bankOf la) = 0 ∧ s.bankChanging cluster (bankOf la) = false then some (causeProt, 4)
  else none

/-- The banks a local span touches. -/
def spanBanks (la n : Nat) : List Nat := if n = 0 then [] else (List.range 16).filter (fun b => decide (bankOf la ≤ b) && decide (b ≤ bankOf (la + n - 1)))

/-- The first misaligned of CPY's memory address, local address and length (R146). -/
def cpyAlign (va la n : Nat) : Option Nat :=
  if va % 16 ≠ 0 then some va else if la % 16 ≠ 0 then some la else if n % 16 ≠ 0 then some n else none

/-! ### The address checks of an instruction (R23, R134) -/

/-- One lane's access: alignment first, then the range registers (R23, R134). -/
def locate (r : Table (BitVec 64)) (va size : Nat) (rd wr : Bool) : Xlate :=
  if va % size ≠ 0 then .bad causeAlign 0 else translate r va size rd wr false

/-- The first lane of a list, in ascending order, whose access faults at issue: cause, subcode and address. -/
def firstBad : List (Nat × Nat × Xlate) → Option (Nat × Nat × Nat)
  | [] => none
  | (_, va, .bad cause sub) :: _ => some (cause, sub, va)
  | (_, _, .ok _) :: ls => firstBad ls

/-- The lanes for which a MEM word is performed: one access for the whole gang for LDU, else the active lanes (R133, R139). -/
def memLanes (op : Nat) (c : Ctx) : List Nat := if op = 0x10 ∨ op = 0x11 then [4 * c.lowest] else c.active

/-- The bytes of one lane's access by a MEM opcode (R135, R139, R141, R142). -/
def memBytes (op : Nat) : Nat :=
  match op with
  | 0x00 | 0x05 | 0x08 => 1
  | 0x01 | 0x06 | 0x09 => 2
  | 0x03 | 0x0b | 0x11 | 0x19 | 0x1d => 8
  | 0x04 | 0x0c | 0x1a | 0x1e => 16
  | _ => 4

/-- Every lane's access of a memory instruction, with its address and where it leads (R22, R132). -/
def laneAccesses (op : Nat) (x : MEM) (c : Ctx) : List (Nat × Nat × Xlate) :=
  let store : Bool := decide (0x08 ≤ op) && decide (op ≤ 0x0c)
  let atomic : Bool := decide (0x20 ≤ op)
  (memLanes op c).map (fun l => (l, c.va x l, locate c.g.ranges (c.va x l) (memBytes op) (!store) (store || atomic)))

/-- CPY's checks, in their order (R146). A bank whose mode is changing is judged once it has changed (R55). -/
def cpyTrap (x : MEM) (c : Ctx) (s : State) : Option (Nat × Nat × Nat) :=
  let va := c.pair x.base
  let la := (c.scalar x.data).toNat
  let n := (c.scalar x.sb).toNat
  let out := x.offset.getLsbD 0
  let cl := clusterOf c.core
  if n = 0 then none
  else match cpyAlign va la n with
    | some a => some (causeAlign, 0, a)
    | none =>
      if la + n > 2 ^ 22 then some (causeRange, 0, la)
      else if (spanBanks la n).any (s.bankChanging cl) then none
      else if (spanBanks la n).any (fun b => s.bankMode cl b == 0) then some (causeProt, 4, la)
      else match translate c.g.ranges va n (!out) out false with
        | .bad cause sub => some (cause, sub, va)
        | .ok _ => none

/-- The first address check that a MEM word, a KSPILL or a KFILL fails: cause, subcode and TRAPADDR (R23, R134, R146, R359). -/
def addressTrap (i : Instr) (c : Ctx) (s : State) : Option (Nat × Nat × Nat) :=
  match i.form with
  | .mem op x =>
    if op ≤ 0x11 ∨ (0x20 ≤ op ∧ op ≤ 0x3c) then firstBad (laneAccesses op x c)
    else if 0x18 ≤ op ∧ op ≤ 0x1e then
      (c.active.map (fun l => c.la x l)).findSome? (fun la =>
        (localFault s (clusterOf c.core) la (memBytes op)).map (fun f => (f.1, f.2, la)))
    else if op = 0x48 then cpyTrap x c s
    else none
  | .gfx op x =>
    if op = 0x18 ∨ op = 0x19 then
      firstBad (c.active.map (fun l =>
        (l, c.base64 x.a l, locate c.g.ranges (c.base64 x.a l) 256 (op == 0x19) (op == 0x18))))
    else none
  | _ => none

end Sys2Proof.Machine
end

