-- ==== Sys2Proof/Machine/Ops.lean ====
section
/-! DEFINITION. The named operations every instruction is written over: finding and updating groups, the issue checks of R126,
taking a trap and returning from one (R405 to R411), completing, blocking, and posting events (R427). -/

namespace Sys2Proof.Machine

open Sys2Proof

/-- The outcome of a step of this machine. -/
abbrev Out := Host.Outcome State Fault Refusal

/-! ### Finding and updating -/

/-- The update of one group. -/
def State.modGroup (s : State) (gid : Nat) (f : Group → Group) : State := { s with groups := tmodify gid f s.groups }
/-- The update of one team. -/
def State.modTeam (s : State) (id : Nat) (f : Team → Team) : State := { s with teams := tmodify id f s.teams }
/-- The update of one launch. -/
def State.modLaunch (s : State) (id : Nat) (f : Launch → Launch) : State :=
  { s with launches := tmodify id f s.launches }
/-- The update of one domain. -/
def State.modDomain (s : State) (id : Nat) (f : Domain → Domain) : State := { s with domains := tmodify id f s.domains }
/-- A core beside its groups. -/
def State.coreState (s : State) (core : Nat) : CoreState := tget CoreState.reset s.cores core
/-- The update of one core. -/
def State.modCore (s : State) (core : Nat) (f : CoreState → CoreState) : State :=
  { s with cores := tset CoreState.reset s.cores core (f (s.coreState core)) }
/-- The update of one instruction in flight. -/
def State.modOp (s : State) (id : Nat) (f : Op → Op) : State :=
  { s with ops := s.ops.map (fun o => if o.id = id then f o else o) }
/-- An instruction in flight by its number. -/
def State.op? (s : State) (id : Nat) : Option Op := s.ops.find? (fun o => o.id == id)
/-- A completion flag of a group. -/
def Group.flag (g : Group) (n : Nat) : Flag := tget Flag.clear g.flags n
/-- The update of a completion flag. -/
def Group.modFlag (g : Group) (n : Nat) (f : Flag → Flag) : Group :=
  { g with flags := tset Flag.clear g.flags n (f (g.flag n)) }

/-- The core of a team. -/
def State.teamCore (s : State) (team : Nat) : Nat := match tfind team s.teams with | some t => t.core | none => 0

/-! ### Launch modes (R176) -/

/-- MODE.DET. -/
def LaunchRec.det (r : LaunchRec) : Bool := r.mode % 2 == 1
/-- MODE.TASK. -/
def LaunchRec.task (r : LaunchRec) : Bool := r.mode / 2 % 2 == 1
/-- MODE.PRIV. -/
def LaunchRec.priv (r : LaunchRec) : Bool := r.mode / 4 % 2 == 1
/-- MODE.COSCHED. -/
def LaunchRec.cosched (r : LaunchRec) : Bool := r.mode / 8 % 2 == 1
/-- The team size T, the EXTENT of the team level (R174). -/
def LaunchRec.teamSize (r : LaunchRec) : Nat :=
  match r.levels.find? (fun l => l.kind == 3) with | some l => l.extent | none => 1

/-! ### Gangs (R170) -/

/-- The live strands of a group, ascending. -/
def Group.live (g : Group) : List Nat := (List.range g.strands.length).filter (fun t => !(g.strand t).exited)

/-- The live strands of one gang, ascending. -/
def Group.gangOf (g : Group) (gang : Nat) : List Nat := g.live.filter (fun t => (g.strand t).gang == gang)

/-- The update of the strands of a list. -/
def Group.modStrands (g : Group) (ts : List Nat) (f : Nat → Strand → Strand) : Group :=
  { g with strands := g.strands.mapIdx (fun i st => if ts.contains i then f i st else st) }

/-- The lowest strand of a list. -/
def lowestOf : List Nat → Nat
  | [] => 0
  | t :: ts => ts.foldl min t

/-- Whether a parked request of an instruction parks its group: an access, a boundary or a fetch does, an engine command does not
(R32). -/
def parksGroup (k : OpKind) : Bool :=
  match k with
  | .load _ _ _ _ _ | .store _ | .immLoad _ _ _ _ _ | .immStore _ | .atomic _ _ | .fetch | .spillFill _ | .phase => true
  | _ => false

/-- Whether a request waits where completion may be long after its access was performed as far as it can be: in an ordered buffer, or on
an open line (R398, R403). -/
def ReqState.buffers : ReqState → Bool
  | .buffered | .held _ => true
  | _ => false

/-- Whether a group is parked: an access or a release of it has been parked in a wait table and has not completed since (R33). -/
def State.parked (s : State) (gid : Nat) : Bool :=
  s.ops.any (fun o => o.gid == gid && o.parked &&
    (o.reqs.any (fun r => r.state != .done && !r.state.buffers) || !o.reqs.any (fun r => r.state.buffers)))

/-! ### Tasks (R372 to R374, R383) -/

/-- The task order (R372). -/
def taskBefore (a b : TaskRec) : Bool := decide (a.ts < b.ts) || (decide (a.ts = b.ts) && decide (a.tie < b.tie))

/-- Tasks of a domain that have not committed. -/
def Domain.open_ (d : Domain) : List (Nat × TaskRec) := d.recs.filter (fun e => e.2.state != 0)

/-- The earliest of a list of tasks. -/
def earliest : List (Nat × TaskRec) → Option (Nat × TaskRec)
  | [] => none
  | e :: es =>
    match earliest es with
    | none => some e
    | some b => if taskBefore b.2 e.2 then some b else some e

/-- The latest of a list of tasks. -/
def latest : List (Nat × TaskRec) → Option (Nat × TaskRec)
  | [] => none
  | e :: es =>
    match latest es with
    | none => some e
    | some b => if taskBefore e.2 b.2 then some b else some e

/-- The frontier task: the earliest that has not committed (R374). -/
def Domain.frontierTask (d : Domain) : Option (Nat × TaskRec) := earliest d.open_

/-- Whether a slot holds the frontier task. -/
def Domain.isFrontier (d : Domain) (slot : Nat) : Bool :=
  match d.frontierTask with | some (k, _) => k == slot | none => false

/-- Whether a group runs a task that is not its domain's frontier task. -/
def State.speculative (s : State) (g : Group) : Bool :=
  match g.task, tfind g.launch s.domains with
  | some k, some d => !d.isFrontier k
  | _, _ => false

/-- The update of a task record. -/
def State.modTask (s : State) (launch slot : Nat) (f : TaskRec → TaskRec) : State :=
  s.modDomain launch (fun d => { d with recs := tmodify slot f d.recs })

/-! ### Who may issue (R187, R189, R202, R383) -/

/-- Whether an instruction in flight is an immediate access. -/
def isImmediate (k : OpKind) : Bool :=
  match k with
  | .immLoad _ _ _ _ _ | .immStore _ | .atomic _ _ => true
  | _ => false

/-- Whether an instruction in flight is a load, store or atomic of memory. -/
def isMemory (k : OpKind) : Bool :=
  match k with
  | .load _ _ _ _ _ | .store _ | .immLoad _ _ _ _ _ | .immStore _ | .atomic _ _ => true
  | _ => false

/-- Whether an instruction in flight is a memory or local access, which a release of its group waits for (R92). -/
def isAccess (k : OpKind) : Bool :=
  match k with
  | .load _ _ _ _ _ | .store _ | .immLoad _ _ _ _ _ | .immStore _ | .atomic _ _ | .local _ _ _ _ | .phase | .spillFill _ => true
  | _ => false

/-- Whether a request of an instruction waits in a buffer or on an open line (R398, R403). -/
def Op.buffers (o : Op) : Bool := o.reqs.any (fun r => r.state.buffers)

/-- Whether a boundary holds back a group's memory, local and engine instructions: a PHASE in progress, the release of an immediate
access, or the acquire of one (R90, R92, R93, R144). -/
def State.boundaryHold (s : State) (gid : Nat) : Bool :=
  s.ops.any (fun o => o.gid == gid && ((o.kind == .phase && !o.performed) || (o.acq && isImmediate o.kind) || (!o.sent && isImmediate o.kind))) ||
  s.acqs.any (fun a => a.source == .group gid)

/-- Whether an earlier memory access of a group stands before its last PHASE of scope 0 and has still to be performed: the PHASE completes
at once, and orders the accesses on its two sides (R90, R144) (DEDUCED, log 79). -/
def State.fenceHold (s : State) (g : Group) : Bool :=
  s.ops.any (fun o => o.gid == g.gid && decide (o.id < g.fence) && !o.performed && isMemory o.kind &&
    o.reqs.any (fun r => r.state != .done && r.state != .buffered))

/-- Whether a group's memory, local and engine instructions are held back. -/
def State.memHold (s : State) (gid : Nat) : Bool :=
  s.boundaryHold gid || (match tfind gid s.groups with | some g => s.fenceHold g | none => false)

/-- Whether a FE mode waits for a full granule (R56). -/
def feWaits (store : Bool) (fe : Nat) : Bool := !store && fe != 0

/-- Whether an atomic is one of FADD, FMIN and FMAX. -/
def AtomOp.float : AtomOp → Bool
  | .fadd | .fmin | .fmax => true
  | _ => false

/-- Whether an atomic of a group goes to the ordered buffer: in a deterministic launch, outside the token, every ATOM and the floating-point REDs
(R153). -/
def State.buffers (s : State) (o : Op) (op : AtomOp) (ret : Bool) : Bool :=
  match tfind o.gid s.groups with
  | some g =>
    match tfind g.launch s.launches with
    | some l => l.record.det && l.token != some g.index.toNat && (ret || op.float)
    | none => false
  | none => false

/-- Whether an instruction in flight is an atomic that is in the ordered buffer or on its way there (R153, R396). -/
def State.toBuffer (s : State) (o : Op) : Bool :=
  match o.kind with
  | .atomic op dst => !o.performed && s.buffers o op dst.isSome
  | _ => false

/-- A barrier as nothing has set it up. -/
def Barrier.zero : Barrier := ⟨0, 0, 0, 0, 0⟩
/-- A barrier of a team. -/
def Team.bar (t : Team) (b : Nat) : Barrier := tget Barrier.zero t.barriers b

/-- Bit `i` of a 64-bit mask at a value. -/
def setBit64 (m : BitVec 64) (i : Nat) (b : Bool) : BitVec 64 :=
  if b then m ||| BitVec.twoPow 64 i else m &&& ~~~(BitVec.twoPow 64 i)

/-- COMPLETE (R209). -/
def Barrier.complete (b : Barrier) : Barrier := { b with count := 0, arrived := 0 }

/-- Completion where the count has reached EXPECT (R209). -/
def Barrier.settle (b : Barrier) : Barrier := if b.count > 0 ∧ b.count = b.expect then b.complete else b

/-- The drop of a group at a position (R209). -/
def Barrier.drop (b : Barrier) (pos : Nat) : Barrier :=
  ({ b with part := setBit64 b.part pos false, expect := b.expect - 1 } : Barrier).settle

/-- The drops of a retiring group on every barrier of its team (R212) (DEDUCED, log 47). -/
def Team.dropAll (t : Team) (pos : Nat) : Team :=
  { t with barriers := t.barriers.map (fun e =>
      if e.2.part.getLsbD pos then
        (e.1, ({ e.2 with pend := setBit64 e.2.pend pos false, arrived := setBit64 e.2.arrived pos false } : Barrier).drop pos)
      else e) }

/-- Flags a mask names. -/
def maskFlags (m : BitVec 12) : List Nat := (List.range 12).filter (fun n => m.getLsbD n)

/-- Whether a gang waits on its queue: its next element cannot be served yet (R113, R147, R150, R297). -/
def State.queueWaits (s : State) (g : Group) (p : Pending) : Bool :=
  let core := s.teamCore g.team
  let cl := clusterOf core
  let full (q : Nat) (at' : QBind → Nat) : Option Bool := (tfind q g.qbinds).map (fun b => s.isFull cl (b.start + at' b))
  let have_ (q : Nat) : Nat :=
    if q = 9 then g.q9.length
    else if (s.coreState core).prism.team = some g.team then (tget [] (s.coreState core).prism.q8 g.pos).length else 0
  if p.pushing then (match p.pushes with | (q, _, _) :: _ => full q QBind.wr == some true | [] => false)
  else match p.pops with
    | (_, q, _) :: _ =>
      if q < 8 then full q QBind.rd == some false else decide (have_ q < (p.pops.filter (fun e => e.2.1 == q)).length)
    | [] => false

/-! ### One order of a team's accesses in a deterministic launch (R189, R394, R395) -/

/-- What an access goes through: L1, the home slices, a bank, the copy engine or a unit; PHASE and CBANK are `other`. -/
inductive AccessClass where
  | plain
  | immediate
  | local
  | copy
  | prism
  | ray
  | tex
  | closure
  | other
  deriving DecidableEq, Repr

/-- The class of the access that a word makes, none where it makes none or only hints; a queue register's element is one of a bank (R113). -/
def formClass (f : Form) : Option AccessClass :=
  match f with
  | .mem op x =>
    if op ≤ 0x11 then some (if x.sync then .immediate else .plain)
    else if 0x18 ≤ op ∧ op ≤ 0x1e then some .local
    else if 0x20 ≤ op ∧ op ≤ 0x3c then some .immediate
    else if op = 0x48 then some .copy
    else if op = 0x40 ∨ op = 0x49 then some .other
    else none
  | .eng op _ => if op < 0x03 then some .prism else none
  | .gfx op _ => some (if op < 0x08 then .ray else if op < 0x10 then .tex else .closure)
  | f => if (formPops f).any (fun e => decide (e.2 < 8)) || (match formPush f with | some q => decide (q < 8) | none => false)
    then some .local else none

/-- The class of an instruction in flight that accesses memory or local space. -/
def OpKind.accessClass (k : OpKind) : Option AccessClass :=
  match k with
  | .load _ _ _ _ _ | .store _ => some .plain
  | .immLoad _ _ _ _ _ | .immStore _ | .atomic _ _ => some .immediate
  | .local _ _ _ _ => some .local
  | .cpy _ _ _ _ _ => some .copy
  | .prism _ _ => some .prism
  | .ray _ => some .ray
  | .tex _ _ => some .tex
  | .closure _ | .spillFill _ => some .closure
  | .phase | .cbank _ _ _ => some .other
  | .pref | .fetch | .fixed | .wake | .spawn => none

/-- Whether two accesses of one group take no order from R57, R89, R90, R283 or R361, so that they must not be in flight together. -/
def AccessClass.race (a b : AccessClass) : Bool :=
  match a, b with
  | .copy, .copy => true
  | .local, x | x, .local => x == .copy || x == .prism
  | .other, x | x, .other => x != .plain && x != .immediate && x != .other
  | x, y => x != y

/-- Whether the first command of a core's array waits for another instruction: on a granule of its ring, or on a full q8 (R299). -/
def State.arrayWaits (s : State) (core : Nat) : Bool :=
  let a := (s.coreState core).prism
  match a.cmds.head?.bind s.op? with
  | none => true
  | some o =>
    let fullQ8 : Bool := match tfind o.gid s.groups with | some g => decide (1024 ≤ (tget [] a.q8 g.pos).length) | none => false
    match o.kind with
    | .prism (.mmrun x) p =>
      p.begun && !s.isFull (clusterOf core) (p.ring + p.pos) &&
        (p.void || p.held != [] || p.moved / (x.imm.toNat % 16 + 1) / p.count == p.loaded)
    | .prism (.mmdrainRing _) p => p.begun && s.isFull (clusterOf core) (p.ring + p.pos)
    | .prism (.mmdrainQ8 _) p => p.begun && fullQ8
    | .prism (.mmdrainStat _) _ => fullQ8
    | _ => false

/-- Whether a local access can be served on some granule without another instruction (R56, R106). -/
def State.localGoesOn (s : State) (o : Op) : Bool :=
  match o.kind with
  | .local st fe _ _ => o.reqs.any (fun r => r.state == .confirmed && (!feWaits st fe || s.isFull (clusterOf o.core) r.va) &&
      !s.ops.any (fun p => p.gid == o.gid && decide (p.id < o.id) && (match p.kind with
        | .local _ _ _ _ => p.reqs.any (fun q => q.va == r.va && q.state == .confirmed)
        | _ => false)))
  | _ => true

/-- Whether an access in flight comes to its end without another group's instruction: it is not in the ordered buffer or bound for it, waits for no
granule and no full q8, and its release waits for no such access (R92, R153). -/
def State.goesOn (s : State) (o : Op) : Bool :=
  let stuck (p : Op) : Bool := !p.performed && (s.toBuffer p || p.buffers || !s.localGoesOn p)
  !s.toBuffer o && !o.buffers &&
  match o.kind with
  | .prism _ _ => !s.arrayWaits o.core
  | .immLoad _ _ _ _ _ | .immStore _ | .atomic _ _ | .phase =>
    o.relId.isNone || !s.ops.any (fun p => p.gid == o.gid && decide (p.id < o.id) && isAccess p.kind && stuck p)
  | _ => s.localGoesOn o

/-- Whether a gang stands in queue pops or pushes of a bound queue that can go on (R113, R150). -/
def State.queueGoesOn (s : State) (g : Group) : Bool :=
  !g.halted && (tvalues g.pending).any (fun p => !s.queueWaits g p && ((p.pushes.any (fun e => decide (e.1 < 8))) || p.pops.any (fun e => decide (e.2.1 < 8))))

/-- Whether a group of a deterministic launch must let accesses of its team that are in flight be performed first, so that the team's accesses keep one
order: every access of its other groups, and those of its own that no rule orders with the one that issues (R189, R394, R395)
(DEDUCED, log 80). -/
def State.teamHold (s : State) (g : Group) (k : Option AccessClass) : Bool :=
  match k with
  | none => false
  | some k =>
    s.ops.any (fun o => !o.performed && (match o.kind.accessClass with
      | some j => (if o.gid = g.gid then k.race j else (match tfind o.gid s.groups with | some h => h.team == g.team | none => false)) && s.goesOn o
      | none => false)) ||
    (tvalues s.groups).any (fun h => h.gid != g.gid && h.team == g.team &&
      (s.queueGoesOn h || s.acqs.any (fun a => a.source == .group h.gid)))

/-! ### Ready gangs and groups (R187) -/

/-- Whether a group is resident; the access of one that is not resolves against COMMITTED (R413). -/
def State.isResident (s : State) (gid : Nat) : Bool :=
  match tfind gid s.groups with | some g => g.resident | none => false

/-- Rays of a core in flight; those of a group that has left it are cancelled (R309, R319). -/
def State.raysInFlight (s : State) (core : Nat) : Nat :=
  ((s.ops.filter (fun o => o.core == core && s.isResident o.gid && (match o.kind with | .ray _ => true | _ => false))).map (fun o =>
    (o.reqs.filter (fun r => r.state != .done)).length)).foldl (· + ·) 0

/-- Whether an instruction of a gang came back pending with its team and has still to be performed, before the gang issues further (R417). -/
def State.resumes (s : State) (g : Group) (t : Nat) : Bool :=
  s.ops.any (fun o => o.resumed && !o.performed && o.gid == g.gid && (g.strand o.strand).gang == (g.strand t).gang)

/-- Whether an instruction that came back pending may be performed: those of its gang before it have been (R417). -/
def State.resumeTurn (s : State) (o : Op) : Bool :=
  !o.resumed || (match tfind o.gid s.groups with
    | some g => !s.ops.any (fun p => p.resumed && !p.performed && p.gid == o.gid && decide (p.id < o.id) &&
        (g.strand p.strand).gang == (g.strand o.strand).gang)
    | none => true)

/-- Whether the image of a group's team is being written or has been: its instructions go on only once the team is back (R414). -/
def State.imaged (s : State) (gid : Nat) : Bool :=
  match tfind gid s.groups with
  | some g => (match tfind g.team s.teams with | some t => t.saving && t.image.isSome | none => false)
  | none => false

/-- Whether a strand's gang, named by its lowest strand, waits for nothing (R187). -/
def State.gangReady (s : State) (g : Group) (t : Nat) : Bool :=
  !s.resumes g t &&
  match (g.strand t).wait with
  | .regang | .syscall _ _ => false
  | .flags m => !(maskFlags m).any (fun n => (g.flag n).busy)
  | .bar b => (match tfind g.team s.teams with | some tm => !(tm.bar (b % 16)).arrived.getLsbD g.pos | none => true)
  | .boundary => !s.memHold g.gid
  | .claim => (match (s.coreState (s.teamCore g.team)).prism.team with | some t => t == g.team | none => true)
  | .slots n => decide (s.raysInFlight (s.teamCore g.team) + n ≤ 1024)
  | .ready | .retry | .overflow _ => (match tfind (g.strand t).gang g.pending with | some p => !s.queueWaits g p | none => true)

/-- Whether a deterministic launch gives the turn of a group's team to another group (R189). -/
def State.notItsTurn (s : State) (g : Group) (det : Bool) : Bool :=
  det && (match tfind g.team s.teams with | some t => t.turn != g.pos | none => false)

/-- The issue-slot table entry of a core that governs the present cycle (R276). -/
def State.istabEntry (s : State) (core : Nat) : Nat := (tget istabReset (s.coreState core).istab (s.clock % 64)).toNat

/-- The tenant of a launch. -/
def State.tenantOf (s : State) (launch : Nat) : Nat := match tfind launch s.launches with | some l => l.tenant | none => 0


/-- Whether a group is a worker that waits for a task (R373). -/
def State.taskless (s : State) (g : Group) : Bool :=
  g.task.isNone && (match tfind g.launch s.launches with | some l => l.record.task | none => false)

/-- Whether a group has a ready gang (R187, R373). -/
def State.groupReady (s : State) (g : Group) : Bool :=
  g.resident && !g.halted && !g.retiring && g.heldBy.isNone && g.deferred.isNone && !s.taskless g && !s.parked g.gid && g.live.any (s.gangReady g)

/-- Whether the issue slots of a quarter go to a tenant in the present cycle: it owns them, they are open, or their owner has no
ready group and they are lent (R277). -/
def State.slotOpen (s : State) (core q tenant : Nat) : Bool :=
  let e := bitsOf (s.istabEntry core) (8 * q) 8
  let owner := e % 16
  owner == 15 || owner == tenant ||
    (e / 128 == 1 && !(tvalues s.groups).any (fun g =>
      g.quarter == q && s.teamCore g.team == core && s.tenantOf g.launch == owner && s.groupReady g))

/-- The gang that issues, none where the group or the gang may issue nothing. A group stands in the table at its own number. -/
def issueCtx (s : State) : Option Ctx :=
  match tfind s.cur.1 s.groups with
  | none => none
  | some g =>
    match tfind g.launch s.launches, tfind g.team s.teams with
    | some l, some t =>
      let st := g.strand s.cur.2
      let strands := g.gangOf st.gang
      if g.gid != s.cur.1 || !g.resident || !g.active || !s.slotOpen t.core g.quarter l.tenant || g.halted || g.retiring || g.heldBy.isSome || g.yielded.isSome || s.parked g.gid || st.exited
          || g.deferred.isSome || s.taskless g || s.resumes g s.cur.2 || s.notItsTurn g l.record.det || t.saving
          || s.acqs.any (fun a => a.core == t.core && a.source == .placement g.launch) then none
      else match st.wait with
        | .regang | .syscall _ _ => none
        | _ => some ⟨g, strands, lowestOf strands, st.pc, t.core, l.record.nregs, l.record.nkregs, l.record.nstrands,
            l.record.consts, l.record.priv, l.record.det, t.index⟩
    | _, _ => none

/-! ### Events for system software (R427) -/

/-- The 64 bytes of an event, its ETIME filled in when it is posted. -/
def eventRecord (type die core code : Nat) (addr group pc aux : Nat) : List Byte :=
  leBytes 1 type ++ leBytes 1 die ++ leBytes 2 core ++ leBytes 4 code ++ leBytes 8 addr ++ leBytes 8 group
    ++ leBytes 8 0 ++ leBytes 8 pc ++ leBytes 8 aux ++ leBytes 16 0

/-- An event handed to Apex, which posts events in order. -/
def State.postEvent (s : State) (r : List Byte) : State := { s with evq := { s.evq with waiting := s.evq.waiting ++ [r] } }

/-- A CARE counter that counts some more (R437). -/
def State.countMany (s : State) (idx n : Nat) : State := { s with care := tset 0 s.care idx (tget 0 s.care idx + n) }

/-- A CARE counter that counts one more (R437). -/
def State.count (s : State) (idx : Nat) : State := s.countMany idx 1

/-- CARE counter indexes, the layout the spec does not give: the event's row of R437, then the die or port (DESIGN CHOICE, log 18). -/
def careIndex (row unit : Nat) : Nat := 64 * row + unit

/-- An uncorrectable error counted and posted (R427, R437) (DEDUCED, log 67). -/
def State.uncorrectable (s : State) (row die core addr : Nat) : State :=
  (s.count (careIndex row die)).postEvent (eventRecord 0x08 die core (careIndex row die) addr 0 0 0)

/-! ### Retiring (R186, R212) -/

/-- The CARE row that counts faults met for groups that retire (R32, R186). -/
def careLostFault : Nat := 8

/-- The late traps that a group has not been given. -/
def Group.lateCount (g : Group) : Nat := ((List.range 12).filter (fun n => (g.flag n).late.isSome)).length + g.late.length

/-- The first late trap that a group has not been given, lowest flag first, and the group without it (R373, R406). -/
def Group.firstLate (g : Group) : Option (LateTrap × Group) :=
  match (List.range 12).find? (fun n => (g.flag n).late.isSome) with
  | some n => (g.flag n).late.map (fun t => (t, g.modFlag n (fun f => { f with late := none })))
  | none => match g.late with
    | e :: es => some (e.2, { g with late := es })
    | [] => none

/-- A group that issues nothing more and retires (R186). -/
def Group.end_ (g : Group) : Group :=
  { g with
    halted := false
    retiring := true
    strands := g.strands.map (fun st => { st with exited := true, wait := .ready })
    pending := []
    flags := g.flags.map (fun e => (e.1, { e.2 with late := none }))
    late := [] }

/-- A group begins to retire: its barriers are dropped once, and the faults it has not been given are counted (R186, R212, R291). -/
def State.retireGroup (s : State) (gid : Nat) : State :=
  match tfind gid s.groups with
  | none => s
  | some g =>
    if g.retiring then s
    else
      let s := s.countMany (careIndex careLostFault (dieOf (s.teamCore g.team))) g.lateCount
      (s.modTeam g.team (fun t => t.dropAll g.pos)).modGroup gid Group.end_

/-! ### Taking a trap and returning (R408 to R410) -/

/-- TRAPCAUSE (R23, R405). -/
def trapCauseWord (cause sub : Nat) (ipaAddr : Bool) : Word :=
  BitVec.ofNat 32 (cause % 256 + sub % 256 * 256 + (if ipaAddr then 65536 else 0))

/-- s60 to s63 of every strand, at 4 t + n - 60 (R408). -/
def Group.saveScalars (g : Group) : Table Word :=
  (List.range g.strands.length).foldl (fun t st =>
    (List.range 4).foldl (fun t k => tset 0 t (4 * st + k) (g.sget (60 + k) st)) t) []

/-- s60 to s63 of every strand as saved. -/
def Group.restoreScalars (g : Group) (saved : Table Word) : Group :=
  (List.range g.strands.length).foldl (fun g st =>
    (List.range 4).foldl (fun g k => g.sset (60 + k) st (tget 0 saved (4 * st + k))) g) g

/-- The trap registers as a trap writes them (R408, step 2). -/
def Group.setTrap (g : Group) (pc : Addr) (cause sub : Nat) (addr : Addr) (ipaAddr : Bool) : Group :=
  { g with trapCause := trapCauseWord cause sub ipaAddr, trapPc := pc, trapAddr := addr, latch := [] }

/-- The group in its handler: every live strand in one gang at HANDLER with one full stack entry, s60 and s61 holding HDATA
(R408, steps 3 and 4). -/
def Group.enterHandler (g : Group) (gang : Nat) : Group :=
  let low := lowestOf g.live
  let save : HandlerSave := ⟨g.strands, g.saveScalars, g.pget 6, gang, g.pending⟩
  let g := g.modStrands g.live (fun _ _ => ⟨g.handler, [0xF#4], false, low, .ready⟩)
  let g := (List.range g.strands.length).foldl (fun g t => g.spairSet 60 t g.hdata.toNat) g
  { g with inHandler := some save, pending := [] }

/-- A group halts (R409). -/
def State.halt (s : State) (gid : Nat) : State :=
  match tfind gid s.groups with
  | none => s
  | some g =>
    (s.modGroup gid (fun g => { g with halted := true })).postEvent
      (eventRecord 0x03 (dieOf (s.teamCore g.team)) (s.teamCore g.team) g.trapCause.toNat g.trapAddr.toNat g.index.toNat
        g.trapPc.toNat g.ctx)

/-- A group takes a trap (R408), or halts where it is in its handler or its tenant has none (R409). -/
def State.takeTrap (s : State) (gid gang : Nat) (pc : Addr) (cause sub : Nat) (addr : Addr) (ipaAddr : Bool) : State :=
  match tfind gid s.groups with
  | none => s
  | some g =>
    let s := s.modGroup gid (fun g => g.setTrap pc cause sub addr ipaAddr)
    if g.inHandler.isSome || g.handler == 0 then s.halt gid
    else s.modGroup gid (fun g => g.enterHandler gang)

/-- The queue halves a handler save holds, without one of the trapping gang's that pops for an instruction no longer at TRAPPC: that instruction
is not performed, and what it popped is lost (R113, R242, R410) (DESIGN CHOICE, log 104). -/
def HandlerSave.queues (h : HandlerSave) (gang : Nat) (pc : Addr) : Table Pending :=
  h.pending.filter (fun e => e.1 != gang || e.2.pushing || e.2.next == pc + BitVec.ofNat 64 e.2.instr.size)

/-- The control state of the handler save, the trapping gang at TRAPPC (R410). -/
def Group.leaveHandler (g : Group) (h : HandlerSave) : Group :=
  let gang := h.strands.getD h.trapGang ⟨0, [], true, 0, .ready⟩
  let strands := h.strands.map (fun st =>
    if st.gang = gang.gang ∧ st.exited = false then { st with pc := g.trapPc, wait := .ready } else st)
  let g := { g with strands := strands, pending := h.queues gang.gang g.trapPc, inHandler := none }
  (g.restoreScalars h.s60).pset 6 h.p6

/-- A task that is not the frontier task stops before a trap and parks (R383). -/
def State.deferTask (s : State) (g : Group) (lowest : Nat) (d : Deferred) : State :=
  let s := s.modGroup g.gid (fun g => { g with deferred := some (lowest, d) })
  match g.task with
  | some k => s.modTask g.launch k (fun r => { r with state := 3 })
  | none => s

/-- A trap found by the issuing gang (R405, R408), deferred in a speculative task (R383). -/
def raise (c : Ctx) (pc : Addr) (cause sub : Nat) (addr : Nat) (s : State) : Out :=
  if s.speculative c.g then .next (s.deferTask c.g c.lowest .issue)
  else .next (s.takeTrap c.g.gid c.lowest pc cause sub (BitVec.ofNat 64 addr) false)

/-- A trap with TRAPPC at the instruction. -/
def raiseHere (c : Ctx) (cause sub : Nat) (addr : Nat) (s : State) : Out := raise c c.pc cause sub addr s

/-! ### Issue checks (R126) -/

/-- Whether a queue binding is in force: bound, and its bank in FIFO mode (R113, R149). -/
def State.bound (s : State) (c : Ctx) (q : Nat) : Bool :=
  match tfind q c.g.qbinds with
  | some b => b.size != 0 && s.bankMode (clusterOf c.core) (b.start / 2 ^ 18) == 2
  | none => false

/-- ILLEGAL with a subcode: an instruction a task, a deterministic launch, a group outside a handler or a group outside a
task may not use (R152, R184, R207, R387, R391). -/
def illegalSub (i : Instr) (c : Ctx) : Option Nat :=
  let inTask := c.g.task.isSome
  match i.form with
  | .mem op _ =>
    if inTask && ((0x18 ≤ op && decide (op ≤ 0x1e)) || (0x48 ≤ op && decide (op ≤ 0x4b))) then some 1 else none
  | .sf op _ => if inTask && op == 0x15 then some 1 else none
  | .ctl op _ =>
    if op = 0x13 then (if c.g.inHandler.isNone then some 3 else none)
    else if inTask && (op == 0x14 || (0x0d ≤ op && decide (op ≤ 0x11))) then some 1 else none
  | .eng op _ =>
    if op < 0x03 then (if inTask then some 1 else none)
    else if op = 0x08 then (if c.det then some 2 else if inTask then some 1 else none)
    else if inTask then none else some 4
  | _ => none

/-- The system register whose privileged write traps, or 0 for a privileged opcode (R126, R255). -/
def privTrap (i : Instr) (c : Ctx) : Option Nat :=
  if c.priv then none
  else match i.form with
    | .mem op _ => if op = 0x49 ∨ op = 0x4b then some 0 else none
    | .sf 0x15 x => match sysReg? x.imm.toNat with | some (_, .privileged) => some x.imm.toNat | _ => none
    | _ => none

/-- The lowest register code at or above what the launch declares (R111, R120). -/
def rangeTrap (i : Instr) (c : Ctx) : Option Nat :=
  match (formCodes i.form).filter (fun n => (n < 0x80 && c.nregs ≤ n) || (0x200 ≤ n && c.nkregs ≤ n - 0x200)) with
  | [] => none
  | n :: ns => some (ns.foldl min n)

/-- Registers of a group tracked against any flag. -/
def Group.tracked (g : Group) : List Nat := (g.flags.map (·.2.tracked)).flatten

/-- HAZARD: the lowest tracked register code, else the flag as 0x300 plus its number (R120). -/
def hazardTrap (i : Instr) (c : Ctx) : Option Nat :=
  match (hazardCodes i.form).filter (fun n => c.g.tracked.contains n) with
  | n :: ns => some (ns.foldl min n)
  | [] =>
    let f := (formFlag i.form)
    if f < 12 ∧ (c.g.flag f).owned = true then some (0x300 + f) else none

/-- The lanes that act in a VF or VI word. -/
def formActing (f : Form) (c : Ctx) : List Nat :=
  match f with
  | .vf _ x => c.acting x.pred x.pinv
  | .vi _ x => c.acting x.pred x.pinv
  | _ => c.active

/-- The q8 queue of a group in its core's array (R297). -/
def State.q8 (s : State) (c : Ctx) : List Word :=
  if (s.coreState c.core).prism.team = some c.g.team then tget [] (s.coreState c.core).prism.q8 c.g.pos else []

/-- QUEUE: the lowest queue register used without a binding, or q8 or q9 with fewer elements than the acting lanes need
(R113, R147, R297, R391). `q8Promised` are the words commands in flight will push. -/
def queueTrap (i : Instr) (c : Ctx) (s : State) (q8Promised : Nat) : Option Nat :=
  let f := i.form
  let qs := (formPops f).map (·.2) ++ (match (formPush f) with | some q => [q] | none => [])
  let need (q : Nat) := ((formPops f).filter (fun p => p.2 == q)).length * ((formActing f) c).length
  let taken := tfind c.lowest c.g.pending
  let bad (q : Nat) : Bool :=
    c.g.task.isSome ||
    (if q < 8 then !s.bound c q
     else if taken.isSome then false
     else if q = 9 then decide (c.g.q9.length + c.g.q9Promised < need 9)
     else decide ((s.q8 c).length + q8Promised < need 8))
  match qs.filter bad with
  | [] => none
  | q :: qs => some (qs.foldl min q)

/-- Words that Prism commands in flight of a group will still push to its q8 (R296, R297). -/
def q8Promised (s : State) (g : Group) : Nat :=
  ((s.ops.filter (fun o => o.gid == g.gid)).map (fun o =>
    match o.kind with
    | .prism (.mmdrainQ8 _) p => if o.performed then 0 else p.total - p.moved
    | _ => 0)).foldl (· + ·) 0

/-- The first failing check of R126: cause, subcode and TRAPADDR. -/
def decodeTrap (i : Instr) (c : Ctx) (s : State) : Option (Nat × Nat × Nat) :=
  match illegalSub i c with
  | some n => some (causeIllegal, n, 0)
  | none =>
  match privTrap i c with
  | some n => some (causePriv, 0, n)
  | none =>
  match i.form with
  | .pair _ x y => if pairBankClash x y then some (causePairbank, 0, 0) else regChecks
  | _ => regChecks
where
  regChecks : Option (Nat × Nat × Nat) :=
    match rangeTrap i c with
    | some n => some (causeRegrange, 0, n)
    | none =>
    match hazardTrap i c with
    | some n => some (causeHazard, 0, n)
    | none =>
    match queueTrap i c s (q8Promised s c.g) with
    | some n => some (causeQueue, 0, n)
    | none => none

/-- The first failing issue check: cause, subcode and TRAPADDR, in the order of R126 and then R23 (R406). -/
def issueTrap (i : Instr) (c : Ctx) (s : State) : Option (Nat × Nat × Nat) :=
  match decodeTrap i c s with
  | some t => some t
  | none => addressTrap i c s

/-! ### Late traps (R32, R406) -/

/-- Whether an instruction is a release of its group (R32, R91). -/
def isRelease (i : Instr) : Bool :=
  match i.form with
  | .mem op x => x.rel && op != 0x48
  | _ => false

/-- Flags a WAITF names. -/
def waitMask (i : Instr) : Option (BitVec 12) :=
  match i with
  | .waitf x => some x.f12
  | _ => none

/-- Whether an instruction is one of a unit's, for late traps without a flag (R291, R362). -/
def isPrismInstr (i : Instr) : Bool := match i.form with | .eng op _ => decide (op < 3) | _ => false
/-- A closure instruction. -/
def isClosureInstr (i : Instr) : Bool := match i.form with | .gfx op _ => decide (0x10 ≤ op) | _ => false

/-- Whether a late trap without a flag is due at an instruction. -/
def LatePoint.due (p : LatePoint) (i : Instr) : Bool :=
  let wait := (waitMask i).isSome
  match p with
  | .next => true
  | .waitOrRelease => wait || isRelease i
  | .prism => wait || isRelease i || isPrismInstr i
  | .closure => wait || isRelease i || isClosureInstr i

/-- A memory access's late trap is due at a release as well as at a wait on its flag; an engine's only at the wait (R32). -/
def LateTrap.dueAtRelease (t : LateTrap) : Bool := t.cause == causeXlate || t.cause == causeProt || t.cause == causeRange

/-- The late trap due at an instruction, lowest flag first, and the group without it (DEDUCED, log 23). -/
def lateDue (i : Instr) (g : Group) : Option (LateTrap × Group) :=
  let due (n : Nat) (t : LateTrap) : Bool :=
    (match waitMask i with | some m => m.getLsbD n | none => false) || (isRelease i && t.dueAtRelease)
  let flagged := (List.range 12).filterMap (fun n =>
    match (g.flag n).late with | some t => if due n t then some (n, t) else none | none => none)
  match flagged with
  | (n, t) :: _ => some (t, g.modFlag n (fun f => { f with late := none }))
  | [] =>
    match g.late.find? (fun e => e.1.due i) with
    | some e => some (e.2, { g with late := g.late.erase e })
    | none => none

/-! ### Completing and blocking -/

/-- The gang goes on at the next word. -/
def Ctx.advance (c : Ctx) (i : Instr) (s : State) : State :=
  s.modGroup c.g.gid (fun g => g.modStrands c.strands (fun _ st =>
    { st with pc := c.pc + BitVec.ofNat 64 i.size, wait := .ready }))

/-- The gang stays at its instruction for a reason and offers it again (R187). -/
def Ctx.waitOn (c : Ctx) (w : GangWait) (s : State) : State :=
  s.modGroup c.g.gid (fun g => g.modStrands c.strands (fun _ st => { st with wait := w }))

/-- The gang stays at its instruction and offers it again; it is no wait of R187. -/
def Ctx.block (c : Ctx) (s : State) : State := c.waitOn .retry s

/-- Whether a form is of a memory, local or engine instruction; LDC touches no memory (R140). -/
def formIsMemory : Form → Bool
  | .mem op _ => op != 0x12
  | .eng _ _ | .gfx _ _ => true
  | _ => false

/-- Whether a gang stands inside its queue pops or pushes at its instruction, which has begun already and is judged by the queue alone
(R113, R150). -/
def inQueueHalf (i : Instr) (c : Ctx) : Bool :=
  match tfind c.lowest c.g.pending with
  | some p => p.instr == i
  | none => false

/-- Whether a gang stands in a barrier wait at its instruction, which has begun already (R209). -/
def inWaitHalf (i : Instr) (c : Ctx) : Bool :=
  match i, (c.g.strand c.lowest).wait with
  | .barWait _, .bar _ => true
  | .barSync _, .bar _ => true
  | _, _ => false

/-- An instruction of the issuing gang: nothing where no gang may issue, its trap where an issue check fails, the late trap
due at it, and otherwise its effect (R126, R406). -/
def issue (i : Instr) (s : State) (body : Ctx → State → Out) : Out :=
  match issueCtx s with
  | none => .next s
  | some c =>
    if inWaitHalf i c || inQueueHalf i c then body c s
    else
    match issueTrap i c s with
    | some (cause, sub, addr) => raiseHere c cause sub addr s
    | none =>
      match lateDue i c.g with
      | some (t, g) =>
        if s.speculative c.g then .next (s.deferTask c.g c.lowest (.late t))
        else .next ((s.modGroup c.g.gid (fun _ => g)).takeTrap c.g.gid c.lowest c.pc t.cause t.sub t.addr t.ipaAddr)
      | none =>
        if formIsMemory i.form && s.memHold c.g.gid then .next (c.waitOn .boundary s)
        else if c.det && s.teamHold c.g (formClass i.form) then .next (c.block s)
        else body c s

/-- An instruction whose whole effect is on its own group. -/
def finish (c : Ctx) (i : Instr) (f : Group → Group) (s : State) : Out := .next (c.advance i (s.modGroup c.g.gid f))

/-- The trap of a word that is no instruction (R126): ILLEGAL, nothing performed. -/
def trapWord (cause : Nat) (s : State) : Out :=
  match issueCtx s with
  | none => .next s
  | some c => raiseHere c cause 0 0 s

end Sys2Proof.Machine
end

