-- ==== Sys2Proof/Machine/Vector.lean ====
section
/-! DEFINITION. How a vector instruction executes (R113, R119, R124, R231): its lanes, its sources with modifiers, queue pops
before its effect and queue pushes after it, and the write of its destination. -/

namespace Sys2Proof.Machine

open Sys2Proof

/-- The reuse latch after an instruction that read some registers under REUSE bits and wrote some (R124): pairs of a position
and a register. -/
def latchAfter (old kept : List (Nat × Nat)) (written : List Nat) : List (Nat × Nat) :=
  (kept ++ old.filter (fun e => !(kept.map (·.1)).contains e.1)).filter (fun e => !written.contains e.2)

/-- The vector registers of sources whose REUSE bit is set, by position, where A and B name runs of `run` registers (R124, R236). -/
def reuseRun (run : Nat) (x : VF) : List (Nat × Nat) :=
  let at' (pos bit len : Nat) (r : Src) : List (Nat × Nat) :=
    match r with | .v n => if x.reuse.getLsbD bit then (List.range len).map (fun k => (pos, n.val + k)) else [] | _ => []
  at' 0 2 run x.a ++ at' 1 1 run x.b ++ at' 2 0 1 x.c

/-- The vector registers of sources whose REUSE bit is set, by position (R124). -/
def reuseKept (x : VF) : List (Nat × Nat) := reuseRun 1 x

/-- An instruction runs once every queue element it reads is popped: the first issue lists its pops, in the order A, B, C
and ascending lanes, and the gang waits (R113, R150). -/
def withPops (i : Instr) (lanes : List Nat) (c : Ctx) (s : State) (k : Table Word → Out) : Out :=
  match formPops i.form with
  | [] => if (tfind c.lowest c.g.pending).isSome then .next (c.block s) else k []
  | ps =>
    if lanes = [] then k []
    else
      match tfind c.lowest c.g.pending with
      | some p => if p.pops = [] ∧ p.pushing = false then k p.popped else .next (c.block s)
      | none =>
        let pops := (ps.map (fun e => lanes.map (fun l => (e.1, e.2, l)))).flatten
        let p : Pending := ⟨c.lowest, i, pops, [], [], false, c.pc + BitVec.ofNat 64 i.size, s.clock⟩
        .next (c.block (s.modGroup c.g.gid (fun g => { g with pending := tinsert c.lowest p g.pending })))

/-- The element a field popped in a lane. -/
def popped (t : Table Word) (field l : Nat) : Word := tget 0 t (32 * field + l)

/-- Words written to lanes of v(n). -/
def Group.writeLanes (g : Group) (n : Nat) (ws : List (Nat × Word)) : Group :=
  ws.foldl (fun g e => g.vset n e.1 e.2) g

/-- Bits written to lanes of p(n). -/
def Group.writeBits (g : Group) (n : Nat) (ws : List (Nat × Bool)) : Group :=
  g.pset n (ws.foldl (fun m e => setBit m e.1 e.2) (g.pget n))

/-- The group after its pops are used up. -/
def Group.endPending (g : Group) (gang : Nat) : Group := { g with pending := terase gang g.pending }

/-- The results of the acting lanes written to the destination, or pushed to a queue (R113, R115, R231). -/
def vecWrite (i : Instr) (kept : List (Nat × Nat)) (d : Dst) (ws : List (Nat × Word)) (c : Ctx) (s : State) : Out :=
  match d with
  | .v n =>
    finish c i (fun g => { (g.writeLanes n.val ws).endPending c.lowest with latch := latchAfter g.latch kept [n.val] }) s
  | .p n =>
    finish c i (fun g => { (g.writeBits n.val (ws.map (fun e => (e.1, e.2 != 0)))).endPending c.lowest with
      latch := latchAfter g.latch kept [] }) s
  | .q n =>
    if ws = [] then finish c i (fun g => { g.endPending c.lowest with latch := latchAfter g.latch kept [] }) s
    else
      let p : Pending := ⟨c.lowest, i, [], [], ws.map (fun e => (n.val, e.1, e.2)), true, c.pc + BitVec.ofNat 64 i.size, s.clock⟩
      .next (c.block (s.modGroup c.g.gid (fun g =>
        { g with pending := tinsert c.lowest p g.pending, latch := latchAfter g.latch kept [] })))
  | _ => finish c i (fun g => g.endPending c.lowest) s

/-- The half format in which an opcode reads the float inline constants (R111). -/
def halfFmt (op : Nat) : Option Fmt :=
  match op with
  | 0x10 | 0x11 | 0x12 => some f16
  | 0x13 => some bf16
  | _ => none

/-- FSETP reads its operands as floats under modifiers (R117). -/
def opIsFloat (op : Nat) : Bool := op == 0x0e

/-- The source at a position of a VF word in a lane, modifiers applied (R116, R231). -/
def vfSrc (c : Ctx) (op : Nat) (x : VF) (pops : Table Word) (pos l : Nat) : Word :=
  let src := match pos with | 0 => x.a | 1 => x.b | _ => x.c
  applyMod (vecSpec op).cls (opIsFloat op) (x.neg.getLsbD (2 - pos)) (x.abs.getLsbD (2 - pos))
    (c.read (halfFmt op) 0 (popped pops pos l) src l)

/-- The source at a position of a VI word in a lane: the immediate in the last place (R112). -/
def viSrc (c : Ctx) (op : Nat) (x : VI) (pops : Table Word) (pos l : Nat) : Word :=
  if pos + 1 = (vecSpec op).viSrcs then viImm op x.imm
  else
    let src := match pos with | 0 => x.a | _ => x.b
    applyMod (vecSpec op).cls (opIsFloat op) (x.neg.getLsbD (1 - pos)) (x.abs.getLsbD (1 - pos))
      (c.read (halfFmt op) 0 (popped pops pos l) src l)

/-- What one lane computes: SCALE and CLAMP, the sources A, B and C, and the destination's old word. -/
abbrev LaneFn := Finish → Word → Word → Word → Word → Word

/-- The old word of a destination in a lane, zero for a queue (R244). -/
def oldDst (c : Ctx) (d : Dst) (l : Nat) : Word :=
  match d with | .v n => c.g.vget n.val l | _ => 0

/-- The results of a VF word in its acting lanes. -/
def vfResults (op : Nat) (x : VF) (f : LaneFn) (pops : Table Word) (c : Ctx) : List (Nat × Word) :=
  (c.acting x.pred x.pinv).map (fun l =>
    (l, f ⟨x.scale, x.clamp⟩ (vfSrc c op x pops 0 l) (vfSrc c op x pops 1 l) (vfSrc c op x pops 2 l) (oldDst c x.dst l)))

/-- A VF instruction that works lane by lane (R231). -/
def vfLanes (i : Instr) (op : Nat) (x : VF) (f : LaneFn) (s : State) : Out :=
  issue i s (fun c s => withPops i (c.acting x.pred x.pinv) c s (fun pops =>
    vecWrite i (reuseKept x) x.dst (vfResults op x f pops c) c s))

/-- The results of a VI word in its acting lanes. -/
def viResults (op : Nat) (x : VI) (f : LaneFn) (pops : Table Word) (c : Ctx) : List (Nat × Word) :=
  (c.acting x.pred x.pinv).map (fun l =>
    (l, f Finish.none (viSrc c op x pops 0 l) (viSrc c op x pops 1 l) (viSrc c op x pops 2 l) (oldDst c x.dst l)))

/-- A VI instruction that works lane by lane (R231). -/
def viLanes (i : Instr) (op : Nat) (x : VI) (f : LaneFn) (s : State) : Out :=
  issue i s (fun c s => withPops i (c.acting x.pred x.pinv) c s (fun pops =>
    vecWrite i [] x.dst (viResults op x f pops c) c s))

end Sys2Proof.Machine
end

