-- ==== Sys2Proof/Machine/Scalar.lean ====
section
/-! DEFINITION. Scalar arithmetic, strand by strand on each strand's own copies (R252 to R254, R257). -/

namespace Sys2Proof.Machine

open Sys2Proof

/-- The source at a position of an SF word in a strand (R252). -/
def sfSrc (c : Ctx) (op : Nat) (x : SF) (pos t : Nat) : Word :=
  c.sread (sfImm op x.imm) (match pos with | 0 => x.a | 1 => x.b | _ => x.c) t

/-- s(DST) written in every strand of the gang with that strand's value. -/
def Group.writeStrands (g : Group) (d : Dst) (ts : List Nat) (f : Nat → Word) : Group :=
  match d with
  | .s n => ts.foldl (fun g t => g.sset n.val t (f t)) g
  | _ => g

/-- An SF instruction that writes a scalar from up to three sources: each strand's copy from its own copies, so that copies that differ
before may differ after (R171, R252) (DEDUCED, log 95). -/
def sfStrands (i : Instr) (op : Nat) (x : SF) (f : Word → Word → Word → Word) (s : State) : Out :=
  issue i s (fun c s => finish c i (fun g =>
    g.writeStrands x.dst c.strands (fun t => f (sfSrc c op x 0 t) (sfSrc c op x 1 t) (sfSrc c op x 2 t))) s)

/-- SADD (R253). Adds scalars A and B in each strand of the gang. -/
def execSadd (x : SF) (s : State) : Out := sfStrands (.sadd x) 0x00 x (fun a b _ => a + b) s

/-- SSUB (R253). Subtracts scalar B from A per strand. -/
def execSsub (x : SF) (s : State) : Out := sfStrands (.ssub x) 0x01 x (fun a b _ => a - b) s

/-- SMUL (R253). Low 32 bits of scalar A times B per strand. -/
def execSmul (x : SF) (s : State) : Out := sfStrands (.smul x) 0x02 x (fun a b _ => a * b) s

/-- SMULH (R253). Signed high word of scalar A times B per strand. -/
def execSmulh (x : SF) (s : State) : Out := sfStrands (.smulh x) 0x03 x (fun a b _ => intOp .mulh Finish.none a b 0) s

/-- SAND (R253). Bitwise and of scalars per strand. -/
def execSand (x : SF) (s : State) : Out := sfStrands (.sand x) 0x04 x (fun a b _ => a &&& b) s

/-- SOR (R253). Bitwise or of scalars per strand. -/
def execSor (x : SF) (s : State) : Out := sfStrands (.sor x) 0x05 x (fun a b _ => a ||| b) s

/-- SXOR (R253). Bitwise xor of scalars per strand. -/
def execSxor (x : SF) (s : State) : Out := sfStrands (.sxor x) 0x06 x (fun a b _ => a ^^^ b) s

/-- SSHL (R253). Scalar logical left shift per strand. -/
def execSshl (x : SF) (s : State) : Out := sfStrands (.sshl x) 0x07 x (fun a b _ => bitOp .shl a b) s

/-- SSHR (R253). Scalar logical right shift per strand. -/
def execSshr (x : SF) (s : State) : Out := sfStrands (.sshr x) 0x08 x (fun a b _ => bitOp .shr a b) s

/-- SSAR (R253). Scalar arithmetic right shift per strand. -/
def execSsar (x : SF) (s : State) : Out := sfStrands (.ssar x) 0x09 x (fun a b _ => bitOp .sar a b) s

/-- SMIN (R253). Signed scalar minimum per strand. -/
def execSmin (x : SF) (s : State) : Out := sfStrands (.smin x) 0x0a x (fun a b _ => intOp .smin Finish.none a b 0) s

/-- SMAX (R253). Signed scalar maximum per strand. -/
def execSmax (x : SF) (s : State) : Out := sfStrands (.smax x) 0x0b x (fun a b _ => intOp .smax Finish.none a b 0) s

/-- SMOV (R253). Copies a scalar source into a scalar register per strand. -/
def execSmov (x : SF) (s : State) : Out := sfStrands (.smov x) 0x0c x (fun a _ _ => a) s

/-- SFADD (R253). FP32 scalar add per strand. -/
def execSfadd (x : SF) (s : State) : Out := sfStrands (.sfadd x) 0x0f x (fun a b _ => fadd32 a b) s

/-- SFMUL (R253). FP32 scalar multiply per strand. -/
def execSfmul (x : SF) (s : State) : Out := sfStrands (.sfmul x) 0x10 x (fun a b _ => fmul32 a b) s

/-- SFFMA (R253). FP32 scalar fused multiply-add per strand. -/
def execSffma (x : SF) (s : State) : Out := sfStrands (.sffma x) 0x11 x (fun a b d => ffma32 a b d) s

/-- SBFE (R253). Scalar bit-field extract per strand. -/
def execSbfe (x : SF) (s : State) : Out := sfStrands (.sbfe x) 0x12 x (fun a b _ => bitExtract a b) s

/-- SPOPC (R253). Scalar population count per strand. -/
def execSpopc (x : SF) (s : State) : Out := sfStrands (.spopc x) 0x13 x (fun a _ _ => BitVec.ofNat 32 (popCount a 32)) s

/-- SSETP (R254): all four bits of each strand's lanes. -/
def execSsetp (x : SF) (s : State) : Out :=
  issue (.ssetp x) s (fun c s => finish c (.ssetp x) (fun g =>
    match x.dst with
    | .p n => g.writeBits n.val ((lanesOf c.strands).map (fun l =>
        (l, setpBit (codeVal x.c) (sint (sfSrc c 0x0d x 0 (l / 4))) (sint (sfSrc c 0x0d x 1 (l / 4))))))
    | _ => g) s)

/-- Bits 4t + 3 to 4t of a predicate (R193). -/
def predSlice (m : BitVec 32) (t : Nat) : BitVec 4 := BitVec.ofNat 4 (m.toNat / 2 ^ (4 * t))

/-- SSEL (R254): A in strands whose slice of the predicate is not empty. -/
def execSsel (x : SF) (s : State) : Out :=
  issue (.ssel x) s (fun c s => finish c (.ssel x) (fun g =>
    g.writeStrands x.dst c.strands (fun t =>
      if predSlice (c.g.pget (codeVal x.c)) t != 0 then sfSrc c 0x0e x 0 t else sfSrc c 0x0e x 1 t)) s)

/-- SFROMV (R257): one lane of v(A), or 0 outside the width. -/
def execSfromv (x : SF) (s : State) : Out :=
  issue (.sfromv x) s (fun c s => finish c (.sfromv x) (fun g =>
    g.writeStrands x.dst c.strands (fun t =>
      let j := (sfSrc c 0x16 x 1 t).toNat
      if j < 4 * c.nstrands then c.g.vget ((x.a.vreg?).getD 0) j else 0)) s)

end Sys2Proof.Machine
end

