-- ==== Sys2Proof/Machine/Compress.lean ====
section
/-! DEFINITION. The stored form of a compressed line (R70 to R73). A line and a stream are numbers, byte 0 lowest. -/

namespace Sys2Proof.Machine

open Sys2Proof

/-- Element i of a line under a view of e bits (R70). -/
def elemOf (line e i : Nat) : Nat := bitsOf line (e * i) e

/-- The zig-zag code of the difference before element j (R72). -/
def zigzag (line e j : Nat) : Nat :=
  let d := (elemOf line e j + 2 ^ e - elemOf line e (j - 1)) % 2 ^ e
  if d < 2 ^ (e - 1) then 2 * d else 2 * (2 ^ e - d) - 1

/-- The number of bits of a number. -/
def bitLength (v : Nat) : Nat := if v = 0 then 0 else Nat.log2 v + 1

/-- The zig-zag codes of a line under a view. -/
def zigzags (line e : Nat) : List Nat := (List.range (1024 / e - 1)).map (fun k => zigzag line e (k + 1))

/-- The width a view needs (R72). -/
def viewWidth (line e : Nat) : Nat := bitLength ((zigzags line e).foldl max 0)

/-- The sectors a view needs (R72). -/
def viewSectors (line e : Nat) : Nat := ceilDiv (8 + e + (1024 / e - 1) * viewWidth line e) 128

/-- The view of a line: of 32, 16 and 8 bits the first with the fewest sectors (R72). -/
def bestView (line : Nat) : Nat :=
  let s32 := viewSectors line 32
  let s16 := viewSectors line 16
  let s8 := viewSectors line 8
  let best := if s16 < s32 then (16, s16) else (32, s32)
  if s8 < best.2 then 8 else best.1

/-- The header's ESIZE of a view (R71). -/
def esizeOf (e : Nat) : Nat := if e = 8 then 0 else if e = 16 then 1 else 2

/-- The stream of a line under a view (R71). -/
def streamOf (line e : Nat) : Nat :=
  let w := viewWidth line e
  let start := esizeOf e + 4 * w + elemOf line e 0 * 2 ^ 8
  ((zigzags line e).foldl (fun (p : Nat × Nat) z => (p.1 + z * 2 ^ p.2, p.2 + w)) (start, 8 + e)).1

/-- The count and the stored bytes of a line (R72). -/
def compressLine (line : Nat) : Nat × Nat :=
  if line = 0 then (0, 0)
  else
    let e := bestView line
    let n := viewSectors line e
    if n > 7 then (8, line) else (n, streamOf line e)

/-- The elements of a stream from its differences. -/
def undoDiffs (stream e w : Nat) : Nat → Nat → Nat → Nat → Nat
  | 0, _, _, acc => acc
  | fuel + 1, j, prev, acc =>
    let z := bitsOf stream (8 + e + (j - 1) * w) w
    let d := if z % 2 = 1 then 2 ^ e - 1 - z / 2 % 2 ^ e else z / 2
    let v := (prev + d) % 2 ^ e
    undoDiffs stream e w fuel (j + 1) v (acc + v * 2 ^ (e * j))

/-- A stored stream of 1 to 7 sectors expanded, none for BADLINE (R73). -/
def expandStream (stream count : Nat) : Option Nat :=
  let w := bitsOf stream 2 6
  let code := stream % 4
  let e := if code = 0 then 8 else if code = 1 then 16 else 32
  if code = 3 ∨ w > e ∨ 8 + e + (1024 / e - 1) * w > count * 128 then none
  else
    let first := bitsOf stream 8 e
    some (undoDiffs stream e w (1024 / e - 1) 1 first first)

/-- A stored line expanded by its count (R73, R75). -/
def expandLine (stored count : Nat) : Option Nat :=
  if count = 0 then some 0 else if count = 8 then some stored else expandStream stored count

end Sys2Proof.Machine
end

