-- ==== Sys2Proof/Machine/Translate.lean ====
section
/-! DEFINITION. Address translation at the memory side: the page-table walk and its outcomes (R26 to R31). -/

namespace Sys2Proof.Machine

open Sys2Proof

/-! ### The memory side (R26 to R31) -/

/-- An action of the memory side: the machine after it, and its result or a fault outcome's cause and subcode with the IPA that met it
(R30). Cause 0 is no outcome: a slice stalls, and the action is tried again (R43, R46). -/
abbrev Mem (α : Type) := ExceptT (Nat × Nat × Nat) (StateM State) α

/-- A fault outcome. -/
def memFault {α : Type} (cause sub ipa : Nat) : Mem α := throw (cause, sub, ipa)

/-- What outlasts an action of the memory side that a stall puts off: an overflow area that it found full, and the fault posted for it (R400). -/
def State.keepFull (s t : State) : State :=
  let fullIn (k : Nat) : Bool := match tfind k t.launches with | some l => l.ovfFull | none => false
  if s.launches.any (fun e => fullIn e.1 && !e.2.ovfFull) then
    { s with
      launches := s.launches.map (fun e => (e.1, { e.2 with ovfFull := e.2.ovfFull || fullIn e.1 }))
      fq := t.fq
      waits := t.waits
      tokenSeq := t.tokenSeq }
  else s

/-- An action of the memory side done on a machine: what follows from its result, or from its fault outcome with the IPA that met it; where
a slice stalls, what follows from the machine as it was. -/
def Mem.on {α β : Type} (m : Mem α) (s : State) (stall : State → β) (ok : α → State → β) (bad : Nat → Nat → Nat → State → β) : β :=
  match m.run s with
  | (.ok a, t) => ok a t
  | (.error (cause, sub, ipa), t) => if cause = 0 then stall (s.keepFull t) else bad cause sub ipa t

/-- The machine after an action of the memory side that has no result; a fault outcome of it has no further effect. -/
def State.after (s : State) (m : Mem Unit) : State := m.on s id (fun _ t => t) (fun _ _ _ t => t)

/-- An action of the memory side done for each of a list. -/
def eachDo {α : Type} (f : α → Mem Unit) : List α → Mem Unit
  | [] => pure ()
  | x :: xs => do
    f x
    eachDo f xs

/-- A slice or an L1 that stalls: the action is tried again. -/
def stallAt {α : Type} (ipa : Nat) : Mem α := memFault 0 0 ipa

/-- NODE of an IPA (R15). -/
def nodeOf (ipa : Nat) : Nat := bitsOf ipa 44 8

/-- The package's own node number (R16). -/
def State.nodeId (s : State) : Nat := s.tc.node.toNat % 256

/-- The translation unit of an IPA (R26). -/
def unitOf (ipa : Nat) : Nat := xorFields ipa [(28, 3), (31, 3), (34, 3), (37, 3), (40, 3)]

/-- The die that holds a translation unit. -/
def unitDie (u : Nat) : Nat := u / 4

/-- Eight bytes of physical memory, none where one of them cannot be read (R30, R437). -/
def State.physRead (s : State) (pa n : Nat) : Option Nat :=
  if s.poison.any (fun p => decide (pa ≤ p) && decide (p < pa + n)) then none else some (treadLE s.hbm pa n)

/-- Bytes written to physical memory. -/
def State.physWrite (s : State) (pa v n : Nat) : State := { s with hbm := twriteLE s.hbm pa v n }

/-- What a valid or invalid entry says at a level (R28, R29). -/
inductive Pte where
  | absent
  | malformed
  | table (pa : Nat)
  | leaf (e : TlbEntry)
  deriving DecidableEq, Repr

/-- An entry of a level, read (R28, R29). -/
def pteOf (level e : Nat) : Pte :=
  let leaf := bitsOf e 1 1 == 1
  let addr := bitsOf e 15 24 * 2 ^ 15
  if bitsOf e 0 1 = 0 then .absent
  else if bitsOf e 39 17 ≠ 0 ∨ bitsOf e 4 11 ≠ 0 then .malformed
  else if level = 1 ∧ leaf = true ∨ level = 3 ∧ leaf = false then .malformed
  else if leaf = false then (if bitsOf e 2 2 ≠ 0 then .malformed else .table addr)
  else if level = 3 ∧ bitsOf e 15 1 ≠ 0 ∨ level = 2 ∧ bitsOf e 15 13 ≠ 0 then .malformed
  else .leaf ⟨level == 2, addr, bitsOf e 2 1 == 1, bitsOf e 3 1 == 1⟩

/-- The key of a cached translation. -/
def tlbKey (ipa : Nat) (big : Bool) : Nat :=
  unitOf ipa * 2 ^ 40 + 2 * (if big then ipa / 2 ^ 28 * 4096 else ipa / 65536) + bit big

/-- The key of a cached table pointer read at a level. -/
def walkKey (ipa level : Nat) : Nat := (unitOf ipa * 4 + level) * 2 ^ 40 + ipa / (if level = 1 then 2 ^ 40 else 2 ^ 28)

/-- The entry of a level for an IPA, in the table at a PA. -/
def entryAddr (ipa level table : Nat) : Nat := table + 8 * bitsOf ipa (52 - 12 * level) 12

/-- The cached translations with room for one more of a unit's 8192 (R11); which one gives way the spec does not say (DESIGN CHOICE,
log 77). -/
def State.tlbRoom (s : State) (unit : Nat) : Table TlbEntry :=
  if s.tlb.length < 8192 then s.tlb
  else match s.tlb.filter (fun e => e.1 / 2 ^ 40 == unit) with
    | e :: es => if 8192 ≤ es.length + 1 then terase e.1 s.tlb else s.tlb
    | [] => s.tlb

/-- The rest of a walk from a level (R27). An entry whose read is uncorrectable is counted and posted as such a read of HBM (R437) (DEDUCED, log 67). -/
def walkFrom (ipa : Nat) : Nat → Nat → Nat → Mem TlbEntry
  | 0, _, _ => memFault causeXlate 2 ipa
  | fuel + 1, level, table => do
    let s ← get
    match s.physRead (entryAddr ipa level table) 8 with
    | none => do
      modify (fun s => s.uncorrectable 3 (entryAddr ipa level table / 2 ^ 38) 0xFFFF ipa)
      memFault causeXlate 4 ipa
    | some e =>
      match pteOf level e with
      | .absent => memFault causeXlate 1 ipa
      | .malformed => memFault causeXlate 2 ipa
      | .table pa =>
        modify (fun s => { s with walkCache := tinsert (walkKey ipa level) pa s.walkCache })
        walkFrom ipa fuel (level + 1) pa
      | .leaf l =>
        modify (fun s => { s with tlb := tinsert (tlbKey ipa l.big) l (s.tlbRoom (unitOf ipa)) })
        pure l

/-- The leaf that translates an IPA: cached, or by a walk from the deepest cached table (R26, R27, R41). -/
def walk (ipa : Nat) : Mem TlbEntry := do
  let s ← get
  match tfind (tlbKey ipa false) s.tlb, tfind (tlbKey ipa true) s.tlb with
  | some e, _ => pure e
  | none, some e => pure e
  | none, none =>
    match tfind (walkKey ipa 2) s.walkCache, tfind (walkKey ipa 1) s.walkCache with
    | some t, _ => walkFrom ipa 1 3 t
    | none, some t => walkFrom ipa 2 2 t
    | none, none => walkFrom ipa 3 1 (bitsOf s.tc.root.toNat 15 24 * 2 ^ 15)

/-- The PA of an IPA under a leaf. -/
def leafPa (e : TlbEntry) (ipa : Nat) : Nat := e.pa + ipa % (if e.big then 2 ^ 28 else 65536)

/-- The ports over which requests to a node may go and that are up (R429). -/
def State.portsTo (s : State) (node : Nat) : List Nat :=
  (List.range 36).filter (fun p => bitsOf (tget 0 s.rtab node).toNat p 1 == 1 && (tget Port.reset s.ports p).up)

/-- The one port over which requests for a sector of a remote IPA go, where there is one (R429). -/
def State.portFor (s : State) (ipa : Nat) : Option Nat :=
  let ps := s.portsTo (nodeOf ipa)
  ps[Config.portHash (ipa / 16 * 16) % ps.length]?

/-- Whether an IPA's bytes are held outside the package: the host's, or another node's. -/
def State.foreign (s : State) (ipa : Nat) : Bool := nodeOf ipa != s.nodeId

/-- Whether an access can reach its IPA: OK, LINKDOWN, or the walk's answer with READONLY (R30, R429) (DESIGN CHOICE, log 7). -/
def reach (ipa : Nat) (write : Bool) : Mem Unit := do
  let s ← get
  if nodeOf ipa = 0xFF then pure ()
  else if s.foreign ipa then (match s.portFor ipa with | none => memFault causeXlate 7 ipa | some _ => pure ())
  else do
    let e ← walk ipa
    if write && !e.w then memFault causeProt 3 ipa else pure ()

/-- The host address of an IPA of NODE 0xFF (R422) (DESIGN CHOICE, log 8). -/
def State.hostAddr (s : State) (ipa : Nat) : Nat := (s.hostbase.toNat + ipa % 2 ^ 44) % 2 ^ 64

end Sys2Proof.Machine
end

