-- ==== Sys2Proof/Machine/L2.lean ====
section
/-! DEFINITION. The committed bytes of a sector and a line at their home slice, in stored form and expanded (R59 to R64, R70 to R87):
fills, merges, counts, confirmations, write-backs and evictions. -/

namespace Sys2Proof.Machine

open Sys2Proof

/-- The key of a sector: its home and its IPA in units of 16 B. -/
def secKey (home sec : Nat) : Nat := home * 2 ^ 48 + sec
/-- The sector of a location. -/
def Loc.sec (l : Loc) : Nat := l.ipa / 16
/-- The line of a location. -/
def Loc.line (l : Loc) : Nat := l.ipa / 128
/-- The key of a line at a home slice. -/
def lineKey (home line : Nat) : Nat := home * 2 ^ 48 + line
/-- The location of sector `k` of a location's line. -/
def Loc.sector (l : Loc) (k : Nat) : Loc := { l with ipa := l.ipa / 128 * 128 + 16 * k }

/-- The bits of the bytes a 16-bit mask names. -/
def byteMask (m : BitVec 16) : BitVec 128 :=
  BitVec.ofNat 128 ((List.range 16).foldl (fun a i => a + (if m.getLsbD i then 255 * 2 ^ (8 * i) else 0)) 0)

/-- New bytes over old ones where a mask names them. -/
def mergeBytes (old new : BitVec 128) (m : BitVec 16) : BitVec 128 :=
  (old &&& ~~~(byteMask m)) ||| (new &&& byteMask m)

/-! ### Ways (R59, R66) -/

/-- The set that holds a line, of the 512 of its slice (R59). -/
def l2SetOf (home line : Nat) : Nat := Config.l2Set (lineKey home line) % 512

/-- The version blocks in a home slice's sets: owner and line; the blocks of another node's lines lie in that node's slices (R59, R375). -/
def State.blocksAt (s : State) (home : Nat) : List (VKind × Nat) :=
  let vs := s.versions.filterMap (fun v =>
    if v.home = home ∧ v.place = Place.set ∧ s.foreign (16 * v.sector) = false then some (v.kind.owner, v.sector / 8) else none)
  let ms := s.marks.filterMap (fun m =>
    if m.home = home ∧ m.place = Place.set then some (VKind.spec m.launch m.slot, m.sector / 8) else none)
  (vs ++ ms).dedup

/-- The committed lines of a home slice. -/
def State.linesAt (s : State) (home : Nat) : List Nat :=
  ((s.l2.filter (fun e => e.1 / 2 ^ 48 == home)).map (fun e => e.1 % 2 ^ 48 / 8)).dedup

/-- The committed sectors of a line in L2. -/
def State.lineSectors (s : State) (home line : Nat) : List (Nat × L2Sector) :=
  (List.range 8).filterMap (fun k => (tfind (secKey home (8 * line + k)) s.l2).map (fun x => (8 * line + k, x)))

/-! ### Write-back and eviction (R43, R46, R86) -/

/-- A record of the fault queue waits to be posted (R412). -/
def State.postFault (s : State) (token kind die page : Nat) : State :=
  { s with fq := { s.fq with waiting := s.fq.waiting ++
      [leBytes 4 token ++ leBytes 1 kind ++ leBytes 1 die ++ leBytes 2 0 ++ leBytes 8 page ++ leBytes 16 0] } }

/-- The next token of a translation unit (R33). -/
def State.newToken (s : State) (unit : Nat) : Nat × State :=
  let n := tget 0 s.tokenSeq unit
  (unit * 2 ^ 29 + n, { s with tokenSeq := tset 0 s.tokenSeq unit ((n + 1) % 2 ^ 29) })

/-- The sector of a write-back held at a translation unit (R43, R46, R87). -/
def State.heldSector (s : State) (home sec : Nat) : Option (BitVec 128) :=
  match (s.held.filter (fun h => h.home == home && h.sector == sec)).getLast? with
  | some h => some h.data
  | none => none

/-- A committed dirty sector written back, and whether it reached memory; else it is held, where the page migrates or has no valid leaf.
None where the unit's places are full and the slice stalls (R43, R46). -/
def State.writeBack (s : State) (home sec : Nat) (x : L2Sector) : Option (State × Bool) :=
  let ipa := 16 * sec
  let unit := unitOf ipa
  let here (h : HeldWb) : Bool := h.home == home && h.sector == sec
  let others (s : State) : List HeldWb := s.held.filter (fun h => !here h)
  let hold (token : Option Nat) (s : State) : State × Bool :=
    ({ s with held := others s ++ [⟨unit, home, sec, x.md, x.data, token⟩] }, false)
  let full : Bool := decide (64 ≤ ((others s).filter (fun h => h.unit == unit)).length)
  match (walk ipa).run s with
  | (.ok e, s) =>
    if !e.mig then some ({ s.physWrite (leafPa e ipa) x.data.toNat 16 with held := others s }, true)
    else if full then none else some (hold none s)
  | (.error _, s) =>
    if full then none
    else match (s.held.find? here).bind (fun h => h.token) with
      | some token => some (hold (some token) s)
      | none =>
        let (token, s) := s.newToken unit
        some (hold (some token) (s.postFault token 6 (unitDie unit) (ipa / 65536 * 65536)))

/-- The dirty sectors of a list written back, clean where they reached memory; none where one stalls. -/
def cleanAll (home : Nat) : List (Nat × L2Sector) → State → Option State
  | [], s => some s
  | (sec, x) :: xs, s =>
    if x.dirty then
      match s.writeBack home sec x with
      | some (s, true) => cleanAll home xs { s with l2 := tinsert (secKey home sec) { x with dirty := false } s.l2 }
      | some (s, false) => cleanAll home xs s
      | none => none
    else cleanAll home xs s

/-- The dirty sectors in L2 of the lines that a metadata line describes (R86). -/
def State.describedDirty (s : State) (home line : Nat) : List (Nat × L2Sector) :=
  s.l2.filterMap (fun e =>
    if e.1 / 2 ^ 48 = home ∧ e.2.dirty = true ∧ (match e.2.md with | some m => m / 256 == line | none => false) = true
    then some (e.1 % 2 ^ 48, e.2) else none)

/-- Whether a metadata line describes a line with a write-back held (R86). -/
def State.metadataHeld (s : State) (home line : Nat) : Bool :=
  s.held.any (fun h => h.home == home && (match h.md with | some m => m / 256 == line | none => false))

/-- A line's dirty sectors written back, for a metadata line those of the lines it describes first; where such a write-back is held the
metadata line stays as it is. Nothing happens where the slice must stall (R86). -/
def State.cleanLine (s : State) (home line : Nat) : State :=
  if !(s.lineSectors home line).any (fun e => e.2.dirty) then s
  else match cleanAll home (s.describedDirty home line) s with
    | none => s
    | some s =>
      if s.describedDirty home line ≠ [] ∨ s.metadataHeld home line = true then s
      else (cleanAll home (s.lineSectors home line) s).getD s

/-- Whether a line of L2 has versions that a commit in progress has still to merge: it stays there, confirmed, until they are (R40, R379)
(DEDUCED, log 92). -/
def State.committingAt (s : State) (home line : Nat) : Bool :=
  s.lineSectors home line != [] && s.domains.any (fun e => match e.2.committing with
    | some k => s.versions.any (fun v => v.kind == VKind.spec e.1 k && v.home == home && v.sector / 8 == line)
    | none => false)

/-- A line dropped from L2, its confirmation with it. -/
def State.dropLine (s : State) (home line : Nat) : State :=
  { s with
    l2 := (s.lineSectors home line).foldl (fun t e => terase (secKey home e.1) t) s.l2
    conf := terase (lineKey home line) s.conf }

/-- A slice evicts a committed line (R43, R86): its dirty sectors are written back, and the line goes once all of it has reached memory; while
a write-back of it is held it stays dirty in L2. -/
def State.evictLine (s : State) (home line : Nat) : State :=
  let s := s.cleanLine home line
  if (s.lineSectors home line).any (fun e => e.2.dirty) || s.committingAt home line then s else s.dropLine home line

/-- The first line of a list that the slice can evict goes. -/
def evictFirst (home : Nat) (s : State) : List Nat → Option State
  | [] => none
  | line :: lines =>
    let t := s.evictLine home line
    if t.lineSectors home line = [] then some t else evictFirst home s lines

/-- A way of a set for one more line or version block: a free one of its 16, or that of a committed line that can be evicted; none where the
slice stalls. Which line gives way the spec does not say (DESIGN CHOICE, log 77). -/
def State.wayFor (s : State) (home line : Nat) : Option State :=
  if s.l2.length + s.versions.length + s.marks.length < 16 then some s
  else
    let here (l : Nat) : Bool := l2SetOf home l == l2SetOf home line
    let lines := (s.linesAt home).filter here
    if lines.length + ((s.blocksAt home).filter (fun b => here b.2)).length < 16 then some s
    else evictFirst home s (lines.filter (· != line))

/-- A place in L2 for a committed line. -/
def lineRoom (home line : Nat) : Mem Unit := do
  let s ← get
  if s.lineSectors home line ≠ [] then pure ()
  else match s.wayFor home line with
    | some t => set t
    | none => memFault 0 0 (128 * line)

/-! ### Reading -/

/-- A committed sector in stored form, filled into L2 where it is not there; a sector of a write-back that is held is dirty still
(R43, R47, R59, R76, R87). -/
def sector (home ipa : Nat) (md : Option Nat) : Mem (BitVec 128) := do
  let s ← get
  let ipa := ipa / 16 * 16
  if nodeOf ipa = 0xFF then pure (BitVec.ofNat 128 (treadLE s.hostMem (s.hostAddr ipa) 16))
  else if s.foreign ipa then pure (BitVec.ofNat 128 (treadLE s.remote ipa 16))
  else
    let key := secKey home (ipa / 16)
    match tfind key s.l2 with
    | some x => pure x.data
    | none =>
      match s.heldSector home (ipa / 16) with
      | some d => do
        lineRoom home (ipa / 128)
        modify (fun s => { s with l2 := tinsert key ⟨d, true, md⟩ s.l2 })
        pure d
      | none => do
        let e ← walk ipa
        let s ← get
        match s.physRead (leafPa e ipa) 16 with
        | some v => do
          lineRoom home (ipa / 128)
          modify (fun s => { s with l2 := tinsert key ⟨BitVec.ofNat 128 v, false, md⟩ s.l2 })
          pure (BitVec.ofNat 128 v)
        | none => do
          modify (fun s => s.uncorrectable 3 (leafPa e ipa / 2 ^ 36 / 4) 0xFFFF ipa)
          memFault causeXlate 8 ipa

/-- A committed sector written in stored form. -/
def putSector (home ipa : Nat) (md : Option Nat) (data : BitVec 128) : Mem Unit := do
  let s ← get
  let ipa := ipa / 16 * 16
  if nodeOf ipa = 0xFF then modify (fun s => { s with hostMem := twriteLE s.hostMem (s.hostAddr ipa) data.toNat 16 })
  else if s.foreign ipa then modify (fun s => { s with remote := twriteLE s.remote ipa data.toNat 16 })
  else do
    lineRoom home (ipa / 128)
    modify (fun s => { s with l2 := tinsert (secKey home (ipa / 16)) ⟨data, true, md⟩ s.l2 })

/-- The count of a compressed line (R22, R75); MDRSVD where it is reserved. -/
def lineCount (home md : Nat) : Mem Nat := do
  let d ← sector home (md / 2) none
  let c := bitsOf d.toNat (8 * (md / 2 % 16) + 4 * (md % 2)) 4
  if c > 8 then memFault causeXlate 3 (md / 2) else pure c

/-- The count of a compressed line written (DEDUCED, log 27). -/
def setLineCount (home md c : Nat) : Mem Unit := do
  let d ← sector home (md / 2) none
  let at' := 8 * (md / 2 % 16) + 4 * (md % 2)
  putSector home (md / 2) none (BitVec.ofNat 128 (d.toNat - bitsOf d.toNat at' 4 * 2 ^ at' + c * 2 ^ at'))

/-- Stored sectors 0 to n - 1 of a line, as one number. -/
def storedLine (l : Loc) : Nat → Mem Nat
  | 0 => pure 0
  | n + 1 => do
    let low ← storedLine l n
    let d ← sector l.home (l.sector n).ipa l.md
    pure (low + d.toNat * 2 ^ (128 * n))

/-- A committed line, expanded; BADLINE where the stored form is none (R73, R74). -/
def wholeLine (l : Loc) : Mem Nat :=
  match l.md with
  | none => storedLine l 8
  | some m => do
    let c ← lineCount l.home m
    let stored ← storedLine l c
    match expandLine stored c with
    | some v => pure v
    | none => memFault causeXlate 6 l.ipa

/-- COMMITTED of a location's sector, expanded. -/
def committed (l : Loc) : Mem (BitVec 128) :=
  match l.md with
  | none => sector l.home l.ipa none
  | some _ => do
    let v ← wholeLine l
    pure (BitVec.ofNat 128 (bitsOf v (128 * (l.sec % 8)) 128))

/-! ### Writing -/

/-- A write to a line ends the copies of it in CACHE banks (R53). -/
def dropCopies (l : Loc) : Mem Unit :=
  modify (fun s => { s with copies := terase (lineKey l.home l.line) s.copies })

/-- Sectors of a line written in stored form from a number, from sector k. -/
def putLine (l : Loc) (v : Nat) : Nat → Nat → Mem Unit
  | 0, _ => pure ()
  | n + 1, k => do
    putSector l.home (l.sector k).ipa l.md (BitVec.ofNat 128 (bitsOf v (128 * k) 128))
    putLine l v n (k + 1)

/-- Masked bytes written over COMMITTED of a sector; on a compressed line a partial write (R64, R84, R85). -/
def commitBytes (l : Loc) (m : BitVec 16) (d : BitVec 128) : Mem Unit := do
  dropCopies l
  match l.md with
  | none =>
    let old ← sector l.home l.ipa none
    putSector l.home l.ipa none (mergeBytes old d m)
  | some md =>
    let v ← wholeLine l
    let c ← lineCount l.home md
    let at' := 128 * (l.sec % 8)
    let old := bitsOf v at' 128
    let new := (mergeBytes (BitVec.ofNat 128 old) d m).toNat
    if c = 8 then putSector l.home l.ipa l.md (BitVec.ofNat 128 new)
    else do
      putLine l (v - old * 2 ^ at' + new * 2 ^ at') 8 0
      setLineCount l.home md 8

/-- A whole-line compressed version merged: stored form and count replaced (R84). -/
def commitWhole (l : Loc) (md v : Nat) : Mem Unit := do
  let _ ← sector l.home (md / 2) none
  dropCopies l
  let (c, stored) := compressLine v
  modify (fun s => { s with
    l2 := (List.range 8).foldl (fun t k => terase (secKey l.home (l.sector k).sec) t) s.l2 })
  putLine l stored c 0
  setLineCount l.home md c

/-! ### Confirmation (R31) -/

/-- The confirmation of a line: 0 none, 1 readable, 2 writable. -/
def State.confirmed (s : State) (home line : Nat) : Nat := tget 0 s.conf (lineKey home line)

/-- The memory side's answer for an access to a line (R30, R31, R74): a confirmed line needs no translation, and a compressed
line's count must be a valid one. -/
def confirm (l : Loc) (write : Bool) : Mem Unit := do
  let s ← get
  if s.confirmed l.home l.line ≥ (if write then 2 else 1) then pure ()
  else do
    reach l.ipa write
    if s.foreign l.ipa then pure ()
    else modify (fun s => { s with
      conf := tset 0 s.conf (lineKey l.home l.line) (max (s.confirmed l.home l.line) (if write then 2 else 1)) })
  match l.md with
  | none => pure ()
  | some m => do
    let _ ← lineCount l.home m

end Sys2Proof.Machine
end

