-- ==== Sys2Proof/Machine/Abort.lean ====
section
/-! DEFINITION. Versions and read marks at the home slices, the abort of a task with its cascade, and room for version blocks
(R62, R65, R66, R375 to R382). -/

namespace Sys2Proof.Machine

open Sys2Proof

/-! ### Abort (R380, R381) -/

/-- Whether a version is one of a task. -/
def isSpec (launch slot : Nat) (k : VKind) : Bool := k == .spec launch slot

/-- Slots of a domain whose marks name a version of one of the slots listed. -/
def markReaders (marks : List Mark) (launch : Nat) (slots : List Nat) : List Nat :=
  ((marks.filter (fun m => m.launch == launch && m.from_.any slots.contains)).map (·.slot)).dedup

/-- Slots whose task was enqueued by a task in one of the slots listed that has not committed. -/
def childSlots (recs : Table TaskRec) (slots : List Nat) : List Nat :=
  (recs.filter (fun e => slots.contains e.2.parent && !e.2.confirmed)).map (·.1)

/-- The cascade of an abort: the tasks aborted and the tasks removed (R381). -/
def abortClosure (recs : Table TaskRec) (marks : List Mark) (launch : Nat) :
    Nat → List Nat → List Nat → List Nat × List Nat
  | 0, ab, rm => (ab, rm)
  | fuel + 1, ab, rm =>
    let all := ab ++ rm
    let rm' := (rm ++ (childSlots recs all).filter (fun k => !rm.contains k))
    let ab' := (ab ++ (markReaders marks launch all).filter (fun k => !all.contains k)).filter (fun k => !rm'.contains k)
    abortClosure recs marks launch fuel ab' rm'

/-- A worker that no task runs on (R373, R380). -/
def Group.idle (g : Group) : Group :=
  { g with
    strands := g.strands.map (fun st => { st with exited := true, wait := .ready })
    pending := []
    flags := []
    late := []
    inHandler := none
    heldBy := none
    task := none
    deferred := none }

/-- The worker of a task freed, its accesses in flight forgotten and withdrawn from the wait tables. -/
def State.freeWorker (s : State) (gid : Nat) : State :=
  let gone := (s.ops.filter (fun o => o.gid == gid)).map (·.id)
  { s.modGroup gid Group.idle with
    ops := s.ops.filter (fun o => o.gid != gid)
    waits := s.waits.map (fun w => { w with accesses := w.accesses.filter (fun a => !gone.contains a.1) }) }

/-- Versions and read marks of a task dropped (R380, step 2). -/
def State.dropTask (s : State) (launch slot : Nat) : State :=
  { s with
    versions := s.versions.filter (fun v => !isSpec launch slot v.kind)
    marks := s.marks.filter (fun m => !(m.launch == launch && m.slot == slot)) }

/-- A task stopped and its versions dropped (R380, steps 1 and 2). -/
def State.killTask (s : State) (launch slot : Nat) : State :=
  match tfind launch s.domains with
  | none => s
  | some d =>
    match tfind slot d.recs with
    | none => s
    | some r =>
      let s := match r.gid with | some g => s.freeWorker g | none => s
      (s.dropTask launch slot).modTask launch slot (fun r => { r with gid := none })

/-- Tasks aborted and requeued, tasks removed, with everything that follows from them (R380, R381). -/
def State.abortTasks (s : State) (launch : Nat) (slots : List Nat) : State :=
  match tfind launch s.domains with
  | none => s
  | some d =>
    let (ab, rm) := abortClosure d.recs s.marks launch d.recs.length slots []
    let s := ab.foldl (fun s k => (s.killTask launch k).modTask launch k (fun r =>
      { r with state := 1, spawns := 0 })) s
    let s := rm.foldl (fun s k => s.killTask launch k) s
    s.modDomain launch (fun d => { d with recs := d.recs.filter (fun e => !rm.contains e.1) })

/-! ### Conflicts (R65, R376, R377) -/

/-- A write committed in a sector aborts every task holding a mark there that names COMMITTED, but for those that read the
version of the committing task (R65, R377) (DEDUCED, log 36). -/
def State.writeConflict (s : State) (home sec : Nat) (by_ : Option (Nat × Nat)) : State :=
  let hit := s.marks.filter (fun m => m.home == home && m.sector == sec && m.committed &&
    !(match by_ with | some (l, k) => l == m.launch && (m.from_.contains k || m.slot == k) | none => false))
  hit.foldl (fun s m => s.abortTasks m.launch [m.slot]) s

/-- A task's new or changed version aborts every later task that holds a mark naming that task, an earlier one, or COMMITTED
(R376). -/
def State.specConflict (s : State) (launch slot home sec : Nat) : State :=
  match tfind launch s.domains with
  | none => s
  | some d =>
    match tfind slot d.recs with
    | none => s
    | some t =>
      let later (k : Nat) : Bool := match tfind k d.recs with | some u => taskBefore t u | none => false
      let notAfter (k : Nat) : Bool := match tfind k d.recs with | some u => !taskBefore t u | none => true
      let hit := s.marks.filter (fun m => m.launch == launch && m.home == home && m.sector == sec && later m.slot &&
        (m.committed || m.from_.any notAfter))
      if hit = [] then s else s.abortTasks launch (hit.map (·.slot)).dedup

/-! ### Committing (R64, R65) -/

/-- Masked bytes written over COMMITTED, with the aborts that follow. -/
def commitAt (l : Loc) (m : BitVec 16) (d : BitVec 128) (by_ : Option (Nat × Nat)) : Mem Unit := do
  commitBytes l m d
  modify (fun s => s.writeConflict l.home l.sec by_)

/-- A whole compressed line committed. -/
def commitLine (l : Loc) (md v : Nat) : Mem Unit := do
  commitWhole l md v
  modify (fun s => (List.range 8).foldl (fun s k => s.writeConflict l.home (l.sector k).sec none) s)

/-- Bytes at a location below 16, as a mask. -/
def spanMask (l : Loc) (size : Nat) : BitVec 16 := BitVec.ofNat 16 ((2 ^ size - 1) * 2 ^ (l.ipa % 16))

/-- A value placed at a location's offset in its sector. -/
def spanData (l : Loc) (v : Nat) : BitVec 128 := BitVec.ofNat 128 (v * 2 ^ (8 * (l.ipa % 16)))

/-- The value of `size` bytes at a location's offset in its sector. -/
def spanValue (l : Loc) (size : Nat) (d : BitVec 128) : Nat := bitsOf d.toNat (8 * (l.ipa % 16)) (8 * size)

/-- An immediate read of COMMITTED within one sector (R98). -/
def immRead (l : Loc) (size : Nat) : Mem Nat := do
  confirm l false
  let d ← committed l
  pure (spanValue l size d)

/-- The doorbell: a descriptor's IPA written to QDOOR, which Apex looks at in its turn (R268). -/
def State.ringDoorbell (s : State) (ipa : Nat) : State := { s with rung := s.rung ++ [ipa] }

/-- An immediate write of COMMITTED within one sector (R98); one of 8 bytes at QDOOR is the doorbell, and writes no memory (R268)
(DESIGN CHOICE, log 91). -/
def immWrite (l : Loc) (size v : Nat) : Mem Unit := do
  confirm l true
  let s ← get
  if size = 8 ∧ s.qdoor = some l.ipa then modify (fun s => s.ringDoorbell (v % 2 ^ 64))
  else commitAt l (spanMask l size) (spanData l v) none

/-! ### The wait tables (R33, R34) -/

/-- The absent page of an IPA. -/
def pageOf (ipa : Nat) : Nat := ipa / 65536 * 65536

/-- An access joins its page's wait-table entry, or makes one with a new token that is posted; none where the die's table is
full (R33, R34). -/
def State.enterWait (s : State) (ipa kind : Nat) (access : List (Nat × Nat)) : Option (Nat × State) :=
  let die := unitDie (unitOf ipa)
  match s.waits.find? (fun w => w.die == die && w.page == pageOf ipa) with
  | some w =>
    some (w.token, { s with waits := s.waits.map (fun v =>
      if v.token = w.token then { v with accesses := v.accesses ++ access } else v) })
  | none =>
    if (s.waits.filter (fun w => w.die == die)).length ≥ 4096 then none
    else
      let (token, s) := s.newToken (unitOf ipa)
      some (token, { s.postFault token kind die (pageOf ipa) with
        waits := s.waits ++ [⟨die, token, pageOf ipa, kind, access⟩] })

/-! ### The end of a domain (R386) -/

/-- Bytes of a domain's memory written by the task unit through its launch's range registers. -/
def domainWrite (r : Table (BitVec 64)) (va size v : Nat) : Mem Unit :=
  match translate r va size true true false with
  | .bad cause sub => memFault cause sub 0
  | .ok l => immWrite l size v

/-- An immediate store for which nothing can wait. Where its slice stalls it waits in `posted`, as later ones to its line do; a fault outcome of it
has no further effect. -/
def State.putImm (s : State) (l : Loc) (size v : Nat) : State :=
  let later (s : State) : State := { s with posted := s.posted ++ [⟨l, size, v⟩] }
  if s.posted.any (fun p => p.loc.home == l.home && p.loc.line == l.line) then later s
  else (immWrite l size v).on s later (fun _ s => s) (fun _ _ _ s => s)

/-- The stores that wait for their slices tried again, oldest first. -/
def State.retryPosted (s : State) : State := s.posted.foldl (fun s p => s.putImm p.loc p.size p.value) { s with posted := [] }

/-- A value written by the task unit through a launch's range registers. -/
def State.domainPut (s : State) (r : Table (BitVec 64)) (va size v : Nat) : State :=
  match translate r va size true true false with
  | .ok l => s.putImm l size v
  | .bad _ _ => s

/-- DSTATUS, COMMITS and LASTTS written; a fault outcome there has no further effect. -/
def State.writeDomain (s : State) (r : Table (BitVec 64)) (d : Domain) (dstatus : Nat) : State :=
  let put (s : State) (off size v : Nat) : State := s.domainPut r ((d.base + off) % 2 ^ 64) size v
  put (put (put s 0x18 4 dstatus) 0x20 8 d.commits) 0x28 8 d.lastts

/-- The address of a slot's record. -/
def Domain.slotVa (d : Domain) (slot : Nat) : Nat := d.qbase + 64 * slot

/-- A domain ends: its fields are written, its slots freed and its workers retired (R386). -/
def State.endDomain (s : State) (launch dstatus : Nat) : State :=
  match tfind launch s.domains, tfind launch s.launches with
  | some d, some l =>
    let s := s.writeDomain l.ranges d dstatus
    let s := d.shown.foldl (fun s e => s.domainPut l.ranges ((d.slotVa e.1 + 0x38) % 2 ^ 64) 2 0) s
    let s := s.modDomain launch (fun d =>
      { d with dstatus := dstatus, recs := [], committing := none, ended := true, shown := [] })
    let s := s.modLaunch launch (fun l => { l with teams := l.placed.length })
    ((tvalues s.groups).filter (fun g => g.launch == launch)).foldl (fun s g => s.retireGroup g.gid) s
  | _, _ => s

/-- A domain stops: every task is stopped and aborted, TASKQ is raised to Apex with its subcode, and the domain ends (R386). -/
def State.stopDomain (s : State) (launch dstatus sub : Nat) : State :=
  match tfind launch s.domains with
  | none => s
  | some d =>
    if d.ended then s
    else
      let s := d.recs.foldl (fun s e => s.killTask launch e.1) s
      (s.postEvent (eventRecord 0x06 0xFF 0xFFFF sub d.base 0 0 0)).endDomain launch dstatus

/-! ### Version blocks (R59, R66, R67, R382) -/

/-- The version blocks in the set of a line (R66). -/
def State.setBlocks (s : State) (home line : Nat) : List (VKind × Nat) :=
  (s.blocksAt home).filter (fun b => l2SetOf home b.2 == l2SetOf home line)

/-- Whether an owner has a block for a line. -/
def State.hasBlock (s : State) (home line : Nat) (k : VKind) : Bool :=
  s.versions.any (fun v => v.home == home && v.kind.owner == k.owner && v.sector / 8 == line) ||
  s.marks.any (fun m => m.home == home && k == .spec m.launch m.slot && m.sector / 8 == line)

/-- Where the block of an owner for a line lies; a new one lies in its set. -/
def State.placeOf (s : State) (home line : Nat) (k : VKind) : Place :=
  match s.versions.find? (fun v => v.home == home && v.kind.owner == k.owner && v.sector / 8 == line) with
  | some v => v.place
  | none =>
    match s.marks.find? (fun m => m.home == home && k == .spec m.launch m.slot && m.sector / 8 == line) with
    | some m => m.place
    | none => .set

/-- A block moved out of its set. -/
def State.moveBlock (s : State) (home line : Nat) (k : VKind) (p : Place) : State :=
  { s with
    versions := s.versions.map (fun v =>
      if v.home = home ∧ v.kind.owner = k.owner ∧ v.sector / 8 = line then { v with place := p } else v)
    marks := s.marks.map (fun m =>
      if m.home = home ∧ k = .spec m.launch m.slot ∧ m.sector / 8 = line then { m with place := p } else m) }

/-- Whether a task is not its domain's frontier task. -/
def State.specTask (s : State) (k : VKind) : Bool :=
  match k with
  | .spec l t => match tfind l s.domains with | some d => !d.isFrontier t | none => false
  | _ => false

/-- How far a task lies beyond its frontier, its domain's QBASE IPA, and its TIE: the order of R382. -/
def State.victimKey (s : State) (k : VKind) : Nat × Nat × Nat :=
  match k with
  | .spec l t =>
    match tfind l s.domains, tfind l s.launches with
    | some d, some la =>
      match tfind t d.recs with
      | some r =>
        (r.ts - d.frontier, (match translate la.ranges d.qbase 64 true true false with | .ok x => x.ipa | .bad _ _ => 0), r.tie)
      | none => (0, 0, 0)
    | _, _ => (0, 0, 0)
  | _ => (0, 0, 0)

/-- Whether one triple comes before another. -/
def tripleLt (a b : Nat × Nat × Nat) : Bool :=
  decide (a.1 < b.1) || (decide (a.1 = b.1) && (decide (a.2.1 < b.2.1) || (decide (a.2.1 = b.2.1) && decide (a.2.2 < b.2.2))))

/-- The block with the greatest key. -/
def State.victim (s : State) : List (VKind × Nat) → Option (VKind × Nat)
  | [] => none
  | b :: bs =>
    match s.victim bs with
    | none => some b
    | some w => if tripleLt (s.victimKey w.1) (s.victimKey b.1) then some b else some w

/-- The location of the next block of a launch's overflow area, none where the launch may not write there (R400). -/
def Launch.ovfNext (l : Launch) : Option Loc :=
  match translate l.ranges ((l.record.ovfbase + 128 * l.ovfUsed) % 2 ^ 64) 128 true true false with
  | .ok loc => some loc
  | .bad _ _ => none

/-- A fault outcome on a launch's overflow area: it is posted under a token, with the page where an IPA was formed, and the area counts as full
(R400) (DEDUCED, log 73). -/
def State.ovfFault (s : State) (l ipa : Nat) : State :=
  let posted : State := match s.enterWait ipa 7 [(0, l)] with
    | some (_, t) => t
    | none =>
      let (token, t) := s.newToken (unitOf ipa)
      t.postFault token 7 (unitDie (unitOf ipa)) (pageOf ipa)
  posted.modLaunch l (fun la => { la with ovfFull := true })

/-- An ORDERED block moved to its launch's overflow area; a fault outcome there is posted (R400). -/
def State.moveOrdered (s : State) (home line l n : Nat) : State × Bool :=
  match tfind l s.launches with
  | none => (s, false)
  | some la =>
    match la.ovfNext with
    | none => (s.ovfFault l 0, false)
    | some loc =>
      (confirm loc true).on s (fun s => (s, false))
        (fun _ s =>
          ((s.moveBlock home line (.ordered l n) .overflow).modLaunch l (fun la => { la with ovfUsed := la.ovfUsed + 1 }), true))
        (fun _ _ ipa s => (s.ovfFault l ipa, false))

/-- Room for one more block in a full set (R66): a speculative task aborted, else a block moved to a spill area, else an ORDERED
block moved to its launch's overflow area; false where there is none. -/
def State.makeRoom (s : State) (home : Nat) (inSet : List (VKind × Nat)) : State × Bool :=
  match s.victim (inSet.filter (fun b => s.specTask b.1)) with
  | some (.spec l t, _) => (s.abortTasks l [t], true)
  | _ =>
    match inSet.find? (fun b => match b.1 with | .ordered _ _ => false | _ => true) with
    | some (k, line) => (s.moveBlock home line k .spill, true)
    | none =>
      match inSet.find? (fun b => match b.1 with
        | .ordered l _ => (match tfind l s.launches with
          | some la => !la.ovfFull && decide (la.ovfUsed < la.record.ovfsize / 128)
          | none => false)
        | _ => false) with
      | some (.ordered l n, line) => s.moveOrdered home line l n
      | _ => (s, false)

/-- Whether a new block of a kind may lie in the version spill area from the start: those of cores and of frontier tasks (R66). -/
def State.spills (s : State) (k : VKind) : Bool := match k with | .ordered _ _ => false | k => !s.specTask k

/-- The place of a block for an owner's line: that of the one it has, or of a new one with room made for it (R59, R66). The slice stalls where no
committed line of the set can go. Where the set's eight blocks are ORDERED ones that have nowhere to go the spec gives no rule but for an ORDERED
request, which waits (R401): a PENDING, SNAPSHOT or frontier task's block then goes to the spill area, as step 2 of R66 would move it next, and any
other waits (DESIGN CHOICE, log 97). -/
def State.block? (s : State) (home line : Nat) (k : VKind) : State × Option Place :=
  let way (s : State) : State × Option Place := match s.wayFor home line with | some t => (t, some .set) | none => (s, none)
  if s.hasBlock home line k then (s, some (s.placeOf home line k))
  else if s.foreign (128 * line) then (s, some .set)
  else if (s.blocksAt home).length < 8 then way s
  else
    let inSet := s.setBlocks home line
    if inSet.length < 8 then way s
    else match s.makeRoom home inSet with
      | (t, true) => (t, some .set)
      | (t, false) => (t, if t.spills k then some .spill else none)

/-- The blocks an owner holds over all slices. -/
def State.blockCount (s : State) (k : VKind) : Nat :=
  ((s.versions.filter (fun v => v.kind.owner == k.owner)).map (fun v => (v.home, v.sector / 8))).dedup.length

/-- The core of the worker that runs a task. -/
def State.taskCore (s : State) (launch slot : Nat) : Option Nat :=
  match tfind launch s.domains with
  | none => none
  | some d =>
    match tfind slot d.recs with
    | none => none
    | some r => r.gid.bind (fun g => (tfind g s.groups).map (fun g => s.teamCore g.team))

/-- The blocks of versions and read marks that a task holds (R375). -/
def State.taskBlocks (s : State) (launch slot : Nat) : Nat :=
  let vs := s.versions.filterMap (fun v => if isSpec launch slot v.kind then some (v.home, v.sector / 8) else none)
  let ms := s.marks.filterMap (fun m => if m.launch = launch ∧ m.slot = slot then some (m.home, m.sector / 8) else none)
  (vs ++ ms).dedup.length

/-- The blocks that count against a core's PENDING limit: its own, and those of the frontier tasks its workers run (R67). -/
def State.pendingCount (s : State) (core : Nat) : Nat :=
  s.blockCount (.pending core) + (s.domains.map (fun e =>
    match e.2.frontierTask with
    | some (k, _) => if s.taskCore e.1 k = some core then s.taskBlocks e.1 k else 0
    | none => 0)).foldl (· + ·) 0

/-- A frontier task that would exceed its core's PENDING limit with one more block stops its domain (R67, R382). -/
def State.limitStop (s : State) (home line : Nat) (k : VKind) : State :=
  match k with
  | .spec l t =>
    (match tfind l s.domains, s.taskCore l t with
     | some d, some core =>
       if d.isFrontier t && !s.hasBlock home line k && decide (16384 ≤ s.pendingCount core) then s.stopDomain l 3 2 else s
     | _, _ => s)
  | _ => s

/-- A block for an owner's line taken, unless the owner is gone, and its place; the slice stalls where it has none. -/
def takeBlock (l : Loc) (k : VKind) : Mem Place := do
  modify (fun s => s.limitStop l.home l.line k)
  let s ← get
  match s.block? l.home l.line k with
  | (t, some p) => do
    set t
    pure p
  | (t, none) => do
    set t
    stallAt l.ipa

/-- Whether the owner of a block still is: a task that room was made by aborting no longer runs (R66). -/
def State.ownerRuns (s : State) (k : VKind) : Bool :=
  match k with
  | .spec l t =>
    (match tfind l s.domains with
     | some d => (match tfind t d.recs with | some r => r.gid.isSome | none => false)
     | none => false)
  | _ => true

/-- Newer bytes of a version over older ones of it. -/
def Version.join (v w : Version) : Version :=
  { v with mask := v.mask ||| w.mask, data := mergeBytes v.data w.data w.mask, whole := w.whole,
           fault := if w.fault.isSome then w.fault else v.fault }

/-- Bytes put into an owner's versions of a sector, over what is there: joined to the latest version where that is of the same kind, else as a new
one (R62, R85, R104) (DEDUCED, log 35). -/
def State.addBytes (s : State) (new : Version) : State :=
  let ours (v : Version) : Bool := v.kind.owner == new.kind.owner && v.home == new.home && v.sector == new.sector
  let inLine (v : Version) : Bool := v.kind == new.kind && v.home == new.home && v.sector / 8 == new.sector / 8
  let vs := if new.whole then s.versions else s.versions.map (fun v => if inLine v then { v with whole := false } else v)
  let top : Bool := match (vs.filter ours).getLast? with | some v => v.kind == new.kind | none => false
  if top then
    { s with versions := vs.mapIdx (fun i v =>
        if ours v && !(vs.drop (i + 1)).any ours then v.join new else v) }
  else { s with versions := vs ++ [new] }

/-- As `addBytes`, in a block of the owner (R66); nothing where the owner is gone. -/
def putVersion (k : VKind) (l : Loc) (m : BitVec 16) (d : BitVec 128) (whole : Bool) (fault : Option Nat) : Mem Unit := do
  let place ← takeBlock l k
  modify (fun s => if s.ownerRuns k then s.addBytes ⟨k, l.home, l.sec, l.md, m, d, whole, fault, place⟩ else s)

/-- The version of an owner in a sector: the bytes of a kind that lie there, newer ones over older. -/
def State.version? (s : State) (k : VKind) (home sec : Nat) : Option Version :=
  match s.versions.filter (fun v => v.kind == k && v.home == home && v.sector == sec) with
  | [] => none
  | v :: vs => some (vs.foldl Version.join v)

/-- An owner's version of a sector dropped. -/
def State.dropVersion (s : State) (k : VKind) (home sec : Nat) : State :=
  { s with versions := s.versions.filter (fun v => !(v.kind == k && v.home == home && v.sector == sec)) }


end Sys2Proof.Machine
end

