-- ==== Sys2Proof/Machine/L1.lean ====
section
/-! DEFINITION. A core's view of memory (R47 to R51, R63, R78 to R83, R89, R96): pending bytes, pinned sectors, evictions, and
what acquires and engine writes do to them. -/

namespace Sys2Proof.Machine

open Sys2Proof

/-- The key of a sector a core holds. -/
def coreKey (core home sec : Nat) : Nat := (core * 256 + home) * 2 ^ 48 + sec

/-- A sector of which a core holds nothing. -/
def CoreSector.empty (l : Loc) : CoreSector := ⟨l, 0, 0, none, false, none, none⟩

/-- What a core holds of a sector. -/
def State.held? (s : State) (core : Nat) (l : Loc) : CoreSector :=
  (tfind (coreKey core l.home l.sec) s.sectors).getD (CoreSector.empty l)

/-- What a core holds of a sector replaced; a sector neither pending nor pinned is not held (R48). -/
def State.setHeld (s : State) (core : Nat) (l : Loc) (x : CoreSector) : State :=
  let k := coreKey core l.home l.sec
  { s with sectors := if x.pmask = 0 ∧ x.pinned = none then terase k s.sectors else tinsert k x s.sectors }

/-- Whether a cluster has a bank in CACHE mode (R48, R52). -/
def State.hasCache (s : State) (cluster : Nat) : Bool := (List.range 16).any (fun b => s.bankMode cluster b == 0)

/-- A cluster's copy of a line recorded at its home slice (R53). -/
def State.addCopy (s : State) (core : Nat) (l : Loc) : State :=
  if s.hasCache (clusterOf core) then
    let k := lineKey l.home l.line
    { s with copies := tset 0 s.copies k (Nat.lor (tget 0 s.copies k) (2 ^ clusterOf core)) }
  else s

/-! ### The scout (R78 to R80): hints only -/

/-- The metadata cache with one sector most recent, of 64. -/
def mdTouch (c : List (Nat × BitVec 128)) (k : Nat) (d : BitVec 128) : List (Nat × BitVec 128) :=
  ((k, d) :: c.filter (fun e => e.1 != k)).take 64

/-- A metadata sector with the count of one line replaced. -/
def withCount (d : BitVec 128) (md c : Nat) : BitVec 128 :=
  let at' := 8 * (md / 2 % 16) + 4 * (md % 2)
  BitVec.ofNat 128 (d.toNat - bitsOf d.toNat at' 4 * 2 ^ at' + c * 2 ^ at')

/-- What a core's metadata cache learns from the request for a compressed line: on a hit the count that the slice returns corrects the
entry, on a miss the line's whole metadata sector is kept (R78, R79) (DESIGN CHOICE, log 21). -/
def scout (core : Nat) (home md : Nat) : Mem Unit := do
  let s ← get
  match (s.coreState core).mdCache.find? (fun e => e.1 == md / 32) with
  | some e => do
    let n ← lineCount home md
    modify (fun s => s.modCore core (fun c => { c with mdCache := mdTouch c.mdCache (md / 32) (withCount e.2 md n) }))
  | none => do
    let d ← sector home (md / 2) none
    modify (fun s => s.modCore core (fun c => { c with mdCache := mdTouch c.mdCache (md / 32) d }))

/-- The stream trackers after a group's load of a line of a range, and whether a stream advanced (R80): group, range, line, and lines in a
row. A load that no tracker expects makes one of its own, and takes the place of the tracker that advanced least recently where all 16 are
taken (DESIGN CHOICE, log 21). -/
def streamStep (ts : List (Nat × Nat × Nat × Nat)) (gid range line : Nat) : List (Nat × Nat × Nat × Nat) × Bool :=
  match ts.find? (fun t => t.1 == gid && t.2.1 == range && t.2.2.1 + 1 == line) with
  | some t => (((gid, range, line, t.2.2.2 + 1) :: ts.filter (· != t)).take 16, decide (2 ≤ t.2.2.2))
  | none =>
    if ts.any (fun t => t.1 == gid && t.2.1 == range && t.2.2.1 == line) then (ts, false)
    else (((gid, range, line, 1) :: ts).take 16, false)

/-- A hint's read; one that meets a fault outcome has no effect (R80). -/
def State.hint (s : State) (m : Mem Unit) : State := m.on s id (fun _ t => t) (fun _ _ _ _ => s)

/-- The scout's work for a load of a compressed line at an address, through a group's range registers: the line's count, and for a stream
that advances the metadata of the line 8 further, up to the range's LIMIT (R79, R80). -/
def State.scoutLoad (s : State) (core gid : Nat) (ranges : Table (BitVec 64)) (va : Nat) (l : Loc) : State :=
  match l.md, rangeHit ranges va with
  | some md, some n =>
    let (ts, adv) := streamStep (s.coreState core).streams gid n l.line
    let s := (s.modCore core (fun c => { c with streams := ts })).hint (scout core l.home md)
    let ahead := locOf ranges n (128 * (l.line + 8))
    if adv && decide ((va + 1024) / 65536 ≤ rangeLim ranges n / 65536) then
      s.hint (scout core ahead.home (ahead.md.getD 0))
    else s
  | _, _ => s

/-! ### Versions a core's bytes leave L1 as (R48, R55, R104) -/

/-- What a core holds of a line, sector by sector. -/
def State.heldLine (s : State) (core home line : Nat) : List CoreSector :=
  (List.range 8).filterMap (fun k => tfind (coreKey core home (8 * line + k)) s.sectors)

/-- Whether a line's sectors are marked and full, so that it is sent as one compressed version (R83). -/
def wholeSent (xs : List CoreSector) : Bool :=
  xs.length == 8 && xs.all (fun x => x.whole && x.pmask == BitVec.allOnes 16)

/-- The value a core keeps pinned of a sector whose pending bytes go home: its pinned bytes with those over them; where L1 held all 16, these
(R49, R96). -/
def CoreSector.keeps (x : CoreSector) : Option (BitVec 128) :=
  match x.pinned with
  | some p => some (mergeBytes p x.pdata x.pmask)
  | none => if x.pmask = BitVec.allOnes 16 ∧ x.banked = none then some x.pdata else none

/-- A sector's pending bytes sent home as a PENDING version, over what the core has there. -/
def sendPending (core : Nat) (whole : Bool) (x : CoreSector) : Mem Unit :=
  if x.pmask = 0 then pure ()
  else do
    putVersion (.pending core) x.loc x.pmask x.pdata whole x.fault
    modify (fun s => s.setHeld core x.loc
      { x with pmask := 0, pdata := 0, whole := false, banked := none, fault := none, pinned := x.keeps })

/-- Sectors of a line sent home; a marked line goes with all its sectors, as one version (R83). -/
def sendSectors (core : Nat) (line mine : List CoreSector) : Mem Unit :=
  eachDo (sendPending core (wholeSent line)) (if wholeSent line then line else mine)

/-- Whether a core may hold one more block of a kind for a line (R67). -/
def State.underLimit (s : State) (home line : Nat) (k : VKind) : Bool :=
  s.hasBlock home line k || decide ((match k with | .pending core => s.pendingCount core | k => s.blockCount k) < 16384)

/-- The lines whose pending copies a CACHE bank holds (R48, R52). -/
def State.bankedLines (s : State) (cluster bank : Nat) : Nat :=
  ((s.sectors.filter (fun e => clusterOf (e.1 / 2 ^ 56) == cluster && e.2.banked == some bank)).map (fun e => e.1 / 8)).dedup.length

/-- The CACHE bank of a cluster that takes evicted bytes, none where each holds its 2048 lines: the one asked for, else the lowest. -/
def State.cacheBank (s : State) (cluster bank : Nat) : Option Nat :=
  let takes (b : Nat) : Bool := s.bankMode cluster b == 0 && decide (s.bankedLines cluster b < 2048)
  if bank < 16 ∧ takes bank = true then some bank else (List.range 16).find? takes

/-- What a core's L1 forgets of a sector as its line is evicted: its pin, and where they go to a CACHE bank its pending bytes. -/
def State.unpin (s : State) (core : Nat) (bank : Option Nat) (loc : Loc) : State :=
  let x := s.held? core loc
  s.setHeld core loc { x with pinned := none, banked := if x.pmask = 0 then none else if x.banked.isSome then x.banked else bank }

/-- L1 evicts a line (R48): pending bytes go to a CACHE bank, or home where there is none, pinned ones home. It stalls before a version limit's
boundary (R67). The line's confirmation is forgotten (R138). -/
def evictLineL1 (core home line bank : Nat) : Mem Unit := do
  let s ← get
  let xs := s.heldLine core home line
  let dst := s.cacheBank (clusterOf core) bank
  let mine := xs.filter (fun x => x.pmask != 0 && x.banked.isNone)
  if (dst.isNone && mine != [] && !s.underLimit home line (.pending core)) ||
      (xs.any (fun x => x.pinned.isSome) && !s.underLimit home line (.snapshot core)) then stallAt (128 * line)
  else do
    if dst.isNone && mine != [] then sendSectors core xs mine else pure ()
    eachDo (fun (x : CoreSector) => match x.pinned with
      | some p => putVersion (.snapshot core) x.loc (BitVec.allOnes 16) p false none
      | none => pure ()) xs
    modify (fun s => { xs.foldl (fun (s : State) (x : CoreSector) => s.unpin core dst x.loc) s with
      l1conf := terase (coreKey core home line) s.l1conf })

/-- The machine after L1's eviction of a line; nothing where it stalls. -/
def State.evictL1 (s : State) (core home line bank : Nat) : State := s.after (evictLineL1 core home line bank)

/-- A CACHE bank evicts a core's pending copies of a line (R48). -/
def evictBankLine (core home line : Nat) : Mem Unit := do
  let s ← get
  let xs := s.heldLine core home line
  if !s.underLimit home line (.pending core) then stallAt (128 * line)
  else sendSectors core xs (xs.filter (fun x => x.banked.isSome))

/-- The machine after a bank's eviction of a line; nothing where it stalls. -/
def State.evictBank (s : State) (core home line : Nat) : State := s.after (evictBankLine core home line)

/-! ### Room in L1 (R10, R47) -/

/-- The set of a core's L1 that holds a line, of its 128 (R10). -/
def l1SetOf (home line : Nat) : Nat := Config.l1Set (lineKey home line) % 128

/-- The lines a core's L1 holds, as home and line: those with a pinned sector or pending bytes that lie in no bank. -/
def State.l1Lines (s : State) (core : Nat) : List (Nat × Nat) :=
  ((s.sectors.filter (fun e => e.1 / 2 ^ 56 == core && (e.2.pinned.isSome || e.2.banked.isNone))).map
    (fun e => (e.2.loc.home, e.2.loc.line))).dedup

/-- The first line of a list that L1 can evict goes. -/
def evictFirstL1 (core : Nat) (s : State) : List (Nat × Nat) → Option State
  | [] => none
  | (home, line) :: ls =>
    let t := s.evictL1 core home line 0
    if (t.l1Lines core).contains (home, line) then evictFirstL1 core s ls else some t

/-- A way of a core's L1 for a line: it holds the line, or has a free way of the set's 8, or evicts a line; it stalls where none can go before
a version limit's boundary (R67). Which line goes the spec does not say (DESIGN CHOICE, log 77). -/
def l1Room (core home line : Nat) : Mem Unit := do
  let s ← get
  let ls := s.l1Lines core
  let set := ls.filter (fun e => l1SetOf e.1 e.2 == l1SetOf home line)
  if ls.contains (home, line) || decide (ls.length < 8) || decide (set.length < 8) then pure ()
  else match evictFirstL1 core s set with
    | some t => MonadState.set t
    | none => stallAt (128 * line)

/-! ### Reads (R47, R63, R81, R96) -/

/-- The bytes of an owner's versions over a sector (R59, R104). -/
def State.overlay (s : State) (k : VKind) (l : Loc) (d : BitVec 128) : BitVec 128 :=
  (s.versions.filter (fun v => v.kind.owner == k && v.home == l.home && v.sector == l.sec)).foldl
    (fun d v => mergeBytes d v.data v.mask) d

/-- A sector filled into L1 and pinned: the core's pending bytes over its PENDING over its SNAPSHOT over COMMITTED (R31, R47, R63). -/
def pin (core : Nat) (l : Loc) : Mem Unit := do
  let s ← get
  if (s.held? core l).pinned.isSome then pure ()
  else do
    confirm l false
    let d ← committed l
    l1Room core l.home l.line
    modify (fun s =>
      let x := s.held? core l
      let d := mergeBytes (s.overlay (.pending core) l (s.overlay (.snapshot core) l d)) x.pdata x.pmask
      (s.setHeld core l { x with pinned := some d }).addCopy core l)

/-- Whether a core's L1 holds every byte of an access: the sector is pinned, or the bytes are pending. -/
def CoreSector.covers (x : CoreSector) (l : Loc) (size : Nat) : Bool :=
  x.pinned.isSome || x.pmask &&& spanMask l size == spanMask l size

/-- A fill that may fail: a fault outcome leaves everything as it was, and a stall is one (R96). -/
def tryFill (m : Mem Unit) : Mem Unit := fun s =>
  m.on s (fun t => (.error (0, 0, 0), t)) (fun _ t => (.ok (), t)) (fun _ _ _ _ => (.ok (), s))

/-- A plain load of one lane at a core's L1 (R89). The core's own pending bytes are there even where the page is not (R32); where they
are all the load names and the fill of the rest meets a fault outcome, the sector stays unpinned (DEDUCED, log 78). -/
def plainLoad (core : Nat) (l : Loc) (size : Nat) : Mem Nat := do
  let s ← get
  if (s.held? core l).covers l size then tryFill (pin core l) else pin core l
  let s ← get
  let x := s.held? core l
  pure (spanValue l size (mergeBytes (x.pinned.getD 0) x.pdata x.pmask))

/-! ### Stores (R48, R83, R89, R92) -/

/-- One lane of a plain store at a core's L1 (R48). Where nothing is left of the line that a confirmation was remembered for, it is forgotten
(R138) (DESIGN CHOICE, log 98). -/
def State.plainStore (s : State) (core : Nat) (l : Loc) (size v : Nat) : State :=
  let x := s.held? core l
  let m := spanMask l size
  let s := if s.heldLine core l.home l.line = [] then { s with l1conf := terase (coreKey core l.home l.line) s.l1conf } else s
  s.setHeld core l { x with pmask := x.pmask ||| m, pdata := mergeBytes x.pdata (spanData l v) m, banked := none }

/-- The bytes of a line that requests of one store cover. -/
def coveredBytes (reqs : List Req) (home line : Nat) : Nat :=
  (reqs.filter (fun r => r.loc.home == home && r.loc.line == line)).foldl (fun m r =>
    Nat.lor m ((2 ^ r.size - 1) * 2 ^ (r.loc.ipa % 128))) 0

/-- Compressed lines that one store writes whole are marked (R83). -/
def State.markWhole (s : State) (core : Nat) (reqs : List Req) : State :=
  reqs.foldl (fun s r =>
    if r.loc.md.isSome && coveredBytes reqs r.loc.home r.loc.line == 2 ^ 128 - 1 then
      let x := s.held? core r.loc
      s.setHeld core r.loc { x with whole := true }
    else s) s

/-- The stores of one line performed at a core's L1, lanes ascending, so that the highest lane's bytes stay, once it has room (R10, R48, R89). -/
def storeLine (core : Nat) (reqs : List Req) (l : Loc) : Mem Unit := do
  l1Room core l.home l.line
  let mine := reqs.filter (fun r => r.loc.home == l.home && r.loc.line == l.line)
  modify (fun s => (mine.foldl (fun s r => s.plainStore core r.loc r.size r.data) s).markWhole core mine)

/-- The lines that requests name, each once. -/
def reqLines (reqs : List Req) : List Loc := (reqs.map (fun r => (⟨r.loc.home, r.loc.ipa / 128 * 128, none⟩ : Loc))).dedup

/-- The bytes of a plain store performed at a core's L1, line by line; none are where one of the lines finds no room. -/
def storeAll (core : Nat) (reqs : List Req) : Mem Unit := eachDo (storeLine core reqs) (reqLines reqs)

/-- The address of a store whose confirmation faulted kept with its line's pending bytes, wherever they lie (R32). -/
def State.markFault (s : State) (core : Nat) (l : Loc) (va : Nat) : State :=
  let s := { s with versions := s.versions.map (fun v =>
    if v.kind = .pending core ∧ v.home = l.home ∧ v.sector / 8 = l.line then { v with fault := some va } else v) }
  (List.range 8).foldl (fun s k =>
    let l := l.sector k
    let x := s.held? core l
    if x.pmask = 0 then s else s.setHeld core l { x with fault := some va }) s

/-! ### Acquires and engine writes (R50, R93, R104) -/

/-- What is left of a sector after its core's acquire: its pending bytes (R50). -/
def keepPending (core : Nat) (e : Nat × CoreSector) : Option (Nat × CoreSector) :=
  if e.1 / 2 ^ 56 ≠ core then some e else if e.2.pmask = 0 then none else some (e.1, { e.2 with pinned := none })

/-- What an acquire of scope 1 or 2 drops (R50, R93). -/
def State.acquire (s : State) (core : Nat) : State :=
  let s := { s with
    sectors := s.sectors.filterMap (keepPending core)
    versions := s.versions.filter (fun v => v.kind != VKind.snapshot core) }
  s.modCore core (fun c => { c with mdCache := [] })

/-- A core's clean copies of a sector dropped, in L1 and at home (R104). -/
def State.dropClean (s : State) (core : Nat) (l : Loc) : State :=
  (s.dropVersion (.snapshot core) l.home l.sec).setHeld core l { s.held? core l with pinned := none }

/-- Bytes that an engine command's write lies over taken from what a core's L1 and banks have pending of a sector. -/
def State.underwrite (s : State) (core : Nat) (l : Loc) (m : BitVec 16) : State :=
  let x := s.held? core l
  s.setHeld core l { x with pmask := x.pmask &&& ~~~m, whole := false }

/-- Bytes an engine command writes become a version of the issuing core, and the core's clean copies are dropped (R104). Without REL they join
its PENDING bytes; with REL they are the command's own, for its release, over the older pending bytes of the line's sector, which go home first
and stay the core's to publish. So the newest bytes are what the core reads, and each release publishes the bytes it includes (DEDUCED, log 99). -/
def engineWrite (core : Nat) (k : VKind) (l : Loc) (m : BitVec 16) (d : BitVec 128) : Mem Unit := do
  let s ← get
  if k = .pending core then modify (fun s => s.underwrite core l m)
  else sendSectors core (s.heldLine core l.home l.line) [s.held? core l]
  putVersion k l m d false none
  modify (fun s => s.dropClean core l)

end Sys2Proof.Machine
end

