-- ==== Sys2Proof/Machine/InFlight.lean ====
section
/-! DEFINITION. Long-latency instructions in flight: how one starts, what its flag and registers see when it completes, and late
traps (R32, R120, R121, R186, R405). -/

namespace Sys2Proof.Machine

open Sys2Proof

/-- Registers a long-latency word writes, by code: those tracked against its flag, closure registers never (R120, R361). -/
def opDsts : Form → List Nat
  | .mem op x =>
    if op ≤ 0x06 ∨ op = 0x10 ∨ op = 0x11 then runCodes x.data (memRun op)
    else if op = 0x12 then runCodes x.data 1
    else if 0x18 ≤ op ∧ op ≤ 0x1a then runCodes x.data (memRun op)
    else if 0x20 ≤ op ∧ op ≤ 0x2c then runCodes x.data 1
    else []
  | .eng op x => if op = 0x08 ∨ op = 0x09 then runCodes x.a 2 else []
  | .gfx op x =>
    match op with
    | 0x00 | 0x01 => runCodes x.dst 5
    | 0x02 => runCodes x.dst 4
    | 0x08 => runCodes x.dst 5
    | 0x09 => runCodes x.dst 1
    | 0x0a => runCodes x.dst 8
    | 0x11 | 0x12 | 0x13 => predCode (x.imm.toNat % 8)
    | 0x15 => runCodes x.dst 8
    | 0x16 => runCodes x.dst 3
    | 0x17 => runCodes x.dst 1
    | 0x1a => runCodes x.dst 1
    | _ => []
  | _ => []

/-- An instruction in flight as it is issued. -/
def Ctx.op (c : Ctx) (i : Instr) (kind : OpKind) (reqs : List Req) (src : Table Word) (s : State) : Op where
  id := s.nextId
  gid := c.g.gid
  core := c.core
  flag := formFlag i.form
  pc := c.pc
  strand := c.lowest
  instr := i
  kind := kind
  scope := match i.form with | .mem _ x => x.scope.toNat | .eng _ x => x.scope.toNat | _ => 0
  rel := match i.form with | .mem _ x => x.rel | .eng _ x => x.rel | _ => false
  relId := none
  acq := match i.form with | .mem _ x => x.acq | .eng _ x => x.acq | _ => false
  acqId := none
  sent := true
  lanes := c.active
  banks := []
  src := src
  ranges := c.g.ranges
  rheap := c.g.rheap
  reqs := reqs
  results := []
  task := c.g.task.map (fun k => (c.g.launch, k))
  performed := false
  lateTrap := none
  arrived := s.clock
  parked := false
  resumed := false

/-- A flag owned from issue, its destination registers tracked; without a flag an instruction that writes a register holds its
group (R120, R121). -/
def Group.own (g : Group) (o : Op) (dsts : List Nat) : Group :=
  if o.flag < 12 then { g with flags := tset Flag.clear g.flags o.flag ⟨true, true, dsts, (g.flag o.flag).late⟩ }
  else if dsts = [] then g
  else { g with heldBy := some o.id }

/-- An instruction in flight starts and its gang goes on. -/
def Ctx.start (c : Ctx) (i : Instr) (o : Op) (s : State) : State :=
  c.advance i ({ s with ops := s.ops ++ [o], nextId := s.nextId + 1 }.modGroup c.g.gid
    (fun g => g.own o (opDsts i.form)))

/-! ### Completion -/

/-- A register element written; a vector register's write empties its entry of the reuse latch (R124). -/
def Group.writeElem (g : Group) (e : RegElem × Word) : Group :=
  match e.1 with
  | .v n l => { g.vset n l e.2 with latch := g.latch.filter (fun p => p.2 != n) }
  | .s n t => g.sset n t e.2
  | .p n l => g.pset n (setBit (g.pget n) l (e.2 != 0))
  | .k n l b => { g with k := tset 0 g.k (256 * (32 * n + l) + b) (e.2.truncate 8) }

/-- Where the late trap of an instruction without a flag is due (R32, R291, R362). -/
def lateTrapPoint (o : Op) (held : Bool) : LatePoint :=
  if held then .next
  else match o.kind with
    | .prism _ _ => .prism
    | .closure _ | .spillFill _ => .closure
    | _ => .waitOrRelease

/-- The q9 token of a copy command that asked for one: pushed when it completes, its promise withdrawn (R147). -/
def Group.takeToken (g : Group) (o : Op) : Group :=
  match o.kind with
  | .cpy _ la _ _ true =>
    { g with
      q9Promised := g.q9Promised - 1
      q9 := if o.lateTrap.isSome then g.q9 else g.q9 ++ [BitVec.ofNat 32 la] }
  | _ => g

/-- A group once one of its instructions completes: its results, unless a trap ends it, and its flag clear (R32, R120, R121). -/
def Group.complete (g : Group) (o : Op) : Group :=
  let held := g.heldBy == some o.id
  let g := g.takeToken o
  let g := { o.results.foldl Group.writeElem g with heldBy := if held then none else g.heldBy }
  let g := if o.flag < 12 then g.modFlag o.flag (fun f => { f with busy := false }) else g
  match o.lateTrap with
  | none => g
  | some t =>
    if o.flag < 12 then g.modFlag o.flag (fun f => { f with late := some t })
    else { g with late := g.late ++ [(lateTrapPoint o held, t)] }

/-- What an instruction in flight has brought so far written to its group (R58, R364). -/
def State.landResults (s : State) (id : Nat) : State :=
  match s.op? id with
  | some o => (s.modGroup o.gid (fun g => o.results.foldl Group.writeElem g)).modOp id (fun o => { o with results := [] })
  | none => s

/-- An instruction completes and leaves the machine; a fault met for a retiring group is counted (R186). -/
def State.completeOp (s : State) (o : Op) : State :=
  let s := { s with ops := s.ops.filter (fun p => p.id != o.id) }
  match tfind o.gid s.groups with
  | none => s
  | some g =>
    if g.retiring && o.lateTrap.isSome then
      (s.count (careIndex careLostFault (dieOf o.core))).modGroup o.gid (fun g => g.complete { o with lateTrap := none })
    else s.modGroup o.gid (fun g => g.complete o)

end Sys2Proof.Machine
end

