-- ==== Sys2Proof/Machine/Waits.lean ====
section
/-! DEFINITION. Whose gang issues: the turn of a deterministic launch and the waits that end it (R189, R396, R401, R402), and the order in which
a group's gangs are served (R188). -/

namespace Sys2Proof.Machine

open Sys2Proof

/-! ### Waits that end a turn (R189, R396) -/

/-- The blocks that atomics on their way to the ordered buffer have still to take, each with its slice and line (R153, R401). -/
def State.promised (s : State) : List (VKind × Nat × Nat) :=
  ((s.ops.filter s.toBuffer).map (fun o => match tfind o.gid s.groups with
    | some g => (o.reqs.filter (fun r => !r.state.buffers && r.state != .done)).map (fun r =>
        (VKind.ordered g.launch g.index.toNat, r.loc.home, r.loc.line))
    | none => [])).flatten.dedup.filter (fun e => !s.hasBlock e.2.1 e.2.2 e.1 && !s.foreign (128 * e.2.2))

/-- The version blocks of a line's set with those that are to come. -/
def State.setLoad (s : State) (coming : List (VKind × Nat × Nat)) (home line : Nat) : Nat :=
  (s.setBlocks home line).length +
    (coming.filter (fun e => e.2.1 == home && l2SetOf home e.2.2 == l2SetOf home line)).length

/-- How many of the blocks to come find their set full, so that the overflow area may have to take as many (R66). -/
def State.overflowing (s : State) (coming : List (VKind × Nat × Nat)) : Nat :=
  ((coming.map (fun e => (e.2.1, l2SetOf e.2.1 e.2.2))).dedup.map (fun q =>
    match coming.find? (fun e => e.2.1 == q.1 && l2SetOf e.2.1 e.2.2 == q.2) with
    | some e => s.setLoad coming e.2.1 e.2.2 - max 8 (s.setBlocks e.2.1 e.2.2).length
    | none => 0)).foldl (· + ·) 0

/-- Whether requests of one owner to lines wait at issue: one of them finds 8 version blocks in its set and no overflow block of the launch free,
counting what requests sent before it will take (R401) (DEDUCED, log 101). -/
def State.noBlock (s : State) (l : Launch) (k : VKind) : List (VKind × Nat × Nat) → List (Nat × Nat) → Bool
  | _, [] => false
  | coming, (home, line) :: ls =>
    if s.foreign (128 * line) then s.noBlock l k coming ls
    else if 8 ≤ s.setLoad coming home line ∧ l.record.ovfsize / 128 ≤ l.ovfUsed + s.overflowing coming then true
    else s.noBlock l k (if s.hasBlock home line k || coming.contains (k, home, line) then coming else (k, home, line) :: coming) ls

/-- Whether buffered requests of a group to lines wait at issue: there is no block for one of them, or the overflow area counts as full. The token's
holder does not buffer (R400, R401). -/
def State.overflowHolds (s : State) (g : Group) (lines : List (Nat × Nat)) : Bool :=
  match tfind g.launch s.launches with
  | some l => l.token != some g.index.toNat && (l.ovfFull || s.noBlock l (.ordered l.id g.index.toNat) s.promised lines)
  | none => false

/-- Whether a mask names the flag of an atomic of the ordered buffer (R396). -/
def State.flagBuffered (s : State) (gid : Nat) (m : BitVec 12) : Bool :=
  s.ops.any (fun o => o.gid == gid && (maskFlags m).contains o.flag && s.toBuffer o)

/-- Whether a strand stands in a wait that ends its group's turn and has not ended itself. -/
def State.turnWait (s : State) (g : Group) (t : Nat) : Bool :=
  match (g.strand t).wait with
  | .bar _ => !s.gangReady g t
  | .flags m => !s.gangReady g t && s.flagBuffered g.gid m
  | .overflow lines => s.overflowHolds g lines
  | _ => false

/-- Whether a group lets its turn go: an atomic of the ordered buffer holds it, or its gangs all stand in such waits or at REGANG (R189,
R396). -/
def State.turnSkips (s : State) (g : Group) : Bool :=
  (match g.heldBy with | some id => (match s.op? id with | some o => s.toBuffer o | none => false) | none => false) ||
  (g.live.any (s.turnWait g) && g.live.all (fun t => s.turnWait g t || (g.strand t).wait == .regang))

/-! ### The turn (R189) -/

/-- Groups of a team that are resident and have a live strand. -/
def State.turnTakers (s : State) (team : Nat) : List Group :=
  (tvalues s.groups).filter (fun g => g.team == team && g.resident && !g.retiring && g.live != [])

/-- The position that takes the turn after one: the next of the team in ascending order, wrapping, whose group does not let it go; the next
in order where none is left (R189). -/
def State.nextTurn (s : State) (t : Team) (after : Nat) : Nat :=
  let takers := s.turnTakers t.id
  let order := (List.range 64).map (fun k => (after + 1 + k) % 64)
  let here (k : Nat) : Option Group := takers.find? (fun g => g.pos == k)
  match order.find? (fun k => match here k with | some g => !s.turnSkips g | none => false) with
  | some k => k
  | none => (order.find? (fun k => (here k).isSome)).getD after

/-- The end of a group's turn in a deterministic launch. -/
def State.passTurn (s : State) (team : Nat) : State :=
  match tfind team s.teams with
  | none => s
  | some t => s.modTeam team (fun t' => { t' with turn := s.nextTurn t t.turn })

/-- The turn moves on from a group that is gone or lets it go. -/
def State.settleTurn (s : State) (team : Nat) : State :=
  match tfind team s.teams with
  | none => s
  | some t =>
    match (s.turnTakers team).find? (fun g => g.pos == t.turn) with
    | some g => if s.turnSkips g then s.passTurn team else s
    | none => s.passTurn team

/-- A gang enters a wait, or goes on standing in it; in a deterministic launch its group's turn ends as it enters one that ends turns
(R189, R396). -/
def Ctx.waitTurn (c : Ctx) (w : GangWait) (ends : Bool) (s : State) : State :=
  let s' := c.waitOn w s
  if c.det && ends && (c.g.strand c.lowest).wait != w then s'.passTurn c.g.team else s'

/-! ### Gangs in turn (R188) -/

/-- Groups that share a quarter with a group. -/
def State.sameQuarter (s : State) (g h : Group) : Bool :=
  h.gid != g.gid && h.resident && h.quarter == g.quarter && s.teamCore h.team == s.teamCore g.team

/-- The gang served next: round robin, ascending by lowest strand, among those that are ready; where none is, among all (R188). -/
def State.nextGang (s : State) (g : Group) : Nat :=
  let order := (List.range 8).map (fun k => (g.served + k) % 8)
  let gangs := order.filter (fun t => g.live.contains t && (g.strand t).gang == t)
  match gangs.find? (s.gangReady g) with
  | some t => t
  | none => gangs.headD 0

/-- A group is offered issue: its next gang issues; yielding groups of the quarter count the offer (R202), and their latches, like those of
every other group of the quarter, empty (R124). The group's next instruction becomes ready now (R279). -/
def State.offer (s : State) (gid : Nat) : State :=
  match tfind gid s.groups with
  | none => { s with cur := (gid, 0) }
  | some g =>
    let t := s.nextGang g
    let s : State := { s with
      cur := (gid, t)
      groups := s.groups.map (fun (e : Nat × Group) =>
        if e.1 = gid then (e.1, { e.2 with served := t + 1, readyFrom := s.clock })
        else if s.sameQuarter g e.2 then
          (e.1, { e.2 with
            latch := []
            offers := if e.2.yielded.isSome then gid :: e.2.offers else e.2.offers })
        else e) }
    if (match tfind g.launch s.launches with | some l => l.record.det | none => false) then s.settleTurn g.team else s

end Sys2Proof.Machine
end

