-- ==== Sys2Proof/Machine/Control.lean ====
section
/-! DEFINITION. Branches, the predicate stack, re-ganging, waiting and leaving (R190 to R206), and the turn of a deterministic
launch (R189). -/

namespace Sys2Proof.Machine

open Sys2Proof

/-! ### Targets and gangs (R170, R191) -/

/-- The target of a branch word (R191). -/
def target (c : Ctx) (x : CTL) : Addr := c.pc + 8#64 * x.offset.signExtend 64

/-- The address of the word after a one-word instruction. -/
def Ctx.next (c : Ctx) : Addr := c.pc + 8#64

/-- Every strand of a gang goes to its own address; strands with one address stay one gang, named by its lowest strand
(R170). -/
def Group.goto (g : Group) (strands : List Nat) (dest : Nat → Addr) : Group :=
  g.modStrands strands (fun t st =>
    { st with pc := dest t, wait := .ready, gang := lowestOf (strands.filter (fun u => dest u == dest t)) })

/-- P(s): the slice of the predicate a code names, inverted where bit 3 is set (R193). -/
def predOf (g : Group) (code : Nat) (t : Nat) : BitVec 4 :=
  let p := predSlice (g.pget (code % 8)) t
  if code / 8 % 2 = 1 then ~~~p else p

/-- The end of an instruction that sends each strand to an address. -/
def branchTo (c : Ctx) (f : Group → Group) (dest : Nat → Addr) (s : State) : Out :=
  .next (s.modGroup c.g.gid (fun g => (f g).goto c.strands dest))

/-- BRA (R195). -/
def execBra (x : CTL) (s : State) : Out :=
  issue (.bra x) s (fun c s =>
    let taken (t : Nat) : Bool :=
      let a := (c.g.strand t).stack.headD 0
      let p := predOf c.g (codeVal x.cond) t
      if x.f12 = 0 then a &&& p != 0 else a &&& ~~~p == 0
    branchTo c id (fun t => if taken t then target c x else c.next) s)

/-- A strand's own 64-bit pair named by COND. -/
def condPair (g : Group) (x : CTL) (t : Nat) : Nat := match x.cond with | .s n => g.spair n.val t | _ => 0

/-- BRX (R196). -/
def execBrx (x : CTL) (s : State) : Out :=
  issue (.brx x) s (fun c s =>
    match c.strands.filter (fun t => condPair c.g x t % 8 != 0) with
    | t :: ts => raiseHere c causeAlign 0 (condPair c.g x (lowestOf (t :: ts))) s
    | [] => branchTo c id (fun t => BitVec.ofNat 64 (condPair c.g x t)) s)

/-- CALL (R197). -/
def execCall (x : CTL) (s : State) : Out :=
  issue (.call x) s (fun c s =>
    branchTo c (fun g => match x.cond with
      | .s n => c.strands.foldl (fun g t => g.spairSet n.val t c.next.toNat) g
      | _ => g) (fun _ => target c x) s)

/-- RET (R197). -/
def execRet (x : CTL) (s : State) : Out :=
  issue (.ret x) s (fun c s =>
    let to_ := condPair c.g x c.lowest
    if to_ % 8 != 0 then raiseHere c causeAlign 0 to_ s
    else branchTo c id (fun _ => BitVec.ofNat 64 to_) s)

/-- SLOOP (R198). -/
def execSloop (x : CTL) (s : State) : Out :=
  issue (.sloop x) s (fun c s =>
    match x.cond with
    | .s n =>
      let count (t : Nat) := c.g.sget n.val t - 1
      branchTo c (fun g => c.strands.foldl (fun g t => g.sset n.val t (count t)) g)
        (fun t => if count t != 0 then target c x else c.next) s
    | _ => .next (c.advance (.sloop x) s))

/-! ### The predicate stack (R194) -/

/-- A change of every strand's stack, or PSTACK at the lowest strand that cannot make it. -/
def stackOp (i : Instr) (bad : Strand → Bool) (f : Nat → Strand → List (BitVec 4)) (s : State) : Out :=
  issue i s (fun c s =>
    match c.strands.filter (fun t => bad (c.g.strand t)) with
    | t :: ts => raiseHere c causePstack 0 (lowestOf (t :: ts)) s
    | [] => finish c i (fun g => g.modStrands c.strands (fun t st => { st with stack := f t st })) s)

/-- PPUSH (R194). -/
def execPpush (x : CTL) (s : State) : Out :=
  issue (.ppush x) s (fun c s =>
    match c.strands.filter (fun t => decide (16 ≤ (c.g.strand t).stack.length)) with
    | t :: ts => raiseHere c causePstack 0 (lowestOf (t :: ts)) s
    | [] => finish c (.ppush x) (fun g => g.modStrands c.strands (fun t st =>
        { st with stack := (st.stack.headD 0 &&& predOf c.g (codeVal x.cond) t) :: st.stack })) s)

/-- PINV (R194). -/
def execPinv (s : State) : Out :=
  stackOp .pinv (fun st => decide (st.stack.length ≤ 1)) (fun _ st =>
    match st.stack with
    | a :: b :: rest => (b &&& ~~~a) :: b :: rest
    | l => l) s

/-- PPOP (R194). -/
def execPpop (s : State) : Out :=
  stackOp .ppop (fun st => decide (st.stack.length ≤ 1)) (fun _ st => st.stack.tail) s

/-! ### Re-ganging, waiting and leaving -/

/-- REGANG (R199, R200). -/
def execRegang (s : State) : Out :=
  issue .regang s (fun c s =>
    if c.strands.length = c.g.live.length then finish c .regang id s
    else .next (s.modGroup c.g.gid (fun g => g.modStrands c.strands (fun _ st => { st with wait := .regang }))))

/-- The end of tracking on a list of flags (R120). -/
def Group.endTracking (g : Group) (fs : List Nat) : Group :=
  fs.foldl (fun g n => g.modFlag n (fun f => { f with owned := false, tracked := [] })) g

/-- WAITF (R201, R396). -/
def execWaitf (x : CTL) (s : State) : Out :=
  issue (.waitf x) s (fun c s =>
    let fs := maskFlags x.f12
    if fs.any (fun n => (c.g.flag n).busy) then .next (c.waitTurn (.flags x.f12) (s.flagBuffered c.g.gid x.f12) s)
    else finish c (.waitf x) (fun g => g.endTracking fs) s)

/-- YIELD (R202). -/
def execYield (s : State) : Out :=
  issue .yield s (fun c s =>
    let s := c.advance .yield s
    if c.det then .next (s.passTurn c.g.team)
    else .next (s.modGroup c.g.gid (fun g => { g with yielded := some s.clock, offers := [] })))

/-- The strands that an EXIT exits: those of its gang, in a handler every live one (R203, R409). -/
def exitStrands (c : Ctx) : List Nat := if c.g.inHandler.isSome then c.g.live else c.strands

/-- EXIT (R185, R203, R409): the last strand's retires the group, but for a worker's (R373). A task with an undelivered fault stops here,
and takes the first (R373, R406). In a deterministic launch the turn goes on with the last strand's EXIT (R189) (DEDUCED, log 105). -/
def execExit (s : State) : Out :=
  issue .exit s (fun c s =>
    let last : Bool := decide ((exitStrands c).length = c.g.live.length)
    if c.g.task.isSome && last && s.ops.any (fun o => o.gid == c.g.gid) then .next (c.block s)
    else match c.g.task, last, c.g.firstLate with
    | some _, true, some (t, g) =>
      if s.speculative c.g then .next (s.deferTask c.g c.lowest (.late t))
      else .next ((s.modGroup c.g.gid (fun _ => g)).takeTrap c.g.gid c.lowest c.pc t.cause t.sub t.addr t.ipaAddr)
    | _, _, _ =>
      let s := s.modGroup c.g.gid (fun g => g.modStrands (exitStrands c) (fun _ st => { st with exited := true, wait := .ready }))
      if !last || c.g.task.isSome then .next s
      else if c.det then .next ((s.retireGroup c.g.gid).passTurn c.g.team)
      else .next (s.retireGroup c.g.gid))

/-- NOP (R204). -/
def execNop (s : State) : Out := issue .nop s (fun c s => finish c .nop id s)

/-- TRAP (R205). -/
def execTrap (x : CTL) (s : State) : Out :=
  issue (.trap x) s (fun c s => raise c c.next causeSoft 0 x.f12.toNat s)

/-- The 64 bytes of a SYSCALL request (R206, R412), its context numbered over the core (DESIGN CHOICE, log 106). -/
def syscallRecord (c : Ctx) (n seq : Nat) : List Byte :=
  leBytes 4 n ++ leBytes 2 c.core ++ leBytes 1 (16 * c.g.quarter + c.g.ctx) ++ leBytes 1 0 ++ leBytes 8 c.g.index.toNat
    ++ ((List.range 8).map (fun k => leBytes 4 (c.g.sget k c.lowest).toNat)).flatten ++ leBytes 4 seq ++ leBytes 12 0

/-- SYSCALL (R206). -/
def execSyscall (x : CTL) (s : State) : Out :=
  issue (.syscall x) s (fun c s =>
    let s := s.modGroup c.g.gid (fun g =>
      g.modStrands c.strands (fun _ st => { st with wait := .syscall s.syscallSeq x.f12.toNat }))
    .next { s with
      sq := { s.sq with waiting := s.sq.waiting ++ [syscallRecord c x.f12.toNat s.syscallSeq] }
      syscallSeq := (s.syscallSeq + 1) % 2 ^ 32 })

/-- TRAPRET (R207, R410): back to the control state the trap saved, the trapping gang at TRAPPC. -/
def execTrapret (s : State) : Out :=
  issue .trapret s (fun c s =>
    if c.g.trapPc.toNat % 8 != 0 then raiseHere c causeAlign 0 c.g.trapPc.toNat s
    else
      match c.g.inHandler with
      | none => .next s
      | some h => .next (s.modGroup c.g.gid (fun g => g.leaveHandler h)))

/-- LITEXEC (R114). -/
def execLitexec (s : State) : Out := trapWord causeLitexec s

end Sys2Proof.Machine
end

