-- ==== Sys2Proof/Machine/Barrier.lean ====
section
/-! DEFINITION. The barriers of a team (R208 to R212). -/

namespace Sys2Proof.Machine

open Sys2Proof

/-- The update of a barrier. -/
def State.modBar (s : State) (team b : Nat) (f : Barrier → Barrier) : State :=
  s.modTeam team (fun t => { t with barriers := tset Barrier.zero t.barriers b (f (t.bar b)) })

/-- The subcode of a failed ARRIVE (R209). -/
def Barrier.arriveFault (b : Barrier) (pos : Nat) : Option Nat :=
  if b.expect = 0 then some 5
  else if b.part.getLsbD pos = false then some 2
  else if b.pend.getLsbD pos = true then some 1
  else none

/-- ARRIVE (R209). -/
def Barrier.arrive (b : Barrier) (pos : Nat) : Barrier :=
  ({ b with pend := setBit64 b.pend pos true, arrived := setBit64 b.arrived pos true, count := b.count + 1 } : Barrier).settle

/-- The barrier a CTL word names. -/
def barNumber (x : CTL) : Nat := x.f12.toNat % 16

/-- Whether an earlier plain load of the group, or a KSPILL or KFILL, waits to be performed at L1, or a local access at its bank (R211, R359); other
plain stores are performed at L1 as they issue. -/
def State.unperformed (s : State) (gid : Nat) : Bool :=
  s.ops.any (fun o => o.gid == gid && !o.performed && (match o.kind with
    | .load _ _ _ _ _ | .local _ _ _ _ | .spillFill _ => true
    | _ => false))

/-- A trap BARRIER (R209). -/
def barTrap (c : Ctx) (b sub : Nat) (s : State) : Out := raiseHere c causeBarrier sub b s

/-- The barrier of the issuing group's team. -/
def State.barOf (s : State) (c : Ctx) (b : Nat) : Barrier :=
  match tfind c.g.team s.teams with | some t => t.bar b | none => Barrier.zero

/-- BAR.INIT (R209). -/
def execBarInit (x : CTL) (s : State) : Out :=
  issue (.barInit x) s (fun c s =>
    let b := barNumber x
    if (s.barOf c b).count != 0 then barTrap c b 4 s
    else
      let here := (tvalues s.groups).filter (fun g => g.team == c.g.team && g.resident)
      .next (c.advance (.barInit x) (s.modBar c.g.team b (fun bar =>
        { bar with expect := x.offset.toNat, part := here.foldl (fun m g => setBit64 m g.pos true) bar.part }))))

/-- BAR.ARV (R209, R211). -/
def execBarArv (x : CTL) (s : State) : Out :=
  issue (.barArv x) s (fun c s =>
    let b := barNumber x
    if s.unperformed c.g.gid then .next (c.block s)
    else match (s.barOf c b).arriveFault c.g.pos with
      | some sub => barTrap c b sub s
      | none => .next (c.advance (.barArv x) (s.modBar c.g.team b (fun bar => bar.arrive c.g.pos))))

/-- The gang leaves a wait whose generation has completed, or goes on waiting (R209, R212). -/
def barWaitOn (i : Instr) (c : Ctx) (b mark : Nat) (s : State) : Out :=
  if (s.barOf c b).arrived.getLsbD c.g.pos = false then
    .next (c.advance i (s.modBar c.g.team b (fun bar => { bar with pend := setBit64 bar.pend c.g.pos false })))
  else
    .next (c.waitTurn (.bar mark) true s)

/-- BAR.WAIT (R209). -/
def execBarWait (x : CTL) (s : State) : Out :=
  issue (.barWait x) s (fun c s =>
    let b := barNumber x
    if (inWaitHalf (.barWait x) c) = false ∧ (s.barOf c b).pend.getLsbD c.g.pos = false then barTrap c b 3 s
    else barWaitOn (.barWait x) c b (16 + b) s)

/-- BAR.SYNC (R209, R211). -/
def execBarSync (x : CTL) (s : State) : Out :=
  issue (.barSync x) s (fun c s =>
    let b := barNumber x
    if inWaitHalf (.barSync x) c then barWaitOn (.barSync x) c b b s
    else if s.unperformed c.g.gid then .next (c.block s)
    else match (s.barOf c b).arriveFault c.g.pos with
      | some sub => barTrap c b sub s
      | none => barWaitOn (.barSync x) c b b (s.modBar c.g.team b (fun bar => bar.arrive c.g.pos)))

/-- BAR.DROP (R209). -/
def execBarDrop (x : CTL) (s : State) : Out :=
  issue (.barDrop x) s (fun c s =>
    let b := barNumber x
    let bar := s.barOf c b
    if bar.part.getLsbD c.g.pos = false then barTrap c b 2 s
    else if bar.pend.getLsbD c.g.pos = true then barTrap c b 6 s
    else .next (c.advance (.barDrop x) (s.modBar c.g.team b (fun bar => bar.drop c.g.pos))))

end Sys2Proof.Machine
end

