-- ==== Sys2Proof/Machine/Boundary.lean ====
section
/-! DEFINITION. Releases and acquires (R49, R50, R67, R91 to R97). -/

namespace Sys2Proof.Machine

open Sys2Proof

/-! ### Releases -/

/-- Whether a release may begin: every access its group issued before it has completed (R92). -/
def State.relReady (s : State) (r : Rel) : Bool :=
  match r.source with
  | .op id =>
    match s.op? id with
    | some o => !s.ops.any (fun p => p.gid == o.gid && decide (p.id < o.id) && isAccess p.kind)
    | none => true
  | _ => true

/-- The sectors of which a core holds pending bytes or a PENDING version, within a scope (R49, R92). -/
def State.pendingSectors (s : State) (core scope : Nat) : List Nat :=
  let inL1 := (s.sectors.filter (fun e => e.1 / 2 ^ 56 == core && e.2.pmask != 0)).map (fun e => secKey e.2.loc.home e.2.loc.sec)
  let atHome := (s.versions.filter (fun v => v.kind == VKind.pending core)).map (fun v => secKey v.home v.sector)
  if scope = 0 then [] else (atHome ++ inL1).dedup.filter (fun k => scope == 2 || !s.foreign (k % 2 ^ 48 * 16))

/-- The location of a sector a release publishes. -/
def State.pendingLoc (s : State) (core k : Nat) : Loc :=
  let home := k / 2 ^ 48
  let sec := k % 2 ^ 48
  match tfind (coreKey core home sec) s.sectors, s.version? (.pending core) home sec with
  | some x, _ => x.loc
  | none, some v => ⟨home, 16 * sec, v.md⟩
  | none, none => ⟨home, 16 * sec, none⟩

/-- The update of a release. -/
def State.modRel (s : State) (id : Nat) (f : Rel → Rel) : State :=
  { s with rels := s.rels.map (fun r => if r.id = id then f r else r) }

/-- One sector of a release sent home, a marked line with all its sectors (R49, R83); it stalls while the core may hold no further block
(R67). A command's bytes are there already (R104). -/
def sendSector (r : Rel) (k : Nat) : Mem Unit := do
  let s ← get
  let l := s.pendingLoc r.core k
  let xs := s.heldLine r.core l.home l.line
  let ours : Bool := r.of_ == .pending r.core
  let gone : List Nat := k :: (if ours && wholeSent xs then xs.map (fun x => secKey x.loc.home x.loc.sec) else [])
  if ours && !s.underLimit l.home l.line r.of_ then stallAt l.ipa
  else do
    if ours then sendSectors r.core xs (xs.filter (fun x => x.loc.sec == l.sec)) else pure ()
    modify (fun s => s.modRel r.id (fun r =>
      { r with todo := r.todo.filter (fun k => !gone.contains k), sent := (r.sent ++ gone).dedup }))

/-- The versions of an owner that make up a whole compressed line, as one number (R83). -/
def State.wholeVersion (s : State) (k : VKind) (home line : Nat) : Option Nat :=
  let vs := (List.range 8).filterMap (fun n => s.version? k home (8 * line + n))
  if vs.length = 8 ∧ vs.all (fun v => v.whole && v.mask == BitVec.allOnes 16) = true
  then some (vs.foldl (fun n v => n + v.data.toNat * 2 ^ (128 * (v.sector % 8))) 0)
  else none

/-- A version that has been published is gone, and its bytes lie over what its core has pinned at home (R49, R96). -/
def State.published (s : State) (core : Nat) (v : Version) : State :=
  { s with versions := (s.versions.filter (fun w => !(w.kind == v.kind && w.home == v.home && w.sector == v.sector))).map (fun w =>
      if w.kind = .snapshot core ∧ w.home = v.home ∧ w.sector = v.sector then { w with data := mergeBytes w.data v.data v.mask } else w) }

/-- One sent sector of a release published at its home: its version confirmed and merged into COMMITTED, with its whole line where it came
as one (R31, R49, R64, R84). -/
def publishSector (r : Rel) (k : Nat) : Mem Unit := do
  let s ← get
  match s.version? r.of_ (k / 2 ^ 48) (k % 2 ^ 48) with
  | none => pure ()
  | some v => do
    let l : Loc := ⟨v.home, 16 * v.sector, v.md⟩
    confirm l true
    match l.md, s.wholeVersion r.of_ l.home l.line with
    | some md, some n => do
      commitLine l md n
      let line := (List.range 8).filterMap (fun n => s.version? r.of_ l.home (8 * l.line + n))
      modify (fun s => line.foldl (fun s w => s.published r.core w) s)
    | _, _ => do
      commitAt l v.mask v.data none
      modify (fun s => s.published r.core v)

/-- The address of the store whose confirmation had faulted in a sector of a release (R32). -/
def State.storeFault (s : State) (r : Rel) (k : Nat) : Option Nat :=
  (s.version? r.of_ (k / 2 ^ 48) (k % 2 ^ 48)).bind (fun v => v.fault)

/-- The late trap of a release that meets a fault: the address of the store whose confirmation had faulted, else the sector's IPA
(R32, R40). -/
def State.releaseTrap (s : State) (r : Rel) (k cause sub : Nat) : LateTrap :=
  match s.storeFault r k with
  | some va => ⟨cause, sub, BitVec.ofNat 64 va, false, 0⟩
  | none => ⟨cause, sub, BitVec.ofNat 64 (16 * (k % 2 ^ 48)), true, 0⟩

/-- The pending bytes of a line that a release of no group could not publish, dropped and counted (R32). -/
def State.discardLine (s : State) (core home line : Nat) : State :=
  let s := { s with versions := s.versions.filter (fun v =>
    !(v.kind == VKind.pending core && v.home == home && v.sector / 8 == line)) }
  ((s.heldLine core home line).foldl (fun s x => s.setHeld core x.loc { x with pmask := 0, pdata := 0, whole := false, banked := none, fault := none }) s).count
    (careIndex careLostFault (dieOf core))

/-- Whether a release was issued by a group. -/
def BoundarySource.ofGroup : BoundarySource → Bool
  | .op _ => true
  | _ => false

/-- A fault outcome of a release in a sector: kept for its instruction's trap, or the line discarded where there is none (R32)
(DEDUCED, log 26). -/
def State.faultRel (s : State) (r : Rel) (k cause sub : Nat) : State :=
  let s := s.modRel r.id (fun q => { q with
    sent := q.sent.filter (· != k),
    fault := if q.fault.isSome || !r.source.ofGroup then q.fault else some (s.releaseTrap r k cause sub) })
  if r.source.ofGroup then s else s.discardLine r.core (k / 2 ^ 48) (k % 2 ^ 48 / 8)

/-- A sector of a release whose page is absent parks in the wait table, and the group that releases with it; TRAPADDR holds the address of the
store where it is known, else the sector's IPA (R32, R33) (DEDUCED, log 26). -/
def State.parkRel (s : State) (r : Rel) (k ipa : Nat) : State :=
  let op : Option Op := match r.source with | .op id => s.op? id | _ => none
  let kind := match op with | some o => if isAccess o.kind then 1 else 3 | none => 1
  match s.enterWait ipa kind [(r.id, k)] with
  | none => s.faultRel r k causeXlate 5
  | some (token, t) =>
    let t := t.modRel r.id (fun q => { q with sent := q.sent.filter (· != k), parked := q.parked ++ [k] })
    match op with
    | some o =>
      if parksGroup o.kind then
        (t.modOp o.id (fun o => { o with parked := true })).modGroup o.gid (fun g => { g with
          trapToken := BitVec.ofNat 32 token, trapAddr := BitVec.ofNat 64 ((s.storeFault r k).getD (16 * (k % 2 ^ 48))) })
      else t
    | none => t

/-- One sent sector of a release published, parked, or its fault kept. -/
def State.publishOne (s : State) (id k : Nat) : State :=
  match s.rels.find? (fun r => r.id == id) with
  | none => s
  | some r =>
    if !r.sent.contains k then s
    else (publishSector r k).on s (fun s => s)
      (fun _ s => s.modRel id (fun r => { r with sent := r.sent.filter (· != k) }))
      (fun cause sub ipa s => if cause = causeXlate ∧ sub = 1 then s.parkRel r k ipa else s.faultRel r k cause sub)

/-- An acquire asked for. -/
def State.newAcq (s : State) (core scope : Nat) (src : BoundarySource) : State :=
  { s with acqs := s.acqs ++ [⟨s.nextId, core, scope, src⟩], nextId := s.nextId + 1 }

/-- Whether a wait is one of a gang that has not issued the instruction it stands at. -/
def GangWait.before (w : GangWait) : Bool :=
  match w with
  | .ready | .retry | .flags _ | .boundary | .overflow _ | .slots _ | .claim => true
  | .regang | .bar _ | .syscall _ _ => false

/-- Whether a gang has issued nothing since an instruction of it. -/
def Group.stillAt (g : Group) (o : Op) : Bool :=
  let st := g.strand o.strand
  !st.exited && st.pc == o.pc + 8 && st.wait.before && (tfind st.gang g.pending).isNone

/-- The trap of a fault that a release met (R32, R40): taken at the releasing instruction, which is as if it had not been issued,
where its gang has issued nothing since, else at the group's next instruction (DEDUCED, log 25). -/
def State.trapAtRelease (s : State) (o : Op) (t : LateTrap) : State :=
  let s := s.completeOp { o with results := [], lateTrap := none }
  match tfind o.gid s.groups with
  | none => s.count (careIndex careLostFault (dieOf o.core))
  | some g =>
    if g.retiring then s.count (careIndex careLostFault (dieOf o.core))
    else if g.stillAt o then
      let s := if o.flag < 12 then s.modGroup o.gid (fun g => g.modFlag o.flag (fun _ => Flag.clear)) else s
      s.takeTrap o.gid (g.strand o.strand).gang o.pc t.cause t.sub t.addr t.ipaAddr
    else s.modGroup o.gid (fun g => { g with late := g.late ++ [(.next, t)] })

/-- What becomes of the bytes of an engine command whose release does not publish them: a drain keeps what it has done, and they join its
core's pending ones (R291); a copy counts as not performed (R32). -/
def State.endCommand (s : State) (o : Op) : State :=
  let its (v : Version) : Bool := match v.kind with | .command _ id => id == o.id | _ => false
  let mine := s.versions.filter its
  let s := { s with versions := s.versions.filter (fun v => !its v) }
  match o.kind with
  | .prism _ _ => mine.foldl (fun s v => s.addBytes { v with kind := .pending o.core, whole := false }) s
  | _ => s

/-- The instruction whose release is complete: PHASE goes on to its acquire or has been performed, an access is sent; a fault ends
it (R32, R137, R144). -/
def State.afterRelease (s : State) (id : Nat) (fault : Option LateTrap) : State :=
  match s.op? id with
  | none => s
  | some o =>
    let s := s.modOp id (fun o => { o with parked := false })
    match fault with
    | some t =>
      if isAccess o.kind = false then
        (s.endCommand o).modOp id (fun o => { o with
          relId := none, performed := true,
          lateTrap := some ⟨causeEngine, (if t.cause = causeXlate then 0x40 else 0x60) + t.sub, t.addr, t.ipaAddr, 0⟩ })
      else s.trapAtRelease o t
    | none =>
      match o.kind with
      | .phase =>
        if o.acq then (s.modOp id (fun o => { o with relId := none, acqId := some s.nextId })).newAcq o.core o.scope (.op id)
        else s.modOp id (fun o => { o with relId := none, performed := true })
      | .immLoad _ _ _ _ _ | .immStore _ | .atomic _ _ => s.modOp id (fun o => { o with relId := none, sent := true })
      | _ => s.modOp id (fun o => { o with relId := none, performed := true })

/-- A release that has published everything is complete. -/
def State.finishRel (s : State) (id : Nat) : State :=
  match s.rels.find? (fun r => r.id == id) with
  | none => s
  | some r =>
    if r.begun && r.todo == [] && r.sent == [] && r.parked == [] then
      let s := { s with rels := s.rels.filter (fun r => r.id != id) }
      match r.source with
      | .op o => s.afterRelease o r.fault
      | .launch l => s.modLaunch l (fun l => { l with releases := l.releases.filter (· != id) })
      | _ => s
    else s

/-- A release begins: the sectors it includes are those pending now (R92). -/
def State.beginRel (s : State) (r : Rel) : State :=
  s.modRel r.id (fun r => { r with begun := true, todo := s.pendingSectors r.core r.scope })

/-- Sectors that have pending bytes now and that a release in progress takes in though they had none when it began (R92). -/
def State.takeIn (s : State) (id : Nat) (late : List Nat) : State :=
  s.modRel id (fun r => { r with todo := r.todo ++ (late.dedup.filter (fun k =>
    r.of_ == .pending r.core && (s.pendingSectors r.core r.scope).contains k && !(r.todo ++ r.sent ++ r.parked).contains k)) })

/-- One sector of a release sent home and, unless it is only to be sent, published. -/
def State.releaseOne (s : State) (id : Nat) (only : Bool) (k : Nat) : State :=
  let s := match s.rels.find? (fun r => r.id == id) with
    | some r => if r.todo.contains k then s.after (sendSector r k) else s
    | none => s
  if only then s else s.publishOne id k

/-- RELEASE_BOUNDARY (R92, R97): the release `ev.a` begins when it may, takes in the sectors of `ev.late`, and sends home and publishes
those listed in `ev.secs`, all where none are listed; with `ev.on` it only sends them. Bytes stored in a sector before it is sent are
included, later ones are left out. -/
def execReleaseBoundary (s : State) : Out :=
  match s.rels.find? (fun r => r.id == s.ev.a) with
  | none => .next s
  | some r =>
    if !r.begun && !s.relReady r then .next s
    else
      let s := (if r.begun then s else s.beginRel r).takeIn r.id s.ev.late
      let ks := match s.rels.find? (fun q => q.id == r.id) with | some q => q.todo ++ q.sent | none => []
      let ks := if s.ev.secs = [] then ks else ks.filter (fun k => s.ev.secs.contains k)
      .next ((ks.foldl (fun s k => s.releaseOne r.id s.ev.on k) s).finishRel r.id)

/-- A release of no group, begun at once. -/
def State.startRel (s : State) (core scope : Nat) (src : BoundarySource) : State :=
  { s with
    rels := s.rels ++ [⟨s.nextId, core, scope, src, .pending core, true, s.pendingSectors core scope, [], [], none⟩]
    nextId := s.nextId + 1 }

/-! ### Acquires -/

/-- What waits for an acquire goes on. -/
def State.afterAcquire (s : State) (a : Acq) : State :=
  match a.source with
  | .op id => s.modOp id (fun o => { o with acqId := none, performed := true })
  | .move team => s.modTeam team (fun t => { t with saving := false, stay := false, image := none })
  | _ => s

/-- ACQUIRE_BOUNDARY (R50, R93): the acquire `ev.a` takes place; scope 0 changes nothing. -/
def execAcquireBoundary (s : State) : Out :=
  match s.acqs.find? (fun a => a.id == s.ev.a) with
  | none => .next s
  | some a =>
    let s := if a.scope = 0 then s else s.acquire a.core
    .next ({ s with acqs := s.acqs.filter (fun b => b.id != a.id) }.afterAcquire a)

/-- The CARE row of implicit boundaries (R437). -/
def careImplicit : Nat := 7

/-- Whether a core holds bytes of a line, or an engine command that may write it, for which it would need one more block (R67). -/
def State.wantsBlock (s : State) (core home line : Nat) (k : VKind) : Bool :=
  !s.hasBlock home line k &&
    ((s.heldLine core home line).any (fun x => match k with | .snapshot _ => x.pinned.isSome | _ => x.pmask != 0) ||
     s.ops.any (fun o => o.core == core && (match o.kind with | .cpy true _ _ _ _ | .prism _ _ | .tex _ _ => true | _ => false)))

/-- The release of a core that would exceed its limit of PENDING blocks (R67). -/
def State.implicitRelease (s : State) (core : Nat) : State :=
  let far := s.versions.any (fun v => v.kind == VKind.pending core && s.foreign (16 * v.sector))
  let scope := if far then 2 else 1
  let id := s.nextId
  let s := s.startRel core scope .implicit
  let s := ((s.pendingSectors core scope).foldl (fun s k => s.releaseOne id false k) s).finishRel id
  (s.modCore core (fun c => { c with implicitRel := c.implicitRel + 1 })).count (careIndex careImplicit (dieOf core))

/-- IMPLICIT_BOUNDARY (R67): core `ev.a`, which would exceed its limit of PENDING blocks with one for line `ev.c` of slice `ev.b`, completes a
release, or with `ev.on`, at its limit of SNAPSHOT blocks, an acquire. Otherwise nothing happens. -/
def execImplicitBoundary (s : State) : Out :=
  let core := s.ev.a
  if s.ev.on then
    if s.blockCount (.snapshot core) < 16384 ∨ s.wantsBlock core s.ev.b s.ev.c (.snapshot core) = false then .next s
    else .next (((s.acquire core).modCore core (fun c => { c with implicitAcq := c.implicitAcq + 1 })).count
      (careIndex careImplicit (dieOf core)))
  else
    if s.pendingCount core < 16384 ∨ s.wantsBlock core s.ev.b s.ev.c (.pending core) = false
      ∨ s.rels.any (fun r => r.core == core && r.source == .implicit) = true then .next s
    else .next (s.implicitRelease core)

end Sys2Proof.Machine
end

