-- ==== Sys2Proof/Machine/MemIssue.lean ====
section
/-! DEFINITION. Loads, stores, LDU, LDC, atomics, PHASE and PREF as they issue (R130 to R145): addresses, checks, and what is sent. -/

namespace Sys2Proof.Machine

open Sys2Proof

/-! ### Addresses and checks (R23, R132 to R134) -/

/-- The lanes whose accesses do not fault, with address and location. -/
def located : List (Nat × Nat × Xlate) → List (Nat × Nat × Loc)
  | [] => []
  | (l, va, .ok loc) :: ls => (l, va, loc) :: located ls
  | (_, _, .bad _ _) :: ls => located ls

/-- An instruction whose lanes access memory: its effect on every lane, none of which faults at issue (R23, R126, R134). -/
def memAccess (i : Instr) (x : MEM) (size : Nat) (rd wr : Bool) (lanes : Ctx → List Nat) (s : State)
    (body : Ctx → List (Nat × Nat × Loc) → State → Out) : Out :=
  issue i s (fun c s =>
    body c (located ((lanes c).map (fun l => (l, c.va x l, locate c.g.ranges (c.va x l) size rd wr)))) s)

/-- The first register a DATA field names. -/
def dataReg (x : Src) : Nat := match x with | .v n => n.val | .s n => n.val | _ => 0

/-- The value of a run of registers in a lane, the first register lowest. -/
def runValue : List Word → Nat
  | [] => 0
  | w :: ws => w.toNat + 2 ^ 32 * runValue ws

/-- A request of one lane. -/
def laneReq (size : Nat) (data : Nat → Nat) (e : Nat × Nat × Loc) : Req := ⟨e.1, e.2.1, e.2.2, size, data e.1, [], .waiting⟩

/-- An instruction in flight with its boundary: an access with REL is sent after its release (R92, R137). -/
def Ctx.send (c : Ctx) (i : Instr) (o : Op) (s : State) : State :=
  let o := if o.task.isSome then { o with scope := 0 } else o
  if o.rel && isImmediate o.kind && !o.performed then
    let r : Rel := ⟨s.nextId + 1, o.core, o.scope, .op o.id, .pending o.core, false, [], [], [], none⟩
    let s := c.start i { o with sent := false, relId := some r.id } s
    { s with rels := s.rels ++ [r], nextId := s.nextId + 1 }
  else c.start i o s

/-! ### Loads (R135 to R139) -/

/-- A load: plain or immediate (R136, R137). -/
def loadOp (i : Instr) (x : MEM) (size run : Nat) (sgn : Bool) (s : State) : Out :=
  memAccess i x size true false (fun c => c.active) s (fun c ls s =>
    let kind : OpKind := if x.sync then .immLoad size run (dataReg x.data) sgn false else .load size run (dataReg x.data) sgn false
    let o := c.op i kind (ls.map (laneReq size (fun _ => 0))) [] s
    .next (c.send i { o with performed := ls = [] } s))

/-- LD.B. -/
def execLdB (x : MEM) (s : State) : Out := loadOp (.ldB x) x 1 1 false s
/-- LD.H. -/
def execLdH (x : MEM) (s : State) : Out := loadOp (.ldH x) x 2 1 false s
/-- LD.W. -/
def execLdW (x : MEM) (s : State) : Out := loadOp (.ldW x) x 4 1 false s
/-- LD.D. -/
def execLdD (x : MEM) (s : State) : Out := loadOp (.ldD x) x 8 2 false s
/-- LD.Q. -/
def execLdQ (x : MEM) (s : State) : Out := loadOp (.ldQ x) x 16 4 false s
/-- LD.BS. -/
def execLdBs (x : MEM) (s : State) : Out := loadOp (.ldBs x) x 1 1 true s
/-- LD.HS. -/
def execLdHs (x : MEM) (s : State) : Out := loadOp (.ldHs x) x 2 1 true s

/-- LDU: one load at the lowest strand's address for every strand of the gang (R139). -/
def lduOp (i : Instr) (x : MEM) (size run : Nat) (s : State) : Out :=
  memAccess i x size true false (fun c => [4 * c.lowest]) s (fun c ls s =>
    let kind : OpKind := if x.sync then .immLoad size run (dataReg x.data) false true else .load size run (dataReg x.data) false true
    let o := c.op i kind (ls.map (laneReq size (fun _ => 0))) [] s
    .next (c.send i { o with lanes := c.strands } s))

/-- LDU.W. -/
def execLduW (x : MEM) (s : State) : Out := lduOp (.lduW x) x 4 1 s
/-- LDU.D. -/
def execLduD (x : MEM) (s : State) : Out := lduOp (.lduD x) x 8 2 s

/-! ### LDC (R140) -/

/-- LDC: the index of a lane. -/
def ldcIndex (c : Ctx) (x : MEM) (l : Nat) : Nat := c.la x l

/-- LDC (R140). -/
def execLdc (x : MEM) (s : State) : Out :=
  issue (.ldc x) s (fun c s =>
    let scalar := match x.data with | .s _ => true | _ => false
    let lanes := if scalar then [4 * c.lowest] else c.active
    match lanes.find? (fun l => decide (32 ≤ ldcIndex c x l)) with
    | some l => raiseHere c causeRange 0 (ldcIndex c x l) s
    | none =>
      let value (l : Nat) : Word := c.consts.getD (ldcIndex c x l) 0
      let results := match x.data with
        | .s n => c.strands.map (fun t => (RegElem.s n.val t, value (4 * c.lowest)))
        | _ => lanes.map (fun l => (RegElem.v (dataReg x.data) l, value l))
      let o := c.op (.ldc x) .fixed [] [] s
      .next (c.start (.ldc x) { o with results := results, performed := true } s))

/-! ### Stores (R48, R136 to R138) -/

/-- Requests of one store that name one location become one, with the highest lane's data (R98). -/
def lastWriters : List Req → List Req
  | [] => []
  | r :: rs => if rs.any (fun q => q.loc == r.loc) then lastWriters rs else r :: lastWriters rs

/-- Whether a plain load of a group has yet to be performed, so that a later plain store cannot be (R89) (DEDUCED, log 28). -/
def State.loadsPending (s : State) (gid : Nat) : Bool :=
  s.ops.any (fun o => o.gid == gid && !o.performed && (match o.kind with | .load _ _ _ _ _ => true | _ => false))

/-- A store: plain or immediate (R136, R137). -/
def storeOp (i : Instr) (x : MEM) (size run : Nat) (s : State) : Out :=
  memAccess i x size false true (fun c => c.active) s (fun c ls s =>
    let data (l : Nat) : Nat := runValue (c.run x.data run l) % 2 ^ (8 * size)
    let reqs := ls.map (laneReq size data)
    if x.sync then
      let o := c.op i (.immStore size) (lastWriters reqs) [] s
      .next (c.send i { o with performed := ls = [] } s)
    else if c.g.task.isSome then
      let o := c.op i (.store size) (lastWriters reqs) [] s
      .next (c.send i { o with performed := ls = [] } s)
    else if ls = [] then .next (c.send i { c.op i (.store size) [] [] s with performed := true } s)
    else if s.loadsPending c.g.gid then .next (c.block s)
    else (storeAll c.core reqs).on s (fun s => .next (c.block s))
      (fun _ s => .next (c.send i (c.op i (.store size) reqs [] s) s)) (fun _ _ _ s => .next (c.block s)))

/-- ST.B. -/
def execStB (x : MEM) (s : State) : Out := storeOp (.stB x) x 1 1 s
/-- ST.H. -/
def execStH (x : MEM) (s : State) : Out := storeOp (.stH x) x 2 1 s
/-- ST.W. -/
def execStW (x : MEM) (s : State) : Out := storeOp (.stW x) x 4 1 s
/-- ST.D. -/
def execStD (x : MEM) (s : State) : Out := storeOp (.stD x) x 8 2 s
/-- ST.Q. -/
def execStQ (x : MEM) (s : State) : Out := storeOp (.stQ x) x 16 4 s

/-! ### Atomics (R100, R142, R143) -/

/-- Lanes that name one location gathered into one request, lanes ascending: for each its operand and compare value (R100). -/
def gatherAtoms (arg : Nat → Word × Word) : List (Nat × Nat × Loc) → List Req → List Req
  | [], acc => acc.reverse
  | (l, va, loc) :: ls, acc =>
    if acc.any (fun r => r.loc == loc) then
      gatherAtoms arg ls (acc.map (fun r => if r.loc == loc then { r with args := r.args ++ [(l, arg l)] } else r))
    else gatherAtoms arg ls (⟨l, va, loc, 4, 0, [(l, arg l)], .waiting⟩ :: acc)

/-- The lines of an atomic whose requests wait at issue together: there is no block for one of them (R401) (DEDUCED, log 101). -/
def State.heldBack (s : State) (c : Ctx) (o : Op) : Option (List (Nat × Nat)) :=
  let lines := (o.reqs.map (fun r => (r.loc.home, r.loc.line))).dedup
  if s.toBuffer o && s.overflowHolds c.g lines then some lines else none

/-- A group that an atomic of the ordered buffer holds without a flag lets its turn go (R121, R396). -/
def Ctx.endHeldTurn (c : Ctx) (o : Op) (s : State) : State :=
  if s.toBuffer o && (match tfind c.g.gid s.groups with | some g => g.heldBy == some o.id | none => false) then s.passTurn c.g.team else s

/-- An atomic or a reduction (R142, R143): for CAS the operand is the swap value in v(DATA) and SB the compare value. -/
def atomOp (i : Instr) (x : MEM) (op : AtomOp) (ret : Bool) (s : State) : Out :=
  memAccess i x 4 true true (fun c => c.active) s (fun c ls s =>
    let sb (l : Nat) : Word := c.read none 0 0 x.sb l
    let arg (l : Nat) : Word × Word := if op = .cas then (c.g.vget (dataReg x.data) l, sb l) else (sb l, 0)
    let o := { c.op i (.atomic op (if ret then some (dataReg x.data) else none)) (gatherAtoms arg ls []) [] s with performed := ls = [] }
    match s.heldBack c o with
    | some lines => .next (c.waitTurn (.overflow lines) true s)
    | none => .next (c.endHeldTurn o (c.send i o s)))

/-- ATOM.ADD. -/
def execAtomAdd (x : MEM) (s : State) : Out := atomOp (.atomAdd x) x .add true s
/-- ATOM.MIN. -/
def execAtomMin (x : MEM) (s : State) : Out := atomOp (.atomMin x) x .min true s
/-- ATOM.MAX. -/
def execAtomMax (x : MEM) (s : State) : Out := atomOp (.atomMax x) x .max true s
/-- ATOM.UMIN. -/
def execAtomUmin (x : MEM) (s : State) : Out := atomOp (.atomUmin x) x .umin true s
/-- ATOM.UMAX. -/
def execAtomUmax (x : MEM) (s : State) : Out := atomOp (.atomUmax x) x .umax true s
/-- ATOM.AND. -/
def execAtomAnd (x : MEM) (s : State) : Out := atomOp (.atomAnd x) x .and true s
/-- ATOM.OR. -/
def execAtomOr (x : MEM) (s : State) : Out := atomOp (.atomOr x) x .or true s
/-- ATOM.XOR. -/
def execAtomXor (x : MEM) (s : State) : Out := atomOp (.atomXor x) x .xor true s
/-- ATOM.XCHG. -/
def execAtomXchg (x : MEM) (s : State) : Out := atomOp (.atomXchg x) x .xchg true s
/-- ATOM.CAS. -/
def execAtomCas (x : MEM) (s : State) : Out := atomOp (.atomCas x) x .cas true s
/-- ATOM.FADD. -/
def execAtomFadd (x : MEM) (s : State) : Out := atomOp (.atomFadd x) x .fadd true s
/-- ATOM.FMIN. -/
def execAtomFmin (x : MEM) (s : State) : Out := atomOp (.atomFmin x) x .fmin true s
/-- ATOM.FMAX. -/
def execAtomFmax (x : MEM) (s : State) : Out := atomOp (.atomFmax x) x .fmax true s
/-- RED.ADD. -/
def execRedAdd (x : MEM) (s : State) : Out := atomOp (.redAdd x) x .add false s
/-- RED.MIN. -/
def execRedMin (x : MEM) (s : State) : Out := atomOp (.redMin x) x .min false s
/-- RED.MAX. -/
def execRedMax (x : MEM) (s : State) : Out := atomOp (.redMax x) x .max false s
/-- RED.UMIN. -/
def execRedUmin (x : MEM) (s : State) : Out := atomOp (.redUmin x) x .umin false s
/-- RED.UMAX. -/
def execRedUmax (x : MEM) (s : State) : Out := atomOp (.redUmax x) x .umax false s
/-- RED.AND. -/
def execRedAnd (x : MEM) (s : State) : Out := atomOp (.redAnd x) x .and false s
/-- RED.OR. -/
def execRedOr (x : MEM) (s : State) : Out := atomOp (.redOr x) x .or false s
/-- RED.XOR. -/
def execRedXor (x : MEM) (s : State) : Out := atomOp (.redXor x) x .xor false s
/-- RED.XCHG. -/
def execRedXchg (x : MEM) (s : State) : Out := atomOp (.redXchg x) x .xchg false s
/-- RED.CAS. -/
def execRedCas (x : MEM) (s : State) : Out := atomOp (.redCas x) x .cas false s
/-- RED.FADD. -/
def execRedFadd (x : MEM) (s : State) : Out := atomOp (.redFadd x) x .fadd false s
/-- RED.FMIN. -/
def execRedFmin (x : MEM) (s : State) : Out := atomOp (.redFmin x) x .fmin false s
/-- RED.FMAX. -/
def execRedFmax (x : MEM) (s : State) : Out := atomOp (.redFmax x) x .fmax false s

/-! ### PHASE and PREF (R144, R145) -/

/-- PHASE (R144): its boundary begins once the group's earlier accesses have completed; in a task it only orders them (R152). One of scope
0 completes at once, and the group's later accesses stay behind its earlier ones (R90) (DEDUCED, log 79). -/
def execPhase (x : MEM) (s : State) : Out :=
  issue (.phase x) s (fun c s =>
    let o := c.op (.phase x) .phase [] [] s
    let o := if o.task.isSome then { o with scope := 0 } else o
    if x.scope = 0 then
      .next ((c.start (.phase x) { o with performed := true } s).modGroup c.g.gid (fun g => { g with fence := o.id }))
    else
      let r : Rel := ⟨s.nextId + 1, o.core, if x.rel then o.scope else 0, .op o.id, .pending o.core, false, [], [], [], none⟩
      let s := c.start (.phase x) { o with relId := some r.id } s
      .next { s with rels := s.rels ++ [r], nextId := s.nextId + 1 })

/-- PREF (R145): a request for each line its lanes name; a lane whose address would fault is dropped. -/
def execPref (x : MEM) (s : State) : Out :=
  issue (.pref x) s (fun c s =>
    let ls := located (c.active.map (fun l => (l, c.va x l, translate c.g.ranges (c.va x l) 1 true false false)))
    let reqs := lastWriters (ls.map (fun e => laneReq 16 (fun _ => 0) (e.1, e.2.1, e.2.2.sector 0)))
    let o := c.op (.pref x) .pref reqs [] s
    .next (c.start (.pref x) { o with performed := reqs = [] } s))

end Sys2Proof.Machine
end

