-- ==== Sys2Proof/Machine/MemHome.lean ====
section
/-! DEFINITION. What the memory side does with accesses in flight: confirmations, parks and faults (R31 to R34), loads at L1 (R89),
immediate accesses, atomics and a task's accesses at the home slices (R98 to R101, R153, R375, R398, R403). -/

namespace Sys2Proof.Machine

open Sys2Proof

/-! ### Parking (R33, R34, R412) -/

/-- Whether an instruction in flight is a KSPILL. -/
def isSpill (k : OpKind) : Bool :=
  match k with
  | .spillFill i => (match i with | .kspill _ => true | _ => false)
  | _ => false

/-- Whether an instruction in flight puts pending bytes at L1. -/
def storesPlain (k : OpKind) : Bool := match k with | .store _ => true | k => isSpill k

/-- KIND of a fault-queue record (R412). -/
def kindCode (k : OpKind) : Nat :=
  match k with
  | .load _ _ _ _ _ | .immLoad _ _ _ _ _ => 0
  | .store _ | .immStore _ => 1
  | .atomic _ _ => 2
  | .fetch => 4
  | .spillFill _ => if isSpill k then 1 else 0
  | _ => 3

/-- The update of one request of an instruction in flight. -/
def State.modReq (s : State) (id n : Nat) (f : Req → Req) : State :=
  s.modOp id (fun o => { o with reqs := lset o.reqs n f })

/-- A request at a state. -/
def State.setReq (s : State) (id n : Nat) (st : ReqState) : State := s.modReq id n (fun r => { r with state := st })

/-- A NOTPRESENT access parks, and its group with it but for an engine command, or is answered WAITFULL (R32 to R34). -/
def State.parkReq (s : State) (o : Op) (n : Nat) (r : Req) (ipa : Nat) : State :=
  match s.enterWait ipa (kindCode o.kind) [(o.id, n)] with
  | some (token, s) =>
    let s := s.setReq o.id n (.parked token)
    if parksGroup o.kind then
      (s.modOp o.id (fun o => { o with parked := true })).modGroup o.gid (fun g => { g with trapToken := BitVec.ofNat 32 token, trapAddr := BitVec.ofNat 64 r.va })
    else s
  | none => s.setReq o.id n (.failed causeXlate 5 ipa)

/-- A NOTPRESENT of the frontier task: the task is aborted and waits for the page under a token, without a worker; none where the
wait table is full (R384). -/
def State.taskNotPresent (s : State) (launch slot ipa : Nat) : Option State :=
  match s.enterWait ipa 5 [] with
  | none => none
  | some (token, s) =>
    some ((s.abortTasks launch [slot]).modTask launch slot (fun r => { r with state := 5, token := some token }))

/-- Whether a slot holds the frontier task of a launch's domain. -/
def State.frontierSlot (s : State) (launch slot : Nat) : Bool :=
  match tfind launch s.domains with | some d => d.isFrontier slot | none => false

/-- A fault outcome of one request, met at an IPA, by the kind of its access (R32): PREF drops it, a group outside a task parks on
NOTPRESENT, the frontier task is aborted, and every other outcome is kept for its trap. -/
def State.faultReq (s : State) (o : Op) (n : Nat) (r : Req) (cause sub ipa : Nat) : State :=
  match o.kind with
  | .pref => s.setReq o.id n .done
  | _ =>
    if cause = causeXlate ∧ sub = 1 then
      match o.task with
      | none => s.parkReq o n r ipa
      | some (l, k) =>
        if s.frontierSlot l k then (s.taskNotPresent l k ipa).getD (s.setReq o.id n (.failed causeXlate 5 ipa))
        else s.setReq o.id n (.failed cause sub ipa)
    else s.setReq o.id n (.failed cause sub ipa)

/-! ### The task view (R63, R375) -/

/-- A task put in its place among others in the task order. -/
def insertTask (e : Nat × TaskRec) : List (Nat × TaskRec) → List (Nat × TaskRec)
  | [] => [e]
  | f :: fs => if taskBefore e.2 f.2 then e :: f :: fs else f :: insertTask e fs

/-- Tasks in the task order (R372). -/
def sortTasks (l : List (Nat × TaskRec)) : List (Nat × TaskRec) := l.foldr insertTask []

/-- Versions of a domain's tasks in a sector that a task reads, earliest first and its own last (R63). -/
def State.taskSources (s : State) (launch slot home sec : Nat) : List (Nat × Version) :=
  match tfind launch s.domains with
  | none => []
  | some d =>
    match tfind slot d.recs with
    | none => []
    | some me =>
      let mine (e : Nat × TaskRec) : Bool := e.1 == slot || taskBefore e.2 me
      (sortTasks (d.recs.filter mine)).filterMap (fun e => (s.version? (.spec launch e.1) home sec).map (fun v => (e.1, v)))

/-- A task's view of a sector, with the source of each byte: a slot, or none for COMMITTED. -/
def taskBytes (base : BitVec 128) (srcs : List (Nat × Version)) : BitVec 128 × (Nat → Option Nat) :=
  srcs.foldl (fun acc e =>
    (mergeBytes acc.1 e.2.data e.2.mask, fun i => if e.2.mask.getLsbD i then some e.1 else acc.2 i)) (base, fun _ => none)

/-- A read mark left by a task in its block of the line, which lies at a place, joined to the one it has in the sector (R375). -/
def State.mark (s : State) (launch slot home sec : Nat) (froms : List Nat) (comm : Bool) (place : Place) : State :=
  let same (m : Mark) : Bool := m.launch == launch && m.slot == slot && m.home == home && m.sector == sec
  if !s.ownerRuns (.spec launch slot) then s
  else if s.marks.any same then
    { s with marks := s.marks.map (fun m =>
        if same m then { m with from_ := (m.from_ ++ froms).dedup, committed := m.committed || comm } else m) }
  else { s with marks := s.marks ++ [⟨launch, slot, home, sec, froms, comm, place⟩] }

/-- A task's read, with its mark (R63, R375). Room for the mark is made first, so that a version which that aborts is not read (R66,
R381). -/
def taskRead (launch slot : Nat) (l : Loc) (size : Nat) : Mem Nat := do
  let base ← committed l
  let place ← takeBlock l (.spec launch slot)
  let s ← get
  let (d, src) := taskBytes base (s.taskSources launch slot l.home l.sec)
  let bytes := (List.range 16).filter (fun i => (spanMask l size).getLsbD i)
  modify (fun s => s.mark launch slot l.home l.sec (bytes.filterMap src).dedup (bytes.any (fun i => (src i).isNone)) place)
  pure (spanValue l size d)

/-- A task's write: a SPECULATIVE version, and the aborts of those that read past it (R375, R376). -/
def taskWrite (launch slot : Nat) (l : Loc) (size v : Nat) : Mem Unit := do
  putVersion (.spec launch slot) l (spanMask l size) (spanData l v) false none
  modify (fun s => s.specConflict launch slot l.home l.sec)

/-! ### Answers (R31) -/

/-- The memory side's answer for a plain store: nothing is asked where L1 remembers that the line is writable, which it then does (R31,
R138). -/
def answerStore (o : Op) (r : Req) : Mem Unit := do
  let s ← get
  let key := coreKey o.core r.loc.home r.loc.line
  if tget false s.l1conf key then pure ()
  else do
    confirm r.loc true
    modify (fun s => if s.heldLine o.core r.loc.home r.loc.line = [] then s else { s with l1conf := tset false s.l1conf key true })

/-- Whether an access is a plain load that the L1 of its group's core can serve by itself (R47, R89). -/
def State.coveredLoad (s : State) (o : Op) (r : Req) : Bool :=
  match o.kind with
  | .load size _ _ _ _ => o.task.isNone && s.isResident o.gid && (s.held? o.core r.loc).covers r.loc size
  | _ => false

/-- The memory side's answer for one request: the line confirmed, and filled for a read. -/
def answer (o : Op) (r : Req) : Mem Unit := do
  let s ← get
  if o.task.isSome && s.foreign r.loc.ipa && o.kind != .pref then memFault causeProt 6 r.loc.ipa
  else if s.coveredLoad o r then pure ()
  else if isSpill o.kind then (if o.task.isSome then confirm r.loc true else answerStore o r)
  else match o.kind with
    | .store _ => if o.task.isSome then confirm r.loc true else answerStore o r
    | .immStore _ => confirm r.loc true
    | .atomic _ _ => do
      confirm r.loc true
      let _ ← committed r.loc
    | .fetch => confirm r.loc false
    | .cpy true _ _ _ _ => confirm r.loc true
    | .pref => do
      confirm r.loc false
      let c ← match r.loc.md with | some m => lineCount r.loc.home m | none => pure 8
      let _ ← storedLine r.loc c
      modify (fun s => s.addCopy o.core r.loc)
    | _ => do
      confirm r.loc false
      let _ ← committed r.loc

/-- Whether a request waits for its answer or on a page. -/
def ReqState.open_ : ReqState → Bool
  | .waiting | .parked _ => true
  | _ => false

/-- Whether a request ended in a fault outcome. -/
def ReqState.bad : ReqState → Bool
  | .failed _ _ _ => true
  | _ => false

/-- Whether a request is confirmed and not yet performed. -/
def ReqState.ready : ReqState → Bool
  | .confirmed => true
  | _ => false

/-- The request of the lowest faulting lane (R32). -/
def lowestBad : List Req → Option Req
  | [] => none
  | r :: rs =>
    match lowestBad rs with
    | none => if r.state.bad then some r else none
    | some q => if r.state.bad && decide (r.lane ≤ q.lane) then some r else some q

/-- Whether an instruction in flight is an engine command, whose faults are ENGINE traps (R32, R35). -/
def isEngine (k : OpKind) : Bool :=
  match k with
  | .cpy _ _ _ _ _ | .prism _ _ | .tex _ _ | .ray _ | .closure _ => true
  | _ => false

/-- The ENGINE subcode of a fault outcome (R35). -/
def engineSub (cause sub : Nat) : Nat :=
  if cause = causeRange then 0x50 else if cause = causeXlate then 0x40 + sub else 0x60 + sub

/-- The late trap of a fault outcome (R32, R35). -/
def faultTrap (k : OpKind) (cause sub va ipa : Nat) : LateTrap :=
  if isEngine k then ⟨causeEngine, engineSub cause sub, BitVec.ofNat 64 va, false, ipa⟩
  else ⟨cause, sub, BitVec.ofNat 64 va, false, ipa⟩

/-- An instruction that ends on a fault outcome is not performed; a plain store's bytes stay pending at L1 (R32). -/
def State.endFaulted (s : State) (o : Op) (r : Req) : State :=
  let (cause, sub, ipa) := match r.state with | .failed c n ipa => (c, n, ipa) | _ => (0, 0, 0)
  let s := if o.task.isSome || !storesPlain o.kind then s else
    (o.reqs.filter (fun (q : Req) => q.state.bad)).reverse.foldl (fun (s : State) (q : Req) => s.markFault o.core q.loc q.va) s
  s.modOp o.id (fun o => { o with
    performed := true
    results := []
    lateTrap := match o.kind with | .fetch => none | _ => some (faultTrap o.kind cause sub r.va ipa) })

/-! ### Performing in program order -/

/-- The words a loaded value gives a run of registers (R135). -/
def loadWords (size run : Nat) (sgn : Bool) (v : Nat) : List Word :=
  if sgn then [(BitVec.ofNat (8 * size) v).signExtend 32]
  else (List.range run).map (fun k => BitVec.ofNat 32 (v / 2 ^ (32 * k)))

/-- The register elements a load writes for one request (R135, R139). -/
def loadElems (o : Op) (size run dst : Nat) (sgn scalar : Bool) (lane v : Nat) : List (RegElem × Word) :=
  let ws := loadWords size run sgn v
  ((List.range run).map (fun k =>
    let w := ws.getD k 0
    if scalar then o.lanes.map (fun t => (RegElem.s (dst + k) t, w)) else [(RegElem.v (dst + k) lane, w)])).flatten

/-- The value of one lane of a load where it is performed: a task's view, the core's L1, or COMMITTED (R63). -/
def loadValue (o : Op) (r : Req) : Mem Nat := do
  let s ← get
  if o.task.isSome || s.isResident o.gid then modify (fun s => s.scoutLoad o.core o.gid o.ranges r.va r.loc)
  match o.task with
  | some (l, k) => taskRead l k r.loc r.size
  | none => if s.isResident o.gid then plainLoad o.core r.loc r.size else immRead r.loc r.size

/-- One request of a plain load or a task's store performed, unless its task has been aborted meanwhile. -/
def State.performReq (s : State) (o : Op) (n : Nat) (r : Req) : State :=
  if (s.op? o.id).isNone then s else
  match o.kind with
  | .load size run dst sgn scalar =>
    (loadValue o r).on s id
      (fun v s => (s.setReq o.id n .done).modOp o.id (fun p =>
        { p with results := p.results ++ loadElems o size run dst sgn scalar r.lane v }))
      (fun cause sub ipa s => s.faultReq o n r cause sub ipa)
  | .store size =>
    match o.task with
    | some (l, k) => (taskWrite l k r.loc size r.data).on s id (fun _ s => s.setReq o.id n .done) (fun _ _ _ s => s)
    | none => s.setReq o.id n .done
  | _ => s

/-- Requests of an instruction with their numbers. -/
def numbered (rs : List Req) : List (Nat × Req) := rs.mapIdx (fun i r => (i, r))

/-- An instruction whose requests are all done has been performed. -/
def State.settlePerformed (s : State) (id : Nat) : State :=
  s.modOp id (fun o => if o.reqs.all (fun r => r.state == .done) then { o with performed := true } else o)

/-- Whether an instruction in flight takes its place in its group's program order: a plain load of any group, and every access of a
task (R89, R152). -/
def inOrder (o : Op) : Bool :=
  match o.kind with
  | .load _ _ _ _ _ => true
  | .store _ | .immLoad _ _ _ _ _ | .immStore _ | .atomic _ _ => o.task.isSome
  | _ => false

/-- The requests of an instruction that were performed while another of them met a fault outcome wait again, to be performed with it (R89). -/
def Op.undo (o : Op) (before : Op) : Op :=
  { o with
    reqs := o.reqs.map (fun r => if r.state == .done then { r with state := .confirmed } else r)
    results := before.results }

/-- Every request of an instruction performed together, at one point of the core's order; where a slice or L1 stalls one of them, none is yet
(R89). One that meets a fault outcome as it is performed parks or ends it, and no other is performed without it. -/
def State.performAll (s : State) (o : Op) : State :=
  let t := (numbered o.reqs).foldl (fun s e => s.performReq o e.1 e.2) s
  match t.op? o.id with
  | none => t
  | some p =>
    if p.reqs.any (fun r => r.state.ready) then s.keepFull t
    else if p.reqs.any (fun r => r.state.open_) then t.modOp o.id (fun p => p.undo o)
    else match lowestBad p.reqs with
      | some r => t.endFaulted p r
      | none => t.settlePerformed o.id

/-- Whether an instruction that should have been performed waits still. -/
def State.unsettled (s : State) (id : Nat) : Bool := match s.op? id with | some p => !p.performed | none => false

/-- The instructions of a group performed in program order as far as they are confirmed. -/
def State.cascade (s : State) (gid : Nat) : List Op → State
  | [] => s
  | o :: os =>
    if o.gid ≠ gid ∨ inOrder o = false ∨ o.performed = true then s.cascade gid os
    else if o.reqs.all (fun r => r.state.ready) = false then s
    else match o.kind with
      | .load _ _ _ _ _ | .store _ =>
        let s := s.performAll o
        if s.unsettled o.id then s else s.cascade gid os
      | _ => s

/-- What follows once every request of an instruction is answered: a fault ends it; a plain store is complete; loads and a task's
accesses are performed in program order. -/
def State.settleOp (s : State) (id : Nat) : State :=
  match s.op? id with
  | none => s
  | some o =>
    if o.reqs.any (fun r => r.state.open_) || (match o.kind with | .spillFill _ => true | _ => false) then s
    else match lowestBad o.reqs with
      | some r => (s.endFaulted o r).cascade o.gid s.ops
      | none =>
        match o.kind with
        | .store _ => if o.task.isSome then s.cascade o.gid s.ops else s.modOp id (fun o => { o with performed := true })
        | .load _ _ _ _ _ => s.cascade o.gid s.ops
        | .pref | .fetch => s.modOp id (fun o => { o with performed := true })
        | _ => s

/-- A store whose bytes left L1 with the core its group was pre-empted on: performed on COMMITTED while the group is not resident,
else at the group's new core (R413). Such a request names itself in `args`. -/
def movedStore (o : Op) (r : Req) : Mem Unit := do
  let s ← get
  if r.args = [] then pure ()
  else if s.isResident o.gid then do
    l1Room o.core r.loc.home r.loc.line
    let whole : Bool := r.loc.md.isSome && coveredBytes o.reqs r.loc.home r.loc.line == 2 ^ 128 - 1
    modify (fun s =>
      let s := s.plainStore o.core r.loc r.size r.data
      if whole then s.setHeld o.core r.loc { s.held? o.core r.loc with whole := true } else s)
  else immWrite r.loc r.size r.data

/-- The answer of a request, and the bytes of a store that has to be performed with it. -/
def answerAll (o : Op) (r : Req) : Mem Unit := do
  answer o r
  match o.kind with
  | .store _ => if o.task.isNone then movedStore o r else pure ()
  | _ => pure ()

/-- Whether the requests of an instruction are answered one by one, not read by an engine as it works. -/
def OpKind.answered (k : OpKind) : Bool :=
  match k with
  | .load _ _ _ _ _ | .store _ | .immLoad _ _ _ _ _ | .immStore _ | .atomic _ _ | .phase | .pref | .fetch | .cpy _ _ _ _ _
  | .spillFill _ => true
  | .fixed | .local _ _ _ _ | .cbank _ _ _ | .wake | .spawn | .prism _ _ | .tex _ _ | .ray _ | .closure _ => false

/-- Whether the Facet unit holds a request back: its group is not resident (R364). -/
def State.facetAway (s : State) (o : Op) : Bool :=
  match o.kind with | .spillFill _ => !s.isResident o.gid | _ => false

/-- TRANSLATION_ANSWER (R31, R32): the memory side answers request `ev.b` of instruction `ev.a`; an instruction that is answered and still to be
performed in its place is tried again. -/
def execTranslationAnswer (s : State) : Out :=
  match s.op? s.ev.a with
  | none => .next s
  | some o =>
    match o.reqs[s.ev.b]? with
    | none => .next s
    | some r =>
      if o.sent = false ∨ o.kind.answered = false ∨ s.boot.phase ≠ 4 ∨ s.facetAway o = true then .next s
      else if r.state = .confirmed ∧ inOrder o = true ∧ o.performed = false then .next (s.settleOp o.id)
      else if r.state ≠ .waiting then .next s
      else
        let n := s.ev.b
        .next ((answerAll o r).on s id
          (fun _ s => (s.setReq o.id n (match o.kind with | .pref | .fetch => .done | _ => .confirmed)).settleOp o.id)
          (fun cause sub ipa s => (s.faultReq o n r cause sub ipa).settleOp o.id))

/-! ### Immediate accesses and atomics (R90, R98, R100) -/

/-- Whether two requests touch a common byte. -/
def overlaps (a b : Req) : Bool :=
  a.loc.home == b.loc.home && decide (a.loc.ipa < b.loc.ipa + b.size) && decide (b.loc.ipa < a.loc.ipa + a.size)

/-- Whether a request holds back a later one of its group: it touches a common byte and has not reached its place (R90). One that lies in the
ordered buffer has: it was sent in its turn and is applied when the token comes, and a later access that waited for that could keep the token
from coming (R153, R398, R402) (DEDUCED, log 81). -/
def holdsBack (q r : Req) : Bool := q.state != .done && q.state != .buffered && overlaps q r

/-- Whether a request may be performed at its home: its instruction sent and wholly confirmed, no earlier immediate access of its
group to a common byte unperformed (R90), and in a task every earlier access performed (DEDUCED, log 34). -/
def State.homeReady (s : State) (o : Op) (r : Req) : Bool :=
  o.sent && r.state == .confirmed && !o.reqs.any (fun q => q.state.open_ || q.state.bad) &&
  !s.ops.any (fun p => p.gid == o.gid && decide (p.id < o.id) && !p.performed &&
    ((isImmediate p.kind && p.reqs.any (fun q => holdsBack q r)) || (o.task.isSome && isAccess p.kind)))

/-- An immediate access whose requests are all performed: its acquire begins, and a task's later accesses go on (R93, R137). -/
def State.afterHome (s : State) (o : Op) : State :=
  let s := s.settlePerformed o.id
  match s.op? o.id with
  | some p =>
    if p.performed then
      let s := if p.acq then s.newAcq p.core p.scope (.group p.gid) else s
      if p.task.isSome then s.cascade p.gid s.ops else s
    else s
  | none => s

/-- A request performed at its home, or its fault outcome; where the slice stalls, the machine is left as `stall`. -/
def State.atHome (s : State) (o : Op) (n : Nat) (r : Req) (stall : State) (m : Mem (List (RegElem × Word))) : State :=
  m.on s (fun t => stall.keepFull t)
    (fun res s => ((s.setReq o.id n .done).modOp o.id (fun p => { p with results := p.results ++ res })).afterHome o)
    (fun cause sub ipa s => (s.faultReq o n r cause sub ipa).settleOp o.id)

/-- An immediate access performed: on COMMITTED, or on a task's view (R51, R152). -/
def immPerform (o : Op) (r : Req) : Mem (List (RegElem × Word)) :=
  match o.kind, o.task with
  | .immLoad size run dst sgn scalar, none => do
    let v ← immRead r.loc size
    pure (loadElems o size run dst sgn scalar r.lane v)
  | .immLoad size run dst sgn scalar, some (l, k) => do
    let v ← taskRead l k r.loc size
    pure (loadElems o size run dst sgn scalar r.lane v)
  | .immStore size, none => do
    immWrite r.loc size r.data
    pure []
  | .immStore size, some (l, k) => do
    taskWrite l k r.loc size r.data
    pure []
  | _, _ => pure []

/-- The requests of an immediate store that make up a whole compressed line, which is written as one (R83). -/
def wholeImmediate (o : Op) (r : Req) : List (Nat × Req) :=
  match o.kind, o.task with
  | .immStore _, none =>
    if r.loc.md.isSome && coveredBytes o.reqs r.loc.home r.loc.line == 2 ^ 128 - 1 then
      (o.reqs.mapIdx (fun i q => (i, q))).filter (fun e => e.2.loc.home == r.loc.home && e.2.loc.line == r.loc.line)
    else []
  | _, _ => []

/-- A line that requests of one store write, lanes ascending. -/
def lineOf (rs : List (Nat × Req)) : Nat :=
  rs.foldl (fun v e =>
    let at' := 8 * (e.2.loc.ipa % 128)
    v - bitsOf v at' (8 * e.2.size) * 2 ^ at' + e.2.data % 2 ^ (8 * e.2.size) * 2 ^ at') 0

/-- A whole compressed line written by an immediate store (R83, R84). -/
def immLine (l : Loc) (v : Nat) : Mem Unit := do
  confirm l true
  match l.md with
  | some md => commitLine l md v
  | none => pure ()

/-- IMMEDIATE_AT_HOME (R83, R98): request `ev.b` of the immediate access `ev.a`, with the rest of its line where a store writes all of a compressed
one. -/
def execImmediateAtHome (s : State) : Out :=
  match s.op? s.ev.a with
  | none => .next s
  | some o =>
    match o.kind, o.reqs[s.ev.b]? with
    | .immLoad _ _ _ _ _, some r | .immStore _, some r =>
      if !s.homeReady o r then .next s
      else match wholeImmediate o r with
        | [] => .next (s.atHome o s.ev.b r s (immPerform o r))
        | rs =>
          if !rs.all (fun e => s.homeReady o e.2) then .next s
          else .next ((immLine r.loc (lineOf rs)).on s id
            (fun _ s => (rs.foldl (fun s e => s.setReq o.id e.1 .done) s).afterHome o)
            (fun cause sub ipa s => (s.faultReq o s.ev.b r cause sub ipa).settleOp o.id))
    | _, _ => .next s

/-- The function apply of R100. -/
def applyAtom (op : AtomOp) (v x cmp : Word) : Word :=
  match op with
  | .add => v + x
  | .min => if v.slt x then v else x
  | .max => if v.slt x then x else v
  | .umin => if v.ult x then v else x
  | .umax => if v.ult x then x else v
  | .and => v &&& x
  | .or => v ||| x
  | .xor => v ^^^ x
  | .xchg => x
  | .cas => if v = cmp then x else v
  | .fadd => fadd32 v x
  | .fmin => fmin32 v x
  | .fmax => fmax32 v x

/-- The lanes of one request applied in order to a value: the last value and what each lane sees (R100). -/
def applyLanes (op : AtomOp) : Word → List (Nat × Word × Word) → Word × List (Nat × Word)
  | v, [] => (v, [])
  | v, (l, x, cmp) :: rest =>
    let (v', olds) := applyLanes op (applyAtom op v x cmp) rest
    (v', (l, v) :: olds)

/-- A request of an atomic applied as one operation (R100, R375). -/
def atomPerform (o : Op) (op : AtomOp) (dst : Option Nat) (r : Req) : Mem (List (RegElem × Word)) := do
  let old ← match o.task with
    | some (l, k) => taskRead l k r.loc 4
    | none => do
      confirm r.loc true
      immRead r.loc 4
  let (v, olds) := applyLanes op (BitVec.ofNat 32 old) r.args
  match o.task with
  | some (l, k) => taskWrite l k r.loc 4 v.toNat
  | none => immWrite r.loc 4 v.toNat
  pure (match dst with | some d => olds.map (fun e => (RegElem.v d e.1, e.2)) | none => [])

/-- The launches other than a request's own that hold ORDERED versions of its line (R403). -/
def State.openFor (s : State) (o : Op) (l : Loc) : List Nat :=
  let own := match tfind o.gid s.groups with | some g => some g.launch | none => none
  ((s.ordered.filter (fun q => q.home == l.home && q.sector / 8 == l.line && some q.launch != own)).map (·.launch)).dedup

/-- A request sent to the ordered buffer: an ORDERED version of its group; it waits where no block is free for it (R398, R401). -/
def State.bufferReq (s : State) (o : Op) (n : Nat) (r : Req) : State :=
  match tfind o.gid s.groups with
  | none => s
  | some g =>
    let k : VKind := .ordered g.launch g.index.toNat
    match s.block? r.loc.home r.loc.line k with
    | (s, none) => s
    | (s, some place) =>
      let s := s.addBytes ⟨k, r.loc.home, r.loc.sec, r.loc.md, 0, 0, false, none, place⟩
      { s.setReq o.id n .buffered with
        ordered := s.ordered ++ [⟨g.launch, g.index.toNat, r.loc.home, r.loc.sec, o.id, n⟩] }

/-- Whether the group that holds its launch's token still has ORDERED versions in a sector (R398). -/
def State.ownOrdered (s : State) (o : Op) (l : Loc) : Bool :=
  match tfind o.gid s.groups with
  | some g => (match tfind g.launch s.launches with | some la => la.token == some g.index.toNat | none => false) && s.ordered.any (fun q => q.launch == g.launch && q.index == g.index.toNat && q.home == l.home && q.sector == l.sec)
  | none => false

/-- ATOMIC_AT_HOME (R100, R153, R403): request `ev.b` of the atomic `ev.a` is applied, buffered, or held on an open line. -/
def execAtomicAtHome (s : State) : Out :=
  match s.op? s.ev.a with
  | none => .next s
  | some o =>
    match o.kind, o.reqs[s.ev.b]? with
    | .atomic op dst, some r =>
      if !s.homeReady o r then .next s
      else if s.buffers o op dst.isSome then .next (s.bufferReq o s.ev.b r)
      else if s.ownOrdered o r.loc then .next s
      else if op.float && s.openFor o r.loc != [] then
        .next (s.setReq o.id s.ev.b (.held (s.openFor o r.loc)))
      else .next (s.atHome o s.ev.b r s (atomPerform o op dst r))
    | _, _ => .next s

/-- FOREIGN_ATOMIC_APPLY (R403): request `ev.b` of the atomic `ev.a`, held on an open line, is applied once the line's ORDERED
versions have drained, and INTRUDE of every launch it waited on counts it. -/
def execForeignAtomicApply (s : State) : Out :=
  match s.op? s.ev.a with
  | none => .next s
  | some o =>
    match o.kind, o.reqs[s.ev.b]? with
    | .atomic op dst, some r =>
      match r.state with
      | .held ls =>
        let now := s.openFor o r.loc
        if now != [] then .next (s.setReq o.id s.ev.b (.held (ls ++ now).dedup))
        else
          let t := ls.foldl (fun s l => s.modLaunch l (fun l => { l with intrude := l.intrude + 1 })) s
          .next (t.atHome o s.ev.b r s (atomPerform o op dst r))
      | _ => .next s
    | _, _ => .next s

/-! ### A fetch that faults (R32) -/

/-- The trap of a fetch at an address. -/
def fetchTrap (c : Ctx) (cause sub : Nat) (s : State) : Out := raiseHere c cause sub s.ev.val.toNat s

/-- A fetch whose page is absent: the group parks under a token (R32, R33). -/
def parkFetch (c : Ctx) (l : Loc) (ipa : Nat) (s : State) : Out :=
  let va := s.ev.val.toNat
  let r : Req := ⟨4 * c.lowest, va, l, 8, 0, [], .waiting⟩
  let o := { c.op .fetchFault .fetch [r] [] s with rel := false, acq := false, parked := true }
  match { s with ops := s.ops ++ [o], nextId := s.nextId + 1 }.enterWait ipa 4 [(o.id, 0)] with
  | some (token, s) => .next ((s.setReq o.id 0 (.parked token)).modGroup c.g.gid (fun g =>
      { g with trapToken := BitVec.ofNat 32 token, trapAddr := BitVec.ofNat 64 va }))
  | none => fetchTrap c causeXlate 5 s

/-- FETCH_FAULT (R32, R107): the fetch at `ev.val` met cause `ev.a` with subcode `ev.b`; on NOTPRESENT the group parks under a token, or the
frontier task is aborted and waits for the page (R384); otherwise it traps at once. A task that is not the frontier task stops (R383). -/
def execFetchFault (s : State) : Out :=
  match issueCtx s with
  | none => .next s
  | some c =>
    if s.ev.a ≠ causeXlate ∨ s.ev.b ≠ 1 then fetchTrap c s.ev.a s.ev.b s
    else match translate c.g.ranges s.ev.val.toNat 8 true false true, c.g.task with
      | .bad cause sub, _ => fetchTrap c cause sub s
      | .ok l, none => parkFetch c l l.ipa s
      | .ok l, some k =>
        if s.speculative c.g then fetchTrap c causeXlate 1 s
        else match s.taskNotPresent c.g.launch k l.ipa with
          | some s => .next s
          | none => fetchTrap c causeXlate 5 s

/-- ILLEGAL_INSTRUCTION (R126, R127): the fetched word is no instruction. -/
def execIllegalInstruction (s : State) : Out := trapWord causeIllegal s

end Sys2Proof.Machine
end

