-- ==== Sys2Proof/Machine/Local.lean ====
section
/-! DEFINITION. Cluster banks (R17, R18, R52 to R58): local accesses, queue elements, copies, bank modes, queue bindings (R141,
R146 to R150), and WAKE (R151). -/

namespace Sys2Proof.Machine

open Sys2Proof

/-! ### Bytes and full/empty bits (R56) -/

/-- `n` bytes of local space. -/
def State.localRead (s : State) (cluster la n : Nat) : Nat := treadLE s.banks (bankKey cluster la) n
/-- `n` bytes written to local space. -/
def State.localWrite (s : State) (cluster la v n : Nat) : State :=
  { s with banks := twriteLE s.banks (bankKey cluster la) v n }
/-- A granule set full or empty. -/
def State.setFull (s : State) (cluster la : Nat) (b : Bool) : State :=
  { s with full := tset false s.full (granuleKey cluster la) b }
/-! ### LDS and STS (R57, R141) -/

/-- Lanes gathered by the granule they name, lanes ascending (R57). -/
def gatherGranules (size : Nat) : List (Nat × Nat) → List Req → List Req
  | [], acc => acc.reverse
  | (l, la) :: ls, acc =>
    let g := la / 16 * 16
    if acc.any (fun r => r.va == g) then
      gatherGranules size ls (acc.map (fun r => if r.va = g then { r with args := r.args ++ [(l, BitVec.ofNat 32 la, 0)] } else r))
    else gatherGranules size ls (⟨l, g, ⟨0, g, none⟩, size, 0, [(l, BitVec.ofNat 32 la, 0)], .confirmed⟩ :: acc)

/-- The words an instruction captured of a lane, the first lowest. -/
def srcValue (o : Op) (run l : Nat) : Nat := runValue ((List.range run).map (fun k => tget 0 o.src (32 * k + l)))

/-- A run of registers captured in some lanes. -/
def captureRun (c : Ctx) (x : Src) (run : Nat) (lanes : List Nat) : Table Word :=
  lanes.foldl (fun t l => ((c.run x run l).mapIdx (fun k w => (k, w))).foldl (fun t e => tset 0 t (32 * e.1 + l) e.2) t) []

/-- A local access, once none of its lanes faults at issue (R126, R141). -/
def localOp (i : Instr) (x : MEM) (store : Bool) (size run : Nat) (s : State) : Out :=
  issue i s (fun c s =>
    let reqs := gatherGranules size (c.active.map (fun l => (l, c.la x l))) []
    let src := if store then captureRun c x.data run c.active else []
    let o := c.op i (.local store x.fe.toNat size (dataReg x.data)) reqs src s
    .next (c.start i { o with performed := c.active = [] } s))

/-- LDS.W. -/
def execLdsW (x : MEM) (s : State) : Out := localOp (.ldsW x) x false 4 1 s
/-- LDS.D. -/
def execLdsD (x : MEM) (s : State) : Out := localOp (.ldsD x) x false 8 2 s
/-- LDS.Q. -/
def execLdsQ (x : MEM) (s : State) : Out := localOp (.ldsQ x) x false 16 4 s
/-- STS.W. -/
def execStsW (x : MEM) (s : State) : Out := localOp (.stsW x) x true 4 1 s
/-- STS.D. -/
def execStsD (x : MEM) (s : State) : Out := localOp (.stsD x) x true 8 2 s
/-- STS.Q. -/
def execStsQ (x : MEM) (s : State) : Out := localOp (.stsQ x) x true 16 4 s

/-- The lanes of a load served from a granule (R57). -/
def granuleLoad (s : State) (cl : Nat) (size dst : Nat) (r : Req) : List (RegElem × Word) :=
  (r.args.map (fun a =>
    let v := s.localRead cl a.2.1.toNat size
    (loadWords size (ceilDiv size 4) false v).mapIdx (fun k w => (RegElem.v (dst + k) a.1, w)))).flatten

/-- The lanes of a store served on a granule, lanes ascending (R57). -/
def granuleStore (o : Op) (cl size : Nat) (r : Req) (s : State) : State :=
  r.args.foldl (fun s a => s.localWrite cl a.2.1.toNat (srcValue o (ceilDiv size 4) a.1 % 2 ^ (8 * size)) size) s

/-! ### Waiters (R57) -/

/-- The instructions in flight that wait at a bank for a granule to be full, or empty, each with the moment it reached the bank. A Prism
stream or drain waits at the granule that it has come to (R56, R286, R296). -/
def State.opWaiters (s : State) (cl la : Nat) (forFull : Bool) : List (Nat × Nat) :=
  s.ops.filterMap (fun o =>
    let waits : Bool := match o.kind with
      | .local st fe _ _ => forFull && feWaits st fe && o.reqs.any (fun q => q.va == la && q.state == .confirmed)
      | .prism (.mmrun _) p => forFull && p.begun && !o.performed && p.ring + p.pos == la
      | .prism (.mmdrainRing _) p => !forFull && p.begun && !o.performed && p.ring + p.pos == la
      | _ => false
    if waits && clusterOf o.core == cl && s.isResident o.gid then some (o.arrived, o.id) else none)

/-- The gangs that wait at a bank to pop an element from a granule, or to push one into it (R150). A halted group's gang waits for nothing, and
others are served before it (DESIGN CHOICE, log 85). -/
def State.gangWaiters (s : State) (cl la : Nat) (forFull : Bool) : List (Nat × Nat) :=
  ((tvalues s.groups).map (fun g =>
    let at' (q : Nat) (f : QBind → Nat) : Bool := match tfind q g.qbinds with | some b => b.size != 0 && b.start + f b == la | none => false
    (tvalues g.pending).filterMap (fun p =>
      let waits : Bool :=
        if p.pushing then !forFull && (match p.pushes with | (q, _, _) :: _ => at' q QBind.wr | [] => false)
        else forFull && (match p.pops with | (_, q, _) :: _ => at' q QBind.rd | [] => false)
      if waits && g.resident && !g.halted && clusterOf (s.teamCore g.team) == cl then some (p.since, g.gid) else none))).flatten

/-- Whether a waiter is the first of those that wait for a granule: the one that reached the bank before the others, which the model counts
from the step in which it was issued, came to the granule, or returned to a core (R57) (DESIGN CHOICE, log 85). -/
def State.firstAt (s : State) (cl la : Nat) (forFull : Bool) (arrived who : Nat) : Bool :=
  !(s.opWaiters cl la forFull ++ s.gangWaiters cl la forFull).any (fun e =>
    decide (e.1 < arrived) || (e.1 == arrived && decide (e.2 < who)))

/-- Whether a local access may be served on a granule: the bank takes accesses; earlier accesses of the group to the granule are
served (R106); a waiting load finds it full and stands before every other waiter (R57) (DESIGN CHOICE, log 85). -/
def State.granuleReady (s : State) (o : Op) (store : Bool) (fe : Nat) (r : Req) : Bool :=
  let cl := clusterOf o.core
  let same (q : Req) : Bool := q.va == r.va && q.state == .confirmed
  s.isResident o.gid && s.resumeTurn o && !s.bankChanging cl (bankOf r.va) &&
  !s.ops.any (fun p => p.gid == o.gid && decide (p.id < o.id) && (match p.kind with | .local _ _ _ _ => p.reqs.any same | _ => false)) &&
  (!feWaits store fe || s.bankMode cl (bankOf r.va) == 0 || (s.isFull cl r.va && s.firstAt cl r.va true o.arrived o.id))

/-- A local access once a granule is served or judged: performed when none waits; a fault among them ends it (R32, R57). -/
def State.settleLocal (s : State) (id : Nat) : State :=
  match s.op? id with
  | none => s
  | some o =>
    if o.reqs.any (fun r => r.state == .confirmed) then s
    else match lowestBad o.reqs with
      | some r => s.endFaulted o r
      | none => s.modOp id (fun o => { o with performed := true })

/-- A local access served on one granule (R56, R57), or judged against a bank that is now CACHE (R55). -/
def State.serveLocal (s : State) (o : Op) (n : Nat) (store : Bool) (fe size dst : Nat) (r : Req) : State :=
  let cl := clusterOf o.core
  if s.bankMode cl (bankOf r.va) = 0 then
    let la := (r.args.map (fun a => a.2.1.toNat)).headD r.va
    (s.modReq o.id n (fun r => { r with va := la, state := .failed causeProt 4 0 })).settleLocal o.id
  else
    let res := if store then [] else granuleLoad s cl size dst r
    let s := if store then granuleStore o cl size r s else s
    let s := if store then (if fe = 3 then s.setFull cl r.va true else s)
      else if fe = 2 then s.setFull cl r.va false else s
    ((s.setReq o.id n .done).modOp o.id (fun p => { p with results := p.results ++ res })).settleLocal o.id

/-! ### CPY (R146, R147) -/

/-- The requests of a copy: one for each granule of its memory span. -/
def cpyReqs (c : Ctx) (va n : Nat) : List Req :=
  match rangeHit c.g.ranges va with
  | none => []
  | some k =>
    let base := va - rangeBase c.g.ranges k / 65536 * 65536 + bitsOf (rangeOff c.g.ranges k) 16 36 * 65536
    (List.range (n / 16)).map (fun j => ⟨j, va + 16 * j, locOf c.g.ranges k (base + 16 * j), 16, 0, [], .waiting⟩)

/-- CPY, once its checks have passed; where the mode of a bank of its span is changing, they are made once it has changed (R55, R146,
R147). -/
def cpyOp (i : Instr) (x : MEM) (out : Bool) (s : State) : Out :=
  issue i s (fun c s =>
    let va := c.pair x.base
    let la := (c.scalar x.data).toNat
    let n := (c.scalar x.sb).toNat
    let token := x.offset.getLsbD 1
    if n = 0 then .next (c.start i { c.op i (.cpy out la va 0 false) [] [] s with performed := true } s)
    else if (spanBanks la n).any (s.bankChanging (clusterOf c.core)) || (token && decide (16 ≤ c.g.q9.length + c.g.q9Promised)) then
      .next (c.block s)
    else
      let o := { c.op i (.cpy out la va n token) (cpyReqs c va n) [] s with banks := spanBanks la n }
      let s := c.start i o s
      .next (if token then s.modGroup c.g.gid (fun g => { g with q9Promised := g.q9Promised + 1 }) else s))

/-- CPY.IN. -/
def execCpyIn (x : MEM) (s : State) : Out := cpyOp (.cpyIn x) x false s
/-- CPY.OUT. -/
def execCpyOut (x : MEM) (s : State) : Out := cpyOp (.cpyOut x) x true s

/-- Whether a command's release publishes what it writes at a location (R49, R104). -/
def State.inScope (s : State) (o : Op) (l : Loc) : Bool :=
  o.rel && (o.scope == 2 || (o.scope == 1 && !s.foreign l.ipa))

/-- Whose versions a command's bytes become: its own, for its release, or its core's (R104). -/
def State.writeKind (s : State) (o : Op) (l : Loc) : VKind := if s.inScope o l then .command o.core o.id else .pending o.core

/-- The release of an engine command's own writes (R104). -/
def State.engineRelease (s : State) (o : Op) : State :=
  let mine := s.versions.filter (fun v => v.kind == VKind.command o.core o.id)
  if mine = [] then s.modOp o.id (fun o => { o with performed := true })
  else
    let s := s.modOp o.id (fun o => { o with relId := some s.nextId })
    { s with
      rels := s.rels ++ [⟨s.nextId, o.core, o.scope, .op o.id, .command o.core o.id, true, [],
        mine.map (fun v => secKey v.home v.sector), [], none⟩]
      nextId := s.nextId + 1 }

/-- One granule of a copy moved. -/
def cpyMove (o : Op) (out : Bool) (la : Nat) (r : Req) : Mem Unit := do
  let cl := clusterOf o.core
  let here := la + 16 * r.lane
  if out then do
    let s ← get
    engineWrite o.core (s.writeKind o r.loc) r.loc (BitVec.allOnes 16) (BitVec.ofNat 128 (s.localRead cl here 16))
  else do
    let d ← committed r.loc
    modify (fun s => (s.localWrite cl here d.toNat 16).setFull cl here true)

/-- A copy moves one granule once its whole span is confirmed; after the last it releases or is performed (R104, R146). -/
def State.serveCpy (s : State) (o : Op) (n : Nat) (out : Bool) (la : Nat) (r : Req) : State :=
  if o.reqs.any (fun q => q.state.open_ || q.state.bad) || (out && !s.underLimit r.loc.home r.loc.line (.pending o.core)) then s
  else (cpyMove o out la r).on s id
    (fun _ s =>
      let s := s.setReq o.id n .done
      match s.op? o.id with
      | some p => if p.reqs.all (fun q => q.state == .done) then s.engineRelease p else s
      | none => s)
    (fun cause sub ipa s => (s.faultReq o n r cause sub ipa).settleOp o.id)

/-! ### Bound queues (R113, R149, R150) -/

/-- QBIND (R149), which owns its flag and completes at once (R120). A size that is no multiple of 16 is given as TRAPADDR (DESIGN CHOICE, log
84). -/
def execQbind (x : MEM) (s : State) : Out :=
  issue (.qbind x) s (fun c s =>
    let q := match x.data with | .q n => n.val | _ => 0
    let la := (c.scalar x.base).toNat
    let size := (c.scalar x.sb).toNat
    let bind (b : QBind) (s : State) : Out :=
      let o := c.op (.qbind x) .fixed [] [] s
      .next (((c.start (.qbind x) o s).completeOp o).modGroup c.g.gid (fun g => { g with qbinds := tset ⟨0, 0, 0, 0⟩ g.qbinds q b }))
    if size = 0 then bind ⟨0, 0, 0, 0⟩ s
    else if la % 16 ≠ 0 then raiseHere c causeAlign 0 la s
    else if size % 16 ≠ 0 then raiseHere c causeAlign 0 size s
    else if la ≥ 2 ^ 22 ∨ bankOf (la + size - 1) ≠ bankOf la then raiseHere c causeRange 0 la s
    else if s.bankMode (clusterOf c.core) (bankOf la) ≠ 2 then raiseHere c causeQueue 0 q s
    else bind ⟨la, size, 0, 0⟩ s)

/-- A ring position after one element. -/
def QBind.after (b : QBind) (p : Nat) : Nat := (p + 16) % b.size

/-- The words of an instruction's pops that one queue must give. -/
def popsOf (p : Pending) (q : Nat) : List (Nat × Nat × Nat) := p.pops.filter (fun e => e.2.1 == q)

/-- Elements given to pops, in order. -/
def givePops (t : Table Word) (ps : List (Nat × Nat × Nat)) (ws : List Word) : Table Word :=
  (ps.zip ws).foldl (fun t e => tset 0 t (32 * e.1.1 + e.1.2.2) e.2) t

/-- A gang whose queue can no longer serve it raises QUEUE at its instruction (R113, R147). The elements that the instruction has popped are
lost, those it has still to push are not pushed, and it starts again where the handler returns to it (DESIGN CHOICE, log 83). -/
def State.queueTrapAt (s : State) (g : Group) (gang q : Nat) : State :=
  let s := s.modGroup g.gid (fun g => g.endPending gang)
  if s.speculative g then s.deferTask g gang .issue
  else s.takeTrap g.gid gang (g.strand gang).pc causeQueue 0 (BitVec.ofNat 64 q) false

/-- Pops of q8 or q9 by one instruction, served together once as many elements are there; QUEUE where they cannot come (R147, R297). -/
def State.serveTokens (s : State) (g : Group) (p : Pending) (q : Nat) (have_ : List Word) (promised : Nat)
    (keep : State → List Word → State) : State :=
  let ps := popsOf p q
  if have_.length < ps.length then
    (if have_.length + promised < ps.length then s.queueTrapAt g p.strand q else s)
  else
    let p' := { p with pops := p.pops.filter (fun e => e.2.1 != q), popped := givePops p.popped ps (have_.take ps.length) }
    (keep s (have_.drop ps.length)).modGroup g.gid (fun g => { g with pending := tinsert p.strand p' g.pending })

/-- The binding of a queue of a group while it is in force. -/
def State.binding (s : State) (g : Group) (q : Nat) : Option (Nat × QBind) :=
  let cl := clusterOf (s.teamCore g.team)
  match tfind q g.qbinds with
  | some b => if b.size ≠ 0 ∧ s.bankMode cl (bankOf b.start) = 2 then some (cl, b) else none
  | none => none

/-- The next pop of an instruction served (R150) (DESIGN CHOICE, log 33). -/
def State.servePop (s : State) (g : Group) (p : Pending) : State :=
  match p.pops with
  | [] => s
  | (field, q, lane) :: rest =>
    if q = 9 then
      s.serveTokens g p 9 g.q9 g.q9Promised (fun s ws => s.modGroup g.gid (fun g => { g with q9 := ws }))
    else if q = 8 then
      let core := s.teamCore g.team
      let pr := (s.coreState core).prism
      let have_ := if pr.team = some g.team then tget [] pr.q8 g.pos else []
      s.serveTokens g p 8 have_ (q8Promised s g) (fun s ws => s.modCore core (fun c =>
        { c with prism := { c.prism with q8 := tset [] c.prism.q8 g.pos ws } }))
    else match s.binding g q with
      | none => s.queueTrapAt g p.strand q
      | some (cl, b) =>
        let la := b.start + b.rd
        if s.bankChanging cl (bankOf la) || !s.isFull cl la || !s.firstAt cl la true p.since g.gid then s
        else
          let w := BitVec.ofNat 32 (s.localRead cl la 4)
          let p' := { p with since := s.clock, pops := rest, popped := tset 0 p.popped (32 * field + lane) w }
          (s.setFull cl la false).modGroup g.gid (fun g =>
            { g with
              qbinds := tset ⟨0, 0, 0, 0⟩ g.qbinds q { b with rd := b.after b.rd }
              pending := tinsert p.strand p' g.pending })

/-- The next push of an instruction served; after the last its gang goes on (R113, R150). -/
def State.servePush (s : State) (g : Group) (p : Pending) : State :=
  match p.pushes with
  | [] => s
  | (q, _, w) :: rest =>
    match s.binding g q with
    | none => s.queueTrapAt g p.strand q
    | some (cl, b) =>
      let la := b.start + b.wr
      if s.bankChanging cl (bankOf la) || s.isFull cl la || !s.firstAt cl la false p.since g.gid then s
      else
        ((s.localWrite cl la w.toNat 16).setFull cl la true).modGroup g.gid (fun g =>
          let g := { g with qbinds := tset ⟨0, 0, 0, 0⟩ g.qbinds q { b with wr := b.after b.wr } }
          if rest = [] then
            (g.endPending p.strand).modStrands (g.gangOf (g.strand p.strand).gang) (fun _ st => { st with pc := p.next, wait := .ready })
          else { g with pending := tinsert p.strand { p with since := s.clock, pushes := rest } g.pending })

/-- QUEUE_ELEMENT_SERVE (R150): the next element of the gang of group `ev.a` whose lowest strand is `ev.b`. -/
def execQueueElementServe (s : State) : Out :=
  match tfind s.ev.a s.groups with
  | none => .next s
  | some g =>
    match tfind s.ev.b g.pending with
    | none => .next s
    | some p =>
      if g.resident = false ∨ g.halted = true ∨ s.resumes g p.strand = true then .next s
      else if p.pushing then .next (s.servePush g p) else .next (s.servePop g p)

/-! ### Bank modes (R54, R55, R148) -/

/-- CBANK (R148): one change for each bank named. -/
def execCbank (x : MEM) (s : State) : Out :=
  issue (.cbank x) s (fun c s =>
    let banks := (List.range 16).filter (fun b => x.offset.getLsbD b)
    let o := c.op (.cbank x) (.cbank (clusterOf c.core) x.fe.toNat banks) [] [] s
    let s := c.start (.cbank x) { o with performed := banks = [] } s
    .next { s with changes := s.changes ++ banks.map (fun b => ⟨clusterOf c.core, b, x.fe.toNat, some o.id⟩) })

/-- The mode a bank of a cluster will hold once the changes asked of it are made (R148). -/
def State.lastMode (s : State) (cluster bank : Nat) : Nat :=
  match (s.changes.filter (fun b => b.cluster == cluster && b.bank == bank)).getLast? with
  | some b => b.mode
  | none => s.bankMode cluster bank

/-- CLBMODE_WRITE (R54, R148): Apex writes `ev.val` to the register of cluster `ev.a`; banks whose field is a mode they do not hold, once earlier
changes are made, change. -/
def execClbmodeWrite (s : State) : Out :=
  let cl := s.ev.a
  if cl ≥ 48 then .next s
  else
    let field (b : Nat) := bitsOf s.ev.val.toNat (2 * b) 2
    let banks := (List.range 16).filter (fun b => field b != 3 && field b != s.lastMode cl b)
    .next { s with changes := s.changes ++ banks.map (fun b => ⟨cl, b, field b, none⟩) }

/-- The groups of a cluster that have bound a queue to a bank lose the binding (R149). The binding of a group that is away is not of the cluster
while it is, and stays (DESIGN CHOICE, log 82). -/
def State.voidBindings (s : State) (cluster bank : Nat) : State :=
  let voided (b : QBind) : QBind := if bankOf b.start = bank then { b with size := 0 } else b
  { s with groups := s.groups.map (fun e =>
      if e.2.resident && clusterOf (s.teamCore e.2.team) == cluster then
        (e.1, { e.2 with qbinds := e.2.qbinds.map (fun q => (q.1, voided q.2)) })
      else e) }

/-- A bank's bytes and bits cleared (R55, steps 4 and 5). -/
def State.clearBank (s : State) (cluster bank : Nat) : State :=
  let lo := bankKey cluster (bank * 2 ^ 18)
  let glo := granuleKey cluster (bank * 2 ^ 18)
  { s with
    banks := s.banks.filter (fun e => !(decide (lo ≤ e.1) && decide (e.1 < lo + 2 ^ 18)))
    full := s.full.filter (fun e => !(decide (glo ≤ e.1) && decide (e.1 < glo + 2 ^ 14))) }

/-- The pending copies in a bank, with their cores. -/
def State.bankedIn (s : State) (cluster bank : Nat) : List (Nat × CoreSector) :=
  (s.sectors.filter (fun e => clusterOf (e.1 / 2 ^ 56) == cluster && e.2.banked == some bank)).map (fun e => (e.1 / 2 ^ 56, e.2))

/-- The pending copies of a bank sent home, as far as their cores may hold more blocks and the slices have room (R55, R67). -/
def State.emptyBank (s : State) (cluster bank : Nat) : State :=
  (s.bankedIn cluster bank).foldl (fun s e =>
    if s.underLimit e.2.loc.home e.2.loc.line (.pending e.1) then s.after (sendPending e.1 false e.2) else s) s

/-- A bank's mode changes once nothing is pending in it (R55, steps 3 to 5) (DEDUCED, log 32). -/
def State.changeBank (s : State) (b : BankChange) : State :=
  let old := s.bankMode b.cluster b.bank
  let s := if old = 0 then
      { s with copies := s.copies.filterMap (fun e =>
          let m := e.2 - e.2 / 2 ^ b.cluster % 2 * 2 ^ b.cluster
          if m = 0 then none else some (e.1, m)) }
    else s.clearBank b.cluster b.bank
  let s := if old = 2 ∧ b.mode ≠ 2 then s.voidBindings b.cluster b.bank else s
  { s with bankModes := tset 0 s.bankModes (16 * b.cluster + b.bank) b.mode }

/-- Whether Apex holds a cluster's SRAM as its boot memory, outside the bank modes (R434). -/
def State.bootHeld (s : State) (cluster : Nat) : Bool := decide (s.boot.phase < 4) && decide (cluster < 8)

/-- BANK_MODE_CHANGE (R55): the first change asked of bank `ev.b` of cluster `ev.a`, once no command holds the bank and it is no boot memory (R434)
(DEDUCED, log 102). -/
def execBankModeChange (s : State) : Out :=
  if s.bootHeld s.ev.a then .next s else
  match s.changes.find? (fun b => b.cluster == s.ev.a && b.bank == s.ev.b) with
  | none => .next s
  | some b =>
    if s.ops.any (fun o => clusterOf o.core == b.cluster && o.banks.contains b.bank) then .next s
    else
      let s := s.emptyBank b.cluster b.bank
      if s.bankedIn b.cluster b.bank ≠ [] then .next s else
      let s := { s.changeBank b with changes := s.changes.erase b }
      match b.op with
      | none => .next s
      | some id =>
        .next (s.modOp id (fun o => { o with performed := !s.changes.any (fun c => c.op == some id) }))

/-! ### WAKE (R33, R151, R384) -/

/-- A parked access sent again: a request of an instruction, a sector of a release, or a launch's overflow area, which is tried again. -/
def State.wakeAccess (s : State) (a : Nat × Nat) : State :=
  if a.1 = 0 then s.modLaunch a.2 (fun l => { l with ovfFull := false })
  else if s.rels.any (fun r => r.id == a.1) then
    s.modRel a.1 (fun r => { r with parked := r.parked.filter (· != a.2), sent := r.sent ++ r.parked.filter (· == a.2) })
  else s.setReq a.1 a.2 .waiting

/-- The parked accesses of a wait-table entry sent again, a task that waits for the page requeued, and the entry freed. -/
def State.wake (s : State) (w : WaitEntry) : State :=
  let s := w.accesses.foldl State.wakeAccess s
  { s with
    waits := s.waits.filter (fun v => v.token != w.token)
    domains := s.domains.map (fun e => (e.1, { e.2 with recs := e.2.recs.map (fun t =>
      if t.2.token = some w.token then (t.1, { t.2 with state := 1, token := none }) else t) })) }

/-- WAKE of the entry that a test finds (R151). -/
def wakeOp (i : Instr) (find : Ctx → WaitEntry → Bool) (s : State) : Out :=
  issue i s (fun c s =>
    let o := c.op i .wake [] [] s
    let s := c.start i { o with performed := true } s
    match s.waits.find? (find c) with
    | some w => .next (s.wake w)
    | none => .next s)

/-- WAKE.TOKEN (R151). -/
def execWakeToken (x : MEM) (s : State) : Out :=
  wakeOp (.wakeToken x) (fun c w => w.token == (c.scalar x.base).toNat) s

/-- WAKE.PAGE (R151). -/
def execWakePage (x : MEM) (s : State) : Out :=
  wakeOp (.wakePage x) (fun c w => w.page == pageOf (c.pair x.base) && w.die == unitDie (unitOf (c.pair x.base))) s

end Sys2Proof.Machine
end

