-- ==== Sys2Proof/Machine/TransCmd.lean ====
section
/-! DEFINITION. Translation commands and page-table writes (R37 to R46). -/

namespace Sys2Proof.Machine

open Sys2Proof

/-- Whether an address span starting at `a` and one starting at `b` share a byte; an empty one shares none (R38). -/
def spansMeet (a la b lb : Nat) : Bool := la != 0 && lb != 0 && decide (a < b + lb) && decide (b < a + la)

/-- The first IPA and the length of what a cached translation covers. -/
def tlbSpan (key : Nat) : Nat × Nat := (key % 2 ^ 40 / 2 * 65536, if key % 2 = 1 then 2 ^ 28 else 65536)

/-- The first IPA and the length of what a cached table pointer covers. -/
def walkSpan (key : Nat) : Nat × Nat :=
  let size := if key / 2 ^ 40 % 4 = 1 then 2 ^ 40 else 2 ^ 28
  (key % 2 ^ 40 * size, size)

/-- INV (R38): cached translations and table pointers that overlap a span dropped. -/
def State.dropSpan (s : State) (first len : Nat) : State :=
  { s with
    tlb := s.tlb.filter (fun e => !spansMeet (tlbSpan e.1).1 (tlbSpan e.1).2 first len)
    walkCache := s.walkCache.filter (fun e => !spansMeet (walkSpan e.1).1 (walkSpan e.1).2 first len) }

/-- The committed lines of a span in L2, as home and line. -/
def State.linesIn (s : State) (first len : Nat) : List (Nat × Nat) :=
  ((s.l2.filter (fun e => spansMeet (e.1 % 2 ^ 48 * 16) 16 first len)).map (fun e => (e.1 / 2 ^ 48, e.1 % 2 ^ 48 / 8))).dedup

/-- A line that INVFLUSH meets: written back and dropped, its data in the translation unit where a write-back of it is held (R38, R43, R86). -/
def State.flushLine (s : State) (home line : Nat) : State :=
  let s := s.cleanLine home line
  if !s.committingAt home line && (s.lineSectors home line).all (fun e => !e.2.dirty || s.heldSector home e.1 == some e.2.data)
  then s.dropLine home line else s

/-- The committed lines of a span written back and dropped, those that no stall holds up (R38, R86). -/
def State.flushLines (s : State) (first len : Nat) : State := (s.linesIn first len).foldl (fun s e => s.flushLine e.1 e.2) s

/-- Whether INVFLUSH has nothing left to do in a span. A metadata line that may not be written back yet, because a write-back of a line it
describes is held, stays in L2 (R38, R86) (DEDUCED, log 89). -/
def State.spanFlushed (s : State) (first len : Nat) : Bool := (s.linesIn first len).all (fun e => s.metadataHeld e.1 e.2)

/-- The slices' part of INVFLUSH (R38): lines written back and dropped, confirmations cleared, those that an L1 remembers among them; a line that
a commit in progress needs goes once it is merged. -/
def State.flushSpan (s : State) (first len : Nat) : State :=
  let s := s.flushLines first len
  { s with
    conf := s.conf.filter (fun e => !spansMeet (e.1 % 2 ^ 48 * 128) 128 first len || s.committingAt (e.1 / 2 ^ 48) (e.1 % 2 ^ 48))
    l1conf := s.l1conf.filter (fun e => !spansMeet (e.1 % 2 ^ 48 * 128) 128 first len) }

/-- Physical bytes copied (R38, R44). -/
def State.copyPhys (s : State) (src dst len : Nat) : State :=
  let kept := s.hbm.filter (fun e => !(decide (dst ≤ e.1) && decide (e.1 < dst + len)))
  let moved := s.hbm.filter (fun e => decide (src ≤ e.1) && decide (e.1 < src + len))
  { s with hbm := moved.foldl (fun t e => tset 0 t (e.1 - src + dst) e.2) kept }

/-- A physical address of a 64-bit register (R15) (DESIGN CHOICE, log 31). -/
def paOf (v : BitVec 64) : Nat := v.toNat % 2 ^ 39

/-- A command written, with SIZE as `ev.on`: BUSY and its effect, or ERR where it starts nothing (R38, R39). TCCMD reads as it was written
last, whether or not that write started a command (DESIGN CHOICE, log 88). -/
def State.tcStart (s : State) (op : Nat) (ok : Bool) (f : State → State) : State :=
  let s := { s with tc := { s.tc with cmd := BitVec.ofNat 64 (op + 16 * bit s.ev.on) } }
  if s.tc.busy || !ok then { s with tc := { s.tc with err := true } }
  else f { s with tc := { s.tc with busy := true, runOp := op, runFirst := s.tc.arg0.toNat, runCount := s.tc.arg1.toNat } }

/-- Whether the first IPA of a span command is aligned. -/
def State.spanOk (s : State) : Bool := s.tc.arg0.toNat % 65536 == 0

/-- INV (R38, R39). -/
def execTcInv (s : State) : Out :=
  .next (s.tcStart 1 s.spanOk (fun s => s.dropSpan s.tc.runFirst (s.tc.runCount * 65536)))

/-- INVFLUSH (R38, R39). -/
def execTcInvFlush (s : State) : Out :=
  .next (s.tcStart 2 s.spanOk (fun s =>
    (s.dropSpan s.tc.runFirst (s.tc.runCount * 65536)).flushSpan s.tc.runFirst (s.tc.runCount * 65536)))

/-- INVALL (R38, R39). -/
def execTcInvAll (s : State) : Out := .next (s.tcStart 3 true (fun s => { s with tlb := [], walkCache := [] }))

/-- The bytes of a page of PCOPY's SIZE. -/
def pageBytes (big : Bool) : Nat := if big then 2 ^ 28 else 65536

/-- PCOPY (R38, R39): `ev.on` is SIZE. -/
def execTcPcopy (s : State) : Out :=
  let n := pageBytes s.ev.on
  let ok := paOf s.tc.arg0 % n == 0 && paOf s.tc.arg1 % n == 0
  .next (s.tcStart 4 ok (fun s => s.copyPhys (paOf s.tc.arg0) (paOf s.tc.arg1) n))

/-- TCCMD_INVALID (R38): a write `ev.val` to TCCMD that names no command, has a misaligned argument, or finds BUSY set. -/
def execTccmdInvalid (s : State) : Out :=
  let op := s.ev.val.toNat % 16
  let size := s.ev.val.toNat / 16 % 2
  let n := pageBytes (size == 1)
  let ok := (op == 3) || ((op == 1 || op == 2) && s.spanOk) ||
    (op == 4 && paOf s.tc.arg0 % n == 0 && paOf s.tc.arg1 % n == 0)
  if ok && !s.tc.busy then .next s
  else .next { s with tc := { s.tc with cmd := BitVec.ofNat 64 (op + 16 * size), err := true } }

/-- A held write-back posted under a token, where its page has turned out to have no valid leaf and it has none yet (R46). -/
def State.postHeld (s : State) (h : HeldWb) : State :=
  if h.token.isSome then s
  else
    let (token, s) := s.newToken h.unit
    let s := s.postFault token 6 (unitDie h.unit) (pageOf (16 * h.sector))
    { s with held := s.held.map (fun g => if g = h then { g with token := some token } else g) }

/-- A held write-back walked again: written where its page has a valid leaf that does not migrate; where it has none, posted under a token
(R43, R46). -/
def State.rewalk (s : State) (h : HeldWb) : State :=
  match (walk (16 * h.sector)).run s with
  | (.ok e, s) =>
    if e.mig then s
    else
      let s := s.physWrite (leafPa e (16 * h.sector)) h.data.toNat 16
      let key := secKey h.home h.sector
      let clean : Table L2Sector := match tfind key s.l2 with
        | some x => if x.data = h.data then tinsert key { x with dirty := false } s.l2 else s.l2
        | none => s.l2
      { s with held := s.held.filter (· != h), l2 := clean }
  | (.error _, s) => s.postHeld h

/-- An overflow area that counted as full on account of a page in a span is usable again where the page answers now (R400). -/
def State.ovfAgain (s : State) (met : Nat → Bool) (launch : Nat) (l : Launch) : State :=
  match l.ovfFull, l.ovfNext with
  | true, some loc =>
    if !met (pageOf loc.ipa) then s
    else (confirm loc true).on s id (fun _ s => s.modLaunch launch (fun l => { l with ovfFull := false })) (fun _ _ _ s => s)
  | _, _ => s

/-- TC_COMMAND_DONE (R39, R43, R46): the running command finishes once nothing of its span is left to write back; held write-backs
of the span are walked again. -/
def execTcCommandDone (s : State) : Out :=
  if !s.tc.busy then .next s
  else
    let first := s.tc.runFirst
    let len := s.tc.runCount * 65536
    let s := if s.tc.runOp = 2 then s.flushLines first len else s
    if s.tc.runOp = 2 ∧ s.spanFlushed first len = false then .next s
    else
      let met (a la : Nat) : Bool :=
        match s.tc.runOp with
        | 1 | 2 => spansMeet a la first len
        | 3 => true
        | _ => false
      let s := (s.held.filter (fun h => met (16 * h.sector) 16)).foldl (fun s h => s.rewalk h) s
      let s := s.launches.foldl (fun s e => s.ovfAgain (fun page => met page 65536) e.1 e.2) s
      .next { s with tc := { s.tc with busy := false } }

/-- TCSTAT_READ (R37): BUSY and ERR are read, and ERR clears. -/
def execTcstatRead (s : State) : Out :=
  .next { s with
    busRead := BitVec.ofNat 64 (bit s.tc.busy + 2 * bit s.tc.err)
    tc := { s.tc with err := false } }

/-- PAGE_TABLE_WRITE (R41): eight bytes `ev.val` written to physical memory at the aligned PA `ev.a`. -/
def execPageTableWrite (s : State) : Out :=
  if s.ev.a % 8 ≠ 0 ∨ s.ev.a ≥ 2 ^ 39 then .next s else .next (s.physWrite s.ev.a s.ev.val.toNat 8)

end Sys2Proof.Machine
end

