-- ==== Sys2Proof/Machine/Regs.lean ====
section
/-! DEFINITION. Registers of the control space and BAR0, the rings Apex and system software share, SYSCALL answers, host accesses
and CARE (R412, R421 to R427, R437, R448). -/

namespace Sys2Proof.Machine

open Sys2Proof

/-! ### Plain registers (R421, R423) -/

/-- A 64-bit register after an access of 4 or 8 bytes at an offset (R423). -/
def write64 (old : BitVec 64) (off size : Nat) (v : BitVec 64) : BitVec 64 :=
  if size = 8 then v
  else if off % 8 = 0 then (old &&& 0xFFFFFFFF00000000#64) ||| (v &&& 0xFFFFFFFF#64)
  else (old &&& 0xFFFFFFFF#64) ||| (v <<< 32)

/-- A 32-bit register at an offset after an access of 4 or 8 bytes that may cover it (R423). -/
def write32 (old : Word) (reg off size : Nat) (v : BitVec 64) : Word :=
  if off = reg then v.truncate 32
  else if size = 8 ∧ off + 4 = reg then (v >>> 32).truncate 32
  else old

/-- Whether an access to the control space has a size and alignment it performs (R423). -/
def regAccess (off size : Nat) : Bool := (size == 4 || size == 8) && off % size == 0

/-- The bytes of an attestation nonce after an access. -/
def writeNonce (t : Table Byte) (at' size : Nat) (v : BitVec 64) : Table Byte := twriteLE t at' v.toNat size

/-- A write to a register of the translation control block that has no behaviour of its own (R37). -/
def TcBlock.write (t : TcBlock) (off size : Nat) (v : BitVec 64) : TcBlock :=
  match off / 8 with
  | 0 => { t with root := write64 t.root off size v &&& 0x7FFFFF8000#64 }
  | 1 => { t with node := write64 t.node off size v &&& 0xFF#64 }
  | 2 => { t with arg0 := write64 t.arg0 off size v }
  | 3 => { t with arg1 := write64 t.arg1 off size v }
  | _ => t

/-- A write to a plain register of the Apex control space (R423). -/
def State.apexWrite (s : State) (off size : Nat) (v : BitVec 64) : State :=
  if off < 0x10000 then { s with tc := s.tc.write off size v }
  else if 0x30000 ≤ off ∧ off < 0x300F0 then
    let k := (off - 0x30000) / 8
    { s with tvtab := tset 0 s.tvtab k (write64 (tget 0 s.tvtab k) off size v) }
  else if off / 8 = 0x40000 / 8 then { s with qripa := write64 s.qripa off size v }
  else if 0x60008 ≤ off ∧ off < 0x60010 then
    { s with ans0 := write32 s.ans0 0x60008 off size v, ans1 := write32 s.ans1 0x6000C off size v }
  else s

/-- REGISTER_WRITE (R37, R421, R423, R429): `ev.b` bytes `ev.val` at BAR0 offset `ev.a`, to a register without a behaviour of its
own; the control space lies from offset 0x80_0000. -/
def execRegisterWrite (s : State) : Out :=
  let off := s.ev.a
  let size := s.ev.b
  let v := s.ev.val
  if !regAccess off size then .next s
  else if off ≥ 0x800000 then .next (s.apexWrite (off - 0x800000) size v)
  else if off / 8 = 1 then .next { s with ipawin := write64 s.ipawin off size v &&& 0xFFFFFFF000000000#64 }
  else if off / 8 = 2 then .next { s with hostbase := write64 s.hostbase off size v &&& 0xFFFFFFFFFFFFF000#64 }
  else if 0x10000 ≤ off ∧ off < 0x20000 then .next { s with tc := s.tc.write (off - 0x10000) size v }
  else if 0x40000 ≤ off ∧ off < 0x40000 + 8 * 255 then
    let k := (off - 0x40000) / 8
    .next { s with rtab := tset 0 s.rtab k (write64 (tget 0 s.rtab k) off size v &&& 0xFFFFFFFFF#64) }
  else if 0x60040 ≤ off ∧ off < 0x60060 then
    .next { s with attest := { s.attest with nonce := writeNonce s.attest.nonce (off - 0x60040) size v } }
  else .next s

/-! ### The fault and service rings (R412, R425) -/

/-- The bytes of one record of a ring. -/
def recordBytes (service : Bool) : Nat := if service then 64 else 32

/-- Whether a ring's registers are set up: BASE and LOG written, with values they may hold (R425, R427). -/
def Ring.ready (r : Ring) : Bool :=
  r.based && r.base.toNat % 4096 == 0 && decide (6 ≤ r.log.toNat) && decide (r.log.toNat ≤ 16)

/-- Whether a ring has room (R425). -/
def Ring.room (r : Ring) : Bool := (r.head - r.tail).toNat != 2 ^ r.log.toNat

/-- A fault-queue record with its time of posting (R412). -/
def stampFault (r : List Byte) (t : Nat) : List Byte := r.take 16 ++ leBytes 8 t ++ r.drop 24

/-- The ring a posting goes to. -/
def State.ring (s : State) (service : Bool) : Ring := if service then s.sq else s.fq

/-- A ring replaced. -/
def State.setRing (s : State) (service : Bool) (r : Ring) : State := if service then { s with sq := r } else { s with fq := r }

/-- The CARE row of ring records that met a memory error. -/
def careRing : Nat := 10

/-- RING_POSTING (R412, R425, R427): the oldest posting that waits for the fault ring, with `ev.on` the service ring, is written,
and an event of type 7 follows a fault record. -/
def execRingPosting (s : State) : Out :=
  let service := s.ev.on
  let r := s.ring service
  match r.waiting with
  | [] => .next s
  | rec_ :: rest =>
    if !r.ready || !r.room || r.stalled then .next s
    else
      let n := recordBytes service
      let pa := (paOf r.base + n * (r.head.toNat % 2 ^ r.log.toNat)) % 2 ^ 39
      if (s.physRead pa n).isNone then
        .next ((s.setRing service { r with stalled := true }).count (careIndex careRing 0))
      else
        let bytes := if service then rec_ else stampFault rec_ s.timeb
        let s := (s.physWrite pa (leValue bytes) n).setRing service { r with head := r.head + 1, waiting := rest }
        if service then .next s
        else .next (s.postEvent (eventRecord 0x07 (leValue ((rec_.drop 5).take 1)) 0xFFFF (leValue (rec_.take 4))
          (leValue ((rec_.drop 8).take 8)) 0 0 (leValue ((rec_.drop 4).take 1))))

/-- RING_REG_WRITE (R425): `ev.b` bytes `ev.val` at offset `ev.a` of the fault ring's registers, with `ev.on` the service ring's;
postings that wait are tried again. -/
def execRingRegWrite (s : State) : Out :=
  let r := s.ring s.ev.on
  let off := s.ev.a
  if !regAccess off s.ev.b then .next s
  else if off < 8 then .next (s.setRing s.ev.on { r with base := write64 r.base off s.ev.b s.ev.val, based := true, stalled := false })
  else .next (s.setRing s.ev.on { r with
    log := write32 r.log 8 off s.ev.b s.ev.val
    tail := write32 r.tail 16 off s.ev.b s.ev.val
    stalled := if off = 16 then false else r.stalled })

/-! ### The event queue (R427) -/

/-- The location of an IPA that an agent outside the cores reaches: uncompressed (R422). -/
def plainLoc (ipa : Nat) : Loc := ⟨homeOf ipa false, ipa, none⟩

/-- Bytes written by immediate stores, sector by sector, from an aligned IPA. -/
def immBytes (ipa : Nat) : List Byte → Nat → Mem Unit
  | _, 0 => pure ()
  | bs, n + 1 => do
    immWrite (plainLoc ipa) 16 (leValue (bs.take 16))
    immBytes (ipa + 16) (bs.drop 16) n

/-- An event with its time of posting (R427). -/
def stampEvent (r : List Byte) (t : Nat) : List Byte := r.take 0x18 ++ leBytes 8 t ++ r.drop 0x20

/-- The CARE row of events that waited. -/
def careEventWait : Nat := 9

/-- EVENT_POST (R427): the oldest waiting event is written and EVHEAD advances; where it cannot be, the wait is counted. Until full service its
stores wait at their homes (R436). -/
def execEventPost (s : State) : Out :=
  match s.evq.waiting with
  | [] => .next s
  | e :: rest =>
    if s.evq.stalled then .next s
    else
      let wait (s : State) : Out :=
        .next ({ s with evq := { s.evq with stalled := true } }.count (careIndex careEventWait 0))
      if !s.evq.ready || !s.evq.room then wait s
      else if s.boot.phase ≠ 4 then .next s
      else
        let at' := s.evq.base.toNat % 2 ^ 52 + 64 * (s.evq.head.toNat % 2 ^ s.evq.log.toNat)
        (immBytes at' (stampEvent e s.timeb) 4).on s .next
          (fun _ s => .next { s with evq := { s.evq with head := s.evq.head + 1, waiting := rest } })
          (fun _ _ _ s => wait s)

/-- EVQ_REG_WRITE (R427): `ev.b` bytes `ev.val` at offset `ev.a` of the event queue's registers; events that wait are tried again. -/
def execEvqRegWrite (s : State) : Out :=
  let r := s.evq
  let off := s.ev.a
  if !regAccess off s.ev.b then .next s
  else if off < 8 then .next { s with evq := { r with base := write64 r.base off s.ev.b s.ev.val, based := true, stalled := false } }
  else .next { s with evq := { r with
    log := write32 r.log 8 off s.ev.b s.ev.val
    tail := write32 r.tail 16 off s.ev.b s.ev.val
    stalled := if off = 8 ∨ off = 16 then false else r.stalled } }

/-! ### SYSCALL answers (R426) -/

/-- Whether a wait is for the answer of a request. -/
def GangWait.awaits (w : GangWait) (seq : Nat) : Bool := match w with | .syscall n _ => n == seq | _ => false

/-- The strands that wait for an answer. -/
def waitersOf (seq : Nat) (sts : List Strand) : List Nat :=
  (List.range sts.length).filter (fun t => match sts[t]? with | some st => !st.exited && st.wait.awaits seq | none => false)

/-- Strands that wait for an answer go on at the next word. -/
def answered (seq : Nat) (sts : List Strand) : List Strand :=
  sts.map (fun st => if st.wait.awaits seq && !st.exited then { st with pc := st.pc + 8, wait := .ready } else st)

/-- An answer delivered to a group: to its gang, or to the control state its handler saved (R410, R426). -/
def Group.answer (g : Group) (seq : Nat) (a0 a1 : Word) : Group :=
  let give (g : Group) (ts : List Nat) : Group := ts.foldl (fun g t => (g.sset 0 t a0).sset 1 t a1) g
  let g := { give g (waitersOf seq g.strands) with strands := answered seq g.strands }
  match g.inHandler with
  | none => g
  | some h => { give g (waitersOf seq h.strands) with inHandler := some { h with strands := answered seq h.strands } }

/-- SYSCALL_ANSWER (R206, R426): the write of SEQ `ev.val` delivers ANS0 and ANS1; a SEQ that names no waiting request is
ignored. -/
def execSyscallAnswer (s : State) : Out :=
  let seq := s.ev.val.toNat % 2 ^ 32
  .next { s with
    ansSeq := BitVec.ofNat 32 seq
    groups := s.groups.map (fun e => (e.1, e.2.answer seq s.ans0 s.ans1)) }

/-! ### The host (R409, R421, R422, R437) -/

/-- GKILL (R409, R421): the halted group whose GROUP index is `ev.val` retires; a task it ran is requeued (DEDUCED, log 30). -/
def execGkill (s : State) : Out :=
  let hit := (tvalues s.groups).filter (fun g => g.halted && g.index == s.ev.val)
  .next (hit.foldl (fun s g =>
    let s := match g.task with | some k => s.abortTasks g.launch [k] | none => s
    s.retireGroup g.gid) s)

/-- CARE_CLEAR (R437): counter `ev.a` is cleared. -/
def execCareClear (s : State) : Out := .next { s with care := tset 0 s.care s.ev.a 0 }

/-- Bytes read one by one as immediate accesses. -/
def hostReadBytes (ipa : Nat) : Nat → Mem Nat
  | 0 => pure 0
  | n + 1 => do
    let b ← immRead (plainLoc ipa) 1
    let r ← hostReadBytes (ipa + 1) n
    pure (b + 256 * r)

/-- Bytes written one by one as immediate accesses. -/
def hostWriteBytes (ipa v : Nat) : Nat → Mem Unit
  | 0 => pure ()
  | n + 1 => do
    immWrite (plainLoc ipa) 1 (v % 256)
    hostWriteBytes (ipa + 1) (v / 256) n

/-- HOST_IPA_ACCESS (R422): a read, with `ev.on` a write, of `ev.b` bytes at BAR4 offset `ev.a`, performed on COMMITTED; one operation where it is
aligned and of 1, 2, 4 or 8 bytes. The value is `ev.val`, of more than 8 bytes `ev.bytes`. It waits for full service (R436) (DESIGN CHOICE, log 29). -/
def execHostIpaAccess (s : State) : Out :=
  if s.boot.phase ≠ 4 ∨ s.ev.a ≥ 2 ^ 36 then .next s
  else
    let ipa := (s.ipawin.toNat + s.ev.a) % 2 ^ 52
    let n := s.ev.b
    let whole := (n == 1 || n == 2 || n == 4 || n == 8) && ipa % n == 0
    if s.ev.on then
      let v := (if n ≤ 8 then s.ev.val.toNat else leValue s.ev.bytes) % 2 ^ (8 * n)
      let m : Mem Unit := if whole then immWrite (plainLoc ipa) n v else hostWriteBytes ipa v n
      m.on s .next (fun _ s => .next s) (fun _ _ _ s => .next s)
    else
      let m : Mem Nat := if whole then immRead (plainLoc ipa) n else hostReadBytes ipa n
      m.on s .next (fun v s => .next { s with busRead := BitVec.ofNat 64 v, busBytes := if n ≤ 8 then [] else leBytes n v })
        (fun _ _ _ s => .next s)

end Sys2Proof.Machine
end

