-- ==== Sys2Proof/Machine/Boot.lean ====
section
/-! DEFINITION. Boot, attestation and the two levels of service (R433 to R436). -/

namespace Sys2Proof.Machine

open Sys2Proof

/-! ### The boot image (R433, R434) -/

/-- A field of a byte string, little-endian. -/
def bytesField (bs : List Byte) (off n : Nat) : Nat := leValue ((bs.drop off).take n)

/-- The body length a header gives. -/
def imageBody (bs : List Byte) : Nat := bytesField bs 0x08 4

/-- Whether a fetched file's header and length are as R434 states. -/
def imageFormed (bs : List Byte) : Bool :=
  let n := imageBody bs
  let entry := bytesField bs 0x0C 4
  bytesField bs 0x00 4 == 0x39364B47 && bytesField bs 0x04 2 == 1 && bytesField bs 0x06 2 == 0 && n % 16 == 0 &&
    decide (16 ≤ n) && decide (n ≤ 2 ^ 25) && entry % 4 == 0 && decide (entry < n) && bytesField bs 0x51 47 == 0 &&
    bs.length == 128 + n + 114

/-- The bytes the signature covers: header and body. -/
def imageSigned (bs : List Byte) : List Byte := bs.take (128 + imageBody bs)

/-- The key in the header. -/
def imageKey (bs : List Byte) : List Byte := (bs.drop 0x18).take 57

/-- The digest the signature signs. -/
def imageDigest (bs : List Byte) : List Byte := Config.shake256 (imageSigned bs) 64

/-- Whether a fetched file is accepted: as R434 states, with the vendor's key, and signed by it (R433). -/
def imageAccepted (bs : List Byte) : Bool :=
  imageFormed bs && Config.shake256 (imageKey bs) 32 == Config.vendorKeyDigest &&
    Config.ed448phVerify (imageKey bs) (imageDigest bs) ((bs.drop (128 + imageBody bs)).take 114)

/-- BOOT_ROM (R433): after reset the ROM reads the board configuration and fetches the image `ev.bytes`. -/
def execBootRom (s : State) : Out :=
  if s.boot.phase ≠ 0 then .next s
  else .next { s with boot := { s.boot with
    phase := 1, tries := 0, image := s.ev.bytes, configDigest := Config.shake256 Config.boardConfig 64 } }

/-- The update of an Apex core. -/
def State.modApex (s : State) (core : Nat) (f : ApexCore → ApexCore) : State :=
  { s with apex := tinsert core (f ((tfind core s.apex).getD ApexCore.idle)) s.apex }

/-- A verified image started: its body lies in Apex's boot memory, Apex core 0 begins at ENTRYOFF, reduced service begins (R433, R434, R436), and
QDOOR is published (R268) (DEDUCED, log 91). -/
def State.startImage (s : State) : State :=
  let b := s.boot
  let body := (b.image.drop 128).take (imageBody b.image)
  { s with
    qdoor := some Config.qdoor
    boot := { b with
      phase := 3
      imageDigest := imageDigest b.image
      imageVer := BitVec.ofNat 64 (bytesField b.image 0x10 8)
      mem := twriteLE [] 0 (leValue body) body.length } }.modApex 0 (fun a =>
        { a with run := .image, pc := BitVec.ofNat 64 (bytesField b.image 0x0C 4) })

/-- IMAGE_VERIFY (R433, R434, R436): the fetched image is verified; the image starts, or the fetch is tried again with `ev.bytes`,
three times, after which the ROM stops (DEDUCED, log 70). -/
def execImageVerify (s : State) : Out :=
  if s.boot.phase ≠ 1 then .next s
  else
    let b := s.boot
    if imageAccepted b.image then .next s.startImage
    else if b.tries < 3 then .next { s with boot := { b with tries := b.tries + 1, image := s.ev.bytes } }
    else .next ({ s with boot := { b with phase := 2 } }.modApex 0 (fun a => { a with run := .stopped }))

/-- FULL_SERVICE_START (R434, R436): training and bring-up have finished, and the image has released Apex's boot memory, whose banks, those of
clusters 0 to 7, start in CACHE mode; accesses that wait may proceed. -/
def execFullServiceStart (s : State) : Out :=
  if s.boot.phase = 3 then
    .next { s with boot := { s.boot with phase := 4, mem := [] }, bankModes := s.bankModes.filter (fun e => decide (128 ≤ e.1)) }
  else .next s

/-! ### Attestation (R433, R435) -/

/-- Bytes cut or filled up to a length (DESIGN CHOICE, log 71). -/
def exactly (n : Nat) (bs : List Byte) : List Byte := (bs ++ List.replicate n 0).take n

/-- The report's bytes before its signature. -/
def State.reportBody (s : State) : List Byte :=
  leBytes 4 1 ++ leBytes 4 0 ++ exactly 64 s.boot.imageDigest ++ exactly 64 s.boot.configDigest
    ++ (List.range 32).map (fun k => tget 0 s.attest.nonce k) ++ leBytes 8 s.boot.imageVer.toNat ++ exactly 57 Config.identityKey
    ++ List.replicate 7 0

/-- The report (R435). -/
def State.reportBytes (s : State) : List Byte :=
  s.reportBody ++ exactly 114 (Config.identitySign (Config.shake256 s.reportBody 64)) ++ List.replicate 14 0

/-- ACMD (R435): a write of 1 starts a report, or is refused before full service; it is ignored while one is made. -/
def execAcmd (s : State) : Out :=
  if s.ev.val ≠ 1 ∨ s.attest.stat = 1 then .next s
  else if s.boot.phase ≠ 4 then .next { s with attest := { s.attest with stat := 3 } }
  else .next { s with attest := { s.attest with stat := 1 } }

/-- ATTEST_REPORT_READY (R435): the report is complete. -/
def execAttestReportReady (s : State) : Out :=
  if s.attest.stat ≠ 1 then .next s
  else .next { s with attest := { s.attest with stat := 2, report := s.reportBytes } }

end Sys2Proof.Machine
end

