-- ==== Sys2Proof/Machine/Link.lean ====
section
/-! DEFINITION. Smihus Link: flits, their CRC, retries and lanes (R428 to R432), and the time base that follows another package (R449).
The coding of transaction headers is not given, so a payload is carried as its bytes, and its updates of the header tables are opaque. -/

namespace Sys2Proof.Machine

open Sys2Proof

/-! ### CRC-64/XZ (R428) -/

/-- The polynomial 0x42F0_E1EB_A9EA_3693, reflected. -/
def crcPoly : BitVec 64 := 0xC96C5795D7870F42#64

/-- One bit of a reflected CRC. -/
def crcBit (c : BitVec 64) : BitVec 64 := if c.getLsbD 0 then (c >>> 1) ^^^ crcPoly else c >>> 1

/-- Bits of a reflected CRC. -/
def crcBits : Nat → BitVec 64 → BitVec 64
  | 0, c => c
  | n + 1, c => crcBits n (crcBit c)

/-- CRC-64/XZ of a byte string. -/
def crc64 (bs : List Byte) : BitVec 64 := ~~~(bs.foldl (fun c b => crcBits 8 (c ^^^ b.setWidth 64)) (BitVec.allOnes 64))

/-! ### Flits (R428, R430, R431) -/

/-- The bytes a flit's payload takes. -/
def payloadBytes : Nat := 244

/-- A flit of type 0 with its sequence number, its acknowledgement and its CRC (R428) (DESIGN CHOICE, log 17). -/
def makeFlit (seq ack : Nat) (nak : Bool) (payload : List Byte) : List Byte :=
  let body := leBytes 2 (seq % 4096) ++ leBytes 2 (ack % 4096 + 2 ^ 15 * bit nak)
    ++ (payload.take payloadBytes ++ List.replicate (payloadBytes - payload.length) 0)
  body ++ leBytes 8 (crc64 body).toNat

/-- SEQ of a flit. -/
def flitSeq (f : List Byte) : Nat := leValue (f.take 2) % 4096
/-- ACK of a flit. -/
def flitAck (f : List Byte) : Nat := leValue ((f.drop 2).take 2) % 4096
/-- NAK of a flit. -/
def flitNak (f : List Byte) : Bool := leValue ((f.drop 2).take 2) / 2 ^ 15 == 1

/-- Whether a flit is whole and its CRC matches. -/
def flitGood (f : List Byte) : Bool := f.length == 256 && leValue (f.drop 248) == (crc64 (f.take 248)).toNat

/-- A port. -/
def State.port (s : State) (n : Nat) : Port := tget Port.reset s.ports n
/-- The update of a port. -/
def State.modPort (s : State) (n : Nat) (f : Port → Port) : State := { s with ports := tset Port.reset s.ports n (f (s.port n)) }

/-- Flits acknowledged up to a sequence number leave the replay buffer. -/
def Port.acked (p : Port) (ack : Nat) : Port :=
  if p.replay.any (fun f => flitSeq f == ack) then
    { p with replay := (p.replay.dropWhile (fun f => flitSeq f != ack)).tail }
  else p

/-- A header table for the flit of a sequence number: an update carried in flit n is in effect from flit n + 64 on (R430). -/
def Headers.at (h : Headers) (seq : Nat) : Headers :=
  let due (e : Nat × Nat × List Byte) : Bool := decide (64 ≤ (seq + 4096 - e.1) % 4096)
  ⟨(h.new.filter due).foldl (fun t e => tset [] t e.2.1 e.2.2) h.table, h.new.filter (fun e => !due e)⟩

/-- A header table that has met a flit's payload: updates of its 64 entries wait to be in effect (R430). -/
def Headers.meet (h : Headers) (seq : Nat) (payload : List Byte) : Headers :=
  let h := h.at seq
  { h with new := h.new ++ (Config.headerUpdates payload).map (fun e => (seq, e.1 % 64, e.2)) }

/-- A flit accepted in order. -/
def Port.accept (p : Port) (f : List Byte) : Port :=
  let payload := (f.drop 4).take payloadBytes
  { p with
    expected := (p.expected + 1) % 4096
    nak := false
    accepted := p.accepted ++ [payload]
    receives := p.receives.meet (flitSeq f) payload }

/-- Whether a flit has been accepted before: its sequence number is one of the 64 before the next (R430, R431). -/
def Port.seen (p : Port) (f : List Byte) : Bool :=
  let behind := (p.expected + 4096 - flitSeq f) % 4096
  decide (1 ≤ behind) && decide (behind ≤ 64)

/-- A flit sent by a port, which holds at most 64 that have not been acknowledged (R430). -/
def Port.send (p : Port) (payload : List Byte) : Port :=
  if !p.up || decide (64 ≤ p.replay.length) then p
  else
    let f := makeFlit p.sent ((p.expected + 4095) % 4096) p.nak payload
    { p with
      sent := (p.sent + 1) % 4096
      nak := false
      replay := p.replay ++ [f]
      wire := p.wire ++ [f]
      sends := p.sends.meet (flitSeq f) ((f.drop 4).take payloadBytes) }

/-- FLIT_RECEIVE (R428, R430, R431): the flit `ev.bytes` arrives at port `ev.a`. One whose CRC fails or that leaves a gap in SEQ is
discarded, and a NAK is owed; one accepted before is discarded; the next is accepted, and what it acknowledges leaves the replay buffer
(DEDUCED, log 72). -/
def execFlitReceive (s : State) : Out :=
  let f := s.ev.bytes
  if s.ev.a ≥ 36 ∨ (s.port s.ev.a).up = false then .next s
  else .next (s.modPort s.ev.a (fun p =>
    if flitGood f && flitSeq f == p.expected then
      let p := (p.accept f).acked (flitAck f)
      if flitNak f then { p with resend := true } else p
    else if flitGood f && p.seen f then p
    else { p with nak := true }))

/-- FLIT_REPLAY (R431): port `ev.a` resends every flit after the last acknowledged, each with the bits it first carried. -/
def execFlitReplay (s : State) : Out :=
  if s.ev.a ≥ 36 ∨ (s.port s.ev.a).up = false ∨ (s.port s.ev.a).resend = false then .next s
  else .next (s.modPort s.ev.a (fun p => { p with resend := false, wire := p.wire ++ p.replay }))

/-! ### Lanes (R432) -/

/-- The CARE row of lane failures. -/
def careLane : Nat := 6

/-- Spare lanes in use by the four ports that share a pool (DESIGN CHOICE, log 69). -/
def State.poolUsed (s : State) (port : Nat) : Nat :=
  ((List.range 4).map (fun k => (s.port (port / 4 * 4 + k)).remapped)).foldl (· + ·) 0

/-- A port whose lane has failed: remapped where the pool holds a spare; else it runs on while two lanes work, and goes down below
that. Its unacknowledged flits are retried (R432). -/
def Port.loseLane (p : Port) (lane : Nat) (spare : Bool) : Port :=
  if spare then { p with remapped := p.remapped + 1, resend := true }
  else
    let failed := lane :: p.failed
    { p with failed := failed, up := decide (failed.length + 2 ≤ 4), resend := true }

/-- LANE_FAILURE (R432): lane `ev.b` of port `ev.a` fails. -/
def execLaneFailure (s : State) : Out :=
  let p := s.port s.ev.a
  if s.ev.a ≥ 36 ∨ s.ev.b ≥ 4 ∨ p.failed.contains s.ev.b = true then .next s
  else
    let spare : Bool := decide (s.poolUsed s.ev.a < 2)
    .next ((s.count (careIndex careLane s.ev.a)).modPort s.ev.a (fun p => p.loseLane s.ev.b spare))

/-! ### The time base (R449) -/

/-- TIMEB_SYNC (R449): the package hears the count `ev.val` of the package it follows: a count behind steps forward, a count ahead runs at
half rate until they agree. A package with no working port keeps its own. -/
def execTimebSync (s : State) : Out :=
  if !(List.range 36).any (fun n => (s.port n).up) then .next s
  else
    let t := s.ev.val.toNat
    if s.timeb < t then .next { s with timeb := t, timebAhead := 0, timebHalf := false }
    else .next { s with timebAhead := s.timeb - t }

end Sys2Proof.Machine
end

