-- ==== Sys2Proof/Machine/Engine.lean ====
section
/-! DEFINITION. What the engines share: reads of COMMITTED through the range registers of an instruction, with the copies an engine
may keep (R25, R103), and how a fault ends or parks an engine command (R32, R33, R35). -/

namespace Sys2Proof.Machine

open Sys2Proof

/-- A fault outcome of an engine's access, with the address it met and the IPA where one was formed (DESIGN CHOICE, log 39). Cause 0 is none:
a slice stalls, and the access is tried again. -/
structure EngFault where
  cause : Nat
  sub : Nat
  va : Nat
  ipa : Nat
  deriving DecidableEq, Repr

/-- An action of an engine: the machine after it, and its result or a fault outcome. -/
abbrev Eng (α : Type) := ExceptT EngFault (StateM State) α

/-- A fault outcome. -/
def engFault {α : Type} (f : EngFault) : Eng α := throw f

/-- An action of the memory side done for an engine at an address. -/
def Eng.lift {α : Type} (va : Nat) (m : Mem α) : Eng α := fun s =>
  m.on s (fun t => (.error ⟨0, 0, va, 0⟩, t)) (fun a s => (.ok a, s)) (fun cause sub ipa s => (.error ⟨cause, sub, va, ipa⟩, s))

/-- The key of an engine's copy of a sector. -/
def copyKey (unit : Nat) (l : Loc) : Nat := (unit * 256 + l.home) * 2 ^ 48 + l.sec

/-- An engine's copies of a core dropped, those of its resource records among them (R103) (DEDUCED, log 42). -/
def State.dropCopiesOf (s : State) (core unit : Nat) : State :=
  s.modCore core (fun c => { c with engineCopies := c.engineCopies.filter (fun e => e.1 / 2 ^ 56 % 8 != unit) })

/-- An engine's copies with room for one more sector of a resource record: the record cache holds 256 records, of four sectors each (R10);
which one gives way the spec does not say (DESIGN CHOICE, log 77). -/
def recordRoom (cs : Table (BitVec 128)) (key : Nat) : Table (BitVec 128) :=
  let records := ((cs.filter (fun e => 8 ≤ e.1 / 2 ^ 56)).map (fun e => e.1 / 4)).dedup
  if key / 2 ^ 56 < 8 ∨ records.contains (key / 4) = true ∨ records.length < 256 then cs
  else match records with
    | r :: _ => cs.filter (fun e => e.1 / 4 != r)
    | [] => cs

/-- Whether a unit keeps what it reads: the texture path, the traversal unit and the Facet unit do (R103). -/
def unitKeeps (unit : Nat) : Bool := decide (unit % 8 < 3)

/-- Whether an engine's read uses a copy: `ev.on` lets it use every copy, an occurrence of its sector in `ev.secs` once (R103). -/
def State.usesCopy (s : State) (key : Nat) : Bool := s.ev.on || s.ev.secs.contains key

/-- A use of a copy counted: an occurrence of its sector in `ev.secs` stands for one. -/
def State.countCopy (s : State) (key : Nat) : State := if s.ev.on then s else { s with ev := { s.ev with secs := s.ev.secs.erase key } }

/-- One read of COMMITTED by a unit counted: `ev.c`, where it is not 0, is one more than the reads that a unit that keeps copies still makes
in this step; it goes on from them in a later one, and other parties' writes come between (R102, R318). -/
def State.countRead (s : State) : State := { s with ev := { s.ev with c := s.ev.c - 1 } }

/-- A sector read by an engine kept as its copy; for an occurrence of it in `ev.late` the copy it has stays, and a later read may find the older bytes
there (R103, R318). -/
def State.keepCopy (s : State) (core key : Nat) (d : BitVec 128) : State :=
  if s.ev.late.contains key then { s with ev := { s.ev with late := s.ev.late.erase key } }
  else s.modCore core (fun c => { c with engineCopies := tinsert key d (recordRoom c.engineCopies key) })

/-- A committed sector as an engine reads it: a copy it read before, where it may use one, or COMMITTED (R103). Units 0 to 2
keep copies, of resource records at units 8 to 10. -/
def engSector (o : Op) (unit : Nat) (copies : Bool) (base : Nat) (l : Loc) : Eng (BitVec 128) := fun s =>
  let key := copyKey unit l
  match copies && s.usesCopy key && !s.ev.late.contains key, tfind key (s.coreState o.core).engineCopies with
  | true, some d => (.ok d, s.countCopy key)
  | _, _ =>
    if unitKeeps unit && s.ev.c == 1 then (.error ⟨0, 0, base, 0⟩, s)
    else
      (do
        let d ← Eng.lift base (confirm l false >>= fun _ => committed l)
        modify (fun s => if unitKeeps unit then (s.keepCopy o.core key d).countRead else s)
        pure d : Eng (BitVec 128)).run s

/-- Sectors read one after the other, the lowest address lowest. -/
def engSectors (o : Op) (unit : Nat) (copies : Bool) (base : Nat) : Nat → Nat → Eng Nat
  | _, 0 => pure 0
  | a, n + 1 =>
    match translate o.ranges a 16 true false false with
    | .bad cause sub => engFault ⟨cause, sub, base, 0⟩
    | .ok l => do
      let d ← engSector o unit copies base l
      let r ← engSectors o unit copies base (a + 16) n
      pure (d.toNat + 2 ^ 128 * r)

/-- `n` bytes of an object at an address, checked by R22 as one read (R25). -/
def engObject (o : Op) (unit : Nat) (copies : Bool) (va n : Nat) : Eng Nat :=
  match translate o.ranges va n true false false with
  | .bad cause sub => engFault ⟨cause, sub, va, 0⟩
  | .ok _ => do
    let v ← engSectors o unit copies va (va / 16 * 16) ((va % 16 + n + 15) / 16)
    pure (bitsOf v (8 * (va % 16)) (8 * n))

/-- A resource record: 64 bytes at RHEAP plus 64 times an index (R300, R321, R352). -/
def engRecord (o : Op) (unit : Nat) (copies : Bool) (index : Nat) : Eng (Nat × Nat) := do
  let va := (o.rheap.toNat + 64 * index) % 2 ^ 64
  let v ← engObject o (8 + unit) copies va 64
  pure (va, v)

/-! ### Lanes of an engine instruction -/

/-- Word `k` that an instruction captured of a lane. -/
def Op.word (o : Op) (k l : Nat) : Word := tget 0 o.src (32 * k + l)

/-- A request that stands for one lane of an engine instruction, or for a whole command. -/
def laneSlot (l : Nat) : Req := ⟨l, 0, ⟨0, 0, none⟩, 0, 0, [], .waiting⟩

/-- An engine instruction ends on a fault: lanes that finished keep what they wrote (R316, R337, R362). -/
def State.endEngine (s : State) (o : Op) (t : LateTrap) : State :=
  let gone (w : WaitEntry) : WaitEntry := { w with accesses := w.accesses.filter (fun a => a.1 != o.id) }
  { s with waits := s.waits.map gone }.modOp o.id (fun p =>
    { p with performed := true, results := [], lateTrap := some t, reqs := p.reqs.map (fun (r : Req) => { r with state := .done }) })

/-- The trap of a fault of an engine's access, or of a check of its own, which carries its cause and subcode (R35). -/
def engTrap (k : OpKind) (f : EngFault) : LateTrap :=
  if 0x18 ≤ f.cause then ⟨f.cause, f.sub, BitVec.ofNat 64 f.va, false, 0⟩ else faultTrap k f.cause f.sub f.va f.ipa

/-- A fault outcome of one lane of an engine instruction: NOTPRESENT parks the lane, or settles the frontier task, or is deferred
in a task with the absent page's IPA; every other outcome ends the instruction (R32, R35, R384). -/
def State.engineFault (s : State) (o : Op) (n : Nat) (f : EngFault) : State :=
  let full : LateTrap := faultTrap o.kind causeXlate 5 f.va f.ipa
  if f.cause = 0 then s
  else if f.cause = causeXlate ∧ f.sub = 1 then
    match o.task with
    | none =>
      (match s.enterWait f.ipa 3 [(o.id, n)] with
       | some (token, s) => s.setReq o.id n (.parked token)
       | none => s.endEngine o full)
    | some (l, k) =>
      if s.frontierSlot l k then (s.taskNotPresent l k f.ipa).getD (s.endEngine o full)
      else s.endEngine o (engTrap o.kind f)
  else s.endEngine o (engTrap o.kind f)

/-- Whether an instruction's engine may use copies it read before: in a deterministic launch it reads COMMITTED, whatever it keeps, so that
results are the same on every run (R103, R320, R338, R364) (DEDUCED, log 42). -/
def State.mayCopy (s : State) (o : Op) : Bool :=
  match tfind o.gid s.groups with
  | some g => (match tfind g.launch s.launches with | some l => !l.record.det | none => true)
  | none => true

/-- Whether a unit may work on an instruction's lanes: its group is resident and not stopped for a move, and full service has begun (R319, R338,
R364, R436). -/
def State.unitRuns (s : State) (o : Op) : Bool :=
  s.isResident o.gid && s.resumeTurn o && s.boot.phase == 4 &&
  (match tfind o.gid s.groups with
   | some g => (match tfind g.team s.teams with | some t => !t.saving | none => true)
   | none => false)

/-- Registers that one lane of an engine instruction writes when it finishes (R315, R337). -/
def State.writeLane (s : State) (o : Op) (ws : List (RegElem × Word)) : State :=
  s.modGroup o.gid (fun g => ws.foldl Group.writeElem g)

/-- The words of a run of vector registers of one lane. -/
def runElems (dst l : Nat) (ws : List Word) : List (RegElem × Word) := ws.mapIdx (fun k w => (RegElem.v (dst + k) l, w))

/-- The record index a lane's SC names (R300, R321). -/
def recordIndex (w : Word) : Nat := w.toNat % 2 ^ 24

/-- The scope and ACQ that a GFX word's IMM8 holds (R306, R335, R357). -/
def gfxAcq (x : GFX) : Bool := x.imm.getLsbD 2

/-- An engine instruction of the GFX format starts: its operand words captured for each acting lane, the run of SA first and the
index in SC after it, and with ACQ the engine's copies dropped. With no active lane it completes at once (R309, R337, R358).
`more` are requests beside those of the lanes. -/
def gfxStart (i : Instr) (kind : OpKind) (x : GFX) (run unit : Nat) (acq : Bool) (more : List Req) (c : Ctx) (s : State) : State :=
  let index := c.active.foldl (fun t l => tset 0 t (32 * run + l) (c.read none 0 0 x.c l)) (captureRun c x.a run c.active)
  let o := c.op i kind (c.active.map laneSlot ++ more) index s
  let s := if acq && c.active != [] then s.dropCopiesOf c.core unit else s
  c.start i { o with acq := acq, performed := c.active = [] } s

end Sys2Proof.Machine
end

