-- ==== Sys2Proof/Machine/Ray.lean ====
section
/-! DEFINITION. The traversal unit (R300 to R320): the BVH in memory, box and triangle tests, the hit a ray finds, and the
three instructions. -/

namespace Sys2Proof.Machine

open Sys2Proof

/-! ### Exact arithmetic on words -/

/-- The exact difference. -/
def Exact.sub (x y : Exact) : Exact := x.add y.neg

/-- The exact quotient; a quotient by a zero or of two infinities is a NaN here. -/
def Exact.div (x y : Exact) : Exact :=
  match x, y with
  | .frac a p d, .frac b q e => if q = 0 then .nan else .frac (a != b) (p * e) (d * q)
  | .inf a, .frac b q _ => if q = 0 then .nan else .inf (a != b)
  | .frac a _ _, .inf b => .frac (a != b) 0 1
  | _, _ => .nan

/-- Whether a comparison of two exact values has a sign that a test accepts; false with a NaN. -/
def Exact.test (f : Int → Bool) (x y : Exact) : Bool := match x.cmp? y with | some i => f i | none => false
/-- x < y. -/
def Exact.lt (x y : Exact) : Bool := Exact.test (fun i => decide (i < 0)) x y
/-- x ≤ y. -/
def Exact.le (x y : Exact) : Bool := Exact.test (fun i => decide (i ≤ 0)) x y
/-- Zero. -/
def Exact.zero : Exact := .frac false 0 1

/-- An exact result rounded once to FP32 in a mode. -/
def round32 (r : Rnd) (x : Exact) : Word := BitVec.ofNat 32 (f32.round r x)

/-- Three FP32 words. -/
structure Vec3 where
  x : Word
  y : Word
  z : Word
  deriving DecidableEq, Repr

/-- Component `a` of a vector. -/
def Vec3.at (v : Vec3) (a : Nat) : Word := match a with | 0 => v.x | 1 => v.y | _ => v.z
/-- Component `a` as an exact value. -/
def Vec3.val (v : Vec3) (a : Nat) : Exact := val32 (v.at a)
/-- Whether every component is finite. -/
def Vec3.finite (v : Vec3) : Bool := !(notFinite32 v.x || notFinite32 v.y || notFinite32 v.z)
/-- Whether every component is a zero. -/
def Vec3.isZero (v : Vec3) : Bool := (v.x ||| v.y ||| v.z) &&& 0x7FFFFFFF#32 == 0

/-! ### What a ray is (R307) -/

/-- A ray with its limits, culling and mask. -/
structure Ray where
  o : Vec3
  d : Vec3
  tmin : Word
  tmax : Word
  flags : Word
  mask : Nat
  deriving DecidableEq, Repr

/-- The ray of a lane, from the words read at issue. -/
def rayOf (o : Op) (l : Nat) : Ray :=
  ⟨⟨o.word 0 l, o.word 1 l, o.word 2 l⟩, ⟨o.word 3 l, o.word 4 l, o.word 5 l⟩, o.word 6 l, o.word 7 l, o.word 8 l,
    (o.word 9 l).toNat % 256⟩

/-- Whether a ray is rejected (R307). -/
def Ray.rejected (r : Ray) : Bool :=
  !r.o.finite || !r.d.finite || r.d.isZero || isNan32 r.tmin || isNan32 r.tmax || flt32 r.tmax r.tmin || r.flags.toNat / 4 != 0

/-! ### Boxes (R301, R302, R311) -/

/-- A word of a line, at a byte offset. -/
def lineWord (v off : Nat) : Word := BitVec.ofNat 32 (bitsOf v (8 * off) 32)
/-- Three words of a line. -/
def lineVec (v off : Nat) : Vec3 := ⟨lineWord v off, lineWord v (off + 4), lineWord v (off + 8)⟩
/-- The kind of child `c` of a node. -/
def childKind (v c : Nat) : Nat := bitsOf v (8 * 0x18 + 2 * c) 2
/-- The entry byte `k` of child `c`. -/
def childByte (v c k : Nat) : Nat := bitsOf v (8 * (0x20 + 8 * c + k)) 8
/-- CHILDBASE. -/
def childBase (v : Nat) : Nat := bitsOf v (8 * 0x10) 64
/-- The address of child `c`. -/
def childAddr (v c : Nat) : Nat := (childBase v + 128 * bitsOf v (8 * (0x26 + 8 * c)) 16) % 2 ^ 64
/-- EXP on an axis, signed. -/
def nodeExp (v a : Nat) : Int := (BitVec.ofNat 8 (bitsOf v (8 * (0x0C + a)) 8)).toInt

/-- A corner of a child's box on an axis, rounded outward (R302). -/
def corner (v c a : Nat) (high : Bool) : Word :=
  let q := childByte v c (if high then 3 + a else a)
  let r : Rnd := if high then .rup else .rdn
  round32 r (Exact.addIn r (val32 (lineWord v (4 * a))) (Exact.dyadic false q (nodeExp v a)))

/-- Whether a child is never entered: empty, a low corner above its high one, or a NaN in ORIGIN (R302). -/
def neverEntered (v c : Nat) : Bool :=
  childKind v c == 0 || (List.range 3).any (fun a => decide (childByte v c (3 + a) < childByte v c a) || isNan32 (lineWord v (4 * a)))

/-- The larger of two words by value, the first where they are equal. -/
def wordMax (a b : Word) : Word := if flt32 a b then b else a
/-- The smaller of two words by value. -/
def wordMin (a b : Word) : Word := if flt32 b a then b else a

/-- The slab test of one axis: the interval left, or none (R311). -/
def slab (lo hi o d : Word) (t : Word × Word) : Option (Word × Word) :=
  if (val32 d).cmp? Exact.zero = some 0 then
    (if flt32 o lo || flt32 hi o then none else some t)
  else
    let u := ((val32 lo).sub (val32 o)).div (val32 d)
    let w := ((val32 hi).sub (val32 o)).div (val32 d)
    let near := if w.lt u then w else u
    let far := if u.lt w then w else u
    some (wordMax t.1 (round32 .rdn near), wordMin t.2 (round32 .rup far))

/-- box_hit (R311). -/
def boxHit (v c : Nat) (r : Ray) (bound : Word) : Bool :=
  let step (t : Option (Word × Word)) (a : Nat) : Option (Word × Word) :=
    t.bind (fun t => slab (corner v c a false) (corner v c a true) (r.o.at a) (r.d.at a) t)
  if (List.range 3).any (fun a => isNan32 (corner v c a false) || isNan32 (corner v c a true)) then false
  else match (List.range 3).foldl step (some (r.tmin, bound)) with
    | some t => fle32 t.1 t.2
    | none => false

/-! ### Triangles (R303, R312) -/

/-- What a triangle test accepts: t, b1 and b2. -/
structure TriHit where
  t : Word
  b1 : Word
  b2 : Word
  deriving DecidableEq, Repr

/-- The magnitude of a finite word's value, for comparison. -/
def magWord (w : Word) : Word := w &&& 0x7FFFFFFF#32

/-- A rounding of the triangle test, which keeps the sign of its exact value and gives zero only for an exact zero: the least magnitude where
R223 would give zero (R312) (DEDUCED, log 87). -/
def rneSigned (x : Exact) : Word :=
  match x with
  | .frac neg num _ =>
    if num ≠ 0 ∧ magWord (rne32 x) = 0 then (if neg then 0x80000001#32 else 1#32) else rne32 x
  | _ => rne32 x

/-- A vertex in the ray's frame (R312). -/
def shear (r : Ray) (kx ky kz : Nat) (sx sy sz : Word) (p : Vec3) : Vec3 :=
  let dz := (p.val kz).sub (r.o.val kz)
  ⟨rneSigned (((p.val kx).sub (r.o.val kx)).sub ((val32 sx).mul dz)),
    rneSigned (((p.val ky).sub (r.o.val ky)).sub ((val32 sy).mul dz)),
    rneSigned ((val32 sz).mul dz)⟩

/-- A difference of two products, rounded once. -/
def cross2 (a b c d : Word) : Word := rneSigned (((val32 a).mul (val32 b)).sub ((val32 c).mul (val32 d)))

/-- The triangle test (R312). -/
def triTest (r : Ray) (flip : Bool) (bound : Word) (v0 v1 v2 : Vec3) : Option TriHit :=
  let big (a b : Nat) : Bool := decide ((magWord (r.d.at b)).toNat < (magWord (r.d.at a)).toNat)
  let kz := if big 1 0 then (if big 2 1 then 2 else 1) else (if big 2 0 then 2 else 0)
  let neg := flt32 (r.d.at kz) 0
  let k1 := (kz + 1) % 3
  let k2 := (kz + 2) % 3
  let kx := if neg then k2 else k1
  let ky := if neg then k1 else k2
  let sx := rneSigned ((r.d.val kx).div (r.d.val kz))
  let sy := rneSigned ((r.d.val ky).div (r.d.val kz))
  let sz := rneSigned ((Exact.frac false 1 1).div (r.d.val kz))
  let a := shear r kx ky kz sx sy sz v0
  let b := shear r kx ky kz sx sy sz v1
  let c := shear r kx ky kz sx sy sz v2
  let u := cross2 c.x b.y c.y b.x
  let v := cross2 a.x c.y a.y c.x
  let w := cross2 b.x a.y b.y a.x
  let nan := [a.x, a.y, a.z, b.x, b.y, b.z, c.x, c.y, c.z, u, v, w].any isNan32
  let det := rneSigned (((val32 u).add (val32 v)).add (val32 w))
  let t := rneSigned ((((val32 u).mul (val32 a.z)).add ((val32 v).mul (val32 b.z))).add ((val32 w).mul (val32 c.z)))
  let front := flt32 0 det != flip
  let t := rneSigned ((val32 t).div (val32 det))
  if nan || ((flt32 u 0 || flt32 v 0 || flt32 w 0) && (flt32 0 u || flt32 0 v || flt32 0 w))
      || (val32 det).cmp? Exact.zero == some 0
      || (front && r.flags.getLsbD 1) || (!front && r.flags.getLsbD 0)
      || !(fle32 r.tmin t && fle32 t bound) then none
  else some ⟨t, rneSigned ((val32 v).div (val32 det)), rneSigned ((val32 w).div (val32 det))⟩

/-! ### Instances (R304, R310, R314) -/

/-- M(i, j) of an instance line. -/
def instM (v i j : Nat) : Exact := val32 (lineWord v (16 * i + 4 * j))

/-- A row of M applied to a vector, with the translation where it is asked for, rounded once (R310). -/
def instRow (v i : Nat) (p : Vec3) (shift : Bool) : Word :=
  let s := (((instM v i 0).mul (p.val 0)).add ((instM v i 1).mul (p.val 1))).add ((instM v i 2).mul (p.val 2))
  rne32 (if shift then s.add (instM v i 3) else s)

/-- The ray in an instance's space, none where the instance is skipped (R310). -/
def instRay (v : Nat) (r : Ray) : Option Ray :=
  let o : Vec3 := ⟨instRow v 0 r.o true, instRow v 1 r.o true, instRow v 2 r.o true⟩
  let d : Vec3 := ⟨instRow v 0 r.d false, instRow v 1 r.d false, instRow v 2 r.d false⟩
  if Nat.land (bitsOf v (8 * 0x3C) 8) r.mask = 0 ∨ o.finite = false ∨ d.finite = false ∨ d.isZero = true then none
  else some { r with o := o, d := d }

/-- A hit with its key (R313) and what its results need: the words t, PRIMID, INSTID, b1 and b2, the vertices, and the instance
line. -/
structure Hit where
  hit : TriHit
  inst : Nat
  leaf : Nat
  slot : Nat
  prim : Word
  instId : Word
  v0 : Vec3
  v1 : Vec3
  v2 : Vec3
  line : Nat
  deriving DecidableEq, Repr

/-- Whether a hit comes before another (R313). -/
def Hit.before (a b : Hit) : Bool :=
  flt32 a.hit.t b.hit.t ||
    (!flt32 b.hit.t a.hit.t &&
      (decide (a.inst < b.inst) || (decide (a.inst = b.inst) &&
        (decide (a.leaf < b.leaf) || (decide (a.leaf = b.leaf) && decide (a.slot < b.slot))))))

/-- The better of a hit and the best so far. -/
def better (best : Option Hit) (h : Hit) : Option Hit :=
  match best with
  | none => some h
  | some b => if h.before b then some h else some b

/-- The bound of tests (R311). -/
def boundOf (r : Ray) (any : Bool) (best : Option Hit) : Word :=
  match any, best with
  | false, some b => wordMin r.tmax b.hit.t
  | _, _ => r.tmax

/-- The normal of a hit (R314). -/
def hitNormal (h : Hit) : List Word :=
  let e (p : Vec3) (a : Nat) : Exact := (p.val a).sub (h.v0.val a)
  let n (a b : Nat) : Exact := ((e h.v1 a).mul (e h.v2 b)).sub ((e h.v1 b).mul (e h.v2 a))
  let n0 := n 1 2
  let n1 := n 2 0
  let n2 := n 0 1
  (List.range 3).map (fun i =>
    rne32 ((((instM h.line 0 i).mul n0).add ((instM h.line 1 i).mul n1)).add ((instM h.line 2 i).mul n2)))

/-! ### Traversal (R305, R310 to R313) -/

/-- A line of the BVH read. -/
def bvhLine (o : Op) (copies : Bool) (va : Nat) : Eng Nat := engObject o 1 copies va 128

/-- A check of the structure failed (R305). -/
def bvhBad {α : Type} (sub va : Nat) : Eng α := engFault ⟨causeEngine, sub, va, 0⟩

/-- The triangles of a leaf tested (R303, R312, R313). -/
def traceLeaf (v va : Nat) (r : Ray) (any : Bool) (instVa line : Nat) (best : Option Hit) : Option Hit :=
  (List.range (bitsOf v 0 8)).foldl (fun best k =>
    let at' := 8 + 40 * k
    let v0 := lineVec v at'
    let v1 := lineVec v (at' + 12)
    let v2 := lineVec v (at' + 24)
    match triTest r (bitsOf line (8 * 0x3D) 1 == 1) (boundOf r any best) v0 v1 v2 with
    | some h => better best ⟨h, instVa, va, k, lineWord v (at' + 36), lineWord line 0x38, v0, v1, v2, line⟩
    | none => best) best

/-- What enters a child of a kind at an address, with whether it lies beyond the bound. -/
abbrev Enter := Bool → Nat → Nat → Ray → Option Hit → Eng (Option Hit)

/-- What lies below a box that the ray meets but not within the bound: its triangles count, for pruning never changes the result. A fault outcome
there is not met, and what was found before it stands; an absent page parks the ray as elsewhere (R311, R313, R316) (DEDUCED, log 41). -/
def beyondBound (best : Option Hit) (m : Eng (Option Hit)) : Eng (Option Hit) := fun s =>
  match m.run s with
  | (.ok b, s) => (.ok b, s)
  | (.error f, t) => if f.cause = 0 ∨ f.cause = causeXlate ∧ f.sub = 1 then (.error f, t) else (.ok best, s)

/-- The children of a node visited in order, those whose boxes are hit (R302, R311, R313); `soft` where the node itself lies beyond the bound. -/
def traceChildren (v : Nat) (r : Ray) (any soft : Bool) (enter : Enter) : List Nat → Option Hit → Eng (Option Hit)
  | [], best => pure best
  | c :: cs, best => do
    if any && best.isSome then pure best
    else if neverEntered v c || !boxHit v c r r.tmax then traceChildren v r any soft enter cs best
    else
      let soft' := soft || !boxHit v c r (boundOf r any best)
      let below := enter soft' (childKind v c) (childAddr v c) r best
      let b ← if soft' then beyondBound best below else below
      traceChildren v r any soft enter cs b

/-- A node and what lies below it, at most `fuel` more nodes on a path (R301, R305). `leaf` enters a child that is no node (DEDUCED, log 40) (DEDUCED, log 41). -/
def traceNode (o : Op) (copies any : Bool) (leaf : Nat → Enter) : Nat → Bool → Nat → Ray → Option Hit → Eng (Option Hit)
  | 0, _, va, _, _ => bvhBad 0x22 va
  | fuel + 1, soft, va, r, best => do
    let v ← bvhLine o copies va
    if childBase v % 128 ≠ 0 then bvhBad 0x21 va
    else
      traceChildren v r any soft (fun soft kind child r best =>
        if kind = 1 then traceNode o copies any leaf fuel soft child r best else leaf va soft kind child r best) (List.range 8) best

/-- A child of a bottom-level node that is no node: a triangle leaf (R303, R305). -/
def bottomLeaf (o : Op) (copies any : Bool) (instVa line : Nat) (node : Nat) : Enter := fun _ kind va r best =>
  if kind ≠ 2 then bvhBad 0x21 node
  else do
    let v ← bvhLine o copies va
    let n := bitsOf v 0 8
    if n = 0 ∨ 3 < n then bvhBad 0x21 va else pure (traceLeaf v va r any instVa line best)

/-- A child of a top-level node that is no node: an instance (R304, R305, R310). -/
def topLeaf (o : Op) (copies any : Bool) (node : Nat) : Enter := fun soft kind va r best =>
  if kind ≠ 3 then bvhBad 0x21 node
  else do
    let v ← bvhLine o copies va
    match instRay v r with
    | none => pure best
    | some r' =>
      let root := bitsOf v (8 * 0x30) 64
      if root % 128 ≠ 0 then bvhBad 0x21 va
      else traceNode o copies any (bottomLeaf o copies any va v) 64 soft root r' best

/-- The hit of a lane's ray (R300, R310 to R313). -/
def traceRay (o : Op) (copies any : Bool) (index : Nat) (r : Ray) : Eng (Option Hit) := do
  let (va, v) ← engRecord o 1 copies index
  if bitsOf v 0 8 ≠ 3 then bvhBad 0x20 va
  else if bitsOf v 64 64 % 128 ≠ 0 then bvhBad 0x21 va
  else traceNode o copies any (topLeaf o copies any) 64 false (bitsOf v 64 64) r none

/-! ### Results (R308) -/

/-- The words of a lane without a hit. -/
def noHitWords (first : Word) (id : Word) (n : Nat) : List Word := [first, id, id] ++ List.replicate n 0

/-- The words a lane of RAY.T or RAY.A receives. -/
def rayWords (normal : Bool) (h : Option Hit) : List Word :=
  match h with
  | none => noHitWords 0x7F800000 0xFFFFFFFF (if normal then 5 else 2)
  | some h => [h.hit.t, h.prim, h.instId, h.hit.b1, h.hit.b2] ++ (if normal then hitNormal h else [])

/-- What one lane of a ray instruction computes. -/
def rayLane (o : Op) (copies : Bool) (i : Instr) (l : Nat) : Eng (List Word) := do
  let r := rayOf o l
  match i with
  | .rayO _ =>
    if r.rejected then pure [0xFFFFFFFE]
    else
      let h ← traceRay o copies true (recordIndex (o.word 10 l)) r
      pure [if h.isSome then 1 else 0]
  | .rayA _ =>
    if r.rejected then pure (noHitWords 0x7FC00000 0xFFFFFFFE 5)
    else
      let h ← traceRay o copies false (recordIndex (o.word 10 l)) r
      pure (rayWords true h)
  | _ =>
    if r.rejected then pure (noHitWords 0x7FC00000 0xFFFFFFFE 2)
    else
      let h ← traceRay o copies false (recordIndex (o.word 10 l)) r
      pure (rayWords false h)

/-! ### The instructions (R306, R309, R315, R316) -/

/-- A ray instruction: it waits at issue for a ray slot of each acting lane (R309). -/
def rayStart (i : Instr) (x : GFX) (s : State) : Out :=
  issue i s (fun c s =>
    if c.active != [] && decide (1024 < s.raysInFlight c.core + c.active.length) then .next (c.waitOn (.slots c.active.length) s)
    else .next (gfxStart i (.ray i) x 10 1 (gfxAcq x) [] c s))

/-- RAY.T (R308). -/
def execRayT (x : GFX) (s : State) : Out := rayStart (.rayT x) x s
/-- RAY.O (R308). -/
def execRayO (x : GFX) (s : State) : Out := rayStart (.rayO x) x s
/-- RAY.A (R308). -/
def execRayA (x : GFX) (s : State) : Out := rayStart (.rayA x) x s

/-- The first destination of a ray instruction. -/
def rayDst (i : Instr) : Nat := match i with | .rayT x | .rayO x | .rayA x => dataReg x.dst | _ => 0

/-- RAY_LANE_FINISH (R315, R316, R318): lane `ev.b` of the ray instruction `ev.a` goes on, with the lines it may use copies of as `ev.on` and
`ev.secs` say, and as many reads as `ev.c` allows; it finishes, parks on NOTPRESENT, or ends the instruction. -/
def execRayLaneFinish (s : State) : Out :=
  match s.op? s.ev.a with
  | none => .next s
  | some o =>
    match o.kind, o.reqs[s.ev.b]? with
    | .ray i, some r =>
      if o.performed || r.state != .waiting || !s.unitRuns o then .next s
      else
        let n := s.ev.b
        match (rayLane o (s.mayCopy o) i r.lane).run s with
        | (.ok ws, s) => .next (((s.writeLane o (runElems (rayDst i) r.lane ws)).setReq o.id n .done).settlePerformed o.id)
        | (.error f, s) => .next (s.engineFault o n f)
    | _, _ => .next s

end Sys2Proof.Machine
end

