-- ==== Sys2Proof/Machine/Facet.lean ====
section
/-! DEFINITION. The Facet unit's arithmetic (R339 to R356): closures as numbers of 2048 bits, the well-formedness check, the build
operations, and sampling, evaluation and density. A closure or a record of n bytes is a number below 256^n, its first byte lowest. -/

namespace Sys2Proof.Machine

open Sys2Proof

/-! ### Arithmetic (R345): exact arguments, one rounding -/

/-- round_rne_f32 of an exact value; an exact zero has no sign and gives +0. -/
def rn (x : Exact) : Word := match x with | .frac _ 0 _ => 0 | x => rne32 x

/-- round_rne_f16 of an exact value, an exact zero being +0. -/
def rn16 (x : Exact) : Nat := match x with | .frac _ 0 _ => 0 | x => f16.round .rne x

/-- A quotient rounded once; a quotient by zero is infinite with the dividend's sign, or a NaN for a zero dividend. -/
def rnDiv (x y : Exact) : Word :=
  match y with
  | .frac _ 0 _ =>
    (match x with
     | .frac _ 0 _ | .nan => rne32 .nan
     | .frac neg _ _ | .inf neg => rne32 (.inf neg)
     | _ => rne32 .nan)
  | _ => rn (x.div y)

/-- rn (sqrt x). -/
def rnSqrt (x : Exact) : Word := rn (Fn.apply .sqrt f32 .rne 0 x)
/-- rn (1 / sqrt x). -/
def rnRsq (x : Exact) : Word := match x with | .frac _ 0 _ => rne32 (.inf false) | x => rn (Fn.apply .rsq f32 .rne 0 x)
/-- rn (cos πx). -/
def rnCospi (x : Exact) : Word := rn (Fn.apply .cospi f32 .rne 0 x)
/-- rn (sin πx). -/
def rnSinpi (x : Exact) : Word := rn (Fn.apply .sinpi f32 .rne 0 x)
/-- An exact integer. -/
def Exact.nat (n : Nat) : Exact := .frac false n 1
/-- One. -/
def Exact.one : Exact := Exact.nat 1
/-- A word above zero. -/
def pos32 (w : Word) : Bool := flt32 0 w
/-- The exact dot product of two vectors. -/
def Vec3.dot (a b : Vec3) : Exact := (((a.val 0).mul (b.val 0)).add ((a.val 1).mul (b.val 1))).add ((a.val 2).mul (b.val 2))
/-- A vector formed component by component. -/
def Vec3.of (f : Nat → Word) : Vec3 := ⟨f 0, f 1, f 2⟩
/-- Three zeros. -/
def Vec3.zero : Vec3 := ⟨0, 0, 0⟩
/-- Whether a component is a NaN. -/
def Vec3.anyNan (v : Vec3) : Bool := isNan32 v.x || isNan32 v.y || isNan32 v.z
/-- The components in order. -/
def Vec3.list (v : Vec3) : List Word := [v.x, v.y, v.z]
/-- INVPI (R345). -/
def invPi : Word := 0x3EA2F983#32

/-! ### The closure register (R339 to R341) -/

/-- `n` bytes of a closure at an offset. -/
def kBytes (k off n : Nat) : Nat := bitsOf k (8 * off) (8 * n)
/-- A closure with `n` bytes at an offset replaced. -/
def kPut (k off n v : Nat) : Nat := k - kBytes k off n * 2 ^ (8 * off) + v % 2 ^ (8 * n) * 2 ^ (8 * off)
/-- A word of a closure. -/
def kWord (k off : Nat) : Word := BitVec.ofNat 32 (kBytes k off 4)
/-- A vector of a closure. -/
def kVec (k off : Nat) : Vec3 := ⟨kWord k off, kWord k (off + 4), kWord k (off + 8)⟩
/-- COUNT. -/
def kCount (k : Nat) : Nat := kBytes k 0x18 1
/-- DEPTH. -/
def kDepth (k : Nat) : Nat := kBytes k 0x19 1
/-- Byte offset of node n. -/
def kNode (n : Nat) : Nat := 0x20 + 16 * n
/-- TYPE of node n, its low four bits. -/
def kType (k n : Nat) : Nat := kBytes k (kNode n) 1 % 16
/-- CHILDA or BASE. -/
def kChildA (k n : Nat) : Nat := kBytes k (kNode n + 1) 1 % 16
/-- CHILDB or COAT. -/
def kChildB (k n : Nat) : Nat := kBytes k (kNode n + 1) 1 / 16
/-- An FP16 field of node n, exact. -/
def kHalf (k n off : Nat) : Exact := f16.value (kBytes k (kNode n + off) 2)
/-- RECORD of a NET leaf. -/
def kRecord (k n : Nat) : Nat := kBytes k (kNode n + 8) 3
/-- Whether node n is a leaf. -/
def kLeaf (k n : Nat) : Bool := decide (kType k n < 8)
/-- Whether node n is a GGXC or GGXD leaf. -/
def kGgx (k n : Nat) : Bool := kType k n == 2 || kType k n == 3

/-! ### Well-formed closures (R342) -/

/-- The roots of the forest of the first nodes, the top of the build stack first; none where they are no postfix forest. -/
def kRoots (k : Nat) : Nat → Option (List Nat)
  | 0 => some []
  | n + 1 =>
    match kRoots k n with
    | none => none
    | some st =>
      if kLeaf k n then some (n :: st)
      else match st with
        | x :: y :: r =>
          if (kChildA k n = x ∧ kChildB k n = y) ∨ (kChildA k n = y ∧ kChildB k n = x) then some (n :: r) else none
        | _ => none

/-- The subcode of the first condition of R342 a closure fails, for an instruction. -/
def kCheck (i : Instr) (k : Nat) : Option Nat :=
  let c := kCount k
  let d := kDepth k
  let nodes := List.range c
  if c > 14 ∨ d > c ∨ (d = 0 ∧ c > 0) then some 1
  else if nodes.any (fun n => !([1, 2, 3, 4, 8, 9].contains (kType k n))) then some 2
  else if (kRoots k c).map List.length ≠ some d then some 3
  else if nodes.any (fun n => kType k n == 9 && !kGgx k (kChildB k n)) then some 4
  else if kBytes k 0x1A 1 ≠ (if d = 1 then c - 1 else 0) then some 5
  else match i with
    | .ksample _ | .keval _ | .kdens _ => if 2 ≤ d then some 6 else none
    | .kmix _ => if d < 2 then some 7 else none
    | .klayer _ => if d < 2 then some 7 else if !kGgx k (c - 1) then some 8 else none
    | .kscale _ => if d = 0 then some 7 else none
    | _ => none

/-! ### Operand conditioning (R344) -/

/-- NANIN. -/
def nanIn : Nat := 1
/-- CLAMPED. -/
def clamped : Nat := 2

/-- An operand brought into a range, a NaN replaced, with the STATUS bits this sets; a -0 becomes +0. -/
def conditioned (w nan lo : Word) (hi : Option Word) : Word × Nat :=
  if isNan32 w then (nan, nanIn)
  else if flt32 w lo then (lo, clamped)
  else match hi with
    | some h => if flt32 h w then (h, clamped) else (if w = 0x80000000#32 then 0 else w, 0)
    | none => (if w = 0x80000000#32 then 0 else w, 0)

/-- conv16 of R343: one rounding to FP16, +∞ saturated. -/
def conv16 (x : Exact) : Nat × Nat := let b := rn16 x; if b = f16.inf then (f16.maxFin, clamped) else (b, 0)

/-- An operand stored as FP16. -/
def stored16 (c : Word × Nat) : Nat × Nat := let b := conv16 (val32 c.1); (b.1, Nat.lor c.2 b.2)

/-- W, TINT and s. -/
def condW (w : Word) : Word × Nat := conditioned w 0 0 none
/-- F0 and PROXY. -/
def condUnit (w : Word) : Word × Nat := conditioned w 0 0 (some 0x3F800000#32)
/-- ALPHA. -/
def condAlpha (w : Word) : Word × Nat := conditioned w 0x3F800000#32 0x3A800000#32 (some 0x3F800000#32)
/-- ETA. -/
def condEta (w : Word) : Word × Nat := conditioned w 0x3F800000#32 0x3E800000#32 (some 0x40800000#32)

/-- FP16 fields written one after the other at an offset of a node of bytes, with the STATUS bits gathered. -/
def putHalves (off : Nat) : List (Nat × Nat) → Nat × Nat → Nat × Nat
  | [], acc => acc
  | (b, f) :: hs, acc => putHalves (off + 2) hs (kPut acc.1 off 2 b, Nat.lor acc.2 f)

/-- A leaf node of a type from its operand words, with the STATUS bits its conditioning sets (R340, R344, R357). -/
def leafNode (type : Nat) (ws : List Word) : Nat × Nat :=
  let w (k : Nat) : Word := ws.getD k 0
  let base := putHalves 2 [stored16 (condW (w 0)), stored16 (condW (w 1)), stored16 (condW (w 2))] (type, 0)
  match type with
  | 2 => putHalves 8 [stored16 (condAlpha (w 3)), stored16 (condUnit (w 4)), stored16 (condUnit (w 5)), stored16 (condUnit (w 6))] base
  | 3 =>
    let b := putHalves 8 [stored16 (condAlpha (w 3))] base
    let e := condEta (w 4)
    (kPut b.1 0x0C 4 e.1.toNat, Nat.lor b.2 e.2)
  | 4 => putHalves 0x0C [stored16 (condUnit (w 4))] (kPut base.1 8 3 ((w 3).toNat % 2 ^ 24), base.2)
  | _ => base

/-- An interior node over the two top roots: SCALE 1.0, and for a LAYER its TINT (R341, R343). -/
def interiorNode (type a b : Nat) (ws : List Word) : Nat × Nat :=
  let one : Nat × Nat := (f16.one, 0)
  let base := putHalves 2 [one, one, one] (type + (a + 16 * b) * 256, 0)
  if type = 9 then putHalves 8 (ws.map (fun w => stored16 (condW w))) base else base

/-- The header after a build operation: RSVD zero, ROOT as R339 states, STATUS joined. -/
def kHeader (k count depth status : Nat) : Nat :=
  let k := kPut k 0x18 2 (count + 256 * depth)
  let k := kPut k 0x1A 2 ((if depth = 1 then count - 1 else 0) + 256 * Nat.lor (kBytes k 0x1B 1 % 4) status)
  kPut k 0x1C 4 0

/-- The bytes of a node marked RSVD, as offset and length, by its type (R340, R341). -/
def nodeRsvd (type : Nat) : List (Nat × Nat) :=
  match type with
  | 1 => [(1, 1), (8, 8)]
  | 2 => [(1, 1)]
  | 3 => [(1, 1), (0x0A, 2)]
  | 4 => [(1, 1), (0x0B, 1), (0x0E, 2)]
  | 8 => [(8, 8)]
  | 9 => [(0x0E, 2)]
  | _ => []

/-- A closure with the RSVD bytes of a node zero (R339). -/
def kClearRsvd (k n : Nat) : Nat := (nodeRsvd (kType k n)).foldl (fun k e => kPut k (kNode n + e.1) e.2 0) k

/-- push (R343): none where the closure is full. -/
def kPush (k drop : Nat) (node : Nat × Nat) : Option Nat :=
  let c := kCount k
  if c = 14 then none else some (kHeader (kPut k (kNode c) 16 node.1) (c + 1) (kDepth k + 1 - drop) node.2)

/-- The build operation of an instruction on one lane's closure: none where it is refused (R343). -/
def kBuild (i : Instr) (k : Nat) (ws : List Word) : Option Nat :=
  match i with
  | .klobe x => kPush k 0 (leafNode x.kreg.toNat ws)
  | .kmix _ | .klayer _ =>
    (match kRoots k (kCount k) with
     | some (top :: second :: _) => kPush k 2 (interiorNode (match i with | .kmix _ => 8 | _ => 9) second top ws)
     | _ => none)
  | .kscale _ =>
    let k := kClearRsvd k (kCount k - 1)
    let off := kNode (kCount k - 1) + 2
    let r := (List.range 3).foldl (fun (acc : Nat × Nat) c =>
      let s := condW (ws.getD c 0)
      let b := conv16 ((f16.value (kBytes k (off + 2 * c) 2)).mul (val32 s.1))
      (kPut acc.1 (off + 2 * c) 2 b.1, Nat.lor acc.2 (Nat.lor s.2 b.2))) (k, 0)
    some (kHeader r.1 (kCount k) (kDepth k) r.2)
  | _ => some k

/-! ### Frames and weights (R345 to R348) -/

/-- BN of a closure. -/
def kBn (k : Nat) : Vec3 :=
  let n := kVec k 0
  let t := kVec k 12
  let m (a b : Nat) : Word := rn (((n.val a).mul (t.val b)).sub ((n.val b).mul (t.val a)))
  ⟨m 1 2, m 2 0, m 0 1⟩

/-- local. -/
def kLocal (k : Nat) (w : Vec3) : Vec3 := ⟨rn (w.dot (kVec k 12)), rn (w.dot (kBn k)), rn (w.dot (kVec k 0))⟩

/-- world. -/
def kWorld (k : Nat) (l : Vec3) : Vec3 :=
  Vec3.of (fun a => rn ((((l.val 0).mul ((kVec k 12).val a)).add ((l.val 1).mul ((kBn k).val a))).add ((l.val 2).mul ((kVec k 0).val a))))

/-- An entry of the albedo table. -/
def albedoEntry (i j : Nat) : Exact := f16.value (f16.round .rne (.frac false ((31 - i) ^ 5 * (62 - j)) (31 ^ 5 * 62)))

/-- A coordinate of the albedo table: its cell and the exact fraction in it. -/
def albedoCoord (x : Word) : Nat × Exact :=
  let y := rn ((val32 (fmin32 (fmax32 x 0) 0x3F800000#32)).mul (Exact.nat 31))
  let i := min (Exact.toIntSat .rdn 0 31 (val32 y)).toNat 30
  (i, (val32 y).sub (Exact.nat i))

/-- tab. -/
def albedoTab (mu alpha : Word) : Word :=
  let (i, fx) := albedoCoord mu
  let (j, fy) := albedoCoord alpha
  let mix (a b f : Exact) : Word := rn (a.add (f.mul (b.sub a)))
  let top := mix (albedoEntry i j) (albedoEntry (i + 1) j) fx
  let bot := mix (albedoEntry i (j + 1)) (albedoEntry (i + 1) (j + 1)) fx
  mix (val32 top) (val32 bot) fy

/-- Aspec. -/
def aSpec (mu f alpha : Word) : Word :=
  rn ((val32 f).add (val32 (rn ((Exact.one.sub (val32 f)).mul (val32 (albedoTab mu alpha))))))

/-- F0d. -/
def f0d (eta : Word) : Word :=
  let a := rn ((val32 eta).sub Exact.one)
  let b := rn ((val32 eta).add Exact.one)
  let q := rnDiv (val32 a) (val32 b)
  rn ((val32 q).mul (val32 q))

/-- lum of three exact channels. -/
def lum (r g b : Exact) : Word :=
  rn ((((Exact.frac false 1 4).mul r).add ((Exact.frac false 1 2).mul g)).add ((Exact.frac false 1 4).mul b))

/-- F0 of a GGX leaf, per channel. -/
def kF0 (k n c : Nat) : Exact := if kType k n = 2 then kHalf k n (0x0A + 2 * c) else val32 (f0d (kWord k (kNode n + 0x0C)))

/-- F0s. -/
def kF0s (k n : Nat) : Word :=
  if kType k n = 2 then lum (kF0 k n 0) (kF0 k n 1) (kF0 k n 2) else f0d (kWord k (kNode n + 0x0C))

/-- ALPHA of a GGX leaf. -/
def kAlpha (k n : Nat) : Word := rne32 (kHalf k n 8)

/-- The weights of the leaves below a node, by leaf, from the weight that reaches it (R347). -/
def kEff (k : Nat) (mu : Word) : Nat → Nat → Vec3 → Table Vec3
  | 0, _, _ => []
  | fuel + 1, n, e =>
    let e := Vec3.of (fun c => rn ((e.val c).mul (kHalf k n (2 + 2 * c))))
    if kLeaf k n then [(n, e)]
    else
      let base :=
        if kType k n = 9 then
          let coat := kChildB k n
          let a := rn (Exact.one.sub (val32 (aSpec mu (kF0s k coat) (kAlpha k coat))))
          Vec3.of (fun c => rn ((e.val c).mul (val32 (rn ((kHalf k n (8 + 2 * c)).mul (val32 a))))))
        else e
      (kEff k mu fuel (kChildA k n) base).foldl (fun t x => tinsert x.1 x.2 t) (kEff k mu fuel (kChildB k n) e)

/-- A leaf with its weight, its selection weight and their running sum (R348). -/
structure FacetLeaf where
  n : Nat
  eff : Vec3
  sigma : Word
  cum : Word
  deriving DecidableEq, Repr

/-- A_j. -/
def kAlbedo (k : Nat) (mu : Word) (n : Nat) : Exact :=
  match kType k n with
  | 1 => Exact.one
  | 4 => kHalf k n 0x0C
  | _ => val32 (aSpec mu (kF0s k n) (kAlpha k n))

/-- The leaves in node order, with S. -/
def kLeaves (k : Nat) (mu : Word) : List FacetLeaf × Word :=
  let es := if kCount k = 0 then [] else kEff k mu 14 (kCount k - 1) ⟨0x3F800000#32, 0x3F800000#32, 0x3F800000#32⟩
  es.foldl (fun acc e =>
    let sigma := rn ((val32 (lum (e.2.val 0) (e.2.val 1) (e.2.val 2))).mul (kAlbedo k mu e.1))
    let s := rn ((val32 acc.2).add (val32 sigma))
    (acc.1 ++ [⟨e.1, e.2, sigma, s⟩], s)) ([], 0)

/-! ### Lobes (R349 to R351) -/

/-- cos_sample. -/
def cosSample (z1 z2 : Word) : Vec3 :=
  let rr := rnSqrt (val32 z1)
  let phi := rn ((Exact.nat 2).mul (val32 z2))
  ⟨rn ((val32 rr).mul (val32 (rnCospi (val32 phi)))), rn ((val32 rr).mul (val32 (rnSinpi (val32 phi)))),
    rnSqrt (val32 (rn (Exact.one.sub (val32 z1))))⟩

/-- cos_pdf. -/
def cosPdf (i : Vec3) : Word := rn ((i.val 2).mul (val32 invPi))

/-- a2 of a GGX leaf. -/
def ggxA2 (k n : Nat) : Exact := let a := kHalf k n 8; val32 (rn (a.mul a))

/-- G1. -/
def ggxG1 (a2 z : Exact) : Exact :=
  let q := rn (((z.mul z).mul (Exact.one.sub a2)).add a2)
  val32 (rnDiv ((Exact.nat 2).mul z) (z.add (val32 (rnSqrt (val32 q)))))

/-- D. -/
def ggxD (a2 hz : Exact) : Exact :=
  let d := val32 (rn (((hz.mul hz).mul (a2.sub Exact.one)).add Exact.one))
  val32 (rnDiv (a2.mul (val32 invPi)) (d.mul d))

/-- A vector scaled by an exact factor, each component rounded. -/
def Vec3.scaled (v : Vec3) (g : Exact) : Vec3 := Vec3.of (fun a => rn ((v.val a).mul g))

/-- fcos and pdf of a GGX leaf (R350). -/
def ggxEval (k n : Nat) (o i : Vec3) : Vec3 × Word :=
  let a2 := ggxA2 k n
  let h := Vec3.of (fun a => rn ((o.val a).add (i.val a)))
  let h := h.scaled (val32 (rnRsq (h.dot h)))
  let oh := rn (o.dot h)
  if !pos32 oh then (Vec3.zero, 0)
  else
    let m := val32 (rn (Exact.one.sub (val32 oh)))
    let m5 := val32 (rn ((((m.mul m).mul m).mul m).mul m))
    let dh := ggxD a2 (h.val 2)
    let go := ggxG1 a2 (o.val 2)
    let gi := ggxG1 a2 (i.val 2)
    let den := (Exact.nat 4).mul (o.val 2)
    let f (c : Nat) : Exact := val32 (rn ((kF0 k n c).add ((Exact.one.sub (kF0 k n c)).mul m5)))
    (Vec3.of (fun c => rnDiv (((dh.mul go).mul gi).mul (f c)) den), rnDiv (go.mul dh) den)

/-- The direction sampled from a GGX leaf (R351). -/
def ggxSample (k n : Nat) (o : Vec3) (z1 z2 : Word) : Vec3 :=
  let al := kHalf k n 8
  let vx := val32 (rn (al.mul (o.val 0)))
  let vy := val32 (rn (al.mul (o.val 1)))
  let g := val32 (rnRsq (((vx.mul vx).add (vy.mul vy)).add ((o.val 2).mul (o.val 2))))
  let vx := val32 (rn (vx.mul g))
  let vy := val32 (rn (vy.mul g))
  let vz := val32 (rn ((o.val 2).mul g))
  let l2 := rn ((vx.mul vx).add (vy.mul vy))
  let r := val32 (rnRsq (val32 l2))
  let t1x := if pos32 l2 then val32 (rn (vy.neg.mul r)) else Exact.one
  let t1y := if pos32 l2 then val32 (rn (vx.mul r)) else Exact.zero
  let t2x := val32 (rn (vz.neg.mul t1y))
  let t2y := val32 (rn (vz.mul t1x))
  let t2z := val32 (rn ((vx.mul t1y).sub (vy.mul t1x)))
  let rr := val32 (rnSqrt (val32 z1))
  let phi := val32 (rn ((Exact.nat 2).mul (val32 z2)))
  let p1 := val32 (rn (rr.mul (val32 (rnCospi phi))))
  let p2 := val32 (rn (rr.mul (val32 (rnSinpi phi))))
  let s := val32 (rn ((Exact.one.add vz).mul (.frac false 1 2)))
  let root := val32 (rnSqrt (val32 (rn (Exact.one.sub (p1.mul p1)))))
  let p2 := val32 (rn (((Exact.one.sub s).mul root).add (s.mul p2)))
  let p3 := val32 (rnSqrt (val32 (fmax32 0 (rn ((Exact.one.sub (p1.mul p1)).sub (p2.mul p2))))))
  let nx := val32 (rn (((p1.mul t1x).add (p2.mul t2x)).add (p3.mul vx)))
  let ny := val32 (rn (((p1.mul t1y).add (p2.mul t2y)).add (p3.mul vy)))
  let nz := rn ((p2.mul t2z).add (p3.mul vz))
  let h : Vec3 := ⟨rn (al.mul nx), rn (al.mul ny), fmax32 0 nz⟩
  let h := h.scaled (val32 (rnRsq (h.dot h)))
  let d := val32 (rn (o.dot h))
  Vec3.of (fun a => rn ((((Exact.nat 2).mul d).mul (h.val a)).sub (o.val a)))

/-! ### Network-backed lobes (R352, R353) -/

/-- A NET record and its weight block. -/
structure Net where
  index : Nat
  record : Nat
  block : Nat
  deriving DecidableEq, Repr

/-- H. -/
def Net.h (n : Net) : Nat := kBytes n.record 1 1
/-- Mantissa element `j` of block `b`, signed. -/
def Net.m (n : Net) (b j : Nat) : Int := (BitVec.ofNat 8 (kBytes n.block (128 + 16 * b + j) 1)).toInt
/-- The exponent of block `b`. -/
def Net.e (n : Net) (b : Nat) : Nat := kBytes n.block (128 + 16 * (n.h + 3) + b) 1
/-- A sum of block `b` at its scale; an exponent of 0 gives zero. -/
def Net.scaled (n : Net) (b : Nat) (s : Int) : Exact := if n.e b = 0 then Exact.zero else (Exact.int s).scale ((n.e b : Int) - 140)
/-- Entry `j` of the activation table. -/
def Net.act (n : Net) (j : Nat) : Exact := f16.value (kBytes n.block (2 * j) 2)

/-- A value in Q1.7. -/
def quant7 (x : Exact) : Int := Exact.toIntSat .rne (-128) 127 (x.mul (Exact.nat 128))

/-- A hidden unit's output. -/
def Net.hidden (n : Net) (q : List Int) (b : Nat) : Int :=
  let s := (List.range 6).foldl (fun (a : Int) j => a + n.m b j * q.getD j 0) (n.m b 6 * 128)
  let z := rn (n.scaled b s)
  let cz := val32 (fmin32 (fmax32 z 0xC1000000#32) 0x40F80000#32)
  let p := val32 (rn ((cz.add (Exact.nat 8)).mul (Exact.nat 4)))
  let j := min (Exact.toIntSat .rdn 0 63 p).toNat 62
  let t := p.sub (Exact.nat j)
  quant7 (val32 (rn ((n.act j).add (t.mul ((n.act (j + 1)).sub (n.act j))))))

/-- fcos of a network for two directions. -/
def Net.fcos (n : Net) (o i : Vec3) : Vec3 :=
  let q := (o.list ++ i.list).map (fun w => quant7 (val32 w))
  let r := (List.range n.h).map (n.hidden q)
  Vec3.of (fun c =>
    let s := (List.range n.h).foldl (fun (a : Int) j => a + n.m (n.h + c) j * r.getD j 0) 0
    let y := rn ((n.scaled (n.h + c) s).add (f16.value (kBytes n.record (0x10 + 2 * c) 2)))
    rn (Fn.apply .exp2 f32 .rne 0 (val32 y)))

/-- A network by its index. -/
def netOf (nets : List Net) (index : Nat) : Net := (nets.find? (fun n => n.index == index)).getD ⟨index, 0, 0⟩

/-! ### Evaluation, density and sampling (R354 to R356) -/

/-- fcos of a leaf. -/
def leafFcos (k : Nat) (nets : List Net) (n : Nat) (o i : Vec3) : Vec3 :=
  match kType k n with
  | 1 => Vec3.of (fun _ => cosPdf i)
  | 4 => (netOf nets (kRecord k n)).fcos o i
  | _ => (ggxEval k n o i).1

/-- pdf of a leaf. -/
def leafPdf (k n : Nat) (o i : Vec3) : Word := if kGgx k n then (ggxEval k n o i).2 else cosPdf i

/-- EVAL. -/
def facetEval (k : Nat) (nets : List Net) (ls : List FacetLeaf) (o i : Vec3) : Vec3 :=
  if !pos32 o.z || !pos32 i.z || kCount k == 0 then Vec3.zero
  else ls.foldl (fun f j =>
    let fc := leafFcos k nets j.n o i
    Vec3.of (fun c => rn ((f.val c).add (val32 (rn ((j.eff.val c).mul (fc.val c))))))) Vec3.zero

/-- Whether S allows a choice: above zero and finite. -/
def choosable (s : Word) : Bool := pos32 s && !notFinite32 s

/-- PDF. -/
def facetPdf (k : Nat) (ls : List FacetLeaf) (s : Word) (o i : Vec3) : Word :=
  if !pos32 o.z || !pos32 i.z || kCount k == 0 || !choosable s then 0
  else
    let acc := ls.foldl (fun a j =>
      if pos32 j.sigma then rn ((val32 a).add (val32 (rn ((val32 j.sigma).mul (val32 (leafPdf k j.n o i)))))) else a) 0
    rnDiv (val32 acc) (val32 s)

/-- A random operand clamped to [0, 1), a NaN read as 0 (R355). -/
def clampZ (z : Word) : Word :=
  if isNan32 z || flt32 z 0 then 0 else if flt32 0x3F7FFFFF#32 z then 0x3F7FFFFF#32 else if z = 0x80000000#32 then 0 else z

/-- The leaves and S that a direction in the closure's frame meets. -/
def leavesAt (k : Nat) (o : Vec3) : List FacetLeaf × Word := if pos32 o.z then kLeaves k o.z else ([], 0)

/-- The leaf that KSAMPLE chooses and the direction it samples; none where there is no lobe to choose (R355). -/
def facetChoice (k : Nat) (wo : Vec3) (z0 z1 z2 : Word) : Option (Nat × Vec3) :=
  let o := kLocal k wo
  let (ls, s) := leavesAt k o
  if !pos32 o.z || kCount k == 0 || !choosable s then none
  else
    let target := rn ((val32 (clampZ z0)).mul (val32 s))
    let live := ls.filter (fun j => pos32 j.sigma)
    let j := ((live.find? (fun j => fle32 target j.cum)).getD (live.getLastD ⟨0, Vec3.zero, 0, 0⟩)).n
    let l := if kGgx k j then ggxSample k j o (clampZ z1) (clampZ z2) else cosSample (clampZ z1) (clampZ z2)
    let w := kWorld k l
    some (j, if w.anyNan then Vec3.zero else w)

/-- The eight words of KSAMPLE. -/
def facetSample (k : Nat) (nets : List Net) (wo : Vec3) (z0 z1 z2 : Word) : List Word :=
  match facetChoice k wo z0 z1 z2 with
  | none => List.replicate 7 0 ++ [0x10F#32]
  | some (j, w) =>
    let o := kLocal k wo
    let (ls, s) := leavesAt k o
    let i := kLocal k w
    let pdf := facetPdf k ls s o i
    let f := facetEval k nets ls o i
    let out := Vec3.of (fun c => if pos32 pdf then rnDiv (f.val c) (val32 pdf) else 0)
    w.list ++ out.list ++ [pdf, BitVec.ofNat 32 (if pos32 i.z then j else j + 0x200)]

/-- The records of the NET leaves whose fcos EVAL of two directions takes (R354). -/
def evalRecords (k : Nat) (o i : Vec3) : List Nat :=
  if !pos32 o.z || !pos32 i.z then []
  else ((List.range (kCount k)).filter (fun n => kType k n == 4)).map (kRecord k)

/-- KEVAL's words. -/
def facetEvalWords (k : Nat) (nets : List Net) (wo wi : Vec3) : List Word :=
  let o := kLocal k wo
  (facetEval k nets (leavesAt k o).1 o (kLocal k wi)).list

/-- KDENS's word. -/
def facetDensity (k : Nat) (wo wi : Vec3) : Word :=
  let o := kLocal k wo
  let (ls, s) := leavesAt k o
  facetPdf k ls s o (kLocal k wi)

end Sys2Proof.Machine
end

