-- ==== Sys2Proof/Machine/Texture.lean ====
section
/-! DEFINITION. Textures (R321 to R338): records, texels, filtering, the fallback chain and the feedback ring, and the three
instructions. -/

namespace Sys2Proof.Machine

open Sys2Proof

/-! ### Records (R321 to R323) -/

/-- A texture record (R321). -/
structure TexRec where
  index : Nat
  array : Bool
  fmt : Nat
  levels : Nat
  floor : Nat
  wlog : Nat
  hlog : Nat
  samp : Nat
  ringLog : Nat
  layers : Nat
  base : Nat
  map : Nat
  ring : Nat
  border : Nat
  deriving DecidableEq, Repr

/-- The fields of 64 record bytes. -/
def texFields (index v : Nat) : TexRec :=
  let byte (k : Nat) := bitsOf v (8 * k) 8
  ⟨index, byte 0 == 2, byte 1, byte 2, byte 3, byte 4, byte 5, byte 6, byte 7, bitsOf v 64 16, bitsOf v 128 64, bitsOf v 192 64,
    bitsOf v 256 64, bitsOf v 320 64⟩

/-- FILTER, ADDRU and ADDRV. -/
def TexRec.filter (t : TexRec) : Nat := t.samp % 4
/-- ADDRU. -/
def TexRec.addrU (t : TexRec) : Nat := t.samp / 4 % 4
/-- ADDRV. -/
def TexRec.addrV (t : TexRec) : Nat := t.samp / 16 % 4

/-- The checks of R322 that end an instruction with ENGINE 0x31. -/
def TexRec.bad (t : TexRec) : Bool :=
  decide (5 < t.fmt) || decide (14 < t.wlog) || decide (14 < t.hlog) || t.levels == 0
    || decide (max t.wlog t.hlog + 1 < t.levels) || decide (t.levels ≤ t.floor)
    || t.filter == 3 || t.addrU == 3 || t.addrV == 3
    || (t.ringLog != 0 && (decide (t.ringLog < 4) || decide (16 < t.ringLog)))
    || (t.array && t.layers == 0)
    || t.base % 65536 != 0 || t.map % 16 != 0 || (t.ringLog != 0 && t.ring % 16 != 0)

/-- The record a lane's index names, read and checked (R322). -/
def texRecord (o : Op) (copies : Bool) (index : Nat) : Eng TexRec := do
  let (va, v) ← engRecord o 0 copies index
  if bitsOf v 0 8 ≠ 1 ∧ bitsOf v 0 8 ≠ 2 then engFault ⟨causeEngine, 0x30, va, 0⟩
  else if (texFields index v).bad then engFault ⟨causeEngine, 0x31, va, 0⟩
  else pure (texFields index v)

/-- The width of a level. -/
def TexRec.w (t : TexRec) (n : Nat) : Nat := max 1 (2 ^ t.wlog / 2 ^ n)
/-- The height of a level. -/
def TexRec.h (t : TexRec) (n : Nat) : Nat := max 1 (2 ^ t.hlog / 2 ^ n)
/-- The height of a tile; its width is 128. -/
def TexRec.tileH (t : TexRec) : Nat := if t.fmt = 4 then 64 else 128
/-- The bytes of a texel. -/
def TexRec.texelBytes (t : TexRec) : Nat := if t.fmt = 4 then 8 else 4
/-- Tiles of a level across. -/
def TexRec.tx (t : TexRec) (n : Nat) : Nat := ceilDiv (t.w n) 128
/-- Tiles of a level down. -/
def TexRec.ty (t : TexRec) (n : Nat) : Nat := ceilDiv (t.h n) t.tileH

/-- The offset of a level in its layer (R323). -/
def TexRec.levelOff (t : TexRec) : Nat → Nat
  | 0 => 0
  | n + 1 => t.levelOff n + t.tx n * t.ty n * 65536

/-- The address of a texel (R323). -/
def TexRec.texelVa (t : TexRec) (layer n x y : Nat) : Nat :=
  (t.base + layer * t.levelOff t.levels + t.levelOff n + (y / t.tileH * t.tx n + x / 128) * 65536
    + (y % t.tileH * 128 + x % 128) * t.texelBytes) % 2 ^ 64

/-! ### Texels (R325) -/

/-- An integer fifth root by bits, from the highest candidate bit down. -/
def iroot5 : Nat → Nat → Nat → Nat
  | 0, _, r => r
  | k + 1, n, r => iroot5 k n (if (r + 2 ^ k) ^ 5 ≤ n then r + 2 ^ k else r)

/-- `(a / b)^(12/5)` below 1, with one more bit that tells whether it is exact. -/
def power24 (a b : Nat) : Exact :=
  let n := a ^ 12 * 2 ^ 300
  let r := iroot5 61 (n / b ^ 12) 0
  .frac false (2 * r + if r ^ 5 * b ^ 12 = n then 0 else 1) (2 ^ 61)

/-- lin(c) of an sRGB byte, rounded once. -/
def srgbLinear (c : Nat) : Word :=
  if c * 100000 ≤ 4045 * 255 then rne32 (.frac false (c * 100) (255 * 1292))
  else rne32 (power24 (c * 1000 + 55 * 255) (255 * 1055))

/-- A fraction of two numbers, rounded once. -/
def unorm (v top : Nat) : Word := rne32 (.frac false v top)

/-- A half widened; a NaN becomes canonical. -/
def halfWord (v : Nat) : Word := widen f16 (v % 65536)

/-- A texel widened to R, G, B and A (R325). -/
def texelWords (fmt v : Nat) : List Word :=
  let byte (k : Nat) := bitsOf v (8 * k) 8
  match fmt with
  | 0 => [unorm (byte 0) 255, unorm (byte 1) 255, unorm (byte 2) 255, unorm (byte 3) 255]
  | 1 => [srgbLinear (byte 0), srgbLinear (byte 1), srgbLinear (byte 2), unorm (byte 3) 255]
  | 2 => [unorm (bitsOf v 0 10) 1023, unorm (bitsOf v 10 10) 1023, unorm (bitsOf v 20 10) 1023, unorm (bitsOf v 30 2) 3]
  | 3 => [halfWord v, halfWord (v / 65536), 0, 0x3F800000]
  | 4 => [halfWord v, halfWord (v / 2 ^ 16), halfWord (v / 2 ^ 32), halfWord (v / 2 ^ 48)]
  | _ => [rne32 (val32 (BitVec.ofNat 32 v)), 0, 0, 0x3F800000]

/-- The border colour (R325). -/
def TexRec.borderWords (t : TexRec) : List Word := (List.range 4).map (fun k => halfWord (t.border / 2 ^ (16 * k)))

/-! ### Addressing and filtering (R326, R327) -/

/-- A texel index on an axis (R326). -/
def texAddr (mode : Nat) (i : Int) (n : Nat) : Nat :=
  match mode with
  | 0 => (i % n).toNat
  | 1 => (min (max i 0) ((n : Int) - 1)).toNat
  | _ =>
    let m := (i % (2 * n)).toNat
    if m < n then m else 2 * n - 1 - m

/-- A coordinate as a signed numerator and a denominator; a NaN or an infinity is +0.0 (R326). -/
def coordOf (w : Word) : Int × Nat :=
  match val32 w with
  | .frac neg n d => (signedNum neg n, d)
  | _ => (0, 1)

/-- floor(u × n). -/
def coordFloor (u : Int × Nat) (n : Nat) : Int := u.1 * n / u.2

/-- The bilinear index and weight of a coordinate on an axis: i0 and a1 (R327). -/
def bilinear (u : Int × Nat) (n : Nat) : Int × Nat :=
  let x : Int := 2 * u.1 * n - u.2
  let d : Int := 2 * u.2
  (x / d, (x % d * 256 / d).toNat)

/-- The taps of one level with their weights over 65536, those of weight 0 left out (R327). -/
def texTaps (t : TexRec) (point : Bool) (u v : Int × Nat) (n : Nat) : List (Nat × Nat × Nat) :=
  let ax (i : Int) := texAddr t.addrU i (t.w n)
  let ay (j : Int) := texAddr t.addrV j (t.h n)
  if point then [(ax (coordFloor u (t.w n)), ay (coordFloor v (t.h n)), 65536)]
  else
    let (i0, a1) := bilinear u (t.w n)
    let (j0, c1) := bilinear v (t.h n)
    let a0 := 256 - a1
    let c0 := 256 - c1
    ([(ax i0, ay j0, a0 * c0), (ax (i0 + 1), ay j0, a1 * c0), (ax i0, ay (j0 + 1), a0 * c1), (ax (i0 + 1), ay (j0 + 1), a1 * c1)]
      : List (Nat × Nat × Nat)).filter (fun e => e.2.2 != 0)

/-- A word times a weight over 65536, exact. -/
def weighted (c : Word) (w : Nat) : Exact := (val32 c).mul (.frac false w 65536)

/-- One channel of the taps summed in order (R327). -/
def tapSum : List (Word × Nat) → Word
  | [] => 0
  | (c, w) :: rest => rest.foldl (fun acc e => rne32 ((val32 acc).add (weighted e.1 e.2))) (rne32 (weighted c w))

/-- Four channels of read taps filtered; a point sample is its texel (R327). -/
def filterTaps (point : Bool) (ts : List (List Word × Nat)) : List Word :=
  if point then (ts.map (·.1)).headD []
  else (List.range 4).map (fun k => tapSum (ts.map (fun e => (e.1.getD k 0, e.2))))

/-- Two levels blended (R327). -/
def blendLevels (g : Nat) (a b : List Word) : List Word :=
  (a.zip b).map (fun e => rne32 ((weighted e.1 ((256 - g) * 256)).add (weighted e.2 (g * 256))))

/-! ### Reads that fall back (R328, R329) -/

/-- An engine's access whose fault is an answer; where a slice stalls it is tried again. -/
def tryEng {α : Type} (m : Eng α) : Eng (Option α) := fun s =>
  match m.run s with
  | (.ok a, s) => (.ok (some a), s)
  | (.error f, s) => if f.cause = 0 then (.error f, s) else (.ok none, s)

/-- A texel read, none where it is not present (R32, R329). -/
def texelRead (o : Op) (copies : Bool) (t : TexRec) (layer n x y : Nat) : Eng (Option (List Word)) := do
  let v ← tryEng (engObject o 0 copies (t.texelVa layer n x y) t.texelBytes)
  pure (v.map (texelWords t.fmt))

/-- The taps of a level read, none where one is not present. -/
def tapsRead (o : Op) (copies : Bool) (t : TexRec) (layer n : Nat) :
    List (Nat × Nat × Nat) → Eng (Option (List (List Word × Nat)))
  | [] => pure (some [])
  | (x, y, w) :: rest => do
    let c ← texelRead o copies t layer n x y
    let r ← tapsRead o copies t layer n rest
    pure (match c, r with | some c, some r => some ((c, w) :: r) | _, _ => none)

/-- What a lane of a texture instruction asks for: how it finds its taps at a level, whether they are points, its wanted level and
blend, its region and its layer. -/
structure TexLane where
  taps : Nat → List (Nat × Nat × Nat)
  point : Bool
  n0 : Nat
  g : Nat
  rx : Nat
  ry : Nat
  layer : Nat

/-- The map byte of a lane's region (R328). -/
def mapByte (o : Op) (copies : Bool) (t : TexRec) (q : TexLane) : Eng Nat :=
  engObject o 0 copies ((t.map + q.layer * t.tx 0 * t.ty 0 + q.ry * t.tx 0 + q.rx) % 2 ^ 64) 1

/-- A level sampled, with the next one blended in; none where a read is not present. -/
def sampleLevel (o : Op) (copies : Bool) (t : TexRec) (q : TexLane) (l g : Nat) : Eng (Option (List Word)) := do
  let a ← tapsRead o copies t q.layer l (q.taps l)
  if g = 0 then pure (a.map (filterTaps q.point))
  else
    let b ← tapsRead o copies t q.layer (l + 1) (q.taps (l + 1))
    pure (match a, b with
      | some a, some b => some (blendLevels g (filterTaps q.point a) (filterTaps q.point b))
      | _, _ => none)

/-- The fallback chain from a level (R329): colour, level and status. -/
def fallback (o : Op) (copies : Bool) (t : TexRec) (q : TexLane) : Nat → Nat → Nat → Nat → Eng (List Word × Nat × Nat)
  | 0, _, _, _ => pure (t.borderWords, 0xF, 3)
  | fuel + 1, l, g, status => do
    let c ← sampleLevel o copies t q l g
    match c with
    | some c => pure (c, l, status)
    | none => if t.floor ≤ l then pure (t.borderWords, 0xF, 3) else fallback o copies t q fuel (l + 1) 0 2

/-! ### Lanes (R329, R335, R336) -/

/-- The layer a lane uses. -/
def texLayer (t : TexRec) (w : Word) : Nat := if t.array then min w.toNat (t.layers - 1) else 0

/-- A lane of TEX.S and TEX.Q: coordinates and λ (R329). -/
def texLaneS (t : TexRec) (u v lam layer : Word) : TexLane :=
  let cu := coordOf u
  let cv := coordOf v
  let cl := coordOf lam
  let top : Int := t.levels - 1
  -- λ clamped, as a fraction over cl.2
  let num : Int := max 0 (min cl.1 (top * cl.2))
  let tri := t.filter == 2
  let n0 : Nat := if tri then (num / cl.2).toNat else (min ((2 * num + cl.2) / (2 * cl.2)) top).toNat
  let g : Nat := if tri ∧ (n0 : Int) ≠ top then (num % cl.2 * 256 / cl.2).toNat else 0
  let point := t.filter == 0
  ⟨texTaps t point cu cv, point, n0, g, texAddr t.addrU (coordFloor cu (t.w 0)) (t.w 0) / 128,
    texAddr t.addrV (coordFloor cv (t.h 0)) (t.h 0) / t.tileH, texLayer t layer⟩

/-- A lane of TEX.L: integer texel coordinates at a level (R336). -/
def texLaneL (t : TexRec) (x y level layer : Word) : TexLane :=
  let n0 := min level.toNat (t.levels - 1)
  let at' (v : Word) (l mode n : Nat) : Nat := texAddr mode ((v.toNat / 2 ^ (l - n0) : Nat) : Int) n
  ⟨fun l => [(at' x l t.addrU (t.w l), at' y l t.addrV (t.h l), 65536)], true, n0, 0,
    texAddr t.addrU ((x.toNat * 2 ^ n0 : Nat) : Int) (t.w 0) / 128,
    texAddr t.addrV ((y.toNat * 2 ^ n0 : Nat) : Int) (t.h 0) / t.tileH, texLayer t layer⟩

/-- The feedback candidate of a lane that fell short, where it forms one (R331). -/
def texCand (t : TexRec) (q : TexLane) (lane status : Nat) (nofb : Bool) : Option FeedbackCand :=
  if status = 0 ∨ t.ringLog = 0 ∨ nofb = true then none
  else some ⟨t.index + q.n0 * 2 ^ 24 + status * 2 ^ 28, q.rx, q.ry, q.layer, t.ring, t.ringLog, lane, false, none⟩

/-- A sampling lane: its words, and its candidate (R329, R336). -/
def texSample (o : Op) (copies : Bool) (x : GFX) (load : Bool) (lane : Nat) : Eng (List Word × Option FeedbackCand) := do
  let t ← texRecord o copies (recordIndex (o.word 4 lane))
  let q := (if load then texLaneL else texLaneS) t (o.word 0 lane) (o.word 1 lane) (o.word 2 lane) (o.word 3 lane)
  let m ← mapByte o copies t q
  let l := max q.n0 (min m t.floor)
  let status := bit (decide (q.n0 < l))
  let r ← fallback o copies t q 17 l (if status = 0 then q.g else 0) status
  pure (r.1 ++ [BitVec.ofNat 32 (r.2.2 + r.2.1 * 256)], texCand t q lane r.2.2 (x.imm.getLsbD 3))

/-- A query lane (R336). -/
def texQuery (o : Op) (copies : Bool) (lane : Nat) : Eng (List Word × Option FeedbackCand) := do
  let t ← texRecord o copies (recordIndex (o.word 4 lane))
  let q := texLaneS t (o.word 0 lane) (o.word 1 lane) (o.word 2 lane) (o.word 3 lane)
  let m ← mapByte o copies t q
  let l := max q.n0 (min m t.floor)
  pure ([BitVec.ofNat 32 (t.w q.n0), BitVec.ofNat 32 (t.h q.n0), BitVec.ofNat 32 (l + t.levels * 256 + t.floor * 65536),
    BitVec.ofNat 32 m], none)

/-! ### The feedback ring (R330, R331) -/

/-- What candidates of one instruction that form one agree in, which is the key a core's filter holds (R331). -/
def FeedbackCand.key (c : FeedbackCand) : List Nat := [c.who, c.tileX, c.tileY, c.layer]

/-- A candidate put in its place by the lowest lane that produced it (R324). -/
def placeCand (c : FeedbackCand) : List FeedbackCand → List FeedbackCand
  | [] => [c]
  | d :: ds => if c.lane < d.lane then c :: d :: ds else d :: placeCand c ds

/-- A candidate added: with one it agrees with it forms one (R331). -/
def addCand (c : FeedbackCand) (cs : List FeedbackCand) : List FeedbackCand :=
  match cs.find? (fun d => d.key == c.key) with
  | none => placeCand c cs
  | some d => placeCand { d with lane := min c.lane d.lane } (cs.filter (fun d => d.key != c.key))

/-- Whether a core's filter drops a candidate: its key was accepted fewer than 4096 cycles earlier. -/
def State.filtered (s : State) (core : Nat) (c : FeedbackCand) : Bool :=
  (s.coreState core).fbFilter.any (fun e => e.1 == c.key && decide (s.clock < e.2 + 4096))

/-- A candidate's key accepted in place of the oldest. -/
def State.acceptKey (s : State) (core : Nat) (c : FeedbackCand) : State :=
  s.modCore core (fun k =>
    let l := k.fbFilter.filter (fun e => e.1 != c.key)
    { k with fbFilter := (if l.length ≥ 64 then l.drop (l.length - 63) else l) ++ [(c.key, s.clock)] })

/-- The location of an immediate access of an engine that reads and writes. -/
def engLoc (o : Op) (va : Nat) (rd : Bool) : Eng Loc :=
  match translate o.ranges va 16 rd true false with
  | .bad cause sub => engFault ⟨cause, sub, va, 0⟩
  | .ok l => pure l

/-- The header operation of a candidate: the slot reserved, or none with OVF counted (R331). -/
def reserveSlot (o : Op) (c : FeedbackCand) : Eng (Option Nat) := do
  let l ← engLoc o c.ring true
  let v ← Eng.lift c.ring (immRead l 16)
  let w := bitsOf v 0 32
  let r := bitsOf v 32 32
  let ovf := bitsOf v 64 32
  if (w + 2 ^ 32 - r) % 2 ^ 32 ≥ 2 ^ c.log then do
    Eng.lift c.ring (immWrite l 16 (v - ovf * 2 ^ 64 + (ovf + 1) % 2 ^ 32 * 2 ^ 64))
    pure none
  else do
    Eng.lift c.ring (immWrite l 16 (v - w + (w + 1) % 2 ^ 32))
    pure (some w)

/-- The bytes of an entry as one number (R330). -/
def entryValue (c : FeedbackCand) (k : Nat) : Nat :=
  c.who + c.tileX * 2 ^ 32 + c.tileY * 2 ^ 48 + c.layer * 2 ^ 64 + (k + 1) % 2 ^ 32 * 2 ^ 96

/-- The entry of a slot written (R330, R331). -/
def writeEntry (o : Op) (c : FeedbackCand) (k : Nat) : Eng Unit := do
  let va := (c.ring + 16 + 16 * (k % 2 ^ c.log)) % 2 ^ 64
  let l ← engLoc o va false
  Eng.lift va (immWrite l 16 (entryValue c k))

/-- The candidates an instruction has left. -/
def State.setCands (s : State) (id : Nat) (cs : List FeedbackCand) : State :=
  s.modOp id (fun o => match o.kind with | .tex i _ => { o with kind := .tex i cs } | _ => o)

/-- Candidates written or dropped one after the other; a NOTPRESENT parks the instruction, another fault ends it (R331, R333). -/
def State.writeCands (s : State) (o : Op) (n : Nat) : List FeedbackCand → State
  | [] => (s.setCands o.id []).setReq o.id n .done
  | c :: cs =>
    if c.passed = false ∧ s.filtered o.core c = true then s.writeCands o n cs
    else
      let s := if c.passed then s else s.acceptKey o.core c
      let c := { c with passed := true }
      match c.slot with
      | some k =>
        (match (writeEntry o c k).run s with
         | (.ok _, s) => s.writeCands o n cs
         | (.error f, s) => (s.setCands o.id (c :: cs)).engineFault o n f)
      | none =>
        match (reserveSlot o c).run s with
        | (.error f, s) => (s.setCands o.id (c :: cs)).engineFault o n f
        | (.ok none, s) => (s.modGroup o.gid (fun g => { g with fbovf := g.fbovf + 1 })).writeCands o n cs
        | (.ok (some k), s) =>
          match (writeEntry o c k).run s with
          | (.ok _, s) => s.writeCands o n cs
          | (.error f, s) => (s.setCands o.id ({ c with slot := some k } :: cs)).engineFault o n f

/-! ### The instructions -/

/-- A texture instruction starts (R335, R337); its last request stands for its feedback. -/
def texStart (i : Instr) (x : GFX) (s : State) : Out :=
  issue i s (fun c s => .next (gfxStart i (.tex i []) x 4 0 (gfxAcq x) [laneSlot 32] c s))

/-- TEX.S (R336). -/
def execTexS (x : GFX) (s : State) : Out := texStart (.texS x) x s
/-- TEX.L (R336). -/
def execTexL (x : GFX) (s : State) : Out := texStart (.texL x) x s
/-- TEX.Q (R336). -/
def execTexQ (x : GFX) (s : State) : Out := texStart (.texQ x) x s

/-- What one lane of a texture instruction computes. -/
def texLane (o : Op) (copies : Bool) (i : Instr) (lane : Nat) : Eng (List Word × Option FeedbackCand) :=
  match i with
  | .texS x => texSample o copies x false lane
  | .texL x => texSample o copies x true lane
  | _ => texQuery o copies lane

/-- The first destination of a texture instruction. -/
def texDst (i : Instr) : Nat := match i with | .texS x | .texL x | .texQ x => dataReg x.dst | _ => 0

/-- One lane of a texture instruction served: it finishes with its results written, parks, or ends the instruction (R324, R337). -/
def State.serveTexLane (s : State) (id n : Nat) : State :=
  match s.op? id with
  | none => s
  | some o =>
    match o.kind, o.reqs[n]? with
    | .tex i cs, some r =>
      if o.performed || r.state != .waiting || r.lane == 32 then s
      else match (texLane o (s.mayCopy o) i r.lane).run s with
        | (.ok (ws, c), s) =>
          ((s.writeLane o (runElems (texDst i) r.lane ws)).setReq id n .done).setCands id
            (match c with | some c => addCand c cs | none => cs)
        | (.error f, s) => s.engineFault o n f
    | _, _ => s

/-- The lanes' requests in the order they are served: each iteration takes one distinct index and every lane that carries it (R324). -/
def texOrder (o : Op) : List Nat :=
  let idx (k : Nat) : Nat := recordIndex (o.word 4 (o.reqs.getD k (laneSlot 32)).lane)
  let ks := List.range (o.reqs.length - 1)
  ((ks.map idx).eraseDups.map (fun i => ks.filter (fun k => idx k == i))).flatten

/-- A texture instruction served as far as it can be: its lanes, index by index, then its feedback (R324, R337) (DESIGN CHOICE, log 43). -/
def State.serveTex (s : State) (id : Nat) : State :=
  match s.op? id with
  | none => s
  | some o =>
    let n := o.reqs.length - 1
    let s := (texOrder o).foldl (fun s k => s.serveTexLane id k) s
    match s.op? id with
    | none => s
    | some o =>
      match o.kind, o.reqs[n]? with
      | .tex _ cs, some r =>
        if o.performed || (o.reqs.take n).any (fun q => q.state != .done) || r.state != .waiting then s
        else (s.writeCands o n cs).settlePerformed id
      | _, _ => s

end Sys2Proof.Machine
end

