-- ==== Sys2Proof/Machine/Closure.lean ====
section
/-! DEFINITION. The twelve closure instructions (R357 to R364): how they start, and how the Facet unit performs those of a group in
issue order. -/

namespace Sys2Proof.Machine

open Sys2Proof

/-! ### Closure registers -/

/-- k(n) of a lane. -/
def Group.kget (g : Group) (n l : Nat) : Nat := treadLE g.k (256 * (32 * n + l)) 256
/-- k(n) of a lane written. -/
def Group.kset (g : Group) (n l v : Nat) : Group := { g with k := twriteLE g.k (256 * (32 * n + l)) v 256 }

/-- The closure register an instruction works on (R357). -/
def closureReg (i : Instr) : Nat :=
  match i with
  | .klobe x => x.sub.toNat
  | .kclr x | .kmix x | .klayer x | .kscale x | .ksample x | .keval x | .kdens x | .kspill x | .kfill x | .kinfo x | .kmov x =>
    x.kreg.toNat
  | _ => 0

/-- PDST of a build instruction that has one. -/
def closurePdst (i : Instr) : Nat :=
  match i with | .klobe x | .kmix x | .klayer x => x.imm.toNat % 8 | _ => 7

/-- The words an instruction captured of a lane. -/
def Op.words (o : Op) (n l : Nat) : List Word := (List.range n).map (fun k => o.word k l)

/-- Three words an instruction captured of a lane. -/
def Op.vec (o : Op) (k l : Nat) : Vec3 := ⟨o.word k l, o.word (k + 1) l, o.word (k + 2) l⟩

/-- Operand words of KLOBE by lobe type (R357). -/
def lobeRun (type : Nat) : Nat := match type with | 1 => 3 | 2 => 7 | _ => 5

/-! ### NET records (R352, R362) -/

/-- A NET record and its weight block, read and checked. -/
def readNet (o : Op) (copies : Bool) (index : Nat) : Eng Net := do
  let (va, r) ← engRecord o 2 copies index
  let h := kBytes r 1 1
  let wa := kBytes r 8 8
  if kBytes r 0 1 ≠ 4 then engFault ⟨causeNetrec, 1, va, 0⟩
  else if h = 0 ∨ 16 < h then engFault ⟨causeNetrec, 2, va, 0⟩
  else if wa % 128 ≠ 0 then engFault ⟨causeNetrec, 3, va, 0⟩
  else do
    let w ← engObject o 2 copies wa (128 + 17 * (h + 3))
    let n : Net := ⟨index, r, w⟩
    if (List.range (h + 3)).any (fun b => n.e b == 255) then engFault ⟨causeNetrec, 4, va, 0⟩ else pure n

/-- The NET records that an instruction needs for one lane's closure: those whose leaves its EVAL takes; a density takes none (R354, R355,
R362). -/
def netRecords (i : Instr) (o : Op) (k l : Nat) : List Nat :=
  match i with
  | .ksample _ =>
    (match facetChoice k (o.vec 0 l) (o.word 3 l) (o.word 4 l) (o.word 5 l) with
     | some (_, w) => evalRecords k (kLocal k (o.vec 0 l)) (kLocal k w)
     | none => [])
  | .keval _ => evalRecords k (kLocal k (o.vec 0 l)) (kLocal k (o.vec 3 l))
  | _ => []

/-- The records of a list read one after the other. -/
def readNets (o : Op) (copies : Bool) : List Nat → Eng (List Net)
  | [] => pure []
  | n :: ns => do
    let a ← readNet o copies n
    let r ← readNets o copies ns
    pure (a :: r)

/-! ### What an instruction does to one lane (R358, R360) -/

/-- A lane of a build instruction, with its predicate bit. -/
def Group.buildLane (g : Group) (i : Instr) (l : Nat) (ws : List Word) : Group :=
  let r := closureReg i
  let p := closurePdst i
  let mark (g : Group) (b : Bool) : Group := if p = 7 then g else g.pset p (setBit (g.pget p) l b)
  match kBuild i (g.kget r l) ws with
  | some k => mark (g.kset r l k) true
  | none => mark g false

/-- A lane of a closure instruction performed. -/
def Group.closureLane (g : Group) (i : Instr) (o : Op) (nets : List Net) (l : Nat) : Group :=
  let r := closureReg i
  let write (dst : Src) (ws : List Word) : Group := (runElems (dataReg dst) l ws).foldl Group.writeElem g
  match i with
  | .kclr _ => g.kset r l (runValue (o.words 6 l))
  | .klobe x => g.buildLane i l (o.words (lobeRun x.kreg.toNat) l)
  | .kmix _ => g.buildLane i l []
  | .klayer _ | .kscale _ => g.buildLane i l (o.words 3 l)
  | .ksample x => write x.dst (facetSample (g.kget r l) nets (o.vec 0 l) (o.word 3 l) (o.word 4 l) (o.word 5 l))
  | .keval x => write x.dst (facetEvalWords (g.kget r l) nets (o.vec 0 l) (o.vec 3 l))
  | .kdens x => write x.dst [facetDensity (g.kget r l) (o.vec 0 l) (o.vec 3 l)]
  | .kinfo x => write x.dst [kWord (g.kget r l) (4 * x.imm.toNat)]
  | .kmov x => g.kset r l (g.kget (x.sub.toNat % 8) l)
  | _ => g

/-- Whether an instruction checks its closures (R342). -/
def closureChecked (i : Instr) : Bool :=
  match i with
  | .kclr _ | .kspill _ | .kfill _ | .kinfo _ | .kmov _ => false
  | _ => true

/-! ### The unit's order (R361) -/

/-- Whether an instruction in flight is the Facet unit's. -/
def isFacet (k : OpKind) : Bool := match k with | .closure _ | .spillFill _ => true | _ => false

/-- Whether an instruction is the next its group's Facet unit performs. -/
def State.facetNext (s : State) (o : Op) : Bool :=
  match s.ops.find? (fun p => p.gid == o.gid && isFacet p.kind && !p.performed) with
  | some p => p.id == o.id
  | none => false

/-- What the lanes of a list read before anything is written; none where one has parked or the instruction has ended (R362) (DEDUCED, log 49). -/
def State.gatherNets (s : State) (o : Op) (i : Instr) (g : Group) : List (Nat × Req) → State × Option (List (Nat × List Net))
  | [] => (s, some [])
  | (n, r) :: rs =>
    match (readNets o (s.mayCopy o) (netRecords i o (g.kget (closureReg i) r.lane) r.lane)).run s with
    | (.error f, s) =>
      let s := s.engineFault o n f
      (match s.op? o.id with
       | some p => if p.performed then (s, none) else ((s.gatherNets o i g rs).1, none)
       | none => (s, none))
    | (.ok ns, s) =>
      match s.gatherNets o i g rs with
      | (s, some l) => (s, some ((r.lane, ns) :: l))
      | (s, none) => (s, none)

/-- Lanes of a closure instruction performed, and noted done. -/
def State.closureLanes (s : State) (o : Op) (i : Instr) (lanes : List (Nat × List Net)) : State :=
  let did (l : Nat) : Bool := lanes.any (fun e => e.1 == l)
  let upd (r : Req) : Req := if did r.lane then { r with state := .done } else r
  (s.modGroup o.gid (fun g => lanes.foldl (fun g e => g.closureLane i o e.2 e.1) g)).modOp o.id (fun p =>
    { p with reqs := p.reqs.map upd })

/-- Whether a request is parked. -/
def ReqState.isParked : ReqState → Bool
  | .parked _ => true
  | _ => false

/-- The lanes of an instruction that wait to be performed. -/
def Op.waitingLanes (o : Op) : List (Nat × Req) := (numbered o.reqs).filter (fun e => e.2.state == .waiting)

/-- A closure instruction performed by the Facet unit: its check, its reads, then every lane that waits (R342, R358, R362). -/
def State.serveClosure (s : State) (o : Op) (i : Instr) : State :=
  match tfind o.gid s.groups with
  | none => s
  | some g =>
    let bad (l : Nat) : Option (Nat × Nat) := (kCheck i (g.kget (closureReg i) l)).map (fun n => (n, l))
    match if closureChecked i then (o.reqs.map (·.lane)).findSome? bad else none with
    | some (n, l) => s.endEngine o ⟨causeClosure, n, BitVec.ofNat 64 l, false, 0⟩
    | none =>
      if o.reqs.any (fun r => r.state.isParked) then s
      else match s.gatherNets o i g o.waitingLanes with
        | (s, none) => s
        | (s, some ls) => (s.closureLanes o i ls).settlePerformed o.id

/-- The lanes of a closure instruction that are not parked, finished as its group leaves its core: what they read is gathered first, and a
failure leaves every lane as it is (R362, R364). A lane that parks only now is left. -/
def State.finishClosure : Nat → State → Nat → Instr → State
  | 0, s, _, _ => s
  | fuel + 1, s, id, i =>
    match s.op? id with
    | none => s
    | some o =>
      match tfind o.gid s.groups with
      | none => s
      | some g =>
        if o.performed || o.waitingLanes == [] then s
        else match s.gatherNets o i g o.waitingLanes with
          | (s, some ls) => (s.closureLanes o i ls).settlePerformed id
          | (s, none) => s.finishClosure fuel id i

/-! ### KSPILL and KFILL (R359) -/

/-- One request of a KFILL performed at L1. -/
def State.fillReq (s : State) (o : Op) (k n : Nat) (r : Req) : State :=
  (loadValue o r).on s id
    (fun v s =>
      let bytes := (List.range 16).map (fun j => (RegElem.k k r.lane (r.va % 256 + j), BitVec.ofNat 32 (v / 256 ^ j % 256)))
      (s.setReq o.id n .done).modOp o.id (fun p => { p with results := p.results ++ bytes }))
    (fun cause sub ipa s => s.faultReq o n r cause sub ipa)

/-- Requests of a KFILL performed together at one point of the core's order; none where a slice or L1 stalls one of them (R89, R359). -/
def State.fillAll (s : State) (o : Op) (k : Nat) (rs : List (Nat × Req)) : Option State :=
  let t := rs.foldl (fun s e => if (s.op? o.id).isNone then s else s.fillReq o k e.1 e.2) s
  match t.op? o.id with
  | some p => if rs.any (fun e => (p.reqs[e.1]?.map (fun r => r.state.ready)).getD false) then none else some t
  | none => some t

/-- Requests of an instruction noted done. -/
def State.reqsDone (s : State) (id : Nat) (rs : List (Nat × Req)) : State := rs.foldl (fun s e => s.setReq id e.1 .done) s

/-- Requests of a KSPILL performed with the bytes its lanes' closures hold: at L1, where it has room for their lines, or as a task's versions;
none where L1 has no room (R10, R83, R89, R359). -/
def State.spillAll (s : State) (o : Op) (g : Group) (k : Nat) (rs : List (Nat × Req)) : Option State :=
  let qs := rs.map (fun e => { e.2 with data := kBytes (g.kget k e.2.lane) (e.2.va % 256) 16 })
  match o.task with
  | none => (storeAll o.core qs).on s (fun _ => none) (fun _ s => some s) (fun _ _ _ s => some s)
  | some (l, t) => (eachDo (fun r => taskWrite l t r.loc 16 r.data) qs).on s (fun _ => none) (fun _ s => some s) (fun _ _ _ s => some s)

/-- An instruction whose requests have all been answered ends on the fault of its lowest faulting lane. -/
def State.endIfFaulted (s : State) (id : Nat) : State :=
  match s.op? id with
  | some o => if o.reqs.any (fun r => r.state.open_) then s else match lowestBad o.reqs with | some r => s.endFaulted o r | none => s
  | none => s

/-- Requests of a KSPILL or KFILL performed: those of a KSPILL outside a task though a line of it faulted, whose bytes stay pending; of any
other none where one has faulted, as of a load or a task's store (R32, R152, R359). None where a slice or L1 stalls them. -/
def State.spillFill (s : State) (o : Op) (i : Instr) (rs : List (Nat × Req)) : Option State :=
  match tfind o.gid s.groups with
  | none => some s
  | some g =>
    let faulted : Bool := o.reqs.any (fun r => r.state.bad)
    let ready := rs.filter (fun e => e.2.state.ready)
    match i with
    | .kspill _ =>
      if faulted && o.task.isSome then some s
      else (s.spillAll o g (closureReg i) rs).map (fun s => s.reqsDone o.id ready)
    | _ => if faulted then some s else s.fillAll o (closureReg i) ready

/-- KSPILL and KFILL performed once every line of theirs is answered (R32, R359). -/
def State.serveSpillFill (s : State) (o : Op) (i : Instr) : State :=
  if o.reqs.any (fun r => r.state.open_) then s
  else match s.spillFill o i ((numbered o.reqs).filter (fun e => e.2.state.ready || e.2.state.bad)) with
    | some s => (s.settlePerformed o.id).endIfFaulted o.id
    | none => s

/-- The requests of a KSPILL or KFILL that belong to lanes none of whose requests waits for an answer or on a page. -/
def Op.answeredLanes (o : Op) : List (Nat × Req) :=
  (numbered o.reqs).filter (fun e => e.2.state.ready && !o.reqs.any (fun q => q.lane == e.2.lane && q.state.open_))

/-- The lanes of a KSPILL or KFILL that are not parked, finished as its group leaves its core: a KFILL's closure bytes are written (R364). -/
def State.finishSpillFill (s : State) (o : Op) (i : Instr) : State :=
  ((s.spillFill o i o.answeredLanes).getD s).landResults o.id

/-- The Facet unit's turn at an instruction, if it is the next of its group. -/
def State.serveFacet (s : State) (o : Op) : State :=
  if !s.facetNext o then s
  else match o.kind with
    | .closure i => s.serveClosure o i
    | .spillFill i => s.serveSpillFill o i
    | _ => s

/-! ### The instructions (R357, R358) -/

/-- A closure instruction starts. -/
def closureOp (i : Instr) (x : GFX) (run : Nat) (acq : Bool) (s : State) : Out :=
  issue i s (fun c s => .next (gfxStart i (.closure i) x run 2 acq [] c s))

/-- KCLR. -/
def execKclr (x : GFX) (s : State) : Out := closureOp (.kclr x) x 6 false s
/-- KLOBE. -/
def execKlobe (x : GFX) (s : State) : Out := closureOp (.klobe x) x (lobeRun x.kreg.toNat) false s
/-- KMIX. -/
def execKmix (x : GFX) (s : State) : Out := closureOp (.kmix x) x 0 false s
/-- KLAYER. -/
def execKlayer (x : GFX) (s : State) : Out := closureOp (.klayer x) x 3 false s
/-- KSCALE. -/
def execKscale (x : GFX) (s : State) : Out := closureOp (.kscale x) x 3 false s
/-- KSAMPLE. -/
def execKsample (x : GFX) (s : State) : Out := closureOp (.ksample x) x 6 (gfxAcq x) s
/-- KEVAL. -/
def execKeval (x : GFX) (s : State) : Out := closureOp (.keval x) x 6 (gfxAcq x) s
/-- KDENS. -/
def execKdens (x : GFX) (s : State) : Out := closureOp (.kdens x) x 6 (gfxAcq x) s
/-- KINFO. -/
def execKinfo (x : GFX) (s : State) : Out := closureOp (.kinfo x) x 0 false s
/-- KMOV. -/
def execKmov (x : GFX) (s : State) : Out := closureOp (.kmov x) x 0 false s

/-- The requests of one lane: its sixteen sectors. -/
def spillReqs (r : Table (BitVec 64)) (store : Bool) (l va : Nat) : List Req :=
  (List.range 16).filterMap (fun k =>
    match translate r (va + 16 * k) 16 (!store) store false with
    | .ok loc => some ⟨l, va + 16 * k, loc, 16, 0, [], .waiting⟩
    | .bad _ _ => none)

/-- KSPILL or KFILL starts, once no acting lane's address faults (R359); its address words are kept for the save image (R417). -/
def spillFillOp (i : Instr) (x : GFX) (store : Bool) (s : State) : Out :=
  issue i s (fun c s =>
    let reqs := (c.active.map (fun l => spillReqs c.g.ranges store l (c.base64 x.a l))).flatten
    let o := c.op i (.spillFill i) reqs (captureRun c x.a 2 c.active) s
    .next (c.start i { o with performed := reqs = [] } s))

/-- KSPILL. -/
def execKspill (x : GFX) (s : State) : Out := spillFillOp (.kspill x) x true s
/-- KFILL. -/
def execKfill (x : GFX) (s : State) : Out := spillFillOp (.kfill x) x false s

end Sys2Proof.Machine
end

