-- ==== Sys2Proof/Machine/Prism.lean ====
section
/-! DEFINITION. The Prism array (R281 to R299): weight tiles, activation vectors and accumulation, the conversions of a drain, and
the commands as they issue and as the array performs them. -/

namespace Sys2Proof.Machine

open Sys2Proof

/-! ### Blocks (R219 to R222, R284, R285) -/

/-- Mantissa `i` of a block of width `m`, from the bits of its span (R220). -/
def mantissa (m bits i : Nat) : Int :=
  let v := bitsOf bits (m * i) m
  if 2 * v < 2 ^ m then v else (v : Int) - 2 ^ m

/-- The exact sum of the products of two blocks' mantissas (R229). -/
def blockDot (mw w ma a : Nat) : Nat → Int
  | 0 => 0
  | n + 1 => blockDot mw w ma a n + mantissa mw w n * mantissa ma a n

/-- A signed integer times a power of two. -/
def dyadicInt (d k : Int) : Exact := Exact.dyadic (decide (d < 0)) d.natAbs k

/-- The contribution of a weight block and an activation block, each as exponent and mantissa bits (R229). -/
def blockTerm (mw ma : Nat) (w a : Nat × Nat) : Exact :=
  if w.1 = 255 ∨ a.1 = 255 then .nan
  else if w.1 = 0 ∨ a.1 = 0 then .frac false 0 1
  else
    let d := blockDot mw w.2 ma a.2 16
    if d = 0 then .frac false 0 1
    else dyadicInt d ((w.1 : Int) - 127 - ((mw : Int) - 2) + ((a.1 : Int) - 127 - ((ma : Int) - 2)))

/-- One rounding of an accumulator entry and a term; a NaN operand gives the canonical NaN (R229). -/
def accStep (acc : Word) (b : Exact) : Word := rne32 ((val32 acc).add b)

/-- The bytes of a tile of width MW (R284). -/
def tileBytes (mw : Nat) : Nat := 2048 * mw + 1024

/-- Block `b` of a tile: its exponent and mantissa bits (R220, R284). -/
def tileBlock (t : Table Byte) (mw b : Nat) : Nat × Nat :=
  ((tget 0 t (2048 * mw + b)).toNat, treadLE t (2 * mw * b) (2 * mw))

/-- Block `j` of an activation vector held as granules, the first lowest (R285). -/
def vectorBlock (held : List Nat) (ma j : Nat) : Nat × Nat :=
  let v := held.foldr (fun g r => g + 2 ^ 128 * r) 0
  (bitsOf v (128 * ma + 8 * j) 8, bitsOf v (16 * ma * j) (16 * ma))

/-- An accumulator entry after one vector (R287). -/
def columnStep (t : Table Byte) (mw : Nat) (blocks : List (Nat × Nat)) (ma n : Nat) (acc : Word) : Word :=
  (blocks.mapIdx (fun j a => (j, a))).foldl (fun acc e => accStep acc (blockTerm mw ma (tileBlock t mw (8 * n + e.1)) e.2)) acc

/-- Entry (a, n) of an array. -/
def Prism.entry (p : Prism) (a n : Nat) : Word := tget 0 p.acc (128 * a + n)
/-- Entry (a, n) of an array written. -/
def Prism.setEntry (p : Prism) (a n : Nat) (w : Word) : Prism := { p with acc := tset 0 p.acc (128 * a + n) w }

/-- An array after one vector is added to a row (R287). -/
def Prism.addVector (p : Prism) (t : Table Byte) (held : List Nat) (ma a : Nat) : Prism :=
  let blocks := (List.range 8).map (vectorBlock held ma)
  let p := (List.range 128).foldl (fun p n => p.setEntry a n (columnStep t p.mw blocks ma n (p.entry a n))) p
  let bad := blocks.any (fun b => b.1 == 255) || (List.range 1024).any (fun b => (tileBlock t p.mw b).1 == 255)
  { p with nanblk := p.nanblk || bad }

/-! ### Drains (R294 to R296) -/

/-- The format of a drain's FMT code; FP32 for the rest. -/
def drainFmt (fmt : Nat) : Fmt × Nat :=
  match fmt with
  | 1 => (f16, 2)
  | 2 => (bf16, 2)
  | 3 => (e4m3, 1)
  | 4 => (e5m2, 1)
  | _ => (f32, 4)

/-- The fields of MMDRAIN's IMM16. -/
def drainQn (x : ENG) : Nat := bitsOf x.imm.toNat 11 3
/-- ZERO. -/
def drainZero (x : ENG) : Bool := x.imm.getLsbD 10
/-- MB. -/
def drainMb (x : ENG) : Nat := bitsOf x.imm.toNat 6 4
/-- MODE. -/
def drainMode (x : ENG) : Nat := bitsOf x.imm.toNat 3 3
/-- FMT. -/
def drainFmtCode (x : ENG) : Nat := bitsOf x.imm.toNat 0 3

/-- The bytes of a drained row (R296). -/
def rowBytes (x : ENG) : Nat :=
  if drainFmtCode x = 5 then 16 * (drainMb x + 1) else 128 * (drainFmt (drainFmtCode x)).2

/-- rnd(a, n) (R295). -/
def drainRnd (seed : Word) (a n : Nat) : Word := rngHash seed (BitVec.ofNat 32 (128 * a + n)) 0

/-- One entry converted to a float format: its bits and the entry left (R295). -/
def drainElem (x : ENG) (seed : Word) (a n : Nat) (w : Word) : Nat × Word :=
  let f := (drainFmt (drainFmtCode x)).1
  match drainMode x with
  | 4 =>
    let q := narrow f .rne w
    let finite := !notFinite32 w && !f.isNan q && !f.isInf q
    let past := f.sat && fcmp32 (fun i => decide (0 < i)) (w &&& 0x7FFFFFFF) 0x43E00000
    (q, if finite && !past then rne32 ((val32 w).add (f.value q).neg) else 0)
  | 5 => (stochastic f w (drainRnd seed a n), w)
  | m => (f.round (rndOf m) (val32 w), w)

/-- How one scaled element of a block is rounded to an integer: a mode, or stochastically with 16 random bits (R223, R295). -/
def blockRound (mode : Nat) (r : Word) (y : Exact) : Int :=
  match y with
  | .frac neg num den =>
    if mode = 5 then
      let fr := (num % den) * 2 ^ 16 / den
      signedNum neg (num / den + (if fr + r.toNat % 2 ^ 16 ≥ 2 ^ 16 then 1 else 0))
    else signedNum neg (roundNat (if mode = 4 then .rne else rndOf mode) neg num den)
  | _ => 0

/-- The mantissas of a block at an exponent (R222). -/
def blockMants (mode m e : Nat) (xs : List (Word × Word)) : List Int :=
  xs.map (fun x => blockRound mode x.2 ((val32 x.1).scale ((m : Int) - 2 - ((e : Int) - 127))))

/-- Whether every mantissa fits its width. -/
def mantsFit (m : Nat) (ms : List Int) : Bool := ms.all (fun v => decide (-(2 ^ (m - 1) : Int) ≤ v) && decide (v ≤ 2 ^ (m - 1) - 1))

/-- The exponent loop of R222, with fuel for its passes: exponent, mantissas, and whether one was clamped. -/
def blockFit (mode m : Nat) (xs : List (Word × Word)) : Nat → Nat → Nat × List Int × Bool
  | 0, e => (e, blockMants mode m e xs, false)
  | fuel + 1, e =>
    let ms := blockMants mode m e xs
    if mantsFit m ms then (e, ms, false)
    else if e < 254 then blockFit mode m xs fuel (e + 1)
    else (e, ms.map (satInt (-(2 ^ (m - 1) : Int)) (2 ^ (m - 1) - 1)), true)

/-- The magnitude of an FP32 pattern's leading bit, as a power of two; the least for a zero. -/
def leadExp (w : Word) : Int :=
  match val32 w with
  | .frac _ num den => if num = 0 then -150 else floorLog2 num den
  | _ => 0

/-- Sixteen FP32 values, each with its random word, encoded as a block: exponent, mantissas, and whether one was clamped (R222). -/
def encodeBlock (mode m : Nat) (xs : List (Word × Word)) : Nat × List Int × Bool :=
  if xs.any (fun x => notFinite32 x.1) then (255, xs.map (fun _ => 0), false)
  else if xs.all (fun x => x.1 &&& 0x7FFFFFFF#32 == 0) then (0, xs.map (fun _ => 0), false)
  else
    let top := (xs.map (fun x => leadExp x.1)).foldl max (-150)
    let (e, ms, clamped) := blockFit mode m xs 4 (max 1 (top + 127)).toNat
    if ms.all (· == 0) then (0, ms, clamped) else (e, ms, clamped)

/-- The bits of a block's mantissas (R220). -/
def packMants (m : Nat) : List Int → Nat
  | [] => 0
  | v :: vs => (v % 2 ^ m).toNat + 2 ^ m * packMants m vs

/-- The value of a mantissa (R219). -/
def blockValue (m e : Nat) (v : Int) : Exact := if e = 0 then .frac false 0 1 else dyadicInt v ((e : Int) - 127 - ((m : Int) - 2))

/-- Block `j` of a row converted: exponent, mantissa bits, and the entries left (R295). -/
def drainBlock (x : ENG) (seed : Word) (p : Prism) (a j : Nat) : Nat × Nat × List Word :=
  let m := drainMb x
  let mode := drainMode x
  let xs := (List.range 16).map (fun i => (p.entry a (16 * j + i), drainRnd seed a (16 * j + i)))
  let (e, ms, clamped) := encodeBlock mode m xs
  let left := if mode = 4 then
      (xs.zip ms).map (fun q => if e = 255 || clamped then 0 else rne32 ((val32 q.1.1).add (blockValue m e q.2).neg))
    else xs.map (·.1)
  (e, packMants m ms, left)

/-- Numbers of a width packed, the first lowest. -/
def packBits (width : Nat) : List Nat → Nat
  | [] => 0
  | v :: vs => v + 2 ^ width * packBits width vs

/-- A row converted: its bytes as one number, and the array with the entries left (R295, R296). -/
def Prism.drainRow (p : Prism) (x : ENG) (seed : Word) (a : Nat) : Nat × Prism :=
  let store (p : Prism) (ws : List Word) : Prism :=
    (ws.mapIdx (fun n w => (n, w))).foldl (fun p e => p.setEntry a e.1 (if drainZero x then 0 else e.2)) p
  if drainFmtCode x = 5 then
    let bs := (List.range 8).map (drainBlock x seed p a)
    let m := drainMb x
    (packBits (16 * m) (bs.map (·.2.1)) + 2 ^ (128 * m) * packBits 8 (bs.map (·.1)), store p (bs.map (·.2.2)).flatten)
  else
    let es := (List.range 128).map (fun n => drainElem x seed a n (p.entry a n))
    (packBits (8 * (drainFmt (drainFmtCode x)).2) (es.map (·.1)), store p (es.map (·.2)))

/-! ### Issue (R282, R289, R290) -/

/-- The update of a core's array. -/
def State.modPrism (s : State) (core : Nat) (f : Prism → Prism) : State := s.modCore core (fun c => { c with prism := f c.prism })

/-- The array of a core. -/
def State.prismOf (s : State) (core : Nat) : Prism := (s.coreState core).prism

/-- AROW and COUNT of a row descriptor, none where it is not valid (R289). -/
def rowDesc (w : Word) : Option (Nat × Nat) :=
  let row := bitsOf w.toNat 0 9
  let count := bitsOf w.toNat 16 10
  if w.toNat ≠ row + 65536 * count ∨ count = 0 ∨ 512 < count ∨ 512 < row + count then none else some (row, count)

/-- A command that has no fields yet. -/
def PrismCmd.empty : PrismCmd := ⟨0, 0, 0, 0, 0, 0, 0, 0, 0, 0, 0, [], 0, false, false⟩

/-- A Prism instruction: it waits while another team holds the array, and goes on to its own checks (R282). An array that no team
holds is as at its claim. -/
def prismIssue (i : Instr) (s : State) (body : Ctx → State → Out) : Out :=
  issue i s (fun c s =>
    match (s.prismOf c.core).team with
    | some t => if t = c.g.team then body c s else .next (c.waitOn .claim s)
    | none => body c s)

/-- A command sent to the array, which its team now holds (R282, R283, R291). -/
def prismSend (i : Instr) (c : Ctx) (p : PrismCmd) (banks : List Nat) (s : State) : State :=
  let o := { c.op i (.prism i p) [laneSlot (4 * c.lowest)] [] s with banks := banks }
  (c.start i o s).modPrism c.core (fun a => { a with team := some c.g.team, cmds := a.cmds ++ [o.id] })

/-- A trap ENGINE of the Prism array's own checks, with the command's first address operand, 0 where it has none (R405). -/
def prismTrap (c : Ctx) (sub addr : Nat) (s : State) : Out := raiseHere c causeEngine sub addr s

/-- Whether a BFP width other than 8 is refused, in reduced service (R290, R436). -/
def State.widthRefused (s : State) (m : Nat) : Bool := s.boot.phase != 4 && m != 8

/-- MMLOAD (R290, R292) (DEDUCED, log 37). -/
def execMmload (x : ENG) (s : State) : Out :=
  prismIssue (.mmload x) s (fun c s =>
    let va := c.pair x.a
    let mw := x.imm.toNat % 16
    if va % 128 ≠ 0 then raiseHere c causeAlign 0 va s
    else match translate c.g.ranges va (tileBytes mw) true false false with
      | .bad cause sub => raiseHere c cause sub va s
      | .ok _ =>
        if s.widthRefused mw then prismTrap c 0x04 va s
        else .next ((prismSend (.mmload x) c { PrismCmd.empty with addr := va } [] s).modPrism c.core (fun a =>
          { a with issued := (mw, BitVec.ofNat 64 va) })))

/-- The binding of a queue register named by its number, while it is in force. -/
def State.ring? (s : State) (c : Ctx) (q : Nat) : Option QBind := (s.binding c.g q).map (·.2)

/-- A ring position some granules on (R286). -/
def QBind.on (b : QBind) (p n : Nat) : Nat := (p + 16 * n) % b.size

/-- The banks of a ring. -/
def QBind.banks (b : QBind) : List Nat := spanBanks b.start b.size

/-- MMRUN (R286, R290, R293). Its issue check takes the tile of the latest MMLOAD issued under the claim, address 0 before any (DEDUCED, log 38). -/
def execMmrun (x : ENG) (s : State) : Out :=
  prismIssue (.mmrun x) s (fun c s =>
    let a := s.prismOf c.core
    let ma := x.imm.toNat % 16
    let q := bitsOf x.imm.toNat 4 3
    let desc := c.scalar x.a
    let steps := (c.scalar x.b).toNat
    let tb := tileBytes a.issued.1
    let next := a.issued.2.toNat + tb
    let spanBad : Option (Nat × Nat) :=
      if 2 ≤ steps then
        (match translate c.g.ranges next ((steps - 1) * tb) true false false with
         | .bad cause sub => some (cause, sub)
         | .ok _ => none)
      else none
    match spanBad with
    | some (cause, sub) => raiseHere c cause sub next s
    | none =>
      match s.ring? c q with
      | none => raiseHere c causeQueue 0 q s
      | some b =>
        match rowDesc desc with
        | none => prismTrap c 0x01 0 s
        | some (row, count) =>
          if steps = 0 ∨ 256 < steps then prismTrap c 0x02 0 s
          else if b.banks.any (s.bankChanging (clusterOf c.core)) then .next (c.block s)
          else if s.widthRefused ma then prismTrap c 0x04 0 s
          else
            let total := steps * count * (ma + 1)
            let p := { PrismCmd.empty with
              row := row, count := count, steps := steps, ring := b.start, size := b.size, pos := b.rd, total := total }
            .next ((prismSend (.mmrun x) c p b.banks s).modGroup c.g.gid (fun g =>
              { g with qbinds := tset ⟨0, 0, 0, 0⟩ g.qbinds q { b with rd := b.on b.rd total } })))

/-- A drain's checks of its own (R290), and what it sends. -/
def drainChecked (x : ENG) (c : Ctx) (addr : Nat) (s : State) (k : Nat → Nat → State → Out) : Out :=
  let desc := c.scalar x.b
  match rowDesc desc with
  | none => prismTrap c 0x01 addr s
  | some (row, count) =>
    if drainFmtCode x = 5 && s.widthRefused (drainMb x) then prismTrap c 0x04 addr s else k row count s

/-- COUNT of a descriptor as its span checks read it, valid or not. -/
def descCount (w : Word) : Nat := bitsOf w.toNat 16 10

/-- The seed of a drain (R295). -/
def drainSeed (c : Ctx) (x : ENG) : Word := BitVec.ofNat 32 (c.pair x.c / 2 ^ 32)

/-- MMDRAIN to memory (R290, R296). -/
def execMmdrainMem (x : ENG) (s : State) : Out :=
  prismIssue (.mmdrainMem x) s (fun c s =>
    let va := c.pair x.a
    let stride := c.pair x.c % 2 ^ 32
    let n := descCount (c.scalar x.b)
    let row := rowBytes x
    if va % 16 ≠ 0 then raiseHere c causeAlign 0 va s
    else if stride % 16 ≠ 0 then raiseHere c causeAlign 0 stride s
    else match translate c.g.ranges va (row + (n - 1) * stride) false true false with
      | .bad cause sub => raiseHere c cause sub va s
      | .ok _ =>
        match rowDesc (c.scalar x.b) with
        | none => prismTrap c 0x01 va s
        | some (r, count) =>
          if stride < row then prismTrap c 0x03 va s
          else drainChecked x c va s (fun _ _ s => .next (prismSend (.mmdrainMem x) c { PrismCmd.empty with
            row := r, count := count, addr := va, stride := stride, seed := drainSeed c x, total := count * row / 16 } [] s)))

/-- MMDRAIN to local space (R290, R296). -/
def execMmdrainLoc (x : ENG) (s : State) : Out :=
  prismIssue (.mmdrainLoc x) s (fun c s =>
    let la := (c.scalar x.a).toNat
    let span := descCount (c.scalar x.b) * rowBytes x
    if la % 16 ≠ 0 then raiseHere c causeAlign 0 la s
    else if la ≥ 2 ^ 22 ∨ la + span > 2 ^ 22 then raiseHere c causeRange 0 la s
    else if (spanBanks la span).any (s.bankChanging (clusterOf c.core)) then .next (c.block s)
    else if (spanBanks la span).any (fun b => s.bankMode (clusterOf c.core) b == 0) then raiseHere c causeProt 4 la s
    else drainChecked x c la s (fun row count s => .next (prismSend (.mmdrainLoc x) c { PrismCmd.empty with
      row := row, count := count, addr := la, seed := drainSeed c x, total := count * rowBytes x / 16 } (spanBanks la span) s)))

/-- MMDRAIN to a ring (R290, R296): its granules are reserved at issue. -/
def execMmdrainRing (x : ENG) (s : State) : Out :=
  prismIssue (.mmdrainRing x) s (fun c s =>
    let q := drainQn x
    match s.ring? c q with
    | none => raiseHere c causeQueue 0 q s
    | some b => drainChecked x c 0 s (fun row count s =>
        let total := count * rowBytes x / 16
        if b.banks.any (s.bankChanging (clusterOf c.core)) then .next (c.block s) else
        .next ((prismSend (.mmdrainRing x) c { PrismCmd.empty with
          row := row, count := count, seed := drainSeed c x, ring := b.start, size := b.size, pos := b.wr, total := total }
            b.banks s).modGroup c.g.gid (fun g =>
              { g with qbinds := tset ⟨0, 0, 0, 0⟩ g.qbinds q { b with wr := b.on b.wr total } }))))

/-- MMDRAIN to q8 (R290, R296, R297). -/
def execMmdrainQ8 (x : ENG) (s : State) : Out :=
  prismIssue (.mmdrainQ8 x) s (fun c s => drainChecked x c 0 s (fun row count s =>
    .next (prismSend (.mmdrainQ8 x) c { PrismCmd.empty with
      row := row, count := count, seed := drainSeed c x, total := count * rowBytes x / 4 } [] s)))

/-- MMDRAIN of the status (R297). -/
def execMmdrainStat (x : ENG) (s : State) : Out :=
  prismIssue (.mmdrainStat x) s (fun c s => .next (prismSend (.mmdrainStat x) c PrismCmd.empty [] s))

/-! ### At the array (R283, R285 to R297) -/

/-- The update of a command's progress. -/
def State.modCmd (s : State) (id : Nat) (f : PrismCmd → PrismCmd) : State :=
  s.modOp id (fun o => match o.kind with | .prism i p => { o with kind := .prism i (f p) } | _ => o)

/-- An instruction in flight comes to its next granule (R57). -/
def State.arrive (s : State) (id : Nat) : State := s.modOp id (fun o => { o with arrived := s.clock })

/-- The head command leaves the array's order. -/
def State.popCmd (s : State) (core : Nat) : State := s.modPrism core (fun a => { a with cmds := a.cmds.tail, step := [] })

/-- A command has finished at the array (R291). -/
def State.finishCmd (s : State) (o : Op) : State := (s.modOp o.id (fun p => { p with performed := true })).popCmd o.core

/-- A command that met a fault: parked, with the sequencer waiting, or ended (R291). A run goes on consuming its granules, and a
tile whose read failed is VOID (R292). -/
def State.faultCmd (s : State) (o : Op) (f : EngFault) : State :=
  if f.cause = 0 then s
  else if f.cause = causeXlate ∧ f.sub = 1 then
    match s.enterWait f.ipa 3 [(o.id, 0)] with
    | some (token, s) => s.setReq o.id 0 (.parked token)
    | none => ends (faultTrap o.kind causeXlate 5 f.va f.ipa) s
  else ends (faultTrap o.kind f.cause f.sub f.va f.ipa) s
where
  ends (t : LateTrap) (s : State) : State :=
    match o.kind with
    | .prism (.mmrun _) _ => (s.modOp o.id (fun p => { p with lateTrap := some t })).modCmd o.id (fun p => { p with void := true })
    | .prism (.mmload _) _ =>
      ((s.modOp o.id (fun p => { p with lateTrap := some t })).modPrism o.core (fun a => { a with mw := 0, tile := [] })).finishCmd o
    | _ => ((s.endCommand o).modOp o.id (fun p => { p with lateTrap := some t })).finishCmd o

/-- A tile read from COMMITTED: its bytes as one number. -/
def readTile (o : Op) (va mw : Nat) : Eng Nat := engObject o 3 false va (tileBytes mw)

/-- The bytes of a number as a table. -/
def bytesTable (v n : Nat) : Table Byte := twriteLE [] 0 v n

/-- A tile latched, or VOID where its read ended on a fault (R292). -/
def State.loadTile (s : State) (o : Op) (x : ENG) (va : Nat) : State :=
  let mw := x.imm.toNat % 16
  match (readTile o va mw).run s with
  | (.ok v, s) =>
    (s.modPrism o.core (fun a => { a with mw := mw, wbase := BitVec.ofNat 64 va, tile := bytesTable v (tileBytes mw) })).finishCmd o
  | (.error f, s) => s.faultCmd o f

/-- A status word pushed to q8 (R297). -/
def State.pushStat (s : State) (o : Op) (x : ENG) (pos : Nat) : State :=
  let a := s.prismOf o.core
  let q := tget [] a.q8 pos
  if 1024 ≤ q.length then s.modCmd o.id (fun p => { p with begun := true })
  else
    (s.modPrism o.core (fun a => { a with
      q8 := tset [] a.q8 pos (q ++ [BitVec.ofNat 32 (bit a.nanblk)])
      nanblk := a.nanblk && !x.imm.getLsbD 0 })).finishCmd o

/-- The head command of an array, where it may go on: not parked, and not stopped with its team's image (R299). -/
def State.headCmd (s : State) (core : Nat) : Option Op :=
  match (s.prismOf core).cmds with
  | [] => none
  | id :: _ =>
    match s.op? id with
    | none => none
    | some o => if o.reqs.any (fun r => match r.state with | .parked _ => true | _ => false) || s.imaged o.gid then none else some o

/-- The team position of a command's group. -/
def State.posOf (s : State) (gid : Nat) : Nat := match tfind gid s.groups with | some g => g.pos | none => 0

/-- PRISM_COMMAND_START (R283): the array of core `ev.a` begins its next command. A tile is read and a status pushed at once; a run
clears its rows and notes a VOID tile (R288, R293). -/
def execPrismCommandStart (s : State) : Out :=
  match s.headCmd s.ev.a with
  | none => .next s
  | some o =>
    match o.kind with
    | .prism (.mmload x) p => .next (s.loadTile o x p.addr)
    | .prism (.mmdrainStat x) _ => .next (s.pushStat o x (s.posOf o.gid))
    | .prism (.mmrun x) p =>
      if p.begun then .next s
      else
        let void := (s.prismOf o.core).mw == 0
        let s := (s.modCmd o.id (fun p => { p with begun := true, void := void })).arrive o.id
        if void then .next (s.modOp o.id (fun q => { q with lateTrap := some ⟨causeEngine, 0x08, 0, false, 0⟩ }))
        else if x.imm.getLsbD 7 then
          .next (s.modPrism o.core (fun a => { a with
            acc := a.acc.filter (fun e => !(decide (128 * p.row ≤ e.1) && decide (e.1 < 128 * (p.row + p.count)))) }))
        else .next s
    | .prism _ p => .next (if p.begun then s else (s.modCmd o.id (fun p => { p with begun := true })).arrive o.id)
    | _ => .next s

/-- The step tile of a run read where its step needs one that is not there (R288). -/
def State.stepTile (s : State) (o : Op) (p : PrismCmd) (k : Nat) : State :=
  let a := s.prismOf o.core
  match (readTile o (a.wbase.toNat + k * tileBytes a.mw) a.mw).run s with
  | (.ok v, s) => (s.modPrism o.core (fun a => { a with step := bytesTable v (tileBytes a.mw) })).modCmd o.id (fun _ => { p with loaded := k })
  | (.error f, s) => s.faultCmd o f

/-- One granule of a run's stream consumed: the last of a vector adds it to its row (R286 to R288). -/
def State.runGranule (s : State) (o : Op) (x : ENG) (p : PrismCmd) : State :=
  let cl := clusterOf o.core
  let ma := x.imm.toNat % 16
  let vec := p.moved / (ma + 1)
  let k := vec / p.count
  if !p.void && k != p.loaded && p.held == [] then s.stepTile o p k
  else
    let la := p.ring + p.pos
    if !s.isFull cl la || !s.firstAt cl la true o.arrived o.id then s
    else
      let g := s.localRead cl la 16
      let held := p.held ++ [g]
      let full := decide (held.length = ma + 1)
      let p' := { p with pos := (p.pos + 16) % p.size, moved := p.moved + 1, held := if full then [] else held }
      let s := ((s.setFull cl la false).modCmd o.id (fun _ => p')).arrive o.id
      let s := if full && !p.void then
          s.modPrism o.core (fun a => a.addVector (if k = 0 then a.tile else a.step) held ma (p.row + vec % p.count))
        else s
      if p'.moved = p'.total then s.finishCmd o else s

/-- Where granule `m` of a drain to memory goes. -/
def drainVa (x : ENG) (p : PrismCmd) : Nat :=
  let per := rowBytes x / 16
  p.addr + p.moved / per * p.stride + 16 * (p.moved % per)

/-- A granule written where its command sends it: none where it must wait, or a fault outcome. -/
def drainPut (o : Op) (i : Instr) (x : ENG) (p : PrismCmd) (g pos : Nat) : Eng Bool := fun s =>
  let cl := clusterOf o.core
  match i with
  | .mmdrainMem _ =>
    let va := drainVa x p
    (match translate o.ranges va 16 false true false with
     | .bad cause sub => (.error ⟨cause, sub, va, 0⟩, s)
     | .ok l =>
       if !s.underLimit l.home l.line (.pending o.core) then (.ok false, s)
       else (do
         Eng.lift va (confirm l true >>= fun _ => engineWrite o.core (s.writeKind o l) l (BitVec.allOnes 16) (BitVec.ofNat 128 g))
         pure true : Eng Bool).run s)
  | .mmdrainLoc _ =>
    let la := p.addr + 16 * p.moved
    (.ok true, (s.localWrite cl la g 16).setFull cl la true)
  | .mmdrainRing _ =>
    let la := p.ring + p.pos
    if s.isFull cl la || !s.firstAt cl la false o.arrived o.id then (.ok false, s) else (.ok true, (s.localWrite cl la g 16).setFull cl la true)
  | _ =>
    let q := tget [] (s.prismOf o.core).q8 pos
    if 1024 ≤ q.length then (.ok false, s)
    else (.ok true, s.modPrism o.core (fun a => { a with q8 := tset [] a.q8 pos (q ++ [BitVec.ofNat 32 g]) }))

/-- A drain whose last granule has gone: it releases what it wrote to memory, or has finished (R104, R291). -/
def State.endDrain (s : State) (o : Op) (i : Instr) : State :=
  match i with
  | .mmdrainMem _ => (s.engineRelease o).popCmd o.core
  | _ => s.finishCmd o

/-- The bytes a drain moves at a time: a word to q8, else a granule (R296). -/
def drainUnit (i : Instr) : Nat := match i with | .mmdrainQ8 _ => 4 | _ => 16

/-- One granule of a drain, or word to q8: the row it is of is converted, and the entries that the conversion leaves stand once the row's last has
gone (R295, R296). -/
def State.drainGranule (s : State) (o : Op) (i : Instr) (x : ENG) (p : PrismCmd) : State :=
  let unit := drainUnit i
  let per := rowBytes x / unit
  let (v, left) := (s.prismOf o.core).drainRow x p.seed (p.row + p.moved / per)
  match (drainPut o i x p (bitsOf v (8 * unit * (p.moved % per)) (8 * unit)) (s.posOf o.gid)).run s with
  | (.ok false, t) => t
  | (.error f, t) => t.faultCmd o f
  | (.ok true, t) =>
    let p' := { p with moved := p.moved + 1, pos := if p.size = 0 then 0 else (p.pos + 16) % p.size }
    let t := (t.modCmd o.id (fun _ => p')).arrive o.id
    let t := if p'.moved % per = 0 then t.modPrism o.core (fun a => { a with acc := left.acc }) else t
    if p'.moved = p'.total then t.endDrain o i else t

/-- The next granule of the command that runs on an array, where it is the one asked for. -/
def State.prismGranule (s : State) (o : Op) : State :=
  match s.headCmd o.core, o.kind with
  | some h, .prism i p =>
    if h.id ≠ o.id ∨ p.begun = false then s
    else match i with
      | .mmrun x => s.runGranule o x p
      | .mmdrainMem x | .mmdrainLoc x | .mmdrainRing x | .mmdrainQ8 x => s.drainGranule o i x p
      | _ => s
  | _, _ => s

end Sys2Proof.Machine
end

