-- ==== Sys2Proof/Machine/Complete.lean ====
section
/-! DEFINITION. The two events that move instructions in flight forward: a granule served (R56, R57, R146, R285), and an instruction that
completes (R120, R121), which for texture and closure instructions is also when their unit performs them (R324, R361). -/

namespace Sys2Proof.Machine

open Sys2Proof

/-- Whether an instruction in flight may be served: its group is resident and the machine in full service; a command of the Prism array stops with
its team's image (R299). -/
def State.mayServe (s : State) (o : Op) : Bool :=
  s.isResident o.gid && s.boot.phase == 4 && !(match o.kind with | .prism _ _ => s.imaged o.gid | _ => false)

/-- GRANULE_SERVE (R56, R57, R146): request `ev.b` of the local access or copy `ev.a` is served on its granule, or a Prism command
moves its next one. -/
def execGranuleServe (s : State) : Out :=
  match s.op? s.ev.a with
  | none => .next s
  | some o =>
    match o.kind, o.reqs[s.ev.b]? with
    | .prism _ _, _ => if s.mayServe o then .next (s.prismGranule o) else .next s
    | .local store fe size dst, some r =>
      if r.state == .confirmed && s.mayServe o && s.granuleReady o store fe r then .next (s.serveLocal o s.ev.b store fe size dst r) else .next s
    | .cpy out la _ _ _, some r => if r.state = .confirmed then .next (s.serveCpy o s.ev.b out la r) else .next s
    | _, _ => .next s

/-- An instruction of the texture or the Facet unit performed as far as it can be (R103). -/
def State.serveUnit (s : State) (o : Op) : State :=
  if o.performed || !s.unitRuns o then s
  else match o.kind with
    | .tex _ _ => s.serveTex o.id
    | .closure _ | .spillFill _ => s.serveFacet o
    | _ => s

/-- LONG_LATENCY_COMPLETE (R120, R121): the instruction `ev.a` is served by its unit, where it has one, and completes once it has been
performed. Its unit uses the copies that `ev.on` and `ev.secs` allow, and makes as many reads as `ev.c` allows. -/
def execLongLatencyComplete (s : State) : Out :=
  match s.op? s.ev.a with
  | none => .next s
  | some o =>
    let s := s.serveUnit o
    match s.op? s.ev.a with
    | some o => if o.performed then .next (s.completeOp o) else .next s
    | none => .next s

end Sys2Proof.Machine
end

