-- ==== Sys2Proof/Machine/Fetch.lean ====
section
/-! DEFINITION. Instruction fetch (R22, R32, R107, R114) and the passing of time (R255, R449). -/

namespace Sys2Proof.Machine

open Sys2Proof

/-- The location of an instruction word (R22, R107). -/
def fetchLoc (ranges : Table (BitVec 64)) (pc : Nat) : Mem Loc :=
  if pc % 8 ≠ 0 then memFault causeAlign 0 0
  else match translate ranges pc 8 true false true with
    | .ok l => pure l
    | .bad cause sub => memFault cause sub 0

/-- An aligned instruction word read from COMMITTED at its home slice (DEDUCED, log 24). -/
def fetchWord (ranges : Table (BitVec 64)) (pc : Nat) : Mem (BitVec 64) := do
  let l ← fetchLoc ranges pc
  confirm l false
  let d ← sector l.home l.ipa none
  pure (BitVec.ofNat 64 (bitsOf d.toNat (8 * (l.ipa % 16)) 64))

/-- What a fetch brings: an instruction, a word that is none, a fault outcome with its address, or nothing yet where a slice stalls. -/
inductive Fetched where
  | instr (i : Instr)
  | illegal (w : BitVec 64)
  | bad (cause sub pc : Nat)
  | stalled
  deriving DecidableEq, Repr

/-- The instruction of a word and of the word after it. -/
def fetchedOf (w next : BitVec 64) : Fetched :=
  match decode w next with
  | .ok i => .instr i
  | .error _ => .illegal w

/-- The instruction at an address: its word, and the word after it where it takes a literal. -/
def fetch (ranges : Table (BitVec 64)) (pc : Addr) (s : State) : Fetched × State :=
  (fetchWord ranges pc.toNat).on s (fun t => (.stalled, t))
    (fun w s =>
      if wordTakesLit w then
        (fetchWord ranges (pc + 8).toNat).on s (fun t => (.stalled, t)) (fun next s => (fetchedOf w next, s))
          (fun cause sub _ s => (.bad cause sub (pc + 8).toNat, s))
      else (fetchedOf w 0, s))
    (fun cause sub _ s => (.bad cause sub pc.toNat, s))

/-- A key made the latest of a list of at most `n`. -/
def latestOf (n k : Nat) (l : List Nat) : List Nat := (k :: l.filter (· != k)).take n

/-- An instruction passes through its core's caches: the instruction cache holds its line, of 512, and for LDC the constant cache its
launch's constants, of 128 banks. What they hold decides only how long a read takes (R10) (DEDUCED, log 86). -/
def State.noteFetch (s : State) (c : Ctx) (i : Instr) : State :=
  let line := match translate c.g.ranges c.pc.toNat 8 true false true with | .ok l => some (lineKey l.home l.line) | .bad _ _ => none
  s.modCore c.core (fun k => { k with
    icache := match line with | some n => latestOf 512 n k.icache | none => k.icache
    ccache := match i with | .ldc _ => latestOf 128 c.g.launch k.ccache | _ => k.ccache })

/-- Nanoseconds counted by TIMEB: all of them, or half of them while it is ahead of the package it follows, until they agree (R449). -/
def State.countTime (s : State) (ns : Nat) : State :=
  if s.timebAhead = 0 then { s with timeb := s.timeb + ns }
  else
    let total := bit s.timebHalf + ns
    let left := min (ns - total / 2) s.timebAhead
    { s with
      timeb := s.timeb + (ns - left)
      timebHalf := total % 2 == 1
      timebAhead := s.timebAhead - left }

/-- ISTAB entries written since the last cycle whose CLOCK mod 64 is 0 take effect (R276). -/
def CoreState.istabTurn (c : CoreState) : CoreState :=
  { c with istab := c.istabNew.foldl (fun t e => tset istabReset t e.1 e.2) c.istab, istabNew := [] }

/-- Thirds of a nanosecond pass. -/
def State.pass (s : State) (thirds : Nat) : State :=
  let t := s.thirds + thirds
  { s.countTime (t / 3) with thirds := t % 3 }

/-- One cycle of core clock passes: CLOCK counts it, and TIMEB counts nanoseconds, three cycles each at 3.0 GHz and one each
in reduced service (R255, R276, R436, R449) (DESIGN CHOICE, log 4). -/
def State.tick (s : State) : State :=
  let s := s.pass (if s.boot.phase = 4 then 1 else 3)
  let s := { s with clock := s.clock + 1 }
  if s.clock % 64 = 0 then
    { s with cores := s.cores.map (fun e => (e.1, if e.2.istabNew = [] then e.2 else e.2.istabTurn)) }
  else s

end Sys2Proof.Machine
end

