-- ==== Sys2Proof/Machine/SysReg.lean ====
section
/-! DEFINITION. System registers (R255, R256). -/

namespace Sys2Proof.Machine

open Sys2Proof

/-- The task a group runs. -/
def State.taskOf (s : State) (g : Group) : Option (Domain × TaskRec) :=
  match g.task, tfind g.launch s.domains with
  | some k, some d => (tfind k d.recs).map (fun r => (d, r))
  | _, _ => none

/-- A range register as it reads: reserved bits zero (R19, R20). -/
def rangeRead (n : Nat) (v : BitVec 64) : BitVec 64 :=
  if n < 0x110 then v &&& 0xFFFFFFFFFFFF000F#64
  else if n < 0x120 then v &&& 0xFFFFFFFFFFFF0000#64
  else v

/-- The value of a system register in a strand (R255). -/
def sysRead (s : State) (c : Ctx) (n t : Nat) : Nat :=
  let launch := tfind c.g.launch s.launches
  let task := s.taskOf c.g
  match n with
  | 0x000 => 4 * t
  | 0x001 => t
  | 0x002 => c.g.index.toNat
  | 0x003 => c.teamIndex
  | 0x004 => s.clock
  | 0x005 => s.timeb
  | 0x008 =>
    bit c.det + 2 * bit (match launch with | some l => l.token == some c.g.index.toNat | none => false)
  | 0x009 => match launch with | some l => l.intrude.toNat | none => 0
  | 0x00A => c.g.fbovf.toNat
  | 0x010 => match tfind c.g.launch s.domains with | some d => d.frontier | none => 0
  | 0x011 => match task with | some (_, r) => r.ts | none => 0
  | 0x012 => match c.g.task with | some k => k | none => 0
  | 0x013 => match tfind c.g.launch s.domains with | some d => d.specwin | none => 0
  | 0x018 => c.g.trapCause.toNat
  | 0x019 => c.g.trapPc.toNat
  | 0x01A => c.g.trapAddr.toNat
  | 0x01B => c.g.trapToken.toNat
  | 0x020 => c.g.rheap.toNat
  | _ => (rangeRead n (tget 0 c.g.ranges n)).toNat

/-- Whether a system register is 64 bits wide. -/
def sysWide (n : Nat) : Bool := match sysReg? n with | some (64, _) => true | _ => false

/-- The write of a system register (R255). -/
def Group.sysWrite (g : Group) (n : Nat) (v : BitVec 64) : Group :=
  match n with
  | 0x00A => { g with fbovf := v.truncate 32 }
  | 0x018 => { g with trapCause := v.truncate 32 &&& 0x1FFFF#32 }
  | 0x019 => { g with trapPc := v }
  | 0x01A => { g with trapAddr := v }
  | 0x01B => { g with trapToken := v.truncate 32 }
  | 0x020 => { g with rheap := v }
  | _ => { g with ranges := tset 0 g.ranges n (rangeRead n v) }

/-- SREAD (R255, R256). -/
def execSread (x : SF) (s : State) : Out :=
  issue (.sread x) s (fun c s => finish c (.sread x) (fun g =>
    match x.dst with
    | .s n => c.strands.foldl (fun g t =>
        let v := sysRead s c x.imm.toNat t
        if sysWide x.imm.toNat then g.spairSet n.val t v else g.sset n.val t (BitVec.ofNat 32 v)) g
    | _ => g) s)

/-- SWRITE (R255, R256): the value is the lowest strand's (DEDUCED, log 22). -/
def execSwrite (x : SF) (s : State) : Out :=
  issue (.swrite x) s (fun c s => finish c (.swrite x) (fun g =>
    let v := if sysWide x.imm.toNat then c.pair x.b else (c.scalar x.b).toNat
    g.sysWrite x.imm.toNat (BitVec.ofNat 64 v)) s)

end Sys2Proof.Machine
end

