-- ==== Sys2Proof/Machine/Start.lean ====
section
/-! DEFINITION. Range-register sets in memory (R24), and the state a group, a team and a launch start in (R180, R182, R208). -/

namespace Sys2Proof.Machine

open Sys2Proof

/-! ### Range-register sets (R24) -/

/-- A range-register set from its 384 bytes (R24). -/
def rangeSet (v : Nat) : Table (BitVec 64) :=
  (List.range 16).foldl (fun t n =>
    let put (t : Table (BitVec 64)) (reg off : Nat) : Table (BitVec 64) :=
      tset 0 t (reg + n) (rangeRead (reg + n) (BitVec.ofNat 64 (bitsOf v (192 * n + off) 64)))
    put (put (put t 0x100 0) 0x110 64) 0x120 128) []

/-- A location reached through a range-register set for a read, with `wr` for a write. -/
def viaRanges (r : Table (BitVec 64)) (va size : Nat) (wr : Bool) : Mem Loc :=
  match translate r va size (!wr) wr false with
  | .ok l => pure l
  | .bad cause sub => memFault cause sub 0

/-- A doubleword or less read through a range-register set. -/
def vaRead (r : Table (BitVec 64)) (va size : Nat) : Mem Nat := do
  let l ← viaRanges r va size false
  immRead l size

/-- Doublewords read through a range-register set. -/
def vaReadAll (r : Table (BitVec 64)) (va : Nat) : Nat → Mem Nat
  | 0 => pure 0
  | n + 1 => do
    let v ← vaRead r (va % 2 ^ 64) 8
    let rest ← vaReadAll r (va + 8) n
    pure (v + 2 ^ 64 * rest)

/-- A launch's range-register set, from its table in memory. A set that is misaligned is not read. -/
def launchSets (qr : Table (BitVec 64)) (r : LaunchRec) : Mem (Table (BitVec 64)) :=
  if r.rangeset % 8 ≠ 0 then pure [] else do
    let v ← vaReadAll qr r.rangeset 48
    pure (rangeSet v)

/-- The range registers that a starting group loads: the set as memory holds it then; where it can no longer be read, the one read last
(R24, R182, R373) (DESIGN CHOICE, log 50). The start waits for a load whose slice stalls. -/
def loadRanges (launch : Nat) : Mem (Table (BitVec 64)) := fun s =>
  match tfind launch s.launches with
  | none => (.ok [], s)
  | some l =>
    (launchSets l.via l.record).on s (fun t => (.error (0, 0, 0), t))
      (fun r t => (.ok r, t.modLaunch launch (fun l => { l with ranges := r }))) (fun _ _ _ t => (.ok l.ranges, t))

/-! ### Groups, teams and launches as they start -/

/-- What places a group: its numbers and position, its first instruction, arguments, range registers, resource heap, trap
vector and s63. -/
structure Placement where
  gid : Nat
  launch : Nat
  team : Nat
  pos : Nat
  index : Nat
  quarter : Nat
  ctx : Nat
  spawned : Bool
  nstrands : Nat
  entry : Addr
  args : List Word
  s63 : Word
  ranges : Table (BitVec 64)
  rheap : Addr
  handler : Addr
  hdata : BitVec 64
  since : Nat
  deriving DecidableEq, Repr

/-- s0 to s7 and s63 of every strand at a group's start (R182). -/
def startScalars (nstrands : Nat) (args : List Word) (s63 : Word) : Table Word :=
  (List.range nstrands).foldl (fun t st =>
    tset 0 ((List.range 8).foldl (fun t k => tset 0 t (64 * st + k) (args.getD k 0)) t) (64 * st + 63) s63) []

/-- All strands of a group at its entry in one gang with one full stack entry (R170, R182). -/
def startStrands (nstrands : Nat) (entry : Addr) : List Strand := List.replicate nstrands ⟨entry, [0xF#4], false, 0, .ready⟩

/-- A group as it starts (R182). -/
def Group.start (p : Placement) : Group where
  gid := p.gid
  launch := p.launch
  team := p.team
  pos := p.pos
  index := BitVec.ofNat 64 p.index
  quarter := p.quarter
  ctx := p.ctx
  resident := true
  spawned := p.spawned
  strands := startStrands p.nstrands p.entry
  v := []
  s := startScalars p.nstrands p.args p.s63
  p := []
  e := []
  k := []
  flags := []
  late := []
  qbinds := []
  q9 := []
  q9Promised := 0
  pending := []
  ranges := p.ranges
  rheap := p.rheap
  fbovf := 0
  trapCause := 0
  trapPc := 0
  trapAddr := 0
  trapToken := 0
  handler := p.handler
  hdata := p.hdata
  inHandler := none
  halted := false
  retiring := false
  active := false
  since := p.since
  yielded := none
  offers := []
  latch := []
  heldBy := none
  task := none
  deferred := none
  fence := 0
  served := 0
  readyFrom := p.since

/-- The barriers of a team as it is placed (R208). -/
def startBarriers (size : Nat) : Table Barrier :=
  (List.range 16).map (fun b => (b, ⟨size, 0, BitVec.ofNat 64 (2 ^ size - 1), 0, 0⟩))

/-- A team as it is placed. -/
def Team.start (id launch number index core now size : Nat) : Team :=
  ⟨id, launch, number, index, core, now, size, startBarriers size, 0, false, false, false, none, none⟩

/-- A launch of one record, before any of its teams is placed. -/
def Launch.start (id : Nat) (r : LaunchRec) (addr slot queue number tenant : Nat) (ranges via : Table (BitVec 64))
    (teams : Nat) : Launch where
  id := id
  record := r
  addr := addr
  slot := slot
  queue := queue
  number := number
  tenant := tenant
  ranges := ranges
  via := via
  teams := teams
  placed := []
  retired := []
  started := false
  spawns := 0
  live := 0
  token := if r.det && r.fabpos == 0 then some 0 else none
  intrude := 0
  ovfUsed := 0
  ovfFull := false
  claims := []
  units := []
  missed := false
  coresRun := []
  releases := []

end Sys2Proof.Machine
end

