-- ==== Sys2Proof/Machine/Sched.lean ====
section
/-! DEFINITION. Re-ganging and yielding (R199, R202), the active sets (R278), SPAWN (R184), retirement and the completion of launches
(R186, R212, R272, R273, R399). -/

namespace Sys2Proof.Machine

open Sys2Proof

/-! ### Re-ganging and yielding -/

/-- Whether the gangs of a group may go on: it is resident, its team is not being pre-empted, and it is not stopped. -/
def State.groupRuns (s : State) (g : Group) : Bool :=
  g.resident && !g.halted && !g.retiring && g.deferred.isNone &&
    (match tfind g.team s.teams with | some t => !t.saving | none => false)

/-- REGANG_MEET (R199): every live strand of group `ev.a` waits at a REGANG; at one address they form one gang, otherwise the lowest
strand's gang takes the trap and every gang stands at the word after its REGANG (DEDUCED, log 46). -/
def execRegangMeet (s : State) : Out :=
  match tfind s.ev.a s.groups with
  | none => .next s
  | some g =>
    let live := g.live
    let low := lowestOf live
    if live = [] ∨ s.groupRuns g = false ∨ live.all (fun t => (g.strand t).wait == .regang) = false then .next s
    else
      let here := (g.strand low).pc
      match live.filter (fun t => (g.strand t).pc != here) with
      | [] => .next (s.modGroup g.gid (fun g => g.modStrands live (fun _ st =>
          { st with pc := here + 8, gang := low, wait := .ready })))
      | t :: ts =>
        if s.speculative g then .next (s.deferTask g low .issue)
        else
          let addr := (g.strand (lowestOf (t :: ts))).pc
          let s := s.modGroup g.gid (fun g => g.modStrands live (fun _ st => { st with pc := st.pc + 8, wait := .ready }))
          .next (s.takeTrap g.gid low (here + 8) causeRegang 0 addr false)

/-- YIELD_END (R202): group `ev.a` may issue again once every other ready group of its quarter's active set has been offered issue,
or 64 cycles after its YIELD. -/
def execYieldEnd (s : State) : Out :=
  match tfind s.ev.a s.groups with
  | none => .next s
  | some g =>
    match g.yielded with
    | none => .next s
    | some t =>
      let others := (tvalues s.groups).filter (fun h => s.sameQuarter g h && h.active && s.groupReady h)
      if decide (t + 64 ≤ s.clock) || others.all (fun h => g.offers.contains h.gid) then
        .next (s.modGroup g.gid (fun g => { g with yielded := none, offers := [] }))
      else .next s

/-! ### The active set (R278, R280) -/

/-- Whether an instruction in flight has been sent beyond its core's L1 (R278) (DEDUCED, log 44). -/
def OpKind.beyondL1 : OpKind → Bool
  | .local _ _ _ _ | .fixed | .spawn | .cbank _ _ _ | .wake => false
  | _ => true

/-- Whether an active group's wait moves it to the pending set: it is parked, or waits with a gang on a flag of an instruction sent beyond
the core's L1 (R278). -/
def State.waitsBeyond (s : State) (g : Group) : Bool :=
  s.parked g.gid ||
  (!s.groupReady g && g.live.any (fun t => match (g.strand t).wait with
    | .flags m => s.ops.any (fun o => o.gid == g.gid && (maskFlags m).contains o.flag && o.kind.beyondL1)
    | _ => false))

/-- Whether a group is ready and holds the turn of its team in a deterministic launch (R280). -/
def State.turnHolder (s : State) (g : Group) : Bool :=
  s.groupReady g && (match tfind g.launch s.launches with | some l => l.record.det && !s.notItsTurn g true | none => false)

/-- The group longest where it is; a tie goes to the lower context (R278). -/
def oldest : List Group → Option Group
  | [] => none
  | g :: gs =>
    match oldest gs with
    | none => some g
    | some h => if g.since < h.since ∨ g.since = h.since ∧ g.ctx ≤ h.ctx then some g else some h

/-- The resident groups of a quarter. -/
def State.quarterOf (s : State) (core q : Nat) : List Group :=
  (tvalues s.groups).filter (fun g => g.resident && g.quarter == q && s.teamCore g.team == core)

/-- The pending group that enters next: a ready holder of its team's turn, else the oldest ready one whose turn it is (R278, R280). -/
def State.entrant (s : State) (pend : List Group) : Option Group :=
  match oldest (pend.filter s.turnHolder) with
  | some g => some g
  | none => oldest (pend.filter (fun g => s.groupReady g &&
      (match tfind g.launch s.launches with | some l => !s.notItsTurn g l.record.det | none => false)))

/-- The active group exchanged where none has a wait that moves it: the one that entered least recently, but for a ready holder of its
team's turn, after 64 cycles, and at once for a turn holder (R278, R280) (DESIGN CHOICE, log 44). -/
def State.leaver (s : State) (act : List Group) (p : Group) : Option Group :=
  (oldest (act.filter (fun g => !s.turnHolder g))).filter (fun g => s.turnHolder p || decide (g.since + 64 ≤ s.clock))

/-- A group moved between the sets, its reuse latch emptied (R124, R278). -/
def State.moveSet (s : State) (g : Group) (on : Bool) : State :=
  s.modGroup g.gid (fun g => { g with active := on, since := s.clock, latch := [] })

/-- ACTIVE_SET_EXCHANGE (R278, R280): in quarter `ev.b` of core `ev.a` every active group whose wait moves it goes to the pending set; then a
pending group enters, in place of an active one where the set is full. -/
def execActiveSetExchange (s : State) : Out :=
  let here := s.quarterOf s.ev.a s.ev.b
  let out := here.filter (fun g => g.active && s.waitsBeyond g)
  let s := out.foldl (fun s g => s.moveSet g false) s
  let act := here.filter (fun g => g.active && !s.waitsBeyond g)
  match s.entrant (here.filter (fun g => !g.active)) with
  | none => .next s
  | some p =>
    if act.length < 8 then .next (s.moveSet p true)
    else match s.leaver act p with
      | some g => .next ((s.moveSet g false).moveSet p true)
      | none => .next s

/-- The LEND and OWN bits of an ISTAB entry (R276). -/
def istabMask : Word := 0x8F8F8F8F#32

/-- An ISTAB entry written (R276). -/
def CoreState.putIstab (c : CoreState) (e : Nat) (w : Word) : CoreState := { c with istabNew := tinsert e (w &&& istabMask) c.istabNew }

/-- ISTAB_WRITE (R276, R423): entry `ev.b` of core `ev.a` is written, with `ev.c` = 8 two entries as one access, and takes effect at the next cycle
whose CLOCK mod 64 is 0. -/
def execIstabWrite (s : State) : Out :=
  if s.ev.a ≥ 192 ∨ s.ev.b ≥ 64 ∨ s.ev.c = 8 ∧ s.ev.b % 2 = 1 then .next s
  else .next (s.modCore s.ev.a (fun c =>
    let c := c.putIstab s.ev.b (s.ev.val.truncate 32)
    if s.ev.c = 8 then c.putIstab (s.ev.b + 1) ((s.ev.val >>> 32).truncate 32) else c))

/-! ### Room on a core (R178, R179) -/

/-- Registers a group of a launch holds. -/
def LaunchRec.regShare (r : LaunchRec) : Nat := ceilDiv r.nregs 8 * 8

/-- The launch record of a group. -/
def State.recordOf (s : State) (launch : Nat) : Option LaunchRec := (tfind launch s.launches).map (fun l => l.record)

/-- The sum of a share of the launch records of a list of groups. -/
def State.sumShare (s : State) (gs : List Group) (f : LaunchRec → Nat) : Nat :=
  (gs.map (fun g => match s.recordOf g.launch with | some r => f r | none => 0)).foldl (· + ·) 0

/-- Whether a quarter has a free context. -/
def State.hasContext (s : State) (core q n : Nat) : Bool := decide ((s.quarterOf core q).length + n ≤ 16)

/-- Whether a quarter has the registers and closure rows that `n` more groups of a record need. -/
def State.hasSpace (s : State) (core q n : Nat) (r : LaunchRec) : Bool :=
  let here := s.quarterOf core q
  decide (s.sumShare here LaunchRec.regShare + n * r.regShare ≤ 1536) &&
    decide (s.sumShare here LaunchRec.nkregs + n * r.nkregs ≤ 32)

/-- The lowest free context of a quarter. -/
def State.freeContext (s : State) (core q : Nat) : Nat :=
  let used := (s.quarterOf core q).map (fun g => g.ctx)
  ((List.range 16).find? (fun k => !used.contains k)).getD 0

/-- HANDLER and HDATA of a tenant (R407). -/
def State.trapVector (s : State) (tenant : Nat) : Addr × BitVec 64 := (tget 0 s.tvtab (2 * tenant), tget 0 s.tvtab (2 * tenant + 1))

/-- s63 of a launch's groups on a cluster (R182). -/
def Launch.scratchBase (l : Launch) (cluster : Nat) : Word :=
  match tfind cluster l.claims with
  | some (b, _) => BitVec.ofNat 32 (b * 2 ^ 18)
  | none => 0

/-- No word left in the q8 of a team position, at its core or in the array its team has taken along (R182, R297). -/
def State.clearQ8 (s : State) (team pos : Nat) : State :=
  let s := s.modTeam team (fun t => { t with prism := t.prism.map (fun p => { p with q8 := terase pos p.q8 }) })
  let core := s.teamCore team
  if (s.coreState core).prism.team = some team then
    s.modCore core (fun c => { c with prism := { c.prism with q8 := terase pos c.prism.q8 } })
  else s

/-- A group started (R182), pending in its quarter (R278), with the range registers loaded from memory (R24). -/
def State.startGroup (s : State) (l : Launch) (r : Table (BitVec 64)) (team pos index core quarter : Nat) (spawned : Bool)
    (entry : Addr) (args : List Word) : State :=
  let (handler, hdata) := s.trapVector l.tenant
  let p : Placement := ⟨s.nextId, l.id, team, pos, index, quarter, s.freeContext core quarter, spawned, l.record.nstrands, entry,
    args, l.scratchBase (clusterOf core), r, BitVec.ofNat 64 l.record.rheap, handler, hdata, s.clock⟩
  ({ s with groups := tinsert s.nextId (Group.start p) s.groups, nextId := s.nextId + 1 }.clearQ8 team pos).modLaunch l.id
    (fun l => { l with live := l.live + 1 })

/-! ### SPAWN (R183, R184) -/

/-- A position's bits cleared in every barrier, as a spawned group's are (R208). -/
def Team.clearBits (t : Team) (pos : Nat) : Team :=
  { t with barriers := t.barriers.map (fun e => (e.1, { e.2 with
      part := setBit64 e.2.part pos false, pend := setBit64 e.2.pend pos false, arrived := setBit64 e.2.arrived pos false })) }

/-- What SPAWN does at the context allocator: the status and the index (R184). A position is free again once the group there
has left the machine, its retirement complete (DESIGN CHOICE, log 90). -/
def spawnAt (c : Ctx) (entry : Nat) (args : List Word) : Mem (Nat × Nat) := do
  let none_ := 0xFFFFFFFF
  let s ← get
  match tfind c.g.launch s.launches, tfind c.g.team s.teams with
  | some l, some t =>
    let taken := ((tvalues s.groups).filter (fun g => g.team == c.g.team)).map (fun g => g.pos)
    match (List.range 64).find? (fun p => decide (t.size ≤ p) && !taken.contains p) with
    | none => pure (3, none_)
    | some pos =>
      let order := (List.range 4).map (fun k => (c.g.quarter + k) % 4)
      match order.find? (fun q => s.hasContext c.core q 1 && s.hasSpace c.core q 1 l.record) with
      | some q => do
        let n := l.spawns
        let r ← loadRanges l.id
        modify (fun s => ((s.modLaunch l.id (fun l => { l with spawns := n + 1 })).modTeam c.g.team (fun t => t.clearBits pos)).startGroup l r c.g.team pos
          (l.record.fabpos * 2 ^ 48 + 2 ^ 47 + n) c.core q true (BitVec.ofNat 64 entry) args)
        pure (0, n % 2 ^ 32)
      | none => pure (if order.all (fun q => !s.hasContext c.core q 1) then (1, none_) else (2, none_))
  | _, _ => pure (1, none_)

/-- A status pair for every strand of the gang. -/
def pairResult (c : Ctx) (x : Src) (status index : Nat) : List (RegElem × Word) :=
  (c.strands.map (fun t =>
    [(RegElem.s (dataReg x) t, BitVec.ofNat 32 status), (RegElem.s (dataReg x + 1) t, BitVec.ofNat 32 index)])).flatten

/-- The eight argument words from a scalar on. -/
def argWords (c : Ctx) (x : Src) : List Word := (List.range 8).map (fun k => c.g.sget (dataReg x + k) c.lowest)

/-- SPAWN (R184): the group starts at issue, and the pair is written when the instruction completes. -/
def execSpawn (x : ENG) (s : State) : Out :=
  issue (.spawn x) s (fun c s =>
    let entry := c.pair x.c
    if entry % 8 ≠ 0 then raiseHere c causeAlign 0 entry s
    else (spawnAt c entry (argWords c x.b)).on s (fun s => .next (c.block s))
      (fun r s =>
        let o := c.op (.spawn x) .spawn [] [] s
        .next (c.start (.spawn x) { o with performed := true, results := pairResult c x.a r.1 r.2 } s))
      (fun _ _ _ s => .next (c.block s)))

/-! ### Completion of a launch (R91, R272, R273) -/

/-- The length of the run of completed launches of a queue from its first (R273). -/
def runLength (finished : List Nat) : Nat → Nat → Nat
  | 0, n => n
  | fuel + 1, n => if finished.contains n then runLength finished fuel (n + 1) else n

/-- Bytes written to a queue descriptor by an immediate store (R271, R273). -/
def State.putDesc (s : State) (ipa off n v : Nat) : State := s.putImm (plainLoc (ipa + off)) n v

/-- A launch's number counted as completed in its queue, and DONE written where the run grows (R273). -/
def State.finishLaunch (s : State) (queue number : Nat) : State :=
  match tfind queue s.queues with
  | none => s
  | some q =>
    let finished := number :: q.finished
    let done := runLength finished (finished.length + 1) q.done
    let s := { s with queues := tmodify queue (fun q => { q with finished := finished.filter (fun n => decide (done ≤ n)), done := done }) s.queues }
    if done = q.done then s else s.putDesc q.ipa 0x38 8 done

/-- Whether every team of a launch is placed and every group has retired. -/
def Launch.ended (l : Launch) : Bool := l.live == 0 && decide (l.teams ≤ l.placed.length) && l.placed.all l.retired.contains

/-- Whether a launch has ended, with its releases done. -/
def Launch.over (l : Launch) : Bool := l.ended && l.releases == []

/-- The CARE row of deadline misses (R274, R438). -/
def careDeadline : Nat := 11

/-- A class-0 launch whose DEADLINE TIMEB has passed while it waits or runs: the miss is counted and posted, once (R274, R427)
(DEDUCED, log 66). -/
def State.checkDeadline (s : State) (launch : Nat) : State :=
  match tfind launch s.launches with
  | none => s
  | some l =>
    if l.record.prio % 4 ≠ 0 ∨ l.missed = true ∨ l.ended = true ∨ s.timeb ≤ l.record.deadline then s
    else ((s.modLaunch launch (fun l => { l with missed := true })).count (careIndex careDeadline 0)).postEvent
      (eventRecord 0x05 0xFF 0xFFFF 0 l.addr 0 0 l.record.deadline)

/-- A launch that is over is reported complete, and leaves the machine with its domain (R91, R273, R386). -/
def State.reportLaunch (s : State) (launch : Nat) : State :=
  match tfind launch s.launches with
  | none => s
  | some l =>
    if !l.over then s
    else
      let s := s.finishLaunch l.queue l.number
      { s with launches := terase launch s.launches, domains := terase launch s.domains }

/-! ### Retirement (R186, R212, R399) -/

/-- Whether a group of a deterministic launch may retire: the token has reached it and its requests have drained (R399). -/
def State.tokenReached (s : State) (l : Launch) (g : Group) : Bool :=
  !l.record.det ||
    ((match l.token with | some k => decide (g.index.toNat ≤ k) | none => false) &&
      !s.ordered.any (fun r => r.launch == l.id && r.index == g.index.toNat))

/-- What ends with the last group of a team: the team, and its claim of the array (R180, R282). -/
def State.endTeam (s : State) (team : Nat) : State :=
  match tfind team s.teams with
  | none => s
  | some t =>
    if (tvalues s.groups).any (fun g => g.team == team) then s
    else
      let s := s.modLaunch t.launch (fun l => { l with retired := t.number :: l.retired })
      let s := if (s.prismOf t.core).team = some team then s.modPrism t.core (fun _ => Prism.reset) else s
      { s with teams := terase team s.teams }

/-- Whether a launch has a group on a core, or on one of a cluster's. -/
def State.launchOn (s : State) (launch : Nat) (here : Nat → Bool) (residentOnly : Bool) : Bool :=
  (tvalues s.groups).any (fun g => g.launch == launch && here (s.teamCore g.team) && (g.resident || !residentOnly))

/-- The release of a launch on a core where its last group has retired, and the end of its claim on a cluster (R91, R180, R186). -/
def State.leaveCore (s : State) (launch core : Nat) : State :=
  let s :=
    if s.launchOn launch (· == core) true then s
    else match tfind launch s.launches with
      | none => s
      | some l =>
        if l.coresRun.contains core then
          let id := s.nextId
          (s.startRel core 2 (.launch launch)).modLaunch launch (fun l =>
            { l with coresRun := l.coresRun.filter (· != core), releases := l.releases ++ [id] })
        else s
  if s.launchOn launch (fun c => clusterOf c == clusterOf core) false then s
  else s.modLaunch launch (fun l => { l with claims := terase (clusterOf core) l.claims })

/-- A group whose instructions have all completed frees what it holds (R186). -/
def State.freeGroup (s : State) (g : Group) : State :=
  let core := s.teamCore g.team
  let s := ({ s with groups := terase g.gid s.groups }.clearQ8 g.team g.pos).checkDeadline g.launch
  let s := s.modLaunch g.launch (fun l => { l with live := l.live - 1 })
  let s := if (match s.recordOf g.launch with | some r => r.det | none => false) then s.settleTurn g.team else s
  (s.endTeam g.team).leaveCore g.launch core

/-- GROUP_RETIRE (R186, R273): group `ev.a`, whose strands have all exited, leaves once its instructions have completed; launch `ev.b` is
reported complete once it is over. -/
def execGroupRetire (s : State) : Out :=
  let s := match tfind s.ev.a s.groups with
    | none => s
    | some g =>
      if !g.retiring then s
      else
        match tfind g.launch s.launches with
        | none => s
        | some l => if s.ops.any (fun o => o.gid == g.gid) || !s.tokenReached l g then s else s.freeGroup g
  .next (s.reportLaunch s.ev.b)

end Sys2Proof.Machine
end

