-- ==== Sys2Proof/Machine/Image.lean ====
section
/-! DEFINITION. The bytes of a team image (R415 to R417), and the context save area they are written to (R414). The machine keeps a team that is
not resident as its groups and instructions, and its image follows them. -/

namespace Sys2Proof.Machine

open Sys2Proof

/-- Zero bytes. -/
def zeroBytes (n : Nat) : List Byte := List.replicate n 0

/-- Bytes filled up with zeros to a length. -/
def padTo (n : Nat) (bs : List Byte) : List Byte := bs ++ zeroBytes (n - bs.length)

/-- Words in a row. -/
def wordRow (n : Nat) (f : Nat → Word) : List Byte := ((List.range n).map (fun k => leBytes 4 (f k).toNat)).flatten

/-- A multiple of 256 from a size on. -/
def align256 (n : Nat) : Nat := ceilDiv n 256 * 256

/-! ### Pending records (R417) -/

/-- A mask of lanes. -/
def laneBits (ls : List Nat) : Nat := ls.foldl (fun m l => Nat.lor m (2 ^ l)) 0

/-- A record: its 32-byte header and its body. -/
def pendRecord (kind flag mask : Nat) (pc : Addr) (i : Instr) (body : List Byte) : List Byte :=
  leBytes 1 kind ++ leBytes 1 flag ++ leBytes 2 (32 + body.length) ++ leBytes 4 mask ++ leBytes 8 pc.toNat
    ++ leBytes 8 ((encode i).getD 0 0).toNat ++ leBytes 8 ((encode i).getD 1 0).toNat ++ body

/-- The lanes of a gang that act in a VF or VI word (R119). -/
def formLanes (f : Form) (g : Group) (strands : List Nat) : List Nat :=
  let lanes := (lanesOf strands).filter g.laneActive
  let by_ (pred : BitVec 3) (inv : Bool) : List Nat := if pred = 7 then lanes else lanes.filter (fun l => (g.pget pred.toNat).getLsbD l != inv)
  match f with
  | .vf _ x => by_ x.pred x.pinv
  | .vi _ x => by_ x.pred x.pinv
  | _ => lanes

/-- The record of an instruction inside its queue pops (kind 1) or pushes (kind 3); the served lanes of a source are among those that act. -/
def Group.queueRecord (g : Group) (p : Pending) : List Byte :=
  let pc := (g.strand p.strand).pc
  if p.pushing then
    let value (l : Nat) : Word := match p.pushes.find? (fun e => e.2.1 == l) with | some e => e.2.2 | none => 0
    pendRecord 3 15 (laneBits (p.pushes.map (fun e => e.2.1))) pc p.instr (wordRow 32 value)
  else
    let acting := laneBits (formLanes p.instr.form g (g.gangOf (g.strand p.strand).gang))
    let field (f : Nat) : List Byte :=
      let left := laneBits ((p.pops.filter (fun e => e.1 == f)).map (fun e => e.2.2))
      let reads := (formPops p.instr.form).any (fun e => e.1 == f)
      leBytes 4 (if reads then acting - left else 0) ++ wordRow 32 (fun l => popped p.popped f l)
    pendRecord 1 15 (laneBits (p.pops.map (fun e => e.2.2))) pc p.instr (padTo 400 (field 0 ++ field 1 ++ field 2))

/-- The range registers in the layout of R24. -/
def rangeImage (r : Table (BitVec 64)) : List Byte :=
  ((List.range 16).map (fun n => leBytes 8 (rangeBase r n) ++ leBytes 8 (rangeLim r n) ++ leBytes 8 (rangeOff r n))).flatten

/-- The words captured for each lane, lane by lane. -/
def laneWords (o : Op) (n : Nat) : List Byte := ((List.range 32).map (fun l => wordRow n (fun k => tget 0 o.src (32 * k + l)))).flatten

/-- The lanes of an instruction that are not served. -/
def pendingLanes (o : Op) : List Nat := (o.reqs.filter (fun r => r.state != .done)).map (fun r => r.lane)

/-- The token an instruction is parked under, or 0. -/
def parkToken (o : Op) : Nat :=
  (o.reqs.findSome? (fun r => match r.state with | .parked t => some t | _ => none)).getD 0

/-- The local address of a lane of a local access. -/
def localAddrOf (o : Op) (l : Nat) : Word :=
  (o.reqs.findSome? (fun r => if r.state = .done then none else
    r.args.findSome? (fun e => if e.1 = l then some e.2.1 else none))).getD 0

/-- The record of an instruction in flight; a Prism command stands in its own section. -/
def opRecord (o : Op) : List Byte :=
  let done := pendRecord 7 o.flag (laneBits (pendingLanes o)) o.pc o.instr (padTo 16 (leBytes 4 (parkToken o)))
  if o.performed then done
  else match o.kind with
    | .local _ _ _ _ => pendRecord 2 o.flag
        (laneBits ((o.reqs.filter (fun r => r.state != .done)).map (fun r => r.args.map (fun e => e.1))).flatten) o.pc o.instr
        (wordRow 32 (localAddrOf o) ++ wordRow 32 (fun l => tget 0 o.src l))
    | .ray _ => pendRecord 4 o.flag (laneBits (pendingLanes o)) o.pc o.instr (laneWords o 11 ++ rangeImage o.ranges)
    | .tex _ _ => pendRecord 5 o.flag (laneBits (pendingLanes o)) o.pc o.instr (laneWords o 5 ++ rangeImage o.ranges)
    | .closure _ | .spillFill _ => pendRecord 6 o.flag (laneBits (pendingLanes o)) o.pc o.instr (laneWords o 7 ++ rangeImage o.ranges)
    | .prism _ _ => []
    | _ => done

/-- SYSCALLs of a list of strands that await their answers (kind 8). -/
def syscallRecords (sts : List Strand) : List (List Byte) :=
  sts.mapIdx (fun t st => (t, st)) |>.filterMap (fun e => match e.2.wait with
    | .syscall seq n => if e.2.exited || e.2.gang != e.1 then none
        else some (pendRecord 8 15 0 e.2.pc (.syscall ⟨.unused, BitVec.ofNat 12 n, 0⟩) (padTo 16 (leBytes 4 seq)))
    | _ => none)

/-- The pending records of a group, in the order in which they are performed as it returns: its instructions in flight as they issued, then the
queue halves (R417). -/
def State.pendRecords (s : State) (g : Group) : List (List Byte) :=
  let saved := match g.inHandler with | some h => h.pending | none => []
  (((s.ops.filter (fun o => o.gid == g.gid)).map opRecord)
    ++ ((tvalues saved ++ tvalues g.pending).map g.queueRecord)
    ++ syscallRecords (match g.inHandler with | some h => h.strands | none => [])
    ++ syscallRecords g.strands).filter (fun r => r != [])

/-! ### The group image (R416) -/

/-- A predicate stack, entry 0 the bottom. -/
def stackBits (st : List (BitVec 4)) : Nat := st.reverse.foldr (fun a n => a.toNat + 16 * n) 0

/-- PC, PSTACK, DEPTH and SSTATE of the strands. -/
def strandImage (sts : List Strand) (pending : Table Pending) : List Byte :=
  let at' (t : Nat) : Strand := sts.getD t ⟨0, [], true, 0, .ready⟩
  let code (st : Strand) : Nat := match st.wait with
    | .bar b => if b < 16 then 1 else 0
    | .syscall _ _ => 2
    | _ => if (tfind st.gang pending).isSome then 3 else 0
  let state (st : Strand) : Nat := st.gang + 8 * bit st.exited + 16 * code st
  let row (f : Nat → List Byte) : List Byte := ((List.range 8).map f).flatten
  let live (t : Nat) : Bool := decide (t < sts.length)
  row (fun t => leBytes 8 (at' t).pc.toNat) ++ row (fun t => leBytes 8 (stackBits (at' t).stack))
    ++ row (fun t => leBytes 1 (at' t).stack.length) ++ row (fun t => leBytes 1 (if live t then state (at' t) else 0))

/-- A 12-bit mask of flags. -/
def Group.flagMask (g : Group) (f : Flag → Bool) : Nat := laneBits ((List.range 12).filter (fun n => f (g.flag n)))

/-- A late trap as a record of 16 bytes. -/
def lateImage (t : Option LateTrap) : List Byte :=
  match t with
  | some t => leBytes 4 (trapCauseWord t.cause t.sub t.ipaAddr).toNat ++ leBytes 4 0 ++ leBytes 8 t.addr.toNat
  | none => zeroBytes 16

/-- A queue binding as 16 bytes. -/
def bindImage (b : Option QBind) : List Byte :=
  match b with
  | some b => if b.size = 0 then zeroBytes 16 else leBytes 4 b.start ++ leBytes 4 b.size ++ leBytes 4 b.rd ++ leBytes 4 b.wr
  | none => zeroBytes 16

/-- The image of a group but for its first word. -/
def State.groupBody (s : State) (g : Group) : List Byte :=
  let r := (s.recordOf g.launch).getD ⟨0, 0, 0, 0, 0, 0, 0, 0, 0, 0, 0, 0, [], 0, 0, []⟩
  let n := g.strands.length
  let lanes := 4 * n
  let token := match tfind g.launch s.launches with | some l => l.token == some g.index.toNat | none => false
  let team := match tfind g.team s.teams with | some t => t.index | none => 0
  let row (k : Nat) (f : Nat → List Byte) : List Byte := ((List.range k).map f).flatten
  let recs := s.pendRecords g
  leBytes 1 n ++ leBytes 1 (ceilDiv r.nregs 8) ++ leBytes 1 r.nkregs
    ++ leBytes 1 (bit g.inHandler.isSome + 2 * bit (s.parked g.gid) + 4 * bit token + 8 * bit g.halted)
    ++ leBytes 8 g.index.toNat ++ leBytes 4 team
    ++ leBytes 4 (g.flagMask (fun f => f.busy) + 2 ^ 16 * g.flagMask (fun f => f.owned))
    ++ row 7 (fun k => leBytes 4 (g.pget k).toNat) ++ leBytes 4 g.trapCause.toNat ++ leBytes 8 g.trapPc.toNat
    ++ leBytes 8 g.trapAddr.toNat ++ leBytes 4 g.trapToken.toNat ++ leBytes 4 g.fbovf.toNat
    ++ strandImage g.strands g.pending ++ row 8 (fun q => bindImage (tfind q g.qbinds))
    ++ leBytes 4 g.q9.length ++ leBytes 4 g.q9Promised ++ wordRow 16 (fun k => g.q9.getD k 0)
    ++ leBytes 4 (g.flagMask (fun f => f.late.isSome)) ++ zeroBytes 4 ++ row 12 (fun k => lateImage (g.flag k).late)
    ++ zeroBytes 16
    ++ (match g.inHandler with
        | some h => strandImage h.strands h.pending ++ row 8 (fun t => wordRow 4 (fun k => tget 0 h.s60 (4 * t + k)))
            ++ leBytes 4 h.p6.toNat
        | none => zeroBytes (144 + 128 + 4))
    ++ zeroBytes 108 ++ rangeImage g.ranges ++ row 8 (fun t => wordRow 64 (fun k => if t < n then g.sget k t else 0))
    ++ row lanes (fun l => wordRow 8 (fun k => g.eget k l))
    ++ row (8 * ceilDiv r.nregs 8) (fun k => wordRow lanes (fun l => g.vget k l))
    ++ row r.nkregs (fun k => row lanes (fun l => row 256 (fun b => [tget 0 g.k (256 * (32 * k + l) + b)])))
    ++ leBytes 4 recs.length ++ zeroBytes 12 ++ recs.flatten

/-- The image of a group (R416). -/
def State.groupImage (s : State) (g : Group) : List Byte :=
  let body := s.groupBody g
  let size := align256 (4 + body.length)
  padTo size (leBytes 4 size ++ body)

/-- Bytes of a group image, without building it. -/
def State.groupImageSize (s : State) (g : Group) : Nat :=
  let r := (s.recordOf g.launch).getD ⟨0, 0, 0, 0, 0, 0, 0, 0, 0, 0, 0, 0, [], 0, 0, []⟩
  let lanes := 4 * g.strands.length
  align256 (0xD80 + 32 * lanes + 4 * (8 * ceilDiv r.nregs 8) * lanes + 256 * r.nkregs * lanes + 16
    + ((s.pendRecords g).map List.length).foldl (· + ·) 0)

/-! ### The team image (R415) -/

/-- Groups of a team, by position. -/
def State.teamGroups (s : State) (t : Team) : List Group :=
  (List.range 64).filterMap (fun k => (tvalues s.groups).find? (fun g => g.team == t.id && g.pos == k))

/-- A stopped Prism command: its word, address, position and operands, its ring, what is left and what it holds. -/
def State.cmdImage (s : State) (o : Op) : List Byte :=
  match o.kind with
  | .prism i p =>
    let pos := match tfind o.gid s.groups with | some g => g.pos | none => 0
    padTo 256 (leBytes 8 ((encode i).getD 0 0).toNat ++ leBytes 8 o.pc.toNat ++ leBytes 4 pos ++ leBytes 4 p.row ++ leBytes 4 p.count
      ++ leBytes 4 p.steps ++ leBytes 8 p.addr ++ leBytes 8 p.stride ++ leBytes 4 p.seed.toNat ++ leBytes 4 p.ring
      ++ leBytes 4 p.size ++ leBytes 4 p.pos ++ leBytes 4 (p.total - p.moved) ++ leBytes 4 p.held.length
      ++ (p.held.map (fun h => leBytes 16 h)).flatten)
  | _ => zeroBytes 256

/-- The Prism section of a team image. -/
def State.prismImage (s : State) (t : Team) (a : Prism) : List Byte :=
  let row (k : Nat) (f : Nat → List Byte) : List Byte := ((List.range k).map f).flatten
  let groups := s.teamGroups t
  leBytes 8 a.wbase.toNat ++ leBytes 1 a.mw ++ leBytes 1 (bit a.nanblk) ++ leBytes 2 a.cmds.length ++ zeroBytes 4
    ++ row 17408 (fun b => [tget 0 a.tile b]) ++ row 512 (fun r => wordRow 128 (fun n => a.entry r n))
    ++ row groups.length (fun k =>
        let q := tget [] a.q8 (match groups[k]? with | some g => g.pos | none => 0)
        padTo 4112 (leBytes 4 q.length ++ wordRow 1024 (fun j => q.getD j 0)))
    ++ (a.cmds.map (fun id => match s.op? id with | some o => s.cmdImage o | none => zeroBytes 256)).flatten

/-- Bytes of a team image, given the array it takes along (DESIGN CHOICE, log 13). -/
def State.teamImageSize (s : State) (t : Team) (prism : Option Prism) : Nat :=
  let groups := s.teamGroups t
  let head := match prism with
    | some a => align256 (0x44810 + 4112 * groups.length + 256 * a.cmds.length)
    | none => 0x400
  head + (groups.map s.groupImageSize).foldl (· + ·) 0

/-- The image of a team that is not resident (R415). -/
def State.teamImage (s : State) (t : Team) : List Byte :=
  let groups := s.teamGroups t
  let det := match s.recordOf t.launch with | some r => r.det | none => false
  let row (k : Nat) (f : Nat → List Byte) : List Byte := ((List.range k).map f).flatten
  let bar (b : Nat) : List Byte :=
    let x := t.bar b
    leBytes 1 x.expect ++ leBytes 1 x.count ++ zeroBytes 6 ++ leBytes 8 x.part.toNat ++ leBytes 8 x.pend.toNat ++ leBytes 8 x.arrived.toNat
  let section_ := match t.prism with | some a => s.prismImage t a | none => []
  let head := leBytes 4 (s.teamImageSize t t.prism) ++ leBytes 1 groups.length ++ leBytes 1 (bit t.prism.isSome)
    ++ leBytes 1 (if det then t.turn else 0) ++ leBytes 1 0 ++ leBytes 8 t.index ++ row 16 bar ++ zeroBytes 496 ++ section_
  padTo (align256 head.length) head ++ (groups.map s.groupImage).flatten

/-! ### The context save area (R414) -/

/-- The first PA of the save area of a die: 2 GiB of its stacks (R68, R414) (DESIGN CHOICE, log 13). -/
def saveBase (die : Nat) : Nat := die * 2 ^ 38 + Config.saveArea die % 128 * 2 ^ 31

/-- The images in the save area of a die: first byte and length. -/
def State.savedIn (s : State) (die : Nat) : List (Nat × Nat) :=
  (tvalues s.teams).filterMap (fun t => if dieOf t.core = die then t.image else none)

/-- The lowest place in the save area of a die for an image of a size, none where it has no room (R414). -/
def State.savePlace (s : State) (die size : Nat) : Option Nat :=
  let taken := s.savedIn die
  (0 :: taken.map (fun e => e.1 + e.2)).filter (fun a => decide (a + size ≤ 2 ^ 31) &&
      taken.all (fun e => decide (a + size ≤ e.1) || decide (e.1 + e.2 ≤ a)))
    |>.foldl (fun b a => match b with | some c => some (min a c) | none => some a) none

/-- Bytes put into a table of bytes from an address on. -/
def tsplice (t : Table Byte) (a : Nat) (bs : List Byte) : Table Byte :=
  t.filter (fun e => decide (e.1 < a)) ++ (bs.mapIdx (fun i b => (a + i, b))).filter (fun e => e.2 != 0) ++
    t.filter (fun e => decide (a + bs.length ≤ e.1))

/-- The image of a team that is not resident as the save area holds it (R414, R415). -/
def State.saveImage (s : State) (t : Team) : State :=
  match t.preempted, t.image with
  | true, some (at', n) => { s with hbm := tsplice s.hbm (saveBase (dieOf t.core) + at') ((s.teamImage t).take n) }
  | _, _ => s

/-- The images of the teams that are not resident brought up to date in the save areas: what completes for such a team completes into its image (R154,
R413, R414). -/
def State.saveImages (s : State) : State := (tvalues s.teams).foldl State.saveImage s

end Sys2Proof.Machine
end

