-- ==== Sys2Proof/Machine/Placing.lean ====
section
/-! DEFINITION. Placement of teams (R172, R175, R179 to R182), the order of waiting launches, and who a class-0 launch pre-empts
(R274). -/

namespace Sys2Proof.Machine

open Sys2Proof

/-! ### The order of launches (R274) -/

/-- The priority class of a launch. -/
def Launch.cls (l : Launch) : Nat := l.record.prio % 4

/-- The slot of a launch's queue, where it is mapped. -/
def State.slotOf (s : State) (l : Launch) : Option Nat := (tfind l.queue s.queues).bind (fun q => q.slot)

/-- Whether a launch waits for placement: it has unplaced teams, and its queue is mapped, or gone, where it has not started
(R269, R274, R424). -/
def State.awaitsPlace (s : State) (l : Launch) : Bool :=
  decide (l.placed.length < l.teams) && (l.started || (match tfind l.queue s.queues with | some q => q.slot.isSome | none => true))

/-- The launch with the least key. -/
def leastLaunch (key : Launch → Nat × Nat × Nat) : List Launch → Option Launch
  | [] => none
  | l :: ls =>
    match leastLaunch key ls with
    | none => some l
    | some m => if tripleLt (key m) (key l) then some m else some l

/-- The order within a class: by deadline, slot and queue order in class 0, else by slots in turn after the last one placed. -/
def State.classKey (s : State) (l : Launch) : Nat × Nat × Nat :=
  let slot := (s.slotOf l).getD l.slot
  if l.cls = 0 then (l.record.deadline, slot, l.number)
  else ((slot + 63 - tget 63 s.lastSlot l.cls) % 64, l.number, 0)

/-- The launch that is placed next: the first of the lowest class that waits (R274). -/
def State.placementHead (s : State) : Option Launch :=
  let waiting := (tvalues s.launches).filter s.awaitsPlace
  [0, 1, 2, 3].findSome? (fun k => leastLaunch s.classKey (waiting.filter (fun l => l.cls == k)))

/-! ### Where a team fits (R175, R179, R180, R189) -/

/-- The extent of a level by its kind, one where it is absent. -/
def LaunchRec.extentOf (r : LaunchRec) (kind : Nat) : Nat :=
  match r.levels.find? (fun l => l.kind == kind) with | some l => l.extent | none => 1

/-- Whether a level is present. -/
def LaunchRec.hasLevel (r : LaunchRec) (kind : Nat) : Bool := r.levels.any (fun l => l.kind == kind)

/-- Teams of a launch on one package (R175). -/
def LaunchRec.teamCount (r : LaunchRec) : Nat := r.extentOf 4 * r.extentOf 5 * r.extentOf 6

/-- Teams of one cluster unit. -/
def LaunchRec.clusterUnit (r : LaunchRec) : Nat := r.extentOf 4
/-- Teams of one die unit. -/
def LaunchRec.dieUnit (r : LaunchRec) : Nat := r.extentOf 4 * r.extentOf 5

/-- The cluster units of a launch that lie on a cluster and have a team that has not retired. -/
def Launch.unitsOn (l : Launch) (cluster : Nat) : Nat :=
  let n := l.record.clusterUnit
  (l.units.filter (fun e => e.1 % 2 == 0 && e.2 == cluster &&
    (List.range n).any (fun k => !l.retired.contains (n * (e.1 / 2) + k)))).length

/-- The units of a team noted at its core. -/
def Launch.noteUnits (l : Launch) (number core : Nat) : Launch :=
  let u := if l.record.hasLevel 4 then tinsert (2 * (number / l.record.clusterUnit)) (clusterOf core) l.units else l.units
  { l with units := if l.record.hasLevel 5 then tinsert (2 * (number / l.record.dieUnit) + 1) (dieOf core) u else u }

/-- Banks a launch claims on each cluster (R180). -/
def LaunchRec.scratchBanks (r : LaunchRec) : Nat := ceilDiv r.scrbytes (2 ^ 18)

/-- Whether a launch holds a bank of a cluster. -/
def State.bankClaimed (s : State) (cluster b : Nat) : Bool :=
  (tvalues s.launches).any (fun l => match tfind cluster l.claims with
    | some (f, n) => decide (f ≤ b) && decide (b < f + n)
    | none => false)

/-- The lowest run of free SCRATCH banks (R180). -/
def State.scratchRun (s : State) (cluster k : Nat) : Option Nat :=
  (List.range 16).find? (fun b => decide (b + k ≤ 16) &&
    (List.range k).all (fun i => s.bankMode cluster (b + i) == 1 && !s.bankClaimed cluster (b + i)))

/-- The groups of a team of T that lie in a quarter (R179). -/
def quarterShare (t q : Nat) : Nat := ceilDiv (t - q) 4

/-- Whether a core has the contexts, registers, rows and banks that a team of a launch needs. -/
def State.coreRoom (s : State) (l : Launch) (core : Nat) : Bool :=
  decide (core < 192) && !(s.coreState core).outOfService &&
  (List.range 4).all (fun q =>
    s.hasContext core q (quarterShare l.record.teamSize q) && s.hasSpace core q (quarterShare l.record.teamSize q) l.record) &&
  (l.record.scrbytes == 0 || (tfind (clusterOf core) l.claims).isSome ||
    (s.scratchRun (clusterOf core) l.record.scratchBanks).isSome)

/-- Whether a cluster takes a new unit of a launch now: a core of it has room for a team, or, where each team has its own core, as many cores as the
unit has teams (R175, R181). -/
def State.takesUnit (s : State) (l : Launch) (cluster : Nat) : Bool :=
  let own (core : Nat) : Bool := !(tvalues s.teams).any (fun t => t.launch == l.id && t.core == core && !t.preempted)
  let free := ((List.range 4).map (fun k => 4 * cluster + k)).filter (fun core => s.coreRoom l core && (!l.record.cosched || own core))
  decide ((if l.record.cosched then l.record.clusterUnit else 1) ≤ free.length)

/-- The clusters that a new cluster unit may lie on beside a cluster: all, or those of its die where a die level holds the unit. -/
def LaunchRec.unitClusters (r : LaunchRec) (cluster : Nat) : List Nat :=
  (List.range 48).filter (fun c => !r.hasLevel 5 || dieOf (4 * c) == dieOf (4 * cluster))

/-- Whether a team may lie on a core by the units placed so far: where its own units lie, or where a new one may. A new cluster unit goes to a cluster
that holds as few of the launch's units as any that takes one (R175) (DEDUCED, log 93). -/
def State.unitFits (s : State) (l : Launch) (number core : Nat) : Bool :=
  (!l.record.hasLevel 4 || (match tfind (2 * (number / l.record.clusterUnit)) l.units with
    | some c => c == clusterOf core
    | none =>
      let n := l.unitsOn (clusterOf core)
      n == 0 || (l.record.unitClusters (clusterOf core)).all (fun c => decide (n ≤ l.unitsOn c) || !s.takesUnit l c))) &&
  (!l.record.hasLevel 5 || (match tfind (2 * (number / l.record.dieUnit) + 1) l.units with
    | some d => d == dieOf core
    | none => true))

/-- Whether every team of lower index is resident or retired (R189). -/
def State.lowerResident (s : State) (l : Launch) (number : Nat) : Bool :=
  (List.range number).all (fun n => l.retired.contains n ||
    (tvalues s.teams).any (fun t => t.launch == l.id && t.number == n && !t.preempted && !t.saving))

/-- Whether a team of a launch can be placed on a core. -/
def State.canPlace (s : State) (l : Launch) (number core : Nat) : Bool :=
  decide (number < l.teams) && !l.placed.contains number && s.unitFits l number core && s.coreRoom l core &&
    (!l.record.det || s.lowerResident l number)

/-! ### Placing -/

/-- The claim of a launch on a cluster, made with the first team there (R180). -/
def State.claimScratch (s : State) (launch cluster : Nat) : State :=
  match tfind launch s.launches with
  | none => s
  | some l =>
    if l.record.scrbytes = 0 ∨ (tfind cluster l.claims).isSome then s
    else match s.scratchRun cluster l.record.scratchBanks with
      | some b => s.modLaunch launch (fun l => { l with claims := tinsert cluster (b, l.record.scratchBanks) l.claims })
      | none => s

/-- The placement acquire of a launch's first group on a core (R91, R182). -/
def State.enterCore (s : State) (launch core : Nat) : State :=
  match tfind launch s.launches with
  | none => s
  | some l =>
    if l.coresRun.contains core then s
    else (s.newAcq core 2 (.placement launch)).modLaunch launch (fun l => { l with coresRun := core :: l.coresRun })

/-- A launch with one more team placed; its slot is noted once all are (R274). -/
def State.notePlaced (s : State) (l : Launch) (number core : Nat) : State :=
  let s := s.modLaunch l.id (fun l => { l.noteUnits number core with placed := number :: l.placed, started := true })
  if l.teams ≤ l.placed.length + 1 ∧ l.cls ≠ 0 then
    { s with lastSlot := tinsert l.cls ((s.slotOf l).getD l.slot) s.lastSlot }
  else s

/-- A team placed on a core with all its groups, which load the range registers `r` (R24, R172, R182). -/
def State.placeTeam (s : State) (l : Launch) (r : Table (BitVec 64)) (number core : Nat) : State :=
  let team := s.nextId
  let size := l.record.teamSize
  let index := l.record.fabpos * l.teams + number
  let s := s.claimScratch l.id (clusterOf core)
  let l' := (tfind l.id s.launches).getD l
  let s := { s with teams := tinsert team (Team.start team l.id number index core s.clock size) s.teams, nextId := s.nextId + 1 }
  let s := (List.range size).foldl (fun s pos =>
    s.startGroup l' r team pos (index * size + pos) core (pos % 4) false (BitVec.ofNat 64 l.record.entry) []) s
  (s.enterCore l.id core).notePlaced l number core

/-- All teams of a COSCHED launch placed, each on its own core, or none (R181). -/
def State.placeAll (s : State) (launch : Nat) (r : Table (BitVec 64)) : Nat → List Nat → List Nat → Option State
  | number, _, [] =>
    match tfind launch s.launches with
    | some l => if number = l.teams then some s else none
    | none => none
  | number, used, core :: cores =>
    match tfind launch s.launches with
    | none => none
    | some l =>
      if used.contains core || !s.canPlace l number core then none
      else (s.placeTeam l r number core).placeAll launch r (number + 1) (core :: used) cores

/-- The lowest core that takes a team. -/
def State.coreFor (s : State) (l : Launch) (number : Nat) (used : List Nat) : Option Nat :=
  (List.range 192).find? (fun core => !used.contains core && s.canPlace l number core)

/-- A list cut into pieces of a length, a shorter rest left out. -/
def pieces (n : Nat) (xs : List Nat) : List (List Nat) :=
  (List.range (xs.length / n)).map (fun k => (xs.drop (n * k)).take n)

/-- The cores of a cluster that take a team each, in groups that take a cluster unit each (R175, R181). -/
def State.clusterSlots (s : State) (l : Launch) (cluster : Nat) : List (List Nat) :=
  pieces l.record.clusterUnit (((List.range 4).map (fun k => 4 * cluster + k)).filter (s.coreRoom l))

/-- The cores of some dies in groups that take a cluster unit each, one of every cluster before a second of any, joined into die units where there is
a die level. -/
def State.dieSlots (s : State) (l : Launch) (dies : List Nat) : List (List Nat) :=
  let byCluster := ((List.range 48).filter (fun c => dies.contains (dieOf (4 * c)))).map (s.clusterSlots l)
  let slots := ((List.range 4).map (fun k => byCluster.filterMap (fun xs => xs[k]?))).flatten
  if l.record.hasLevel 5 then
    (List.range (slots.length / l.record.extentOf 5)).map (fun k =>
      ((slots.drop (l.record.extentOf 5 * k)).take (l.record.extentOf 5)).flatten)
  else slots

/-- Cores for the teams of a COSCHED launch, each its own, where its units have room for all of them (R175, R181). -/
def State.coresForAll (s : State) (l : Launch) : Option (List Nat) :=
  let units := if l.record.hasLevel 5 then s.dieSlots l [0] ++ s.dieSlots l [1] else s.dieSlots l [0, 1]
  let cores := units.flatten.take l.teams
  if cores.length = l.teams then some cores else none

/-- A placement that is possible: a team and a core. -/
def State.firstPlace (s : State) (l : Launch) : Option (Nat × Nat) :=
  (List.range l.teams).findSome? (fun n => if l.placed.contains n then none else (s.coreFor l n []).map (fun c => (n, c)))

/-- Whether a launch can have its next placement. -/
def State.placeable (s : State) (l : Launch) : Bool :=
  if l.record.cosched then (s.coresForAll l).isSome else (s.firstPlace l).isSome

/-! ### Who is pre-empted (R181, R274, R414) -/

/-- Whether a pre-emption or a move is in progress. -/
def State.moving (s : State) : Bool := (tvalues s.teams).any (fun t => t.saving)

/-- The array a team would take along (R299). -/
def State.claimOf (s : State) (t : Team) : Option Prism :=
  if (s.prismOf t.core).team = some t.id then some (s.prismOf t.core) else none

/-- Where in the save area of its die a team's image goes and its size, none where there is no room (R414). -/
def State.savesAt (s : State) (t : Team) : Option (Nat × Nat) :=
  let size := s.teamImageSize t (s.claimOf t)
  (s.savePlace (dieOf t.core) size).map (fun a => (a, size))

/-- Whether the save area of a team's die has room for its image (R414). -/
def State.saveRoom (s : State) (t : Team) : Bool := (s.savesAt t).isSome

/-- A team and, where its launch is COSCHED, every other team of it that a core holds: what is pre-empted together (R181). -/
def State.movesWith (s : State) (t : Team) : List Nat :=
  let all := match s.recordOf t.launch with | some r => r.cosched | none => false
  ((tvalues s.teams).filter (fun u => u.id == t.id || (all && u.launch == t.launch && !u.preempted))).map (fun u => u.id)

/-- Teams stopped for pre-emption at their next instruction boundary (R414); `stay` where a spare core takes over. -/
def State.stopTeams (s : State) (ids : List Nat) (stay : Bool) : State :=
  ids.foldl (fun s id => s.modTeam id (fun t => if t.preempted then t else { t with saving := true, stay := stay })) s

/-- The team of classes 1 to 3 that goes first: of the highest class, the most recently placed (R274). -/
def State.leastTeam (s : State) : List Team → Option Team
  | [] => none
  | t :: ts =>
    let key (t : Team) : Nat × Nat × Nat :=
      ((match tfind t.launch s.launches with | some l => l.cls | none => 0), t.placedAt, t.id)
    match s.leastTeam ts with
    | none => some t
    | some u => if tripleLt (key u) (key t) then some t else some u

/-- A class-0 launch that cannot be placed pre-empts (R274). -/
def State.preemptFor (s : State) (l : Launch) : State :=
  if l.cls ≠ 0 ∨ s.moving = true ∨ s.placeable l = true then s
  else
    let hit := (tvalues s.teams).filter (fun t => !t.preempted && s.saveRoom t &&
      (match tfind t.launch s.launches with | some m => m.cls != 0 | none => false))
    match s.leastTeam hit with
    | some t => s.stopTeams (s.movesWith t) false
    | none => s

/-- TEAM_PLACEMENT (R179, R181, R274): team `ev.c` of the launch `ev.a`, which is next in the order, is placed on core `ev.b`; a
COSCHED launch's teams all at once on the cores `ev.secs`. It waits where a load of the range registers stalls (R24). A class-0 launch with no room anywhere pre-empts. -/
def execTeamPlacement (s : State) : Out :=
  match s.placementHead with
  | none => .next s
  | some l =>
    if l.id ≠ s.ev.a then .next s
    else if l.record.cosched then
      (loadRanges l.id).on s .next (fun r s => .next ((s.placeAll l.id r 0 [] s.ev.secs).getD (s.preemptFor l))) (fun _ _ _ s => .next s)
    else if s.canPlace l s.ev.c s.ev.b then
      (loadRanges l.id).on s .next (fun r s => .next (s.placeTeam l r s.ev.c s.ev.b)) (fun _ _ _ s => .next s)
    else .next (s.preemptFor l)

/-- DEADLINE_MISS (R274, R427): TIMEB has passed the DEADLINE of the class-0 launch `ev.a`, which waits or runs; the miss is counted
and posted once. -/
def execDeadlineMiss (s : State) : Out := .next (s.checkDeadline s.ev.a)

end Sys2Proof.Machine
end

