-- ==== Sys2Proof/Machine/Tasks.lean ====
section
/-! DEFINITION. The task unit (R370 to R390): TASK, TABORT and TWAIT, dispatch, finish and commit; and the determinism token with its
drains (R396 to R400). -/

namespace Sys2Proof.Machine

open Sys2Proof

/-! ### Queue memory (R370, R371) -/

/-- The eight doublewords of a task record. -/
def TaskRec.dwords (t : TaskRec) : List Nat :=
  let arg (k : Nat) : Nat := (t.args.getD k 0).toNat
  [t.entry, arg 0 + 2 ^ 32 * arg 1, arg 2 + 2 ^ 32 * arg 3, arg 4 + 2 ^ 32 * arg 5, arg 6 + 2 ^ 32 * arg 7, t.ts,
    t.tie + 2 ^ 32 * t.parent, t.spawns + 2 ^ 8 * t.state]

/-- Doublewords written to a domain's memory from an address. -/
def domainWriteAll (r : Table (BitVec 64)) (va : Nat) : List Nat → Mem Unit
  | [] => pure ()
  | v :: vs => do
    domainWrite r (va % 2 ^ 64) 8 v
    domainWriteAll r (va + 8) vs

/-- Doublewords read from a domain's memory. -/
def domainReadAll (r : Table (BitVec 64)) (va : Nat) : Nat → Mem (List Nat)
  | 0 => pure []
  | n + 1 =>
    match translate r (va % 2 ^ 64) 8 true false false with
    | .bad cause sub => memFault cause sub 0
    | .ok l => do
      let v ← immRead l 8
      let vs ← domainReadAll r (va + 8) n
      pure (v :: vs)

/-- SPAWNS and STATE of a record, as their two bytes lie in memory (R370). -/
def TaskRec.stateBytes (t : TaskRec) : Nat := t.spawns + 256 * t.state

/-- A task record put into a slot, and its bytes into queue memory; a fault outcome there stops the domain (R371). -/
def State.putTask (s : State) (launch slot : Nat) (t : TaskRec) : State :=
  match tfind launch s.domains, tfind launch s.launches with
  | some d, some l =>
    (domainWriteAll l.ranges (d.slotVa slot) t.dwords).on s id
      (fun _ s => s.modDomain launch (fun d =>
        { d with recs := tinsert slot t d.recs, shown := tinsert slot t.stateBytes d.shown }))
      (fun _ _ _ s => s.stopDomain launch 4 3)
  | _, _ => s

/-- The slots whose SPAWNS and STATE in queue memory are not yet those of their records; a slot without a record is free, STATE 0 (R370). -/
def Domain.stale (d : Domain) : List (Nat × Nat) :=
  if d.ended then []
  else
    d.recs.filterMap (fun e => if tfind e.1 d.shown = some e.2.stateBytes then none else some (e.1, e.2.stateBytes)) ++
      d.shown.filterMap (fun e => if (tfind e.1 d.recs).isSome then none else some (e.1, 0))

/-- SPAWNS and STATE of a slot written to queue memory (R370, R371). -/
def State.showSlot (s : State) (launch : Nat) (e : Nat × Nat) : State :=
  match tfind launch s.domains, tfind launch s.launches with
  | some d, some l =>
    if d.ended then s
    else (domainWrite l.ranges ((d.slotVa e.1 + 0x38) % 2 ^ 64) 2 e.2).on s id
      (fun _ s => s.modDomain launch (fun d =>
        { d with shown := if (tfind e.1 d.recs).isSome then tinsert e.1 e.2 d.shown else terase e.1 d.shown }))
      (fun _ _ _ s => s.stopDomain launch 4 3)
  | _, _ => s

/-- The task unit writes SPAWNS and STATE of the records that have changed (R370) (DESIGN CHOICE, log 58). -/
def State.showTasks (s : State) : State :=
  s.domains.foldl (fun s d => d.2.stale.foldl (fun s e => s.showSlot d.1 e) s) s

/-! ### TASK, TABORT and TWAIT (R387 to R390) -/

/-- The domain and the record of the task that issues. -/
def State.taskCtx (s : State) (c : Ctx) : Option (Domain × Nat × TaskRec) :=
  match c.g.task, tfind c.g.launch s.domains with
  | some k, some d => (tfind k d.recs).map (fun r => (d, k, r))
  | _, _ => none

/-- The status of a TASK that takes no slot, or none (R388). -/
def taskStatus (x : TaskRec) (ts : Nat) : Option Nat :=
  if ts < x.ts then some 1
  else if x.spawns = 63 then some 2
  else if 64 * x.tie + 64 ≥ 2 ^ 32 then some 3
  else none

/-- Slots a task may see held and still take one (R385). -/
def Domain.slotLimit (d : Domain) (slot : Nat) : Nat := if d.isFrontier slot then d.qcap else d.qcap - d.qcap / 8

/-- The lowest free slot. -/
def Domain.freeSlot (d : Domain) : Nat := ((List.range (d.recs.length + 1)).find? (fun k => (tfind k d.recs).isNone)).getD 0

/-- Whether a slot of a running domain has not been filled: its home slice stalls. -/
def State.unfilled (s : State) (launch slot : Nat) : Bool :=
  match tfind launch s.domains with | some d => !d.ended && (tfind slot d.recs).isNone | none => false

/-- Tasks parked at a TASK go on once a slot has freed within their bound (R385). -/
def State.wakeSlots (s : State) : State :=
  ((tvalues s.groups).filter (fun g => match g.deferred with | some (_, .slot) => true | _ => false)).foldl (fun s g =>
    match g.task, tfind g.launch s.domains with
    | some k, some d =>
      if d.recs.length < d.slotLimit k then
        (s.modGroup g.gid (fun g => { g with deferred := none })).modTask g.launch k (fun r => { r with state := 2 })
      else s
    | _, _ => s) s

/-- TASK (R388): with no room for it, the frontier task stops the domain and any other task parks and tries again (R385). -/
def execTask (x : ENG) (s : State) : Out :=
  issue (.task x) s (fun c s =>
    let entry := c.pair x.c
    let ts := c.pair x.a
    let done (status id : Nat) (s : State) : Out :=
      let o := c.op (.task x) .fixed [] [] s
      .next (c.start (.task x) { o with performed := true, results := pairResult c x.a status id } s)
    if entry % 8 ≠ 0 then raiseHere c causeAlign 0 entry s
    else match s.taskCtx c with
      | none => .next s
      | some (d, k, r) =>
        match taskStatus r ts with
        | some status => done status 0xFFFFFFFF s
        | none =>
          if d.slotLimit k ≤ d.recs.length then
            if d.isFrontier k then .next (s.stopDomain c.g.launch 2 1)
            else .next (s.deferTask c.g c.lowest .slot)
          else
            let slot := d.freeSlot
            let s0 := c.block s
            let s := s.modTask c.g.launch k (fun r => { r with spawns := r.spawns + 1 })
            let t : TaskRec := ⟨entry, argWords c x.b, ts, 64 * r.tie + r.spawns + 1, k, 0, 1, none, none, none, false⟩
            let s := s.putTask c.g.launch slot t
            if s.unfilled c.g.launch slot then .next s0
            else if (match tfind c.g.launch s.domains with | some d => d.ended | none => true) then .next s
            else done 0 slot s)

/-- TABORT.RETRY (R389): the task is aborted and requeued; before the frontier has moved it is dispatched again only as the frontier
task. -/
def execTabortRetry (s : State) : Out :=
  issue .tabortRetry s (fun c s =>
    match s.taskCtx c with
    | none => .next s
    | some (d, k, _) =>
      .next ((s.abortTasks c.g.launch [k]).modTask c.g.launch k (fun r => { r with retryAt := some d.frontier })))

/-- TABORT.DROP (R389): the task's versions, marks and descendants are discarded and it is finished. -/
def execTabortDrop (s : State) : Out :=
  issue .tabortDrop s (fun c s =>
    match s.taskCtx c with
    | none => .next s
    | some (_, k, _) =>
      .next ((s.abortTasks c.g.launch [k]).modTask c.g.launch k (fun r => { r with state := 4 })))

/-- TWAIT (R390). -/
def execTwait (x : ENG) (s : State) : Out :=
  issue (.twait x) s (fun c s =>
    match s.taskCtx c with
    | none => .next s
    | some (d, k, _) => if d.frontier > c.pair x.a ∨ d.isFrontier k = true then finish c (.twait x) id s else .next (c.block s))

/-! ### Dispatch and finish (R373, R374) -/

/-- Whether a group is a worker without a task. -/
def State.freeWorker? (s : State) (launch : Nat) (g : Group) : Bool :=
  g.launch == launch && g.task.isNone && s.groupRuns g && !s.ops.any (fun o => o.gid == g.gid)

/-- Whether a task may be dispatched: it is queued, within the window, and not held back by its retry (R374, R389). -/
def Domain.dispatchable (d : Domain) (slot : Nat) (r : TaskRec) : Bool :=
  r.state == 1 && !d.ended && decide (r.ts ≤ min (d.frontier + d.specwin) (2 ^ 64 - 1)) &&
    (d.isFrontier slot || r.retryAt != some d.frontier) &&
    (d.isFrontier slot || !(match d.frontierTask with | some (_, f) => f.state == 1 | none => false))

/-- The latest task that holds a worker, and the worker. -/
def Domain.latestWorker (d : Domain) : Option (Nat × Nat) :=
  match latest (d.recs.filter (fun e => e.2.gid.isSome && !d.isFrontier e.1)) with
  | some (k, r) => r.gid.map (fun g => (k, g))
  | none => none

/-- A worker started on a task, in the state a spawned group starts in (R373). -/
def Group.startTask (g : Group) (l : Launch) (ranges : Table (BitVec 64)) (core slot : Nat) (r : TaskRec) : Group :=
  let p : Placement := ⟨g.gid, g.launch, g.team, g.pos, g.index.toNat, g.quarter, g.ctx, g.spawned, l.record.nstrands,
    BitVec.ofNat 64 r.entry, r.args, l.scratchBase (clusterOf core), ranges, BitVec.ofNat 64 l.record.rheap, g.handler, g.hdata, g.since⟩
  { Group.start p with active := g.active, task := some slot }

/-- A task given to a worker once its record in queue memory is found as it was written; another content is a write that the spec
leaves undefined (R371). -/
def State.giveTask (s : State) (launch slot gid : Nat) : Out :=
  match tfind launch s.domains, tfind launch s.launches, tfind gid s.groups with
  | some d, some l, some g =>
    match tfind slot d.recs with
    | none => .next s
    | some r =>
      (domainReadAll l.ranges (d.slotVa slot) 7).on s .next
        (fun ws s =>
          if ws.take 6 ≠ r.dwords.take 6 ∨ ws.getD 6 0 % 2 ^ 32 ≠ r.tie then .fault .taskQueueWritten
          else
            let core := s.teamCore g.team
            (loadRanges launch).on s .next
              (fun ranges s =>
                .next (((s.modGroup gid (fun g => g.startTask l ranges core slot r)).clearQ8 g.team g.pos).modTask launch slot (fun r =>
                  { r with state := 2, gid := some gid, spawns := 0, retryAt := none })))
              (fun _ _ _ s => .next s))
        (fun _ _ _ s => .next (s.stopDomain launch 4 3))
  | _, _, _ => .next s

/-- TASK_DISPATCH (R374): the task in slot `ev.b` of the domain of launch `ev.a` goes to the free worker `ev.c`; a frontier task that
finds none takes the worker of the latest task, which is aborted. -/
def execTaskDispatch (s : State) : Out :=
  match tfind s.ev.a s.domains with
  | none => .next s
  | some d =>
    match tfind s.ev.b d.recs with
    | none => .next s
    | some r =>
      if !d.dispatchable s.ev.b r then .next s
      else
        let idle := (tvalues s.groups).filter (s.freeWorker? s.ev.a)
        if idle.any (fun g => g.gid == s.ev.c) then s.giveTask s.ev.a s.ev.b s.ev.c
        else if d.isFrontier s.ev.b && idle == [] then
          match d.latestWorker with
          | none => .next s
          | some (k, gid) =>
            let s := s.abortTasks s.ev.a [k]
            if (match tfind gid s.groups with | some g => s.freeWorker? s.ev.a g | none => false) then s.giveTask s.ev.a s.ev.b gid
            else .next s
        else .next s

/-- TASK_FINISH (R373): the last strand of worker `ev.a` has exited and every access of its task has completed; the task holds no
worker. -/
def execTaskFinish (s : State) : Out :=
  match tfind s.ev.a s.groups with
  | none => .next s
  | some g =>
    match g.task with
    | none => .next s
    | some k =>
      if g.live ≠ [] ∨ g.deferred.isSome = true ∨ s.ops.any (fun o => o.gid == g.gid) = true then .next s
      else .next ((s.modGroup g.gid Group.idle).modTask g.launch k (fun r => { r with state := 4, gid := none }))

/-! ### The frontier (R384) -/

/-- Whether a trap is a deferred NOTPRESENT. -/
def LateTrap.absent (t : LateTrap) : Bool :=
  (t.cause == causeXlate && t.sub == 1) || (t.cause == causeEngine && t.sub == 0x41)

/-- A deferred NOTPRESENT that finds the wait table full: WAITFULL, as R34 answers it (R35). -/
def LateTrap.full (t : LateTrap) : LateTrap := { t with sub := if t.cause = causeEngine then 0x45 else 5 }

/-- Late traps that a group has not been given: on its flags, without a flag, and on its instructions in flight. -/
def State.undelivered (s : State) (g : Group) : List LateTrap :=
  (List.range 12).filterMap (fun n => (g.flag n).late) ++ g.late.map (fun e => e.2) ++
    (s.ops.filter (fun o => o.gid == g.gid)).filterMap (fun o => match o.lateTrap with
      | some t => some t
      | none => o.reqs.findSome? (fun r => match r.state with
        | .failed cause sub ipa => some (faultTrap o.kind cause sub r.va ipa)
        | _ => none))

/-- A late trap taken out of where a group holds it. -/
def Group.dropLate (g : Group) (t : LateTrap) : Group :=
  match (List.range 12).find? (fun n => (g.flag n).late == some t) with
  | some n => g.modFlag n (fun f => { f with late := none })
  | none => { g with late := match g.late.find? (fun e => e.2 == t) with | some e => g.late.erase e | none => g.late }

/-- A deferred NOTPRESENT of a group turned into WAITFULL, wherever it is held (R34, R384). -/
def State.fillLate (s : State) (g : Group) (t : LateTrap) : State :=
  let upd (u : LateTrap) : LateTrap := if u = t then u.full else u
  let inReq (o : Op) (r : Req) : Req := match r.state with
    | .failed cause sub ipa => if faultTrap o.kind cause sub r.va ipa = t then { r with state := .failed cause 5 ipa } else r
    | _ => r
  { s.modGroup g.gid (fun g => { g with
      flags := g.flags.map (fun e => (e.1, { e.2 with late := e.2.late.map upd }))
      late := g.late.map (fun e => (e.1, upd e.2)) }) with
    ops := s.ops.map (fun o =>
      if o.gid = g.gid then { o with lateTrap := o.lateTrap.map upd, reqs := o.reqs.map (inReq o) } else o) }

/-- The deferred event of a task that has become the frontier task settled (R384). -/
def State.settleFrontier (s : State) (launch : Nat) : State :=
  match tfind launch s.domains with
  | none => s
  | some d =>
    match d.frontierTask with
    | none => s
    | some (k, r) =>
      match r.gid.bind (fun g => tfind g s.groups) with
      | none => s
      | some g =>
        let run (s : State) : State := (s.modGroup g.gid (fun g => { g with deferred := none })).modTask launch k (fun r => { r with state := 2 })
        let trap (low : Nat) (t : LateTrap) (s : State) : State :=
          ((run s).modGroup g.gid (fun g => g.dropLate t)).takeTrap g.gid low (g.strand low).pc t.cause t.sub t.addr t.ipaAddr
        match g.deferred with
        | some (_, .issue) | some (_, .slot) => run s
        | some (low, .late t) =>
          if t.absent then
            (s.taskNotPresent launch k t.page).getD (trap low t.full s)
          else trap low t s
        | none =>
          match (s.undelivered g).find? LateTrap.absent with
          | some t => (s.taskNotPresent launch k t.page).getD (s.fillLate g t)
          | none => s

/-! ### Commit (R40, R379) -/

/-- The location of a version. -/
def Version.loc (v : Version) : Loc := ⟨v.home, 16 * v.sector, v.md⟩

/-- Versions of a task. -/
def State.taskVersions (s : State) (launch slot : Nat) : List Version := s.versions.filter (fun v => isSpec launch slot v.kind)

/-- The versions listed confirmed writable, and their lines readable (R40). -/
def confirmAll : List Version → Mem Unit
  | [] => pure ()
  | v :: vs => do
    confirm v.loc true
    let _ ← committed v.loc
    confirmAll vs

/-- One version of the committing task merged; marks that name it name COMMITTED from then on (R64, R65, R379). A version whose line has left
L2 and whose page is absent now waits for the page, and stays (DEDUCED, log 92). -/
def State.mergeVersion (s : State) (launch slot : Nat) (v : Version) : State :=
  (commitAt v.loc v.mask v.data (some (launch, slot))).on s id
    (fun _ s =>
      let s := s.dropVersion v.kind v.home v.sector
      { s with marks := s.marks.map (fun (m : Mark) =>
          if m.launch = launch ∧ m.home = v.home ∧ m.sector = v.sector ∧ m.from_.contains slot = true then
            { m with from_ := m.from_.filter (· != slot), committed := true }
          else m) })
    (fun cause sub ipa t => if cause = causeXlate ∧ sub = 1 then ((s.enterWait ipa 5 []).map (fun e => e.2)).getD s else t)

/-- A committed task's record freed, its children confirmed, and the frontier moved on; the domain drains when none is left
(R379, R385, R386). -/
def State.retireTask (s : State) (launch slot : Nat) (r : TaskRec) : State :=
  let s := s.modDomain launch (fun d =>
    let recs := (terase slot d.recs).map (fun (e : Nat × TaskRec) =>
      if e.2.parent = slot ∧ e.2.confirmed = false then (e.1, { e.2 with confirmed := true }) else e)
    let d := { d with recs := recs, committing := none, commits := d.commits + 1, lastts := r.ts }
    { d with frontier := match d.frontierTask with | some (_, f) => f.ts | none => d.frontier })
  match tfind launch s.domains with
  | none => s
  | some d => if d.recs = [] then s.endDomain launch 1 else s.settleFrontier launch

/-- The versions of a committing task merged, those of the sectors listed in `ev.secs`, all where none are listed; once every slice has merged its
record is freed. -/
def State.mergeTask (s : State) (launch slot : Nat) (r : TaskRec) : State :=
  let vs := (s.taskVersions launch slot).filter (fun v => s.ev.secs == [] || s.ev.secs.contains (secKey v.home v.sector))
  let s : State := vs.foldl (fun s v => s.mergeVersion launch slot v) s
  if s.taskVersions launch slot = [] then s.retireTask launch slot r else s

/-- TASK_COMMIT (R40, R379): the finished frontier task of launch `ev.a` commits. Its versions are confirmed again, all of them before the first is
merged; a fault outcome then aborts the task, which for NOTPRESENT waits for the page. From there on the task commits whole (DEDUCED, log 92). -/
def execTaskCommit (s : State) : Out :=
  let launch := s.ev.a
  match tfind launch s.domains with
  | none => .next s
  | some d =>
    match d.frontierTask with
    | none => .next s
    | some (k, r) =>
      if r.state ≠ 4 ∨ d.ended = true then .next s
      else if d.committing = some k then .next (s.mergeTask launch k r)
      else
        (confirmAll (s.taskVersions launch k)).on s .next
          (fun _ s =>
            let s := { s with marks := s.marks.filter (fun m => !(m.launch == launch && m.slot == k)) }.modDomain launch
              (fun d => { d with committing := some k })
            .next (s.mergeTask launch k r))
          (fun cause sub ipa s =>
            .next (if cause = causeXlate ∧ sub = 1 then (s.taskNotPresent launch k ipa).getD (s.abortTasks launch [k])
              else s.abortTasks launch [k]))

/-! ### The determinism token (R396 to R400) -/

/-- A buffered request that has drained leaves its slice, and its block with the last of its sector (R398, R400). -/
def State.dropOrdered (s : State) (q : OrderedReq) : State :=
  let s := { s with ordered := s.ordered.filter (· != q) }
  if s.ordered.any (fun p => p.launch == q.launch && p.index == q.index && p.home == q.home && p.sector == q.sector) then s
  else
    let k : VKind := .ordered q.launch q.index
    let inOverflow := match s.version? k q.home q.sector with | some v => v.place == .overflow | none => false
    let s := s.dropVersion k q.home q.sector
    if inOverflow && !s.hasBlock q.home (q.sector / 8) k then
      s.modLaunch q.launch (fun l => { l with ovfUsed := l.ovfUsed - 1 })
    else s

/-- One buffered request drained: applied to COMMITTED as one operation (R398); where its slice stalls it stays. -/
def State.drainOne (s : State) (q : OrderedReq) : State :=
  let s' := s.dropOrdered q
  match s'.op? q.op with
  | none => s'
  | some o =>
    match o.kind, o.reqs[q.req]? with
    | .atomic op dst, some r => s'.atHome o q.req r s (atomPerform o op dst r)
    | _, _ => s'

/-- Buffered requests drained in their order; one that stalls holds back the later ones of its sector (R398). -/
def State.drainAll (s : State) : List Nat → List OrderedReq → State
  | _, [] => s
  | stalled, q :: qs =>
    let sec := secKey q.home q.sector
    if stalled.contains sec then s.drainAll stalled qs
    else
      let t := s.drainOne q
      t.drainAll (if t.ordered.contains q then sec :: stalled else stalled) qs

/-- The first group of a launch on this package, by logical index. -/
def Launch.baseGroup (l : Launch) : Nat := l.record.fabpos * l.teams * l.record.teamSize

/-- Whether the group that holds the token may pass it: it has exited, its requests have drained, and its instructions have completed
(R397). -/
def State.mayPass (s : State) (l : Launch) (k : Nat) : Bool :=
  match (tvalues s.groups).find? (fun g => g.launch == l.id && g.index.toNat == k) with
  | some g => g.retiring && !s.ops.any (fun o => o.gid == g.gid)
  | none => l.placed.contains (k / l.record.teamSize - l.record.fabpos * l.teams) && decide (k < l.baseGroup + l.teams * l.record.teamSize)

/-- TOKEN_PASS (R397, R398): the holder's buffered requests drain, those of the sectors listed in `ev.secs`, all where none are listed; a
holder that has ended passes the token to the next group. With `ev.on` the token arrives from the package before (R397) (DESIGN CHOICE, log 16) (DESIGN CHOICE, log 45). -/
def execTokenPass (s : State) : Out :=
  match tfind s.ev.a s.launches with
  | none => .next s
  | some l =>
    if !l.record.det then .next s
    else match l.token with
      | none =>
        if s.ev.on && l.record.fabpos != 0 then .next (s.modLaunch l.id (fun l => { l with token := some l.baseGroup })) else .next s
      | some k =>
        match s.ordered.filter (fun q => q.launch == l.id && q.index == k) with
        | [] => if s.mayPass l k then .next (s.modLaunch l.id (fun l => { l with token := some (k + 1) })) else .next s
        | qs =>
          let qs := qs.filter (fun q => s.ev.secs == [] || s.ev.secs.contains (secKey q.home q.sector))
          .next (s.drainAll [] qs)

end Sys2Proof.Machine
end

