-- ==== Sys2Proof/Machine/Packets.lean ====
section
/-! DEFINITION. User queues and their packets (R267 to R273, R424), and the acceptance of launches and task domains (R173 to R181, R369). -/

namespace Sys2Proof.Machine

open Sys2Proof

/-! ### Reading as Apex reads (R103, R268) -/

/-- Bytes of uncompressed memory in units of 16, the lowest lowest. -/
def readUnits (ipa : Nat) : Nat → Mem Nat
  | 0 => pure 0
  | n + 1 => do
    let v ← immRead (plainLoc ipa) 16
    let r ← readUnits (ipa + 16) n
    pure (v + 2 ^ 128 * r)

/-- Doublewords of uncompressed memory, the lowest lowest. -/
def readDwords (ipa : Nat) : Nat → Mem Nat
  | 0 => pure 0
  | n + 1 => do
    let v ← immRead (plainLoc ipa) 8
    let r ← readDwords (ipa + 8) n
    pure (v + 2 ^ 64 * r)

/-- Doublewords written through a range-register set. -/
def vaWriteAll (r : Table (BitVec 64)) (va v : Nat) : Nat → Mem Unit
  | 0 => pure ()
  | n + 1 => do
    let l ← viaRanges r (va % 2 ^ 64) 8 true
    immWrite l 8 (v % 2 ^ 64)
    vaWriteAll r (va + 8) (v / 2 ^ 64) n

/-! ### Packets (R270) -/

/-- The fields of a packet. -/
structure Packet where
  type : Nat
  flags : Nat
  rsvd : Nat
  arg : Nat
  addr : Nat
  val : Nat
  aux : Nat
  deriving DecidableEq, Repr

/-- A packet from its 32 bytes. -/
def packetOf (v : Nat) : Packet :=
  ⟨bitsOf v 0 8, bitsOf v 8 8, bitsOf v 16 16, bitsOf v 32 32, bitsOf v 64 64, bitsOf v 128 64, bitsOf v 192 64⟩

/-- The IPA of a byte count of a queue's ring. -/
def UQueue.at (q : UQueue) (count : Nat) : Nat := q.ring / 4096 * 4096 + count % 2 ^ q.ringLog

/-- The packet at a byte count. -/
def readPacket (q : UQueue) (count : Nat) : Mem Packet := do
  let v ← readUnits (q.at (count / 32 * 32)) 2
  pure (packetOf v)

/-- Whether a field that its type does not use, or a reserved one, is not zero (R270). -/
def Packet.unused (p : Packet) : Bool :=
  let flags (m : Nat) : Bool := p.flags / 2 ^ m != 0
  p.rsvd != 0 || (match p.type with
    | 0x01 => flags 1 || p.arg != 0 || p.val != 0 || p.aux != 0
    | 0x02 => flags 1 || p.arg != 0 || p.val != 0
    | 0x03 => flags 0 || p.arg != 0 || p.aux != 0
    | 0x04 => flags 3 || p.arg != 0 || p.aux != 0
    | 0x05 => flags 0 || p.arg != 0
    | 0x06 => flags 0 || p.addr != 0 || p.val != 0 || p.aux != 0
    | 0x08 => flags 0
    | _ => flags 0 || p.arg != 0 || p.addr != 0 || p.val != 0 || p.aux != 0)

/-- Whether a field holds a value its type does not allow (R271, code 0x21). -/
def Packet.badValue (p : Packet) : Bool :=
  match p.type with
  | 0x04 => p.flags % 4 == 0 || p.flags % 4 == 3
  | 0x06 => p.arg == 0
  | 0x08 => decide (3 < p.arg) || decide (255 < p.aux)
  | _ => false

/-- Whether an address or a length is misaligned (R271, code 0x22). -/
def Packet.misaligned (p : Packet) : Bool :=
  match p.type with
  | 0x01 => p.addr % 256 != 0
  | 0x02 => p.addr % 256 != 0 || p.aux % 8 != 0
  | 0x03 | 0x04 | 0x08 => p.addr % 8 != 0
  | 0x05 => p.addr % 8 != 0 || p.aux % 8 != 0 || p.val % 16 != 0
  | _ => false

/-- The halt code of a packet as it stands, or none (R271) (DEDUCED, log 55). -/
def Packet.bad (p : Packet) (q : UQueue) : Option Nat :=
  if p.unused || p.badValue then some 0x21
  else if p.misaligned then some 0x22
  else if p.type = 0x06 ∧ 4 ≤ q.loops.length ∨ p.type = 0x07 ∧ q.loops = [] then some 0x23
  else none

/-! ### Queues (R267, R269, R271) -/

/-- The update of a queue. -/
def State.modQueue (s : State) (id : Nat) (f : UQueue → UQueue) : State := { s with queues := tmodify id f s.queues }

/-- A queue halted: HALTED, FAULTPTR and FAULTCODE written, and the event posted (R271, R427). -/
def State.haltQueue (s : State) (id code : Nat) : State :=
  match tfind id s.queues with
  | none => s
  | some q =>
    let flags := bit q.priv + 2 * bit q.pinned + 4
    let s := ((s.putDesc q.ipa 0x09 1 flags).putDesc q.ipa 0x28 8 q.cursor).putDesc q.ipa 0x30 4 code
    (s.modQueue id (fun q => { q with halted := true, waiting := false })).postEvent (eventRecord 0x01 0xFF 0xFFFF code q.ipa 0 0 0)

/-- Whether Apex reads packets of a queue: it is mapped, not halted, and holds one. -/
def UQueue.reads (q : UQueue) : Bool := q.slot.isSome && !q.halted && decide (q.cursor < q.wr)

/-- The next packet looked at: an unreadable one, or one of no type, halts the queue (R271). -/
def State.lookAhead (s : State) (id : Nat) : State :=
  match tfind id s.queues with
  | none => s
  | some q =>
    if !q.reads then s
    else (readPacket q q.cursor).on s (fun s => s) (fun p s => if p.type > 9 then s.haltQueue id 0x20 else s)
      (fun _ _ _ s => s.haltQueue id 0x24)

/-- A queue goes on at a byte count; RDPTR stays at the outermost running LOOP (R270). -/
def State.goOn (s : State) (id : Nat) (q : UQueue) (cursor : Nat) (loops : List (Nat × Nat)) : State :=
  let s := s.modQueue id (fun q => { q with cursor := cursor, loops := loops, waiting := false, rd := if loops = [] then cursor else q.rd })
  let s := if loops = [] then s.putDesc q.ipa 0x18 8 cursor else s
  s.lookAhead id

/-- A queue mapped to a slot (R269). -/
def State.mapQueue (s : State) (id slot : Nat) : State :=
  (s.modQueue id (fun q => { q with slot := some slot, sliceFrom := s.timeb })).lookAhead id

/-- The free slot that a queue takes: the lowest, where the spec names none (DESIGN CHOICE, log 100). -/
def State.freeSlot (s : State) : Option Nat :=
  (List.range 64).find? (fun n => !(tvalues s.queues).any (fun q => q.slot == some n))

/-- Whether a queue wants a slot: it holds packets that Apex may read, or has a launch that waits to be placed (R269, R274)
(DEDUCED, log 59). -/
def State.wantsSlot (s : State) (q : UQueue) : Bool :=
  (!q.halted && decide (q.rd < q.wr)) ||
    q.launches.any (fun l => match tfind l s.launches with | some l => !l.started | none => false)

/-- Waiting queues mapped in doorbell order while slots are free (R269). -/
def State.mapWaiting (s : State) : Nat → State
  | 0 => s
  | n + 1 =>
    match s.doors, s.freeSlot with
    | id :: rest, some slot => ({ s with doors := rest }.mapQueue id slot).mapWaiting n
    | _, _ => s

/-- A queue that waits for a slot, unless it has one or waits already. -/
def State.waitSlot (s : State) (id : Nat) : State :=
  match tfind id s.queues with
  | some q =>
    if q.slot.isSome || s.doors.contains id || !s.wantsSlot q then s
    else { s with doors := s.doors ++ [id] }.mapWaiting 64
  | none => s

/-! ### The doorbell (R268, R271) -/

/-- The queue of a descriptor. -/
def State.queueAt (s : State) (ipa : Nat) : Option (Nat × UQueue) := s.queues.find? (fun e => e.2.ipa == ipa)

/-- Apex looks at a doorbell: it reads WRPTR, resumes a halted queue whose HALTED system software has cleared, and reads the next packet; a
descriptor that cannot be read has no effect, and one whose slice stalls is looked at later (DEDUCED, log 54). -/
def State.doorbell (s : State) (ipa : Nat) : State :=
  match s.queueAt ipa with
  | none => s
  | some (id, q) =>
    (readUnits q.ipa 4).on s (fun s => s.ringDoorbell ipa) (fun v s =>
        let wr := bitsOf v (8 * 0x20) 64
        let rd := bitsOf v (8 * 0x18) 64
        let cleared := q.halted && bitsOf v (8 * 0x09 + 2) 1 == 0
        let s := s.modQueue id (fun q =>
          if cleared then { q with wr := wr, rd := rd, cursor := rd, loops := [], halted := false, waiting := false } else { q with wr := wr })
        (s.lookAhead id).waitSlot id)
      (fun _ _ _ s => s)

/-- QDOOR (R268, R271, R436): the host writes `ev.val` to the doorbell; with `ev.on` Apex looks at the oldest doorbell rung. One rung before
full service waits for it. -/
def execQdoor (s : State) : Out :=
  if s.ev.on then
    match s.rung with
    | ipa :: rest => if s.boot.phase ≠ 4 then .next s else .next ({ s with rung := rest }.doorbell ipa)
    | [] => .next s
  else if s.boot.phase ≠ 4 then .next (s.ringDoorbell s.ev.val.toNat)
  else .next (s.doorbell s.ev.val.toNat)

/-! ### Packets of a queue -/

/-- A packet of a type at the head of queue `ev.a`, once its fields are sound (DESIGN CHOICE, log 15); one of no type halts the queue
(R271). -/
def packetEvent (type : Nat) (s : State) (body : Nat → UQueue → Packet → State → State) : Out :=
  let id := s.ev.a
  match tfind id s.queues with
  | none => .next s
  | some q =>
    if !q.reads || s.boot.phase != 4 then .next s
    else (readPacket q q.cursor).on s .next
      (fun p s =>
        if p.type > 9 then .next (s.haltQueue id 0x20)
        else if p.type ≠ type then .next s
        else match p.bad q with
          | some code => .next (s.haltQueue id code)
          | none => .next (body id q p s))
      (fun _ _ _ s => .next (s.haltQueue id 0x24))

/-- The next packet after one. -/
def State.nextPacket (s : State) (id : Nat) (q : UQueue) : State := s.goOn id q (q.cursor + 32) q.loops

/-- The queue waits at its packet. -/
def State.holdPacket (s : State) (id : Nat) : State := s.modQueue id (fun q => { q with waiting := true })

/-- An action through a queue's range-register set; a fault outcome halts the queue (R271) (DEDUCED, log 51). -/
def viaQueue {α : Type} (id : Nat) (q : UQueue) (m : Table (BitVec 64) → Mem α) (s : State) (k : α → State → State) : State :=
  (readDwords q.qrange 48 >>= fun v => m (rangeSet v)).on s (fun s => s) k (fun _ _ _ s => s.haltQueue id 0x24)

/-- Whether every earlier launch of a queue has completed. -/
def State.earlierDone (s : State) (q : UQueue) : Bool := q.launches.all (fun l => (tfind l s.launches).isNone)

/-- NOP (R270). -/
def execNopPacket (s : State) : Out := packetEvent 0x00 s (fun id q _ s => s.nextPacket id q)

/-- The word of a WAIT read: the queue goes on where it has reached the value. -/
def State.waitWord (s : State) (id : Nat) (q : UQueue) (p : Packet) : State :=
  viaQueue id q (fun r => vaRead r p.addr 8) s (fun v s => if p.val ≤ v then s.nextPacket id q else s.holdPacket id)

/-- WAIT (R270). -/
def execWaitPacket (s : State) : Out := packetEvent 0x03 s (fun id q p s => if q.waiting then s else s.waitWord id q p)

/-- WAIT_RECHECK (R270): a WAIT that waits reads its word again. -/
def execWaitRecheck (s : State) : Out := packetEvent 0x03 s (fun id q p s => if q.waiting then s.waitWord id q p else s)

/-- The write of a SIGNAL, or its addition (R270). -/
def signalWord (r : Table (BitVec 64)) (p : Packet) : Mem Unit := do
  let l ← viaRanges r p.addr 8 true
  if p.flags / 4 % 2 = 1 then
    let v ← immRead l 8
    immWrite l 8 ((v + p.val) % 2 ^ 64)
  else immWrite l 8 p.val

/-- SIGNAL (R270). -/
def execSignalPacket (s : State) : Out :=
  packetEvent 0x04 s (fun id q p s =>
    if s.earlierDone q then viaQueue id q (fun r => signalWord r p) s (fun _ s => s.nextPacket id q) else s.holdPacket id)

/-- COPY (R270): its bytes are read, then written. -/
def execCopyPacket (s : State) : Out :=
  packetEvent 0x05 s (fun id q p s =>
    if s.earlierDone q then
      viaQueue id q (fun r => vaReadAll r p.addr (p.val / 8) >>= fun v => vaWriteAll r p.aux v (p.val / 8)) s (fun _ s => s.nextPacket id q)
    else s.holdPacket id)

/-- LOOP (R270). -/
def execLoopPacket (s : State) : Out :=
  packetEvent 0x06 s (fun id q p s => s.goOn id q (q.cursor + 32) ((q.cursor, p.arg) :: q.loops))

/-- ENDLOOP (R270). -/
def execEndLoopPacket (s : State) : Out :=
  packetEvent 0x07 s (fun id q _ s =>
    match q.loops with
    | [] => s
    | (start, left) :: rest =>
      if left > 1 then s.goOn id q (start + 32) ((start, left - 1) :: rest) else s.goOn id q (q.cursor + 32) rest)

/-- The condition of an IF (R270). -/
def Packet.holds (p : Packet) (v : Nat) : Bool :=
  match p.arg with
  | 0 => v == p.val
  | 1 => v != p.val
  | 2 => decide (p.val ≤ v)
  | _ => decide (v < p.val)

/-- How many LOOPs are open after the packets that an IF skips; none where one of them closes a LOOP it does not hold (R271) (DEDUCED, log 56). -/
def skipDepth (q : UQueue) (count : Nat) : Nat → Nat → Mem (Option Nat)
  | 0, depth => pure (some depth)
  | n + 1, depth => do
    let p ← readPacket q count
    if p.type = 0x06 then skipDepth q (count + 32) n (depth + 1)
    else if p.type = 0x07 then (if depth = 0 then pure none else skipDepth q (count + 32) n (depth - 1))
    else skipDepth q (count + 32) n depth

/-- The packets an IF skips, once all of them are there (R270). -/
def State.skipPackets (s : State) (id : Nat) (q : UQueue) (p : Packet) : State :=
  if q.wr < q.cursor + 32 * (p.aux + 1) then s.holdPacket id
  else (skipDepth q (q.cursor + 32) p.aux 0).on s (fun s => s)
    (fun d s => if d = some 0 then s.goOn id q (q.cursor + 32 * (p.aux + 1)) q.loops else s.haltQueue id 0x23)
    (fun _ _ _ s => s.haltQueue id 0x24)

/-- IF (R270): the word is read once; a failed condition waits for the packets it skips. -/
def execIfPacket (s : State) : Out :=
  packetEvent 0x08 s (fun id q p s =>
    if q.waiting then s.skipPackets id q p
    else viaQueue id q (fun r => vaRead r p.addr 8) s (fun v s => if p.holds v then s.nextPacket id q else s.skipPackets id q p))

/-- ORDER (R270). -/
def execOrderPacket (s : State) : Out :=
  packetEvent 0x09 s (fun id q _ s => if s.earlierDone q then s.nextPacket id q else s.holdPacket id)

/-! ### Launches (R173 to R181) -/

/-- A level-table entry from its word (R173). -/
def levelOf (w : Nat) : Level := ⟨bitsOf w 16 16, bitsOf w 12 4, bitsOf w 10 2⟩

/-- The eight entries of a record. -/
def recordLevels (v : Nat) : List Nat := (List.range 8).map (fun n => bitsOf v (8 * (0x38 + 4 * n)) 32)

/-- A field of a record. -/
def field (v off n : Nat) : Nat := bitsOf v (8 * off) (8 * n)

/-- The launch record of 256 bytes, with the extents of a level table (R176). -/
def launchRecord (v : Nat) (levels : List Level) : LaunchRec where
  entry := field v 0x00 8
  rangeset := field v 0x08 8
  taskdom := field v 0x10 8
  ovfbase := field v 0x18 8
  ovfsize := field v 0x20 4
  scrbytes := field v 0x24 4
  deadline := field v 0x28 8
  nregs := field v 0x30 1
  nkregs := field v 0x31 1
  nstrands := field v 0x32 1
  prio := field v 0x33 1
  mode := field v 0x34 1
  levels := levels.takeWhile (fun l => l.kind != 15)
  fabpos := field v 0x58 2
  rheap := field v 0x60 8
  consts := (List.range 32).map (fun k => BitVec.ofNat 32 (field v (0x80 + 4 * k) 4))

/-- The highest present level with another extent (R270). -/
def replaceTop (count : Nat) (levels : List Level) : List Level :=
  let top := (levels.takeWhile (fun l => l.kind != 15)).length - 1
  lset levels top (fun l => { l with extent := count })

/-- The lowest scope a level may bind (R174). -/
def minScope (kind : Nat) : Nat := if kind = 7 then 2 else if kind = 5 ∨ kind = 6 then 1 else 0

/-- Whether kinds rise strictly. -/
def rising : List Nat → Bool
  | a :: b :: rest => decide (a < b) && rising (b :: rest)
  | _ => true

/-- Whether a level table is valid (R174): every entry after the first of KIND 15 is read as unused too, of KIND 15 itself (DEDUCED, log 94). -/
def levelsValid (levels : List Level) (r : LaunchRec) : Bool :=
  let present := levels.takeWhile (fun l => l.kind != 15)
  let absent := levels.dropWhile (fun l => l.kind != 15)
  let upper := present.drop 4
  (present.take 4).map (fun l => l.kind) == [0, 1, 2, 3] &&
  (present.take 3).map (fun l => l.extent) == [1, 4, r.nstrands] &&
  decide (r.teamSize ≤ 64) && upper.all (fun l => decide (4 ≤ l.kind) && decide (l.kind ≤ 7)) && rising (upper.map (fun l => l.kind)) &&
  absent.all (fun l => l.kind == 15 && l.extent == 0 && l.scope == 0) &&
  present.all (fun l => decide (1 ≤ l.extent) && decide (minScope l.kind ≤ l.scope) && decide (l.scope ≤ 2)) &&
  decide (r.extentOf 4 ≤ 4) && decide (r.extentOf 4 * r.extentOf 5 ≤ 96) && decide (r.teamCount ≤ 192) &&
  (if r.hasLevel 7 then decide (r.extentOf 7 ≤ 255) && decide (r.fabpos < r.extentOf 7) else r.fabpos == 0)

/-- Whether a reserved field or bit of a record is not zero (R176, R177). -/
def recordReserved (v : Nat) : Bool :=
  field v 0x35 3 != 0 || field v 0x5A 6 != 0 || field v 0x68 24 != 0 || decide (4 ≤ field v 0x33 1) || decide (16 ≤ field v 0x34 1) ||
    (recordLevels v).any (fun w => w % 1024 != 0)

/-- Cores in service (R9, R181). -/
def State.serviceCores (s : State) : Nat := ((List.range 192).filter (fun c => !(s.coreState c).outOfService)).length

/-- Whether a team of a record fits on an empty core, and a COSCHED launch on the package (R179, R181). -/
def State.fits (s : State) (r : LaunchRec) : Bool :=
  decide (ceilDiv r.teamSize 4 * r.regShare ≤ 1536) && decide (ceilDiv r.teamSize 4 * r.nkregs ≤ 32) &&
    (!r.cosched || decide (r.teamCount ≤ s.serviceCores))

/-- The status of a record that has been read: the first failure in the order of the table, or none (R177). -/
def State.launchStatus (s : State) (q : UQueue) (addr v : Nat) (levels : List Level) (r : LaunchRec) (count : Option Nat) : Option Nat :=
  let overCount := match count with | some n => decide (65535 < n) | none => false
  if recordReserved v then some 0x02
  else if addr % 256 ≠ 0 ∨ r.entry % 8 ≠ 0 ∨ r.rangeset % 8 ≠ 0 ∨ r.rheap % 64 ≠ 0 ∨ r.det = true ∧ r.ovfbase % 128 ≠ 0 then some 0x03
  else if r.nregs = 0 ∨ 128 < r.nregs ∨ 8 < r.nkregs ∨ r.nstrands = 0 ∨ 8 < r.nstrands then some 0x04
  else if (r.det && r.task) || (r.task && r.taskdom == 0) || (r.det && (r.ovfsize == 0 || r.ovfsize % 128 != 0)) then some 0x05
  else if r.priv && !q.priv then some 0x06
  else if overCount || !levelsValid levels r then some 0x07
  else if r.scrbytes % 16 ≠ 0 ∨ 2 ^ 22 < r.scrbytes then some 0x08
  else if !s.fits r then some 0x09
  else none

/-- Whether a domain descriptor, as 16 doublewords, is one (R368, R369). -/
def domainValid (r : LaunchRec) (v : Nat) : Bool :=
  let qcap := field v 0x08 4
  field v 0x00 8 % 64 == 0 && qcap % 8 == 0 && decide (8 ≤ qcap) && decide (qcap ≤ 2 ^ 20) && field v 0x0C 4 == 0 && field v 0x1C 4 == 0
    && field v 0x30 16 == 0 && field v 0x40 8 % 8 == 0 && r.taskdom % 128 == 0

/-- The root task of a descriptor (R369). -/
def rootTask (v : Nat) : TaskRec :=
  ⟨field v 0x40 8, (List.range 8).map (fun k => BitVec.ofNat 32 (field v (0x48 + 4 * k) 4)), field v 0x68 8, field v 0x70 4, 0xFFFFFFFF, 0, 1,
    none, none, none, false⟩

/-- A domain as it starts, without its root. -/
def startDomain (launch : Nat) (r : LaunchRec) (v : Nat) : Domain where
  launch := launch
  base := r.taskdom
  qbase := field v 0x00 8
  qcap := field v 0x08 4
  specwin := field v 0x10 8
  dstatus := 0
  commits := 0
  lastts := 0
  recs := []
  frontier := field v 0x68 8
  committing := none
  ended := false
  shown := []

/-- An accepted launch, which takes the queue's next number (R273). -/
def State.acceptLaunch (s : State) (id : Nat) (q : UQueue) (p : Packet) (r : LaunchRec) (ranges via : Table (BitVec 64)) (dom : Option Nat) : State :=
  let launch := s.nextId
  let l := Launch.start launch r p.addr (q.slot.getD 0) id q.count q.tenant ranges via r.teamCount
  let s := { s with launches := tinsert launch l s.launches, nextId := launch + 1 }
  let s := s.modQueue id (fun q => { q with
    launches := q.launches.filter (fun m => (tfind m s.launches).isSome) ++ [launch], count := q.count + 1 })
  match dom with
  | none => s
  | some v => { s with domains := tinsert launch (startDomain launch r v) s.domains }.putTask launch 0 (rootTask v)

/-- The check of a task launch's descriptor: its bytes, or the status it fails with (R369). -/
def checkDomain (r : LaunchRec) (ranges : Table (BitVec 64)) : Mem (Except Nat (Option Nat)) :=
  if !r.task then pure (.ok none)
  else if r.taskdom % 128 ≠ 0 then pure (.error 0x05)
  else do
    let v ← vaReadAll ranges r.taskdom 16
    pure (if domainValid r v then .ok (some v) else .error 0x05)

/-- A launch of a record that has been read, with the count of LAUNCH.IND: it fails, completes at once, or is accepted (R177, R270) (DEDUCED, log 57).
One whose root task finds its slice stalled is tried again. -/
def State.tryLaunch (s : State) (id : Nat) (q : UQueue) (p : Packet) (count : Option Nat) (v : Nat) (ranges via : Table (BitVec 64)) : State :=
  let given := (recordLevels v).map levelOf
  let levels := match count with | some n => if n = 0 then given else replaceTop n given | none => given
  let r := launchRecord v levels
  match s.launchStatus q p.addr v levels r count with
  | some code => s.haltQueue id code
  | none =>
    if count = some 0 then
      let s := (s.modQueue id (fun q => { q with count := q.count + 1 })).finishLaunch id q.count
      s.nextPacket id q
    else (checkDomain r ranges).on s (fun s => s)
      (fun d s => match d with
        | .error code => s.haltQueue id code
        | .ok dom =>
          let t := s.acceptLaunch id q p r ranges via dom
          if dom.isSome && t.unfilled s.nextId 0 then s else t.nextPacket id q)
      (fun _ _ _ s => s.haltQueue id 0x01)

/-- A LAUNCH or LAUNCH.IND whose turn has come: its count, record and range-register set are read (R177, R270) (DEDUCED, log 50). -/
def State.readLaunch (s : State) (id : Nat) (q : UQueue) (p : Packet) (ind : Bool) : State :=
  viaQueue id q (fun r => do
    let n ← if ind then vaRead r p.aux 4 else pure 0
    pure (r, n)) s (fun rn s =>
    (vaReadAll rn.1 p.addr 32 >>= fun v => launchSets rn.1 (launchRecord v []) >>= fun t => pure (v, t)).on s (fun s => s)
      (fun vt s => s.tryLaunch id q p (if ind then some rn.2 else none) vt.1 vt.2 rn.1)
      (fun _ _ _ s => s.haltQueue id 0x01))

/-- Whether the launch before the next one of a queue has started (R272). -/
def State.prevStarted (s : State) (q : UQueue) : Bool :=
  match q.launches.getLast? with
  | none => true
  | some id => match tfind id s.launches with | some l => l.started | none => true

/-- LAUNCH (R177, R270, R272). -/
def execLaunchPacket (s : State) : Out :=
  packetEvent 0x01 s (fun id q p s =>
    if (if p.flags % 2 = 1 then s.prevStarted q else s.earlierDone q) then s.readLaunch id q p false else s.holdPacket id)

/-- LAUNCH.IND (R177, R270, R272): its count is read once every earlier launch has completed. -/
def execLaunchIndPacket (s : State) : Out :=
  packetEvent 0x02 s (fun id q p s => if s.earlierDone q then s.readLaunch id q p true else s.holdPacket id)

/-! ### Slots and registration (R267, R269, R424) -/

/-- A queue gives its slot up. -/
def State.unmap (s : State) (id : Nat) : State := s.modQueue id (fun q => { q with slot := none })

/-- QUEUE_TIMESLICE (R269): queue `ev.a`, not pinned, has kept its slot for 50 microseconds, and another queue waits: it yields the slot, and
waits again where it wants one. -/
def execQueueTimeslice (s : State) : Out :=
  let id := s.ev.a
  match tfind id s.queues with
  | none => .next s
  | some q =>
    if q.slot.isNone || q.pinned || s.doors == [] || decide (s.timeb < q.sliceFrom + 50000) then .next s
    else .next (((s.unmap id).mapWaiting 64).waitSlot id)

/-- A slot for a pinned queue: a free one, or that of the unpinned queue that has kept its slot longest. -/
def State.slotForPinned (s : State) : State × Option Nat :=
  match s.freeSlot with
  | some n => (s, some n)
  | none =>
    let longest := s.queues.foldl (fun (b : Option (Nat × UQueue)) e =>
      if e.2.slot.isNone || e.2.pinned then b
      else match b with | some w => if e.2.sliceFrom < w.2.sliceFrom then some e else b | none => some e) none
    match longest with
    | some (id, q) => ({ s with doors := s.doors ++ (if s.wantsSlot q then [id] else []) }.unmap id, q.slot)
    | none => (s, none)

/-- The queue of a descriptor's 64 bytes (R267). -/
def queueOf (ipa v : Nat) : UQueue where
  ipa := ipa
  slot := none
  pinned := bitsOf v (8 * 0x09 + 1) 1 == 1
  priv := bitsOf v (8 * 0x09) 1 == 1
  tenant := field v 0x0A 1
  ring := field v 0x00 8
  ringLog := field v 0x08 1
  qrange := field v 0x10 8
  rd := field v 0x18 8
  wr := field v 0x20 8
  cursor := field v 0x18 8
  loops := []
  halted := bitsOf v (8 * 0x09 + 2) 1 == 1
  waiting := false
  launches := []
  finished := []
  count := 0
  done := 0
  sliceFrom := 0

/-- The status with which a descriptor is refused, or none (R424) (DEDUCED, log 52) (DESIGN CHOICE, log 53). -/
def State.queueRefused (s : State) (ipa v : Nat) : Option Nat :=
  if ipa % 64 ≠ 0 ∨ field v 0x0B 5 ≠ 0 ∨ field v 0x34 4 ≠ 0 ∨ field v 0x08 1 < 12 ∨ 24 < field v 0x08 1 ∨ 14 < field v 0x0A 1 then some 2
  else if 8192 ≤ s.queues.length then some 3
  else if (queueOf ipa v).pinned && decide (16 ≤ ((tvalues s.queues).filter (fun q => q.pinned)).length) then some 4
  else none

/-- QRSTAT after a command, with the event of a refusal (R424, R427). -/
def State.refuseQueue (s : State) (ipa code : Nat) : State :=
  { s with qrstat := code, qrBusy := none }.postEvent (eventRecord 0x02 0xFF 0xFFFF code ipa 0 0 0)

/-- A queue registered: DONE cleared, and mapped where it is pinned, or as at a doorbell (R269, R273, R424). -/
def State.addQueue (s : State) (q : UQueue) : State :=
  let id := s.nextId
  let s := { s with queues := tinsert id q s.queues, nextId := id + 1, qrstat := 0, qrBusy := none }.putDesc q.ipa 0x38 8 0
  if q.pinned then
    match s.slotForPinned with
    | (s, some n) => s.mapQueue id n
    | (s, none) => s
  else s.waitSlot id

/-- A registration that waits, as its access to the descriptor does at its home (R424, R436). -/
def State.queueBusy (s : State) (ipa : Nat) : State := { s with qrstat := 1, qrBusy := some ipa }

/-- The descriptor at an IPA registered, refused, or waiting (R424, R436). -/
def State.registerQueue (s : State) (ipa : Nat) : State :=
  if (s.queueAt ipa).isSome then { s with qrstat := 6, qrBusy := none }
  else if s.boot.phase ≠ 4 then s.queueBusy ipa
  else (readUnits (ipa / 64 * 64) 4).on s (fun s => s.queueBusy ipa)
    (fun v s => match s.queueRefused ipa v with
      | some code => s.refuseQueue ipa code
      | none => s.addQueue (queueOf ipa v))
    (fun _ _ _ s => s.refuseQueue ipa 7)

/-- QUEUE_REGISTER (R267, R424): QRCMD 1 registers the descriptor at QRIPA, and is ignored while QRSTAT reads busy; with `ev.on` the registration
under way goes on. -/
def execQueueRegister (s : State) : Out :=
  if s.ev.on then (match s.qrBusy with | some ipa => .next (s.registerQueue ipa) | none => .next s)
  else if s.qrstat = 1 then .next s
  else .next ({ s with qrcmd := 1 }.registerQueue s.qripa.toNat)

/-- QUEUE_UNREGISTER (R424): QRCMD 2 unregisters the descriptor at QRIPA; its slot is free, and launches it placed run on. It is ignored while QRSTAT
reads busy. -/
def execQueueUnregister (s : State) : Out :=
  if s.qrstat = 1 then .next s else
  let s := { s with qrcmd := 2 }
  match s.queueAt s.qripa.toNat with
  | none => .next { s with qrstat := 5 }
  | some (id, _) =>
    let s := { s with queues := terase id s.queues, doors := s.doors.filter (· != id), qrstat := 0 }
    .next (s.mapWaiting 64)

end Sys2Proof.Machine
end

