-- ==== Sys2Proof/Machine/Care.lean ====
section
/-! DEFINITION. Failures handled out of sight (R437, R438), and what the host's windows and the control space read (R421, R423, R448). -/

namespace Sys2Proof.Machine

open Sys2Proof

/-! ### Errors and failures (R437, R438) -/

/-- The CARE row of soft errors. -/
def careSoft : Nat := 0
/-- The CARE row of uncorrectable errors in group state. -/
def careGroup : Nat := 1
/-- The CARE row of HBM symbol errors. -/
def careSymbol : Nat := 2
/-- The CARE row of failing slices. -/
def careSlice : Nat := 4
/-- The CARE row of the stretch total. -/
def careStretch : Nat := 12

/-- An event of one of the 2 dies counted (R437). -/
def State.countDie (s : State) (row die : Nat) : State := if die < 2 then s.count (careIndex row die) else s

/-- SOFT_ERROR (R437): corrected and scrubbed on die `ev.a`, and counted. -/
def execSoftError (s : State) : Out := .next (s.countDie careSoft s.ev.a)

/-- HBM_SYMBOL_ERROR (R437): corrected in a stack of die `ev.a`, and counted. -/
def execHbmSymbolError (s : State) : Out := .next (s.countDie careSymbol s.ev.a)

/-- UNCORRECTABLE_GROUP_ERROR (R437): group `ev.a` halts, with its event. -/
def execUncorrectableGroupError (s : State) : Out :=
  match tfind s.ev.a s.groups with
  | none => .next s
  | some g =>
    if g.halted || g.retiring then .next s
    else
      let core := s.teamCore g.team
      .next ((s.uncorrectable careGroup (dieOf core) core 0).halt g.gid)

/-- L2_SLICE_FAILURE (R437): slice `ev.a` is written back, what migrates or stalls staying where it is, and one of its die's 4 spares
takes its number (DEDUCED, log 68). -/
def execL2SliceFailure (s : State) : Out :=
  let slice := s.ev.a
  let die := slice / 128
  let used := tget 0 s.spareSlices die
  if slice ≥ 256 ∨ used ≥ 4 then .next s
  else
    let lines (s : State) : List Nat := ((s.l2.filter (fun e => e.1 / 2 ^ 48 == slice)).map (fun e => e.1 % 2 ^ 48 / 8)).dedup
    let pass (s : State) : State := (lines s).foldl (fun s l => s.evictLine slice l) s
    .next (({ pass (pass s) with spareSlices := tset 0 s.spareSlices die (used + 1) }).count (careIndex careSlice die))

/-- CLOCK_STRETCH (R14, R438, R449): the step that performs it is a stretched cycle, longer by `ev.a` thirds of a nanosecond, which
TIMEB counts (PRESUMED, log 74). -/
def execClockStretch (s : State) : Out :=
  .next (({ s with stretched := s.stretched + 1 }.pass s.ev.a).count (careIndex careStretch 0))

/-! ### Reading registers (R421, R423, R424, R425, R427, R435, R448) -/

/-- The half of a 64-bit value that a 4-byte offset names. -/
def half64 (v off : Nat) : Nat := bitsOf v (32 * (off / 4 % 2)) 32

/-- A word of a ring's registers. -/
def Ring.word (r : Ring) (off : Nat) : Nat :=
  match off with
  | 0x00 | 0x04 => half64 r.base.toNat off
  | 0x08 => r.log.toNat
  | 0x0C => r.head.toNat
  | 0x10 => r.tail.toNat
  | _ => 0

/-- A word of the translation control block (R37). -/
def TcBlock.word (t : TcBlock) (off : Nat) : Nat :=
  match off / 8 with
  | 0 => half64 t.root.toNat off
  | 1 => half64 t.node.toNat off
  | 2 => half64 t.arg0.toNat off
  | 3 => half64 t.arg1.toNat off
  | 4 => half64 t.cmd.toNat off
  | 5 => half64 (bit t.busy + 2 * bit t.err) off
  | _ => 0

/-- CLBMODE of a cluster (R54). -/
def State.clbmode (s : State) (cluster : Nat) : Nat := (List.range 16).foldl (fun n b => n + s.bankMode cluster b * 4 ^ b) 0

/-- The ISTAB entry as written last (R276). -/
def State.istabWord (s : State) (core e : Nat) : Nat :=
  let c := s.coreState core
  (match tfind e c.istabNew with | some w => w | none => tget istabReset c.istab e).toNat

/-- A word of the control space (R423). -/
def State.apexWord (s : State) (off : Nat) : Nat :=
  let within (base len : Nat) : Bool := decide (base ≤ off) && decide (off < base + len)
  if within 0 0x30 then s.tc.word off
  else if within 0x10000 (8 * 48) then (if off % 8 = 0 then s.clbmode ((off - 0x10000) / 8) else 0)
  else if within 0x20000 (256 * 192) then s.istabWord ((off - 0x20000) / 256) ((off - 0x20000) % 256 / 4)
  else if within 0x30000 (16 * 15) then half64 (tget 0 s.tvtab ((off - 0x30000) / 8)).toNat off
  else if within 0x40000 8 then half64 s.qripa.toNat off
  else if off = 0x40008 then s.qrcmd
  else if off = 0x4000C then s.qrstat
  else if within 0x50000 0x14 then s.fq.word (off - 0x50000)
  else if within 0x50100 0x14 then s.sq.word (off - 0x50100)
  else if off = 0x60000 then s.ansSeq.toNat
  else if off = 0x60008 then s.ans0.toNat
  else if off = 0x6000C then s.ans1.toNat
  else if within 0x70000 0x14 then s.evq.word (off - 0x70000)
  else 0

/-- A word of BAR0 (R421). -/
def State.bar0Word (s : State) (off : Nat) : Nat :=
  let within (base len : Nat) : Bool := decide (base ≤ off) && decide (off < base + len)
  if off = 0 then s.boot.phase
  else if within 0x08 8 then half64 s.ipawin.toNat off
  else if within 0x10 8 then half64 s.hostbase.toNat off
  else if within 0x10000 0x30 then s.tc.word (off - 0x10000)
  else if within 0x30000 0x14 then s.evq.word (off - 0x30000)
  else if within 0x40000 (8 * 255) then half64 (tget 0 s.rtab ((off - 0x40000) / 8)).toNat off
  else if off = 0x60004 then s.attest.stat
  else if within 0x60040 32 then treadLE s.attest.nonce (off - 0x60040) 4
  else if within 0x60100 368 then (if s.attest.stat = 2 then bytesWord (off - 0x60100) else 0)
  else if within 0x80000 (8 * 1024) then half64 (tget 0 s.care ((off - 0x80000) / 8)).toNat off
  else if within 0x800000 0x800000 then s.apexWord (off - 0x800000)
  else 0
where
  bytesWord (at' : Nat) : Nat := leValue ((s.attest.report.drop at').take 4)

/-- What a slot is doing: with RDPTR below WRPTR its queue holds work (R267, R448). -/
def UQueue.slotState (q : UQueue) : Nat :=
  if q.halted then 4 else if q.waiting then 3 else if q.rd < q.wr then 2 else 1

/-- A word of BAR2: the page of a slot, zero where nothing is mapped (R448). -/
def State.bar2Word (s : State) (off : Nat) : Nat :=
  match (tvalues s.queues).find? (fun q => q.slot == some (off / 4096)) with
  | none => 0
  | some q =>
    match off % 4096 / 4 with
    | 0 | 1 => half64 q.ipa off
    | 2 | 3 => half64 q.rd off
    | 4 => q.slotState
    | 5 => bit q.pinned
    | _ => 0

/-- An access of 4 or 8 aligned bytes to a window read by its words; any other reads zero (R423). -/
def windowRead (word : Nat → Nat) (off size : Nat) : Nat :=
  if !regAccess off size then 0 else if size = 4 then word off else word off + 2 ^ 32 * word (off + 4)

/-- What BAR0 reads. TCSTAT_READ is the read that also clears ERR. -/
def State.bar0Read (s : State) (off size : Nat) : Nat := windowRead s.bar0Word off size
/-- What BAR2 reads. -/
def State.bar2Read (s : State) (off size : Nat) : Nat := windowRead s.bar2Word off size

end Sys2Proof.Machine
end

