-- ==== Sys2Proof/Machine/Cross.lean ====
section
/-! DEFINITION. Dot products over register runs, selects, indexed registers, error feedback, the counter hash, and the opcodes
that read or write across lanes (R227, R228, R236, R241, R242, R245, R247 to R251). -/

namespace Sys2Proof.Machine

open Sys2Proof

/-- DOT16 in one lane, over the runs of its sources (R236). -/
def dotLane (f : Fmt) (op : Nat) (x : VF) (pops : Table Word) (c : Ctx) (l : Nat) : Word :=
  dot16 f ⟨x.scale, x.clamp⟩ (c.run x.a 4 l) (c.run x.b 4 l) (vfSrc c op x pops 2 l)

/-- A DOT16 instruction (R236). -/
def dotInstr (i : Instr) (f : Fmt) (op : Nat) (x : VF) (s : State) : Out :=
  issue i s (fun c s => withPops i (c.acting x.pred x.pinv) c s (fun pops =>
    vecWrite i (reuseRun 4 x) x.dst ((c.acting x.pred x.pinv).map (fun l => (l, dotLane f op x pops c l))) c s))

/-- DOT16E4 (R228, R236). -/
def execDot16e4 (x : VF) (s : State) : Out := dotInstr (.dot16e4 x) e4m3 0x18 x s

/-- DOT16E5 (R228, R236). -/
def execDot16e5 (x : VF) (s : State) : Out := dotInstr (.dot16e5 x) e5m2 0x19 x s

/-- SEL (R241): A where the predicate's bit is 1, else B. -/
def execSel (x : VF) (s : State) : Out :=
  issue (.sel x) s (fun c s => withPops (.sel x) (c.acting x.pred x.pinv) c s (fun pops =>
    vecWrite (.sel x) (reuseKept x) x.dst ((c.acting x.pred x.pinv).map (fun l =>
      (l, if (c.g.pget (codeVal x.c)).getLsbD l then vfSrc c 0x41 x pops 0 l else vfSrc c 0x41 x pops 1 l))) c s))

/-- The register each lane chooses (R242). -/
def indexed (base : Nat) (idx : Nat → Word) (ls : List Nat) : List (Nat × Nat) :=
  ls.map (fun l => (l, (BitVec.ofNat 32 base + idx l).toNat))

/-- The checks of VIDX and VIDXW, in lane order: REGRANGE for every lane before HAZARD for any (R242). -/
def indexTrap (c : Ctx) (ns : List (Nat × Nat)) : Option (Nat × Nat) :=
  match ns.find? (fun e => c.nregs ≤ e.2) with
  | some e => some (causeRegrange, e.2)
  | none =>
    match ns.find? (fun e => c.g.tracked.contains e.2) with
    | some e => some (causeHazard, e.2)
    | none => none

/-- VIDX (R242). -/
def execVidx (x : VF) (s : State) : Out :=
  issue (.vidx x) s (fun c s => withPops (.vidx x) (c.acting x.pred x.pinv) c s (fun pops =>
    let ns := indexed ((x.a.vreg?).getD 0) (vfSrc c 0x42 x pops 1) (c.acting x.pred x.pinv)
    match indexTrap c ns with
    | some (cause, n) => raiseHere c cause 0 n s
    | none => vecWrite (.vidx x) (reuseKept { x with a := .unused }) x.dst (ns.map (fun e => (e.1, c.g.vget e.2 e.1))) c s))

/-- VIDXW (R242): it empties the group's reuse latch. -/
def execVidxw (x : VF) (s : State) : Out :=
  issue (.vidxw x) s (fun c s => withPops (.vidxw x) (c.acting x.pred x.pinv) c s (fun pops =>
    let base := match x.dst with | .v n => n.val | _ => 0
    let ns := indexed base (vfSrc c 0x43 x pops 0) (c.acting x.pred x.pinv)
    match indexTrap c ns with
    | some (cause, n) => raiseHere c cause 0 n s
    | none =>
      finish c (.vidxw x) (fun g =>
        { (ns.foldl (fun g e => g.vset e.2 e.1 (vfSrc c 0x43 x pops 1 e.1)) g).endPending c.lowest with latch := [] }) s))

/-- CVTEF (R225, R245): the residue register is named in SB, and only acting lanes update it. -/
def execCvtef (x : VF) (s : State) : Out :=
  issue (.cvtef x) s (fun c s => withPops (.cvtef x) (c.acting x.pred x.pinv) c s (fun pops =>
    let n := codeVal x.b
    let lanes := c.acting x.pred x.pinv
    let r (l : Nat) := convertEf (codeVal x.c) (vfSrc c 0x49 x pops 0 l) (oldDst c x.dst l) (c.g.eget n l)
    let s := s.modGroup c.g.gid (fun g => lanes.foldl (fun g l => g.eset n l (r l).2) g)
    vecWrite (.cvtef x) (reuseKept x) x.dst (lanes.map (fun l => (l, (r l).1))) c s))

/-- RNG (R227, R247): seed A, counter B, stream IMM20. -/
def execRng (x : VI) (s : State) : Out := viLanes (.rng x) 0x4b x (fun _ a b d _ => rngHash a b d) s

/-- The width of a group in lanes (R168). -/
def Ctx.width (c : Ctx) : Nat := 4 * c.nstrands

/-- SHFL in one lane: v(A) of the named lane, or the fallback (R248). -/
def shflLane (c : Ctx) (reg : Nat) (j fallback : Word) : Word :=
  if j.toNat < c.width then c.g.vget reg j.toNat else fallback

/-- SHFL (R248). -/
def execShfl (x : VF) (s : State) : Out :=
  issue (.shfl x) s (fun c s => withPops (.shfl x) (c.acting x.pred x.pinv) c s (fun pops =>
    vecWrite (.shfl x) (reuseKept x) x.dst ((c.acting x.pred x.pinv).map (fun l =>
      (l, shflLane c ((x.a.vreg?).getD 0) (vfSrc c 0x50 x pops 1 l) (vfSrc c 0x50 x pops 2 l)))) c s))

/-- SHFL_IMM (R248): the fallback is the immediate. -/
def execShflImm (x : VI) (s : State) : Out :=
  issue (.shflImm x) s (fun c s => withPops (.shflImm x) (c.acting x.pred x.pinv) c s (fun pops =>
    vecWrite (.shflImm x) [] x.dst ((c.acting x.pred x.pinv).map (fun l =>
      (l, shflLane c ((x.a.vreg?).getD 0) (viSrc c 0x50 x pops 1 l) (viImm 0x50 x.imm)))) c s))

/-- The lanes PUTL writes: a later source lane wins, names outside the width are discarded (R249). -/
def putlWrites (c : Ctx) (reg : Nat) (name : Nat → Word) (ls : List Nat) : List (Nat × Word) :=
  (ls.filter (fun l => (name l).toNat < c.width)).map (fun l => ((name l).toNat, c.g.vget reg l))

/-- PUTL (R249). -/
def execPutl (x : VF) (s : State) : Out :=
  issue (.putl x) s (fun c s => withPops (.putl x) (c.acting x.pred x.pinv) c s (fun pops =>
    vecWrite (.putl x) (reuseKept x) x.dst
      (putlWrites c ((x.a.vreg?).getD 0) (vfSrc c 0x51 x pops 1) (c.acting x.pred x.pinv)) c s))

/-- PUTL_IMM (R249): every acting lane names the immediate. -/
def execPutlImm (x : VI) (s : State) : Out :=
  issue (.putlImm x) s (fun c s => withPops (.putlImm x) (c.acting x.pred x.pinv) c s (fun _ =>
    vecWrite (.putlImm x) [] x.dst
      (putlWrites c ((x.a.vreg?).getD 0) (fun _ => viImm 0x51 x.imm) (c.acting x.pred x.pinv)) c s))

/-- VOTE's bit over the words of the acting lanes (R250). -/
def voteBit (mode : Nat) (ws : List Word) : Bool :=
  match mode with
  | 0 => ws.any (· != 0)
  | 1 => ws.all (· != 0)
  | _ => ws.all (· == ws.headD 0)

/-- VOTE (R250). -/
def execVote (x : VF) (s : State) : Out :=
  issue (.vote x) s (fun c s => withPops (.vote x) (c.acting x.pred x.pinv) c s (fun pops =>
    let ls := c.acting x.pred x.pinv
    let b := voteBit (codeVal x.c) (ls.map (vfSrc c 0x52 x pops 0))
    vecWrite (.vote x) (reuseKept x) x.dst (ls.map (fun l => (l, bif b then 1 else 0))) c s))

/-- BALLOT's mask (R250). -/
def ballotMask (ls : List Nat) (w : Nat → Word) : Word := laneMask (ls.filter (fun l => w l != 0))

/-- BALLOT (R250). -/
def execBallot (x : VF) (s : State) : Out :=
  issue (.ballot x) s (fun c s => withPops (.ballot x) (c.acting x.pred x.pinv) c s (fun pops =>
    let ls := c.acting x.pred x.pinv
    vecWrite (.ballot x) (reuseKept x) x.dst (ls.map (fun l => (l, ballotMask ls (vfSrc c 0x53 x pops 0)))) c s))

/-- BALLOT_IMM (R250). -/
def execBallotImm (x : VI) (s : State) : Out :=
  issue (.ballotImm x) s (fun c s => withPops (.ballotImm x) (c.acting x.pred x.pinv) c s (fun _ =>
    let ls := c.acting x.pred x.pinv
    vecWrite (.ballotImm x) [] x.dst (ls.map (fun l => (l, ballotMask ls (fun _ => viImm 0x53 x.imm)))) c s))

/-- REDUX (R251). -/
def execRedux (x : VF) (s : State) : Out :=
  issue (.redux x) s (fun c s => withPops (.redux x) (c.acting x.pred x.pinv) c s (fun pops =>
    let ls := c.acting x.pred x.pinv
    let r := reduxWord (codeVal x.c) (ls.map (vfSrc c 0x54 x pops 0))
    vecWrite (.redux x) (reuseKept x) x.dst (ls.map (fun l => (l, r))) c s))

end Sys2Proof.Machine
end

