-- ==== Sys2Proof/Machine/Pair.lean ====
section
/-! DEFINITION. PAIR words: two slots that both read before either writes (R122, R258). -/

namespace Sys2Proof.Machine

open Sys2Proof

/-- What one lane of a slot computes: its VF opcode with every modifier, SCALE and CLAMP zero (R258). -/
def slotFn (op : SlotOp) (a b : Word) : Word :=
  match op with
  | .fadd => op32 .add Finish.none a b 0
  | .fmul => op32 .mul Finish.none a b 0
  | .fmin => op32 .min Finish.none a b 0
  | .fmax => op32 .max Finish.none a b 0
  | .iadd => intOp .add Finish.none a b 0
  | .isub => intOp .sub Finish.none a b 0
  | .imul => intOp .mul Finish.none a b 0
  | .and => bitOp .and a b
  | .or => bitOp .or a b
  | .xor => bitOp .xor a b
  | .shl => bitOp .shl a b
  | .shr => bitOp .shr a b
  | .sar => bitOp .sar a b
  | .mov => a
  | .imin => intOp .smin Finish.none a b 0
  | .imax => intOp .smax Finish.none a b 0
  | .hadd2 => op16 f16 .add Finish.none a b 0
  | .hmul2 => op16 f16 .mul Finish.none a b 0
  | .nop => 0

/-- The half format of a slot's float inline constants (R111, R258). -/
def slotHalf (op : SlotOp) : Option Fmt :=
  match op with
  | .hadd2 | .hmul2 => some f16
  | _ => none

/-- A slot's results in the active lanes. -/
def slotResults (op : SlotOp) (x : SlotArgs) (c : Ctx) : List (Nat × Word) :=
  c.active.map (fun l => (l, slotFn op (c.read (slotHalf op) 0 0 x.a l) (c.read (slotHalf op) 0 0 x.b l)))

/-- A slot's write; a NOP slot writes nothing. -/
def slotWrite (op : SlotOp) (x : SlotArgs) (c : Ctx) (g : Group) : Group :=
  if op = .nop then g else g.writeLanes x.dst.val (slotResults op x c)

/-- The registers the two slots write. -/
def slotWritten (op : SlotOp) (x : SlotArgs) (y : PairSlot) : List Nat :=
  (if op = .nop then [] else [x.dst.val]) ++ (if y.op = .nop then [] else [y.args.dst.val])

/-- A PAIR word (R122, R258). -/
def pairInstr (i : Instr) (op : SlotOp) (x : SlotArgs) (y : PairSlot) (s : State) : Out :=
  issue i s (fun c s => finish c i (fun g =>
    { slotWrite y.op y.args c (slotWrite op x c g) with latch := latchAfter g.latch [] (slotWritten op x y) }) s)

/-- FADD_SLOT (R258). PAIR slot performing FADD on the gang's active lanes. -/
def execFaddSlot (x : SlotArgs) (y : PairSlot) (s : State) : Out := pairInstr (.faddSlot x y) .fadd x y s

/-- FMUL_SLOT (R258). PAIR slot performing FMUL. -/
def execFmulSlot (x : SlotArgs) (y : PairSlot) (s : State) : Out := pairInstr (.fmulSlot x y) .fmul x y s

/-- FMIN_SLOT (R258). PAIR slot performing FMIN. -/
def execFminSlot (x : SlotArgs) (y : PairSlot) (s : State) : Out := pairInstr (.fminSlot x y) .fmin x y s

/-- FMAX_SLOT (R258). PAIR slot performing FMAX. -/
def execFmaxSlot (x : SlotArgs) (y : PairSlot) (s : State) : Out := pairInstr (.fmaxSlot x y) .fmax x y s

/-- IADD_SLOT (R258). PAIR slot performing IADD. -/
def execIaddSlot (x : SlotArgs) (y : PairSlot) (s : State) : Out := pairInstr (.iaddSlot x y) .iadd x y s

/-- ISUB_SLOT (R258). PAIR slot performing ISUB. -/
def execIsubSlot (x : SlotArgs) (y : PairSlot) (s : State) : Out := pairInstr (.isubSlot x y) .isub x y s

/-- IMUL_SLOT (R258). PAIR slot performing IMUL. -/
def execImulSlot (x : SlotArgs) (y : PairSlot) (s : State) : Out := pairInstr (.imulSlot x y) .imul x y s

/-- AND_SLOT (R258). PAIR slot performing AND. -/
def execAndSlot (x : SlotArgs) (y : PairSlot) (s : State) : Out := pairInstr (.andSlot x y) .and x y s

/-- OR_SLOT (R258). PAIR slot performing OR. -/
def execOrSlot (x : SlotArgs) (y : PairSlot) (s : State) : Out := pairInstr (.orSlot x y) .or x y s

/-- XOR_SLOT (R258). PAIR slot performing XOR. -/
def execXorSlot (x : SlotArgs) (y : PairSlot) (s : State) : Out := pairInstr (.xorSlot x y) .xor x y s

/-- SHL_SLOT (R258). PAIR slot performing SHL. -/
def execShlSlot (x : SlotArgs) (y : PairSlot) (s : State) : Out := pairInstr (.shlSlot x y) .shl x y s

/-- SHR_SLOT (R258). PAIR slot performing SHR. -/
def execShrSlot (x : SlotArgs) (y : PairSlot) (s : State) : Out := pairInstr (.shrSlot x y) .shr x y s

/-- SAR_SLOT (R258). PAIR slot performing SAR. -/
def execSarSlot (x : SlotArgs) (y : PairSlot) (s : State) : Out := pairInstr (.sarSlot x y) .sar x y s

/-- MOV_SLOT (R258). PAIR slot performing MOV. -/
def execMovSlot (x : SlotArgs) (y : PairSlot) (s : State) : Out := pairInstr (.movSlot x y) .mov x y s

/-- IMIN_SLOT (R258). PAIR slot performing IMIN. -/
def execIminSlot (x : SlotArgs) (y : PairSlot) (s : State) : Out := pairInstr (.iminSlot x y) .imin x y s

/-- IMAX_SLOT (R258). PAIR slot performing IMAX. -/
def execImaxSlot (x : SlotArgs) (y : PairSlot) (s : State) : Out := pairInstr (.imaxSlot x y) .imax x y s

/-- HADD2_SLOT (R258). PAIR slot performing HADD2. -/
def execHadd2Slot (x : SlotArgs) (y : PairSlot) (s : State) : Out := pairInstr (.hadd2Slot x y) .hadd2 x y s

/-- HMUL2_SLOT (R258). PAIR slot performing HMUL2. -/
def execHmul2Slot (x : SlotArgs) (y : PairSlot) (s : State) : Out := pairInstr (.hmul2Slot x y) .hmul2 x y s

/-- SLOT_NOP (R122). PAIR slot that does nothing. -/
def execSlotNop (y : PairSlot) (s : State) : Out := pairInstr (.slotNop y) .nop SlotArgs.unused y s

end Sys2Proof.Machine
end

