-- ==== Sys2Proof/Machine/Preempt.lean ====
section
/-! DEFINITION. Pre-emption and resumption of teams (R58, R150, R154, R172, R299, R319, R338, R364, R392, R413, R414), and a core that fails
(R9, R437). -/

namespace Sys2Proof.Machine

open Sys2Proof

/-! ### What must end first (R154, R299, R414) -/

/-- Whether a group belongs to a team. -/
def State.inTeam (s : State) (team gid : Nat) : Bool := match tfind gid s.groups with | some g => g.team == team | none => false

/-- Whether an instruction in flight holds up its team's image: a PHASE that runs, an access whose release runs, an access sent to memory and
not answered, or the Facet unit's KSPILL or KFILL whose lines are not answered (R154, R364) (DEDUCED, log 63). -/
def State.holdsImage (s : State) (o : Op) : Bool :=
  !o.performed && (match o.kind with
    | .phase => true
    | .spillFill _ => s.facetNext o && o.reqs.any (fun r => r.state == .waiting)
    | .local _ _ _ _ | .ray _ | .tex _ _ | .closure _ | .prism _ _ | .cpy _ _ _ _ _ => false
    | _ => o.relId.isSome || o.acqId.isSome || (o.sent && o.reqs.any (fun r => r.state == .waiting)))

/-- Whether the array of a core has stopped, as a pre-emption finds it: with nothing left to do, or at a granule or a full q8 that it waits for. A
parked command is one it has to finish (R299). -/
def State.arrayStopped (s : State) (core : Nat) : Bool := s.arrayWaits core

/-- Whether a team's image can be written as far as its instructions go. -/
def State.imageReady (s : State) (t : Team) : Bool :=
  !s.ops.any (fun o => s.inTeam t.id o.gid && s.holdsImage o) &&
  !s.acqs.any (fun a => match a.source with | .group g => s.inTeam t.id g | _ => false) &&
  ((s.claimOf t).isNone || s.arrayStopped t.core)

/-! ### Settling what is in flight -/

/-- Whether an instruction's parked lanes are withdrawn from the wait table: rays, texture lanes and the Facet unit's (R319, R338,
R364, R413). -/
def withdraws (k : OpKind) : Bool :=
  match k with
  | .ray _ | .tex _ _ | .closure _ | .spillFill _ => true
  | _ => false

/-- A parked request that waits again. -/
def Req.unpark (r : Req) : Req := { r with state := match r.state with | .parked _ => .waiting | st => st }

/-- An instruction's parked lanes withdrawn from their wait-table entries. -/
def State.withdraw (s : State) (o : Op) : State :=
  { s.modOp o.id (fun p => { p with reqs := p.reqs.map Req.unpark }) with
    waits := s.waits.map (fun w => { w with accesses := w.accesses.filter (fun a => a.1 != o.id) }) }

/-- The lanes of the closure instruction a Facet unit has begun, those that are not parked, finished (R364). -/
def State.finishLanes (s : State) (o : Op) : State :=
  match o.kind with
  | .closure i => (s.serveFacet o).finishClosure 33 o.id i
  | .spillFill i => s.finishSpillFill o i
  | _ => s

/-- Whether an instruction that a Facet unit has begun has lanes that are not parked and not finished (R364). -/
def Op.facetLeft (o : Op) : Bool :=
  !o.performed && (match o.kind with
    | .closure _ => o.waitingLanes != []
    | .spillFill _ => o.answeredLanes != []
    | _ => false)

/-- The Facet unit's part of a team's settling: the lanes of what it has begun that are not parked, as far as they go now; false where some are left
(R364). -/
def State.finishFacet (s : State) (t : Team) : State × Bool :=
  let begun := s.ops.filter (fun o => s.inTeam t.id o.gid && s.facetNext o)
  let u := begun.foldl State.finishLanes s
  (u, !begun.any (fun o => match u.op? o.id with | some p => p.facetLeft | none => false))

/-- The lanes of a local access that have been served, in the destination (R58). -/
def State.landLocal (s : State) (o : Op) : State :=
  match o.kind with
  | .local _ _ _ _ => s.landResults o.id
  | _ => s

/-- The bytes of a parked plain store leave the core with it: they are performed when its page is there (R413). -/
def State.takeStore (s : State) (o : Op) : State :=
  match o.kind with
  | .store _ =>
    if o.task.isSome then s
    else
      let moved (r : Req) : Bool := match r.state with | .parked _ => true | _ => false
      let s := (o.reqs.filter moved).foldl (fun (s : State) (r : Req) =>
        let x := s.held? o.core r.loc
        s.setHeld o.core r.loc { x with pmask := x.pmask &&& ~~~(spanMask r.loc r.size), whole := false }) s
      s.modOp o.id (fun p => { p with reqs := p.reqs.map (fun (r : Req) => if moved r then { r with args := [(0, 0, 0)] } else r) })
  | _ => s

/-- The tasks that run on a team's groups aborted and requeued (R392). -/
def State.dropWorkers (s : State) (team : Nat) : State :=
  ((tvalues s.groups).filter (fun g => g.team == team)).foldl (fun s g =>
    match g.task with | some k => s.abortTasks g.launch [k] | none => s) s

/-- What is in flight of a team settled for its image, once its Facet lanes are. -/
def State.settleTeam (s : State) (t : Team) : State :=
  let mine (s : State) : List Op := s.ops.filter (fun o => s.inTeam t.id o.gid)
  let s := (mine s).foldl State.landLocal s
  let s := ((mine s).filter (fun o => withdraws o.kind)).foldl State.withdraw s
  let s := (mine s).foldl State.takeStore s
  s.dropWorkers t.id

/-- A group whose team is not resident. -/
def Group.evicted (g : Group) : Group :=
  { g with resident := false, active := false, yielded := none, offers := [], latch := [] }

/-- A team that has left its core, with the array it had claimed; the claim ends (R172, R299, R414). -/
def State.evictTeam (s : State) (t : Team) : State :=
  let claim := s.claimOf t
  let s := (s.ops.filter (fun o => s.inTeam t.id o.gid)).foldl State.landLocal s
  let s := { s with groups := s.groups.map (fun (e : Nat × Group) => if e.2.team = t.id then (e.1, e.2.evicted) else e) }
  let s := if claim.isSome then s.modPrism t.core (fun _ => Prism.reset) else s
  let s := s.modTeam t.id (fun t => { t with preempted := true, saving := false, prism := claim })
  if s.launchOn t.launch (· == t.core) true then s
  else s.modLaunch t.launch (fun l => { l with coresRun := l.coresRun.filter (· != t.core) })

/-- PREEMPT_TEAM (R414): the stopped team `ev.a` settles what is in flight, takes its place in the save area, and its core begins the release; once
that is complete it is not resident, and its image is written. -/
def execPreemptTeam (s : State) : Out :=
  match tfind s.ev.a s.teams with
  | none => .next s
  | some t =>
    let released := !s.rels.any (fun r => r.source == .move t.id) && !s.acqs.any (fun a => a.source == .move t.id)
    if !t.saving || t.preempted || !released then .next s
    else match t.image with
      | some _ => .next (s.evictTeam t)
      | none =>
        if !s.imageReady t then .next s
        else match s.finishFacet t with
          | (s, false) => .next s
          | (s, true) =>
            let s' := s.settleTeam t
            match s'.savesAt t with
            | some place => .next ((s'.modTeam t.id (fun t => { t with image := some place })).startRel t.core 2 (.move t.id))
            | none => .next s

/-! ### Resumption -/

/-- Whether the groups of a team fit in the quarters of a core (DEDUCED, log 62). -/
def State.teamRoom (s : State) (t : Team) (l : Launch) (core : Nat) : Bool :=
  let gs := (tvalues s.groups).filter (fun g => g.team == t.id)
  let share (q : Nat) : Nat := (gs.filter (fun g => g.quarter == q)).length
  decide (core < 192) && !(s.coreState core).outOfService &&
  (List.range 4).all (fun q => s.hasContext core q (share q) && s.hasSpace core q (share q) l.record) &&
  (l.record.scrbytes == 0 || (tfind (clusterOf core) l.claims).isSome ||
    (s.scratchRun (clusterOf core) l.record.scratchBanks).isSome) &&
  (t.prism.isNone || (s.prismOf core).team.isNone)

/-- Whether the resident teams of a team's cluster and die units lie with a core (R175). -/
def State.unitRoom (s : State) (t : Team) (l : Launch) (core : Nat) : Bool :=
  let others := (tvalues s.teams).filter (fun u => u.launch == t.launch && u.id != t.id && !u.preempted)
  others.all (fun u =>
    (!l.record.hasLevel 4 || u.number / l.record.clusterUnit != t.number / l.record.clusterUnit || clusterOf u.core == clusterOf core) &&
    (!l.record.hasLevel 5 || u.number / l.record.dieUnit != t.number / l.record.dieUnit || dieOf u.core == dieOf core))

/-- Whether a class-0 launch waits for placement, which goes before a lower class. -/
def State.class0Waits (s : State) : Bool := match s.placementHead with | some l => l.cls == 0 | none => false

/-- Whether a pre-empted team can be placed again on a core; a team a spare core takes over stays where it is, and one of a
deterministic launch comes back once every lower team is resident or retired (R9, R172, R189, R274, R280) (DEDUCED, log 64). -/
def State.canResume (s : State) (t : Team) (core : Nat) : Bool :=
  t.preempted && (match tfind t.launch s.launches with
    | some l => s.teamRoom t l core && s.unitRoom t l core && (if t.stay then core == t.core else l.cls == 0 || !s.class0Waits) &&
        (!l.record.det || l.record.cosched || s.lowerResident l t.number)
    | none => false)

/-- The groups of a team back in contexts of a core, pending (R278). -/
def State.returnGroup (s : State) (core : Nat) (g : Group) : State :=
  let ctx := s.freeContext core g.quarter
  s.modGroup g.gid (fun g => { g with
    resident := true
    ctx := ctx
    since := s.clock
    readyFrom := s.clock
    pending := g.pending.map (fun e => (e.1, { e.2 with since := s.clock })) })

/-- An instruction in flight that goes to its team's new core at a time; a copy runs on where it began (R154). What stands in a record of kinds 1 to 6
goes on before its gang does (R417). -/
def Op.moveTo (o : Op) (core now : Nat) : Op :=
  match o.kind with
  | .cpy _ _ _ _ _ => o
  | .local _ _ _ _ | .ray _ | .tex _ _ | .closure _ | .spillFill _ => { o with core := core, arrived := now, resumed := !o.performed }
  | _ => { o with core := core, arrived := now }

/-- The unit whose copies an instruction with ACQ drops, where it has one (R103). -/
def Op.acqUnit (o : Op) : Option Nat :=
  if !o.acq || o.performed then none
  else match o.kind with
    | .tex _ _ => some 0
    | .ray _ => some 1
    | .closure _ => some 2
    | _ => none

/-- A team placed again: its groups, its instructions in flight and its array on the new core, and the acquire it waits for
(R91, R172, R414) (DEDUCED, log 61). -/
def State.returnTeam (s : State) (t : Team) (core : Nat) : State :=
  let gs := (tvalues s.groups).filter (fun g => g.team == t.id)
  let s := s.claimScratch t.launch (clusterOf core)
  let s := s.modTeam t.id (fun t => { t with core := core, placedAt := s.clock, preempted := false, saving := true, prism := none })
  let s := gs.foldl (fun s g => s.returnGroup core g) s
  let s := { s with ops := s.ops.map (fun (o : Op) => if gs.any (fun g => g.gid == o.gid) then o.moveTo core s.clock else o) }
  let s := ((s.ops.filter (fun o => gs.any (fun g => g.gid == o.gid))).filterMap Op.acqUnit).foldl (fun s u => s.dropCopiesOf core u) s
  let s := match t.prism with | some a => s.modPrism core (fun _ => a) | none => s
  let s := s.modLaunch t.launch (fun l => { l.noteUnits t.number core with
    coresRun := if l.coresRun.contains core then l.coresRun else core :: l.coresRun })
  let s := if s.launchOn t.launch (fun c => clusterOf c == clusterOf t.core) false then s
    else s.modLaunch t.launch (fun l => { l with claims := terase (clusterOf t.core) l.claims })
  s.newAcq core 2 (.move t.id)

/-- The pre-empted teams of a COSCHED launch placed again together, each on its own core, or none (R181). -/
def State.returnAll (s : State) : List Nat → List Nat → List Nat → Option State
  | _, [], [] => some s
  | used, id :: ids, core :: cores =>
    match tfind id s.teams with
    | none => none
    | some t => if used.contains core || !s.canResume t core then none else (s.returnTeam t core).returnAll (core :: used) ids cores
  | _, _, _ => none

/-- The pre-empted teams of a launch. -/
def State.awayTeams (s : State) (launch : Nat) : List Nat :=
  ((tvalues s.teams).filter (fun t => t.launch == launch && t.preempted)).map (fun t => t.id)

/-- Whether every team of a launch that is to resume together has left its core. -/
def State.allAway (s : State) (launch : Nat) : Bool := (tvalues s.teams).all (fun t => t.launch != launch || t.preempted)

/-- RESUME_TEAM (R414): the pre-empted team `ev.a` is placed whole on core `ev.b`; the teams of a COSCHED launch together, on the cores
`ev.secs`. -/
def execResumeTeam (s : State) : Out :=
  match tfind s.ev.a s.teams with
  | none => .next s
  | some t =>
    if (match s.recordOf t.launch with | some r => r.cosched | none => false) then
      if s.allAway t.launch then .next ((s.returnAll [] (s.awayTeams t.launch) s.ev.secs).getD s) else .next s
    else if s.canResume t s.ev.b then .next (s.returnTeam t s.ev.b) else .next s

/-! ### A core that fails (R9, R437) -/

/-- The CARE row of failing cores. -/
def careCore : Nat := 5

/-- The groups of a team halted, each with an event (R9, R409). -/
def State.haltTeam (s : State) (team : Nat) : State :=
  ((tvalues s.groups).filter (fun g => g.team == team)).foldl (fun s g => s.halt g.gid) s

/-- CORE_FAILURE (R9, R437): core `ev.a` is exchanged with a spare of its die, or leaves service and its teams move; the teams listed in
`ev.secs` are those whose state an error destroyed, which halt. A move under way there ends first. The event of type 0x04 is posted at the
failure, before any team has moved, and its ECODE counts the teams that are resident and not destroyed (DESIGN CHOICE, log 65). -/
def execCoreFailure (s : State) : Out :=
  let core := s.ev.a
  let busy : Bool := (tvalues s.teams).any (fun t => t.core == core && t.saving)
  if core ≥ 192 ∨ (s.coreState core).outOfService = true ∨ busy = true then .next s
  else
    let die := dieOf core
    let used := tget 0 s.spareCores die
    let s := s.count (careIndex careCore die)
    let (lost, here) := ((tvalues s.teams).filter (fun t => t.core == core && !t.preempted)).partition (fun t => s.ev.secs.contains t.id)
    let s := lost.foldl (fun s t => s.haltTeam t.id) s
    let all (s : State) : List Nat := (here.map s.movesWith).flatten.dedup
    if used < 4 then
      .next ({ s with spareCores := tset 0 s.spareCores die (used + 1) }.stopTeams (all s) true)
    else
      let s := (s.modCore core (fun c => { c with outOfService := true })).stopTeams (all s) false
      let s := { s with teams := s.teams.map (fun (e : Nat × Team) =>
        if e.2.core = core ∧ e.2.preempted = true then (e.1, { e.2 with stay := false }) else e) }
      .next (s.postEvent (eventRecord 0x04 die core here.length 0 0 0 0))

end Sys2Proof.Machine
end

