-- ==== Sys2Proof/Machine/VecBits.lean ====
section
/-! DEFINITION. Bit operations, moves and lane-wise conversions (R239 to R247). -/

namespace Sys2Proof.Machine

open Sys2Proof

/-- AND (R239). VF form: bitwise A and B. -/
def execAnd (x : VF) (s : State) : Out := vfLanes (.and x) 0x30 x (fun _ a b _ _ => bitOp .and a b) s

/-- AND_IMM (R239). VI form of AND with the immediate as B. -/
def execAndImm (x : VI) (s : State) : Out := viLanes (.andImm x) 0x30 x (fun _ a b _ _ => bitOp .and a b) s

/-- OR (R239). VF form: bitwise A or B. -/
def execOr (x : VF) (s : State) : Out := vfLanes (.or x) 0x31 x (fun _ a b _ _ => bitOp .or a b) s

/-- OR_IMM (R239). VI form of OR with the immediate as B. -/
def execOrImm (x : VI) (s : State) : Out := viLanes (.orImm x) 0x31 x (fun _ a b _ _ => bitOp .or a b) s

/-- XOR (R239). VF form: bitwise A xor B. -/
def execXor (x : VF) (s : State) : Out := vfLanes (.xor x) 0x32 x (fun _ a b _ _ => bitOp .xor a b) s

/-- XOR_IMM (R239). VI form of XOR with the immediate as B. -/
def execXorImm (x : VI) (s : State) : Out := viLanes (.xorImm x) 0x32 x (fun _ a b _ _ => bitOp .xor a b) s

/-- SHL (R239). VF form: logical left shift of A by B. -/
def execShl (x : VF) (s : State) : Out := vfLanes (.shl x) 0x33 x (fun _ a b _ _ => bitOp .shl a b) s

/-- SHL_IMM (R239). VI form of SHL with the immediate shift count. -/
def execShlImm (x : VI) (s : State) : Out := viLanes (.shlImm x) 0x33 x (fun _ a b _ _ => bitOp .shl a b) s

/-- SHR (R239). VF form: logical right shift of A by B. -/
def execShr (x : VF) (s : State) : Out := vfLanes (.shr x) 0x34 x (fun _ a b _ _ => bitOp .shr a b) s

/-- SHR_IMM (R239). VI form of SHR with the immediate shift count. -/
def execShrImm (x : VI) (s : State) : Out := viLanes (.shrImm x) 0x34 x (fun _ a b _ _ => bitOp .shr a b) s

/-- SAR (R239). VF form: arithmetic right shift of A by B. -/
def execSar (x : VF) (s : State) : Out := vfLanes (.sar x) 0x35 x (fun _ a b _ _ => bitOp .sar a b) s

/-- SAR_IMM (R239). VI form of SAR with the immediate shift count. -/
def execSarImm (x : VI) (s : State) : Out := viLanes (.sarImm x) 0x35 x (fun _ a b _ _ => bitOp .sar a b) s

/-- BFE (R240). VF form: extracts a bit field under a control word. -/
def execBfe (x : VF) (s : State) : Out := vfLanes (.bfe x) 0x36 x (fun _ a b _ _ => bitExtract a b) s

/-- BFE_IMM (R240). VI form of BFE with the immediate control word. -/
def execBfeImm (x : VI) (s : State) : Out := viLanes (.bfeImm x) 0x36 x (fun _ a b _ _ => bitExtract a b) s

/-- BFI (R240). VF form: inserts a bit field into a base under a control word. -/
def execBfi (x : VF) (s : State) : Out := vfLanes (.bfi x) 0x37 x (fun _ a b d _ => bitInsert a b d) s

/-- BFI_IMM (R240). VI form of BFI with the immediate base. -/
def execBfiImm (x : VI) (s : State) : Out := viLanes (.bfiImm x) 0x37 x (fun _ a b d _ => bitInsert a b d) s

/-- POPC (R239). VF form: counts the 1 bits of A. -/
def execPopc (x : VF) (s : State) : Out := vfLanes (.popc x) 0x38 x (fun _ a _ _ _ => BitVec.ofNat 32 (popCount a 32)) s

/-- POPC_IMM (R239). VI form of POPC with the immediate as A. -/
def execPopcImm (x : VI) (s : State) : Out := viLanes (.popcImm x) 0x38 x (fun _ a _ _ _ => BitVec.ofNat 32 (popCount a 32)) s

/-- CLZ (R239). VF form: counts leading zero bits of A. -/
def execClz (x : VF) (s : State) : Out := vfLanes (.clz x) 0x39 x (fun _ a _ _ _ => BitVec.ofNat 32 (leadingZeros a)) s

/-- CLZ_IMM (R239). VI form of CLZ with the immediate as A. -/
def execClzImm (x : VI) (s : State) : Out := viLanes (.clzImm x) 0x39 x (fun _ a _ _ _ => BitVec.ofNat 32 (leadingZeros a)) s

/-- BREV (R239). VF form: reverses the bits of A. -/
def execBrev (x : VF) (s : State) : Out := vfLanes (.brev x) 0x3a x (fun _ a _ _ _ => bitReverse a) s

/-- BREV_IMM (R239). VI form of BREV with the immediate as A. -/
def execBrevImm (x : VI) (s : State) : Out := viLanes (.brevImm x) 0x3a x (fun _ a _ _ _ => bitReverse a) s

/-- MOV (R241). VF form: copies A to the destination. -/
def execMov (x : VF) (s : State) : Out := vfLanes (.mov x) 0x40 x (fun _ a _ _ _ => a) s

/-- MOV_IMM (R241). VI form of MOV loading the sign-extended immediate. -/
def execMovImm (x : VI) (s : State) : Out := viLanes (.movImm x) 0x40 x (fun _ a _ _ _ => a) s

/-- CVT (R244). Converts A between the formats named by the conversion code in SC. -/
def execCvt (x : VF) (s : State) : Out := vfLanes (.cvt x) 0x48 x (fun _ a _ _ old => convert (codeVal x.c) a old) s

/-- CVTSR (R246). Narrows A to FP16 or BF16 with stochastic rounding from B. -/
def execCvtsr (x : VF) (s : State) : Out := vfLanes (.cvtsr x) 0x4a x (fun _ a b _ old => convertSr (codeVal x.c) a b old) s

end Sys2Proof.Machine
end

