-- ==== Sys2Proof/Machine/VecFloat.lean ====
section
/-! DEFINITION. FP32 and packed-half arithmetic and compares (R232 to R235). -/

namespace Sys2Proof.Machine

open Sys2Proof

/-- FADD (R232). VF form: adds sources A and B per acting lane with one RNE rounding after scale. -/
def execFadd (x : VF) (s : State) : Out := vfLanes (.fadd x) 0x00 x (fun fin a b d _ => op32 .add fin a b d) s

/-- FADD_IMM (R232). VI form of FADD with the 20-bit float immediate as source B. -/
def execFaddImm (x : VI) (s : State) : Out := viLanes (.faddImm x) 0x00 x (fun fin a b d _ => op32 .add fin a b d) s

/-- FMUL (R232). VF form: multiplies A by B per acting lane with one rounding. -/
def execFmul (x : VF) (s : State) : Out := vfLanes (.fmul x) 0x01 x (fun fin a b d _ => op32 .mul fin a b d) s

/-- FMUL_IMM (R232). VI form of FMUL with the immediate as source B. -/
def execFmulImm (x : VI) (s : State) : Out := viLanes (.fmulImm x) 0x01 x (fun fin a b d _ => op32 .mul fin a b d) s

/-- FFMA (R232). VF form: computes A times B plus C with the product unrounded and one final rounding. -/
def execFfma (x : VF) (s : State) : Out := vfLanes (.ffma x) 0x02 x (fun fin a b d _ => op32 .fma fin a b d) s

/-- FFMA_IMM (R232). VI form of FFMA with the immediate as source C. -/
def execFfmaImm (x : VI) (s : State) : Out := viLanes (.ffmaImm x) 0x02 x (fun fin a b d _ => op32 .fma fin a b d) s

/-- FMIN (R232). VF form: writes minimumNumber of A and B. -/
def execFmin (x : VF) (s : State) : Out := vfLanes (.fmin x) 0x03 x (fun fin a b d _ => op32 .min fin a b d) s

/-- FMIN_IMM (R232). VI form of FMIN with the immediate as source B. -/
def execFminImm (x : VI) (s : State) : Out := viLanes (.fminImm x) 0x03 x (fun fin a b d _ => op32 .min fin a b d) s

/-- FMAX (R232). VF form: writes maximumNumber of A and B. -/
def execFmax (x : VF) (s : State) : Out := vfLanes (.fmax x) 0x04 x (fun fin a b d _ => op32 .max fin a b d) s

/-- FMAX_IMM (R232). VI form of FMAX with the immediate as source B. -/
def execFmaxImm (x : VI) (s : State) : Out := viLanes (.fmaxImm x) 0x04 x (fun fin a b d _ => op32 .max fin a b d) s

/-- FRCP (R233). VF form: correctly rounded reciprocal of A. -/
def execFrcp (x : VF) (s : State) : Out := vfLanes (.frcp x) 0x05 x (fun fin a _ _ _ => fn32 .rcp fin a) s

/-- FRCP_IMM (R233). VI form of FRCP with the immediate as A. -/
def execFrcpImm (x : VI) (s : State) : Out := viLanes (.frcpImm x) 0x05 x (fun fin a _ _ _ => fn32 .rcp fin a) s

/-- FSQRT (R233). VF form: correctly rounded square root of A. -/
def execFsqrt (x : VF) (s : State) : Out := vfLanes (.fsqrt x) 0x06 x (fun fin a _ _ _ => fn32 .sqrt fin a) s

/-- FSQRT_IMM (R233). VI form of FSQRT with the immediate as A. -/
def execFsqrtImm (x : VI) (s : State) : Out := viLanes (.fsqrtImm x) 0x06 x (fun fin a _ _ _ => fn32 .sqrt fin a) s

/-- FRSQ (R233). VF form: correctly rounded reciprocal square root of A. -/
def execFrsq (x : VF) (s : State) : Out := vfLanes (.frsq x) 0x07 x (fun fin a _ _ _ => fn32 .rsq fin a) s

/-- FRSQ_IMM (R233). VI form of FRSQ with the immediate as A. -/
def execFrsqImm (x : VI) (s : State) : Out := viLanes (.frsqImm x) 0x07 x (fun fin a _ _ _ => fn32 .rsq fin a) s

/-- FEXP2 (R233). VF form: correctly rounded 2 to the power A. -/
def execFexp2 (x : VF) (s : State) : Out := vfLanes (.fexp2 x) 0x08 x (fun fin a _ _ _ => fn32 .exp2 fin a) s

/-- FEXP2_IMM (R233). VI form of FEXP2 with the immediate as A. -/
def execFexp2Imm (x : VI) (s : State) : Out := viLanes (.fexp2Imm x) 0x08 x (fun fin a _ _ _ => fn32 .exp2 fin a) s

/-- FLOG2 (R233). VF form: correctly rounded base-2 logarithm of A. -/
def execFlog2 (x : VF) (s : State) : Out := vfLanes (.flog2 x) 0x09 x (fun fin a _ _ _ => fn32 .log2 fin a) s

/-- FLOG2_IMM (R233). VI form of FLOG2 with the immediate as A. -/
def execFlog2Imm (x : VI) (s : State) : Out := viLanes (.flog2Imm x) 0x09 x (fun fin a _ _ _ => fn32 .log2 fin a) s

/-- FSINPI (R233). VF form: correctly rounded sin(pi A). -/
def execFsinpi (x : VF) (s : State) : Out := vfLanes (.fsinpi x) 0x0a x (fun fin a _ _ _ => fn32 .sinpi fin a) s

/-- FSINPI_IMM (R233). VI form of FSINPI with the immediate as A. -/
def execFsinpiImm (x : VI) (s : State) : Out := viLanes (.fsinpiImm x) 0x0a x (fun fin a _ _ _ => fn32 .sinpi fin a) s

/-- FCOSPI (R233). VF form: correctly rounded cos(pi A). -/
def execFcospi (x : VF) (s : State) : Out := vfLanes (.fcospi x) 0x0b x (fun fin a _ _ _ => fn32 .cospi fin a) s

/-- FCOSPI_IMM (R233). VI form of FCOSPI with the immediate as A. -/
def execFcospiImm (x : VI) (s : State) : Out := viLanes (.fcospiImm x) 0x0b x (fun fin a _ _ _ => fn32 .cospi fin a) s

/-- FFLOOR (R233). VF form: largest integer not above A. -/
def execFfloor (x : VF) (s : State) : Out := vfLanes (.ffloor x) 0x0c x (fun fin a _ _ _ => fn32 .floor fin a) s

/-- FFLOOR_IMM (R233). VI form of FFLOOR with the immediate as A. -/
def execFfloorImm (x : VI) (s : State) : Out := viLanes (.ffloorImm x) 0x0c x (fun fin a _ _ _ => fn32 .floor fin a) s

/-- FFRACT (R233). VF form: A minus floor(A), rounded once. -/
def execFfract (x : VF) (s : State) : Out := vfLanes (.ffract x) 0x0d x (fun fin a _ _ _ => fn32 .fract fin a) s

/-- FFRACT_IMM (R233). VI form of FFRACT with the immediate as A. -/
def execFfractImm (x : VI) (s : State) : Out := viLanes (.ffractImm x) 0x0d x (fun fin a _ _ _ => fn32 .fract fin a) s

/-- FSETP (R234). Compares A with B as floats under a condition code and writes each acting lane's predicate bit. -/
def execFsetp (x : VF) (s : State) : Out := vfLanes (.fsetp x) 0x0e x (fun _ a b _ _ => bif fsetpBit (codeVal x.c) a b then 1 else 0) s

/-- HADD2 (R235). VF form: adds two FP16 halves per lane. -/
def execHadd2 (x : VF) (s : State) : Out := vfLanes (.hadd2 x) 0x10 x (fun fin a b d _ => op16 f16 .add fin a b d) s

/-- HADD2_IMM (R235). VI form of HADD2 reading the immediate as a 32-bit pattern. -/
def execHadd2Imm (x : VI) (s : State) : Out := viLanes (.hadd2Imm x) 0x10 x (fun fin a b d _ => op16 f16 .add fin a b d) s

/-- HMUL2 (R235). VF form: multiplies two FP16 halves per lane. -/
def execHmul2 (x : VF) (s : State) : Out := vfLanes (.hmul2 x) 0x11 x (fun fin a b d _ => op16 f16 .mul fin a b d) s

/-- HMUL2_IMM (R235). VI form of HMUL2 with the immediate as B. -/
def execHmul2Imm (x : VI) (s : State) : Out := viLanes (.hmul2Imm x) 0x11 x (fun fin a b d _ => op16 f16 .mul fin a b d) s

/-- HFMA2 (R235). VF form: fused multiply-add on two FP16 halves per lane. -/
def execHfma2 (x : VF) (s : State) : Out := vfLanes (.hfma2 x) 0x12 x (fun fin a b d _ => op16 f16 .fma fin a b d) s

/-- HFMA2_IMM (R235). VI form of HFMA2 with the immediate as C. -/
def execHfma2Imm (x : VI) (s : State) : Out := viLanes (.hfma2Imm x) 0x12 x (fun fin a b d _ => op16 f16 .fma fin a b d) s

/-- BFMA2 (R235). VF form: fused multiply-add on two BF16 halves per lane. -/
def execBfma2 (x : VF) (s : State) : Out := vfLanes (.bfma2 x) 0x13 x (fun fin a b d _ => op16 bf16 .fma fin a b d) s

/-- BFMA2_IMM (R235). VI form of BFMA2 with the immediate as C. -/
def execBfma2Imm (x : VI) (s : State) : Out := viLanes (.bfma2Imm x) 0x13 x (fun fin a b d _ => op16 bf16 .fma fin a b d) s

end Sys2Proof.Machine
end

