-- ==== Sys2Proof/Machine/VecInt.lean ====
section
/-! DEFINITION. Integer arithmetic and compares (R234, R237, R238). -/

namespace Sys2Proof.Machine

open Sys2Proof

/-- IDP4 (R237). VF form: signed dot product of four INT8 pairs plus C. -/
def execIdp4 (x : VF) (s : State) : Out := vfLanes (.idp4 x) 0x1a x (fun fin a b d _ => idp4Word fin a b d) s

/-- IDP4_IMM (R237). VI form of IDP4 with the immediate as C. -/
def execIdp4Imm (x : VI) (s : State) : Out := viLanes (.idp4Imm x) 0x1a x (fun fin a b d _ => idp4Word fin a b d) s

/-- IADD (R238). VF form: integer A plus B, wrapping or saturating. -/
def execIadd (x : VF) (s : State) : Out := vfLanes (.iadd x) 0x20 x (fun fin a b d _ => intOp .add fin a b d) s

/-- IADD_IMM (R238). VI form of IADD with the sign-extended immediate as B. -/
def execIaddImm (x : VI) (s : State) : Out := viLanes (.iaddImm x) 0x20 x (fun fin a b d _ => intOp .add fin a b d) s

/-- ISUB (R238). VF form: integer A minus B. -/
def execIsub (x : VF) (s : State) : Out := vfLanes (.isub x) 0x21 x (fun fin a b d _ => intOp .sub fin a b d) s

/-- ISUB_IMM (R238). VI form of ISUB with the immediate as B. -/
def execIsubImm (x : VI) (s : State) : Out := viLanes (.isubImm x) 0x21 x (fun fin a b d _ => intOp .sub fin a b d) s

/-- IMUL (R238). VF form: low 32 bits of signed A times B. -/
def execImul (x : VF) (s : State) : Out := vfLanes (.imul x) 0x22 x (fun fin a b d _ => intOp .mul fin a b d) s

/-- IMUL_IMM (R238). VI form of IMUL with the immediate as B. -/
def execImulImm (x : VI) (s : State) : Out := viLanes (.imulImm x) 0x22 x (fun fin a b d _ => intOp .mul fin a b d) s

/-- IMULH (R238). VF form: high word of signed A times B. -/
def execImulh (x : VF) (s : State) : Out := vfLanes (.imulh x) 0x23 x (fun fin a b d _ => intOp .mulh fin a b d) s

/-- IMULH_IMM (R238). VI form of IMULH with the immediate as B. -/
def execImulhImm (x : VI) (s : State) : Out := viLanes (.imulhImm x) 0x23 x (fun fin a b d _ => intOp .mulh fin a b d) s

/-- UMULH (R238). VF form: high word of unsigned A times B. -/
def execUmulh (x : VF) (s : State) : Out := vfLanes (.umulh x) 0x24 x (fun fin a b d _ => intOp .umulh fin a b d) s

/-- UMULH_IMM (R238). VI form of UMULH with the immediate as B. -/
def execUmulhImm (x : VI) (s : State) : Out := viLanes (.umulhImm x) 0x24 x (fun fin a b d _ => intOp .umulh fin a b d) s

/-- IMAD (R238). VF form: integer A times B plus C. -/
def execImad (x : VF) (s : State) : Out := vfLanes (.imad x) 0x25 x (fun fin a b d _ => intOp .mad fin a b d) s

/-- IMAD_IMM (R238). VI form of IMAD with the immediate as C. -/
def execImadImm (x : VI) (s : State) : Out := viLanes (.imadImm x) 0x25 x (fun fin a b d _ => intOp .mad fin a b d) s

/-- IMIN (R238). VF form: signed minimum of A and B. -/
def execImin (x : VF) (s : State) : Out := vfLanes (.imin x) 0x26 x (fun fin a b d _ => intOp .smin fin a b d) s

/-- IMIN_IMM (R238). VI form of IMIN with the immediate as B. -/
def execIminImm (x : VI) (s : State) : Out := viLanes (.iminImm x) 0x26 x (fun fin a b d _ => intOp .smin fin a b d) s

/-- IMAX (R238). VF form: signed maximum of A and B. -/
def execImax (x : VF) (s : State) : Out := vfLanes (.imax x) 0x27 x (fun fin a b d _ => intOp .smax fin a b d) s

/-- IMAX_IMM (R238). VI form of IMAX with the immediate as B. -/
def execImaxImm (x : VI) (s : State) : Out := viLanes (.imaxImm x) 0x27 x (fun fin a b d _ => intOp .smax fin a b d) s

/-- UMIN (R238). VF form: unsigned minimum of A and B. -/
def execUmin (x : VF) (s : State) : Out := vfLanes (.umin x) 0x28 x (fun fin a b d _ => intOp .umin fin a b d) s

/-- UMIN_IMM (R238). VI form of UMIN with the immediate as B. -/
def execUminImm (x : VI) (s : State) : Out := viLanes (.uminImm x) 0x28 x (fun fin a b d _ => intOp .umin fin a b d) s

/-- UMAX (R238). VF form: unsigned maximum of A and B. -/
def execUmax (x : VF) (s : State) : Out := vfLanes (.umax x) 0x29 x (fun fin a b d _ => intOp .umax fin a b d) s

/-- UMAX_IMM (R238). VI form of UMAX with the immediate as B. -/
def execUmaxImm (x : VI) (s : State) : Out := viLanes (.umaxImm x) 0x29 x (fun fin a b d _ => intOp .umax fin a b d) s

/-- ISETP (R234). Compares A with B as signed integers and writes each acting lane's predicate bit. -/
def execIsetp (x : VF) (s : State) : Out := vfLanes (.isetp x) 0x2a x (fun _ a b _ _ => bif setpBit (codeVal x.c) (sint a) (sint b) then 1 else 0) s

/-- USETP (R234). Compares A with B as unsigned integers and writes each acting lane's predicate bit. -/
def execUsetp (x : VF) (s : State) : Out := vfLanes (.usetp x) 0x2b x (fun _ a b _ _ => bif setpBit (codeVal x.c) a.toNat b.toNat then 1 else 0) s

end Sys2Proof.Machine
end

