-- ==== Sys2Proof/Machine/Dispatch.lean ====
section
/-! DEFINITION. The meaning of every instruction and event, one direct call each. -/

namespace Sys2Proof.Machine

open Sys2Proof

/-- One step of the machine by its instruction or event. -/
def exec (i : Instr) (s : State) : Host.Outcome State Fault Refusal :=
  match i with
  | .fadd x => Sys2Proof.Machine.execFadd x s
  | .faddImm x => Sys2Proof.Machine.execFaddImm x s
  | .fmul x => Sys2Proof.Machine.execFmul x s
  | .fmulImm x => Sys2Proof.Machine.execFmulImm x s
  | .ffma x => Sys2Proof.Machine.execFfma x s
  | .ffmaImm x => Sys2Proof.Machine.execFfmaImm x s
  | .fmin x => Sys2Proof.Machine.execFmin x s
  | .fminImm x => Sys2Proof.Machine.execFminImm x s
  | .fmax x => Sys2Proof.Machine.execFmax x s
  | .fmaxImm x => Sys2Proof.Machine.execFmaxImm x s
  | .frcp x => Sys2Proof.Machine.execFrcp x s
  | .frcpImm x => Sys2Proof.Machine.execFrcpImm x s
  | .fsqrt x => Sys2Proof.Machine.execFsqrt x s
  | .fsqrtImm x => Sys2Proof.Machine.execFsqrtImm x s
  | .frsq x => Sys2Proof.Machine.execFrsq x s
  | .frsqImm x => Sys2Proof.Machine.execFrsqImm x s
  | .fexp2 x => Sys2Proof.Machine.execFexp2 x s
  | .fexp2Imm x => Sys2Proof.Machine.execFexp2Imm x s
  | .flog2 x => Sys2Proof.Machine.execFlog2 x s
  | .flog2Imm x => Sys2Proof.Machine.execFlog2Imm x s
  | .fsinpi x => Sys2Proof.Machine.execFsinpi x s
  | .fsinpiImm x => Sys2Proof.Machine.execFsinpiImm x s
  | .fcospi x => Sys2Proof.Machine.execFcospi x s
  | .fcospiImm x => Sys2Proof.Machine.execFcospiImm x s
  | .ffloor x => Sys2Proof.Machine.execFfloor x s
  | .ffloorImm x => Sys2Proof.Machine.execFfloorImm x s
  | .ffract x => Sys2Proof.Machine.execFfract x s
  | .ffractImm x => Sys2Proof.Machine.execFfractImm x s
  | .fsetp x => Sys2Proof.Machine.execFsetp x s
  | .hadd2 x => Sys2Proof.Machine.execHadd2 x s
  | .hadd2Imm x => Sys2Proof.Machine.execHadd2Imm x s
  | .hmul2 x => Sys2Proof.Machine.execHmul2 x s
  | .hmul2Imm x => Sys2Proof.Machine.execHmul2Imm x s
  | .hfma2 x => Sys2Proof.Machine.execHfma2 x s
  | .hfma2Imm x => Sys2Proof.Machine.execHfma2Imm x s
  | .bfma2 x => Sys2Proof.Machine.execBfma2 x s
  | .bfma2Imm x => Sys2Proof.Machine.execBfma2Imm x s
  | .dot16e4 x => Sys2Proof.Machine.execDot16e4 x s
  | .dot16e5 x => Sys2Proof.Machine.execDot16e5 x s
  | .idp4 x => Sys2Proof.Machine.execIdp4 x s
  | .idp4Imm x => Sys2Proof.Machine.execIdp4Imm x s
  | .iadd x => Sys2Proof.Machine.execIadd x s
  | .iaddImm x => Sys2Proof.Machine.execIaddImm x s
  | .isub x => Sys2Proof.Machine.execIsub x s
  | .isubImm x => Sys2Proof.Machine.execIsubImm x s
  | .imul x => Sys2Proof.Machine.execImul x s
  | .imulImm x => Sys2Proof.Machine.execImulImm x s
  | .imulh x => Sys2Proof.Machine.execImulh x s
  | .imulhImm x => Sys2Proof.Machine.execImulhImm x s
  | .umulh x => Sys2Proof.Machine.execUmulh x s
  | .umulhImm x => Sys2Proof.Machine.execUmulhImm x s
  | .imad x => Sys2Proof.Machine.execImad x s
  | .imadImm x => Sys2Proof.Machine.execImadImm x s
  | .imin x => Sys2Proof.Machine.execImin x s
  | .iminImm x => Sys2Proof.Machine.execIminImm x s
  | .imax x => Sys2Proof.Machine.execImax x s
  | .imaxImm x => Sys2Proof.Machine.execImaxImm x s
  | .umin x => Sys2Proof.Machine.execUmin x s
  | .uminImm x => Sys2Proof.Machine.execUminImm x s
  | .umax x => Sys2Proof.Machine.execUmax x s
  | .umaxImm x => Sys2Proof.Machine.execUmaxImm x s
  | .isetp x => Sys2Proof.Machine.execIsetp x s
  | .usetp x => Sys2Proof.Machine.execUsetp x s
  | .and x => Sys2Proof.Machine.execAnd x s
  | .andImm x => Sys2Proof.Machine.execAndImm x s
  | .or x => Sys2Proof.Machine.execOr x s
  | .orImm x => Sys2Proof.Machine.execOrImm x s
  | .xor x => Sys2Proof.Machine.execXor x s
  | .xorImm x => Sys2Proof.Machine.execXorImm x s
  | .shl x => Sys2Proof.Machine.execShl x s
  | .shlImm x => Sys2Proof.Machine.execShlImm x s
  | .shr x => Sys2Proof.Machine.execShr x s
  | .shrImm x => Sys2Proof.Machine.execShrImm x s
  | .sar x => Sys2Proof.Machine.execSar x s
  | .sarImm x => Sys2Proof.Machine.execSarImm x s
  | .bfe x => Sys2Proof.Machine.execBfe x s
  | .bfeImm x => Sys2Proof.Machine.execBfeImm x s
  | .bfi x => Sys2Proof.Machine.execBfi x s
  | .bfiImm x => Sys2Proof.Machine.execBfiImm x s
  | .popc x => Sys2Proof.Machine.execPopc x s
  | .popcImm x => Sys2Proof.Machine.execPopcImm x s
  | .clz x => Sys2Proof.Machine.execClz x s
  | .clzImm x => Sys2Proof.Machine.execClzImm x s
  | .brev x => Sys2Proof.Machine.execBrev x s
  | .brevImm x => Sys2Proof.Machine.execBrevImm x s
  | .mov x => Sys2Proof.Machine.execMov x s
  | .movImm x => Sys2Proof.Machine.execMovImm x s
  | .sel x => Sys2Proof.Machine.execSel x s
  | .vidx x => Sys2Proof.Machine.execVidx x s
  | .vidxw x => Sys2Proof.Machine.execVidxw x s
  | .cvt x => Sys2Proof.Machine.execCvt x s
  | .cvtef x => Sys2Proof.Machine.execCvtef x s
  | .cvtsr x => Sys2Proof.Machine.execCvtsr x s
  | .rng x => Sys2Proof.Machine.execRng x s
  | .shfl x => Sys2Proof.Machine.execShfl x s
  | .shflImm x => Sys2Proof.Machine.execShflImm x s
  | .putl x => Sys2Proof.Machine.execPutl x s
  | .putlImm x => Sys2Proof.Machine.execPutlImm x s
  | .vote x => Sys2Proof.Machine.execVote x s
  | .ballot x => Sys2Proof.Machine.execBallot x s
  | .ballotImm x => Sys2Proof.Machine.execBallotImm x s
  | .redux x => Sys2Proof.Machine.execRedux x s
  | .faddSlot x y => Sys2Proof.Machine.execFaddSlot x y s
  | .fmulSlot x y => Sys2Proof.Machine.execFmulSlot x y s
  | .fminSlot x y => Sys2Proof.Machine.execFminSlot x y s
  | .fmaxSlot x y => Sys2Proof.Machine.execFmaxSlot x y s
  | .iaddSlot x y => Sys2Proof.Machine.execIaddSlot x y s
  | .isubSlot x y => Sys2Proof.Machine.execIsubSlot x y s
  | .imulSlot x y => Sys2Proof.Machine.execImulSlot x y s
  | .andSlot x y => Sys2Proof.Machine.execAndSlot x y s
  | .orSlot x y => Sys2Proof.Machine.execOrSlot x y s
  | .xorSlot x y => Sys2Proof.Machine.execXorSlot x y s
  | .shlSlot x y => Sys2Proof.Machine.execShlSlot x y s
  | .shrSlot x y => Sys2Proof.Machine.execShrSlot x y s
  | .sarSlot x y => Sys2Proof.Machine.execSarSlot x y s
  | .movSlot x y => Sys2Proof.Machine.execMovSlot x y s
  | .iminSlot x y => Sys2Proof.Machine.execIminSlot x y s
  | .imaxSlot x y => Sys2Proof.Machine.execImaxSlot x y s
  | .hadd2Slot x y => Sys2Proof.Machine.execHadd2Slot x y s
  | .hmul2Slot x y => Sys2Proof.Machine.execHmul2Slot x y s
  | .slotNop y => Sys2Proof.Machine.execSlotNop y s
  | .sadd x => Sys2Proof.Machine.execSadd x s
  | .ssub x => Sys2Proof.Machine.execSsub x s
  | .smul x => Sys2Proof.Machine.execSmul x s
  | .smulh x => Sys2Proof.Machine.execSmulh x s
  | .sand x => Sys2Proof.Machine.execSand x s
  | .sor x => Sys2Proof.Machine.execSor x s
  | .sxor x => Sys2Proof.Machine.execSxor x s
  | .sshl x => Sys2Proof.Machine.execSshl x s
  | .sshr x => Sys2Proof.Machine.execSshr x s
  | .ssar x => Sys2Proof.Machine.execSsar x s
  | .smin x => Sys2Proof.Machine.execSmin x s
  | .smax x => Sys2Proof.Machine.execSmax x s
  | .smov x => Sys2Proof.Machine.execSmov x s
  | .ssetp x => Sys2Proof.Machine.execSsetp x s
  | .ssel x => Sys2Proof.Machine.execSsel x s
  | .sfadd x => Sys2Proof.Machine.execSfadd x s
  | .sfmul x => Sys2Proof.Machine.execSfmul x s
  | .sffma x => Sys2Proof.Machine.execSffma x s
  | .sbfe x => Sys2Proof.Machine.execSbfe x s
  | .spopc x => Sys2Proof.Machine.execSpopc x s
  | .sread x => Sys2Proof.Machine.execSread x s
  | .swrite x => Sys2Proof.Machine.execSwrite x s
  | .sfromv x => Sys2Proof.Machine.execSfromv x s
  | .ldB x => Sys2Proof.Machine.execLdB x s
  | .ldH x => Sys2Proof.Machine.execLdH x s
  | .ldW x => Sys2Proof.Machine.execLdW x s
  | .ldD x => Sys2Proof.Machine.execLdD x s
  | .ldQ x => Sys2Proof.Machine.execLdQ x s
  | .ldBs x => Sys2Proof.Machine.execLdBs x s
  | .ldHs x => Sys2Proof.Machine.execLdHs x s
  | .stB x => Sys2Proof.Machine.execStB x s
  | .stH x => Sys2Proof.Machine.execStH x s
  | .stW x => Sys2Proof.Machine.execStW x s
  | .stD x => Sys2Proof.Machine.execStD x s
  | .stQ x => Sys2Proof.Machine.execStQ x s
  | .lduW x => Sys2Proof.Machine.execLduW x s
  | .lduD x => Sys2Proof.Machine.execLduD x s
  | .ldc x => Sys2Proof.Machine.execLdc x s
  | .ldsW x => Sys2Proof.Machine.execLdsW x s
  | .ldsD x => Sys2Proof.Machine.execLdsD x s
  | .ldsQ x => Sys2Proof.Machine.execLdsQ x s
  | .stsW x => Sys2Proof.Machine.execStsW x s
  | .stsD x => Sys2Proof.Machine.execStsD x s
  | .stsQ x => Sys2Proof.Machine.execStsQ x s
  | .atomAdd x => Sys2Proof.Machine.execAtomAdd x s
  | .atomMin x => Sys2Proof.Machine.execAtomMin x s
  | .atomMax x => Sys2Proof.Machine.execAtomMax x s
  | .atomUmin x => Sys2Proof.Machine.execAtomUmin x s
  | .atomUmax x => Sys2Proof.Machine.execAtomUmax x s
  | .atomAnd x => Sys2Proof.Machine.execAtomAnd x s
  | .atomOr x => Sys2Proof.Machine.execAtomOr x s
  | .atomXor x => Sys2Proof.Machine.execAtomXor x s
  | .atomXchg x => Sys2Proof.Machine.execAtomXchg x s
  | .atomCas x => Sys2Proof.Machine.execAtomCas x s
  | .atomFadd x => Sys2Proof.Machine.execAtomFadd x s
  | .atomFmin x => Sys2Proof.Machine.execAtomFmin x s
  | .atomFmax x => Sys2Proof.Machine.execAtomFmax x s
  | .redAdd x => Sys2Proof.Machine.execRedAdd x s
  | .redMin x => Sys2Proof.Machine.execRedMin x s
  | .redMax x => Sys2Proof.Machine.execRedMax x s
  | .redUmin x => Sys2Proof.Machine.execRedUmin x s
  | .redUmax x => Sys2Proof.Machine.execRedUmax x s
  | .redAnd x => Sys2Proof.Machine.execRedAnd x s
  | .redOr x => Sys2Proof.Machine.execRedOr x s
  | .redXor x => Sys2Proof.Machine.execRedXor x s
  | .redXchg x => Sys2Proof.Machine.execRedXchg x s
  | .redCas x => Sys2Proof.Machine.execRedCas x s
  | .redFadd x => Sys2Proof.Machine.execRedFadd x s
  | .redFmin x => Sys2Proof.Machine.execRedFmin x s
  | .redFmax x => Sys2Proof.Machine.execRedFmax x s
  | .phase x => Sys2Proof.Machine.execPhase x s
  | .pref x => Sys2Proof.Machine.execPref x s
  | .cpyIn x => Sys2Proof.Machine.execCpyIn x s
  | .cpyOut x => Sys2Proof.Machine.execCpyOut x s
  | .cbank x => Sys2Proof.Machine.execCbank x s
  | .qbind x => Sys2Proof.Machine.execQbind x s
  | .wakeToken x => Sys2Proof.Machine.execWakeToken x s
  | .wakePage x => Sys2Proof.Machine.execWakePage x s
  | .bra x => Sys2Proof.Machine.execBra x s
  | .brx x => Sys2Proof.Machine.execBrx x s
  | .call x => Sys2Proof.Machine.execCall x s
  | .ret x => Sys2Proof.Machine.execRet x s
  | .ppush x => Sys2Proof.Machine.execPpush x s
  | .pinv => Sys2Proof.Machine.execPinv s
  | .ppop => Sys2Proof.Machine.execPpop s
  | .regang => Sys2Proof.Machine.execRegang s
  | .waitf x => Sys2Proof.Machine.execWaitf x s
  | .yield => Sys2Proof.Machine.execYield s
  | .exit => Sys2Proof.Machine.execExit s
  | .trap x => Sys2Proof.Machine.execTrap x s
  | .nop => Sys2Proof.Machine.execNop s
  | .barInit x => Sys2Proof.Machine.execBarInit x s
  | .barArv x => Sys2Proof.Machine.execBarArv x s
  | .barWait x => Sys2Proof.Machine.execBarWait x s
  | .barSync x => Sys2Proof.Machine.execBarSync x s
  | .barDrop x => Sys2Proof.Machine.execBarDrop x s
  | .sloop x => Sys2Proof.Machine.execSloop x s
  | .trapret => Sys2Proof.Machine.execTrapret s
  | .syscall x => Sys2Proof.Machine.execSyscall x s
  | .litexec => Sys2Proof.Machine.execLitexec s
  | .mmload x => Sys2Proof.Machine.execMmload x s
  | .mmrun x => Sys2Proof.Machine.execMmrun x s
  | .mmdrainMem x => Sys2Proof.Machine.execMmdrainMem x s
  | .mmdrainLoc x => Sys2Proof.Machine.execMmdrainLoc x s
  | .mmdrainRing x => Sys2Proof.Machine.execMmdrainRing x s
  | .mmdrainQ8 x => Sys2Proof.Machine.execMmdrainQ8 x s
  | .mmdrainStat x => Sys2Proof.Machine.execMmdrainStat x s
  | .spawn x => Sys2Proof.Machine.execSpawn x s
  | .task x => Sys2Proof.Machine.execTask x s
  | .tabortRetry => Sys2Proof.Machine.execTabortRetry s
  | .tabortDrop => Sys2Proof.Machine.execTabortDrop s
  | .twait x => Sys2Proof.Machine.execTwait x s
  | .texS x => Sys2Proof.Machine.execTexS x s
  | .texL x => Sys2Proof.Machine.execTexL x s
  | .texQ x => Sys2Proof.Machine.execTexQ x s
  | .rayT x => Sys2Proof.Machine.execRayT x s
  | .rayO x => Sys2Proof.Machine.execRayO x s
  | .rayA x => Sys2Proof.Machine.execRayA x s
  | .kclr x => Sys2Proof.Machine.execKclr x s
  | .klobe x => Sys2Proof.Machine.execKlobe x s
  | .kmix x => Sys2Proof.Machine.execKmix x s
  | .klayer x => Sys2Proof.Machine.execKlayer x s
  | .kscale x => Sys2Proof.Machine.execKscale x s
  | .ksample x => Sys2Proof.Machine.execKsample x s
  | .keval x => Sys2Proof.Machine.execKeval x s
  | .kdens x => Sys2Proof.Machine.execKdens x s
  | .kspill x => Sys2Proof.Machine.execKspill x s
  | .kfill x => Sys2Proof.Machine.execKfill x s
  | .kinfo x => Sys2Proof.Machine.execKinfo x s
  | .kmov x => Sys2Proof.Machine.execKmov x s
  | .tcInv => Sys2Proof.Machine.execTcInv s
  | .tcInvFlush => Sys2Proof.Machine.execTcInvFlush s
  | .tcInvAll => Sys2Proof.Machine.execTcInvAll s
  | .tcPcopy => Sys2Proof.Machine.execTcPcopy s
  | .tccmdInvalid => Sys2Proof.Machine.execTccmdInvalid s
  | .tcCommandDone => Sys2Proof.Machine.execTcCommandDone s
  | .tcstatRead => Sys2Proof.Machine.execTcstatRead s
  | .registerWrite => Sys2Proof.Machine.execRegisterWrite s
  | .translationAnswer => Sys2Proof.Machine.execTranslationAnswer s
  | .releaseBoundary => Sys2Proof.Machine.execReleaseBoundary s
  | .acquireBoundary => Sys2Proof.Machine.execAcquireBoundary s
  | .implicitBoundary => Sys2Proof.Machine.execImplicitBoundary s
  | .immediateAtHome => Sys2Proof.Machine.execImmediateAtHome s
  | .atomicAtHome => Sys2Proof.Machine.execAtomicAtHome s
  | .longLatencyComplete => Sys2Proof.Machine.execLongLatencyComplete s
  | .clbmodeWrite => Sys2Proof.Machine.execClbmodeWrite s
  | .bankModeChange => Sys2Proof.Machine.execBankModeChange s
  | .granuleServe => Sys2Proof.Machine.execGranuleServe s
  | .queueElementServe => Sys2Proof.Machine.execQueueElementServe s
  | .teamPlacement => Sys2Proof.Machine.execTeamPlacement s
  | .groupRetire => Sys2Proof.Machine.execGroupRetire s
  | .activeSetExchange => Sys2Proof.Machine.execActiveSetExchange s
  | .istabWrite => Sys2Proof.Machine.execIstabWrite s
  | .regangMeet => Sys2Proof.Machine.execRegangMeet s
  | .yieldEnd => Sys2Proof.Machine.execYieldEnd s
  | .qdoor => Sys2Proof.Machine.execQdoor s
  | .nopPacket => Sys2Proof.Machine.execNopPacket s
  | .launchPacket => Sys2Proof.Machine.execLaunchPacket s
  | .launchIndPacket => Sys2Proof.Machine.execLaunchIndPacket s
  | .waitPacket => Sys2Proof.Machine.execWaitPacket s
  | .waitRecheck => Sys2Proof.Machine.execWaitRecheck s
  | .signalPacket => Sys2Proof.Machine.execSignalPacket s
  | .copyPacket => Sys2Proof.Machine.execCopyPacket s
  | .loopPacket => Sys2Proof.Machine.execLoopPacket s
  | .endLoopPacket => Sys2Proof.Machine.execEndLoopPacket s
  | .ifPacket => Sys2Proof.Machine.execIfPacket s
  | .orderPacket => Sys2Proof.Machine.execOrderPacket s
  | .queueTimeslice => Sys2Proof.Machine.execQueueTimeslice s
  | .deadlineMiss => Sys2Proof.Machine.execDeadlineMiss s
  | .queueRegister => Sys2Proof.Machine.execQueueRegister s
  | .queueUnregister => Sys2Proof.Machine.execQueueUnregister s
  | .syscallAnswer => Sys2Proof.Machine.execSyscallAnswer s
  | .ringPosting => Sys2Proof.Machine.execRingPosting s
  | .ringRegWrite => Sys2Proof.Machine.execRingRegWrite s
  | .eventPost => Sys2Proof.Machine.execEventPost s
  | .evqRegWrite => Sys2Proof.Machine.execEvqRegWrite s
  | .gkill => Sys2Proof.Machine.execGkill s
  | .acmd => Sys2Proof.Machine.execAcmd s
  | .attestReportReady => Sys2Proof.Machine.execAttestReportReady s
  | .careClear => Sys2Proof.Machine.execCareClear s
  | .hostIpaAccess => Sys2Proof.Machine.execHostIpaAccess s
  | .flitReceive => Sys2Proof.Machine.execFlitReceive s
  | .flitReplay => Sys2Proof.Machine.execFlitReplay s
  | .laneFailure => Sys2Proof.Machine.execLaneFailure s
  | .timebSync => Sys2Proof.Machine.execTimebSync s
  | .bootRom => Sys2Proof.Machine.execBootRom s
  | .imageVerify => Sys2Proof.Machine.execImageVerify s
  | .fullServiceStart => Sys2Proof.Machine.execFullServiceStart s
  | .clockStretch => Sys2Proof.Machine.execClockStretch s
  | .coreFailure => Sys2Proof.Machine.execCoreFailure s
  | .l2SliceFailure => Sys2Proof.Machine.execL2SliceFailure s
  | .softError => Sys2Proof.Machine.execSoftError s
  | .uncorrectableGroupError => Sys2Proof.Machine.execUncorrectableGroupError s
  | .preemptTeam => Sys2Proof.Machine.execPreemptTeam s
  | .resumeTeam => Sys2Proof.Machine.execResumeTeam s
  | .taskDispatch => Sys2Proof.Machine.execTaskDispatch s
  | .taskFinish => Sys2Proof.Machine.execTaskFinish s
  | .taskCommit => Sys2Proof.Machine.execTaskCommit s
  | .tokenPass => Sys2Proof.Machine.execTokenPass s
  | .foreignAtomicApply => Sys2Proof.Machine.execForeignAtomicApply s
  | .prismCommandStart => Sys2Proof.Machine.execPrismCommandStart s
  | .rayLaneFinish => Sys2Proof.Machine.execRayLaneFinish s
  | .illegalInstruction => Sys2Proof.Machine.execIllegalInstruction s
  | .fetchFault => Sys2Proof.Machine.execFetchFault s
  | .hbmSymbolError => Sys2Proof.Machine.execHbmSymbolError s
  | .pageTableWrite => Sys2Proof.Machine.execPageTableWrite s

end Sys2Proof.Machine
end

