-- ==== Sys2Proof/Machine/Pick.lean ====
section
/-! DEFINITION. Which groups a quarter picks in a cycle (R125, R277, R279, R280): pipes, bank-use vectors and the two picks. -/

namespace Sys2Proof.Machine

open Sys2Proof

/-! ### Pipes and banks (R125, R279) -/

/-- The issue pipes (R279). -/
inductive Pipe where
  | fp
  | int
  | mem
  | eng
  deriving DecidableEq, Repr

/-- The pipe of a vector opcode's class. -/
def classPipe : OpClass → Pipe
  | .F | .H | .D => .fp
  | _ => .int

/-- Whether a PAIR slot is an integer or logic operation. -/
def slotIsInt : SlotOp → Bool
  | .fadd | .fmul | .fmin | .fmax | .hadd2 | .hmul2 => false
  | _ => true

/-- The pipe an instruction issues on (R279). -/
def formPipe : Form → Pipe
  | .vf op _ | .vi op _ => classPipe (vecSpec op).cls
  | .sf _ _ => .int
  | .mem _ _ => .mem
  | .pair op _ y => if slotIsInt op && slotIsInt y.op then .int else .fp
  | _ => .eng

/-- Whether a VF word's result is narrow, so that its destination is read as well (R244, R245, R246). -/
def readsDst (op : Nat) (x : VF) : Bool := op == 0x48 && decide (codeVal x.c / 16 < 4) || op == 0x49 || op == 0x4a

/-- The vector registers an instruction's sources name, with the source position where a latch may supply it: in a VF or VI word alone (R124, R244)
(DESIGN CHOICE, log 103). A CAS reads the register it writes (R142). -/
def vectorSources (f : Form) : List (Option Nat × Nat) :=
  let at' (pos : Option Nat) (run : Nat) (r : Src) : List (Option Nat × Nat) :=
    match r.vreg? with | some n => (List.range run).map (fun k => (pos, n + k)) | none => []
  match f with
  | .vf op x =>
    let run := if op = 0x18 ∨ op = 0x19 then 4 else 1
    at' (some 0) run x.a ++ at' (some 1) run x.b ++ at' (some 2) 1 x.c
      ++ (match x.dst with | .v n => if readsDst op x then [(none, n.val)] else [] | _ => [])
  | .vi _ x => at' (some 0) 1 x.a ++ at' (some 1) 1 x.b
  | .pair _ x y => at' none 1 x.a ++ at' none 1 x.b ++ at' none 1 y.args.a ++ at' none 1 y.args.b
  | f =>
    let written := match f with | .mem 0x29 _ => [] | f => opDsts f
    (((formCodes f).filter (fun n => decide (n < 0x80))).diff written).map (fun n => (none, n))

/-- Whether a word is a VIDX or VIDXW, whose registers are unknown at issue (R242). -/
def indexes : Form → Bool
  | .vf op _ => op == 0x42 || op == 0x43
  | _ => false

/-- The bank-use vector of an instruction, as the banks whose bit is set: what the group's latch supplies reads no bank, and VIDX and VIDXW hold
all four (R125, R242). -/
def bankUse (f : Form) (g : Group) : List Nat :=
  if indexes f then [0, 1, 2, 3] else
  (((vectorSources f).filter (fun e => match e.1 with | some p => !g.latch.contains (p, e.2) | none => true)).map (fun e => e.2 % 4)).dedup

/-! ### The picks of a quarter (R279) -/

/-- The active groups of a quarter that have a ready gang and are allowed to issue (R277, R280). -/
def State.candidates (s : State) (core q : Nat) : List Group :=
  (s.quarterOf core q).filter (fun g => g.active && s.groupReady g && (issueCtx (s.offer g.gid)).isSome)

/-- Whether a group goes before another: ready for longer, then of the lower context (R279). -/
def readyBefore (g h : Group) : Bool := decide (g.readyFrom < h.readyFrom) || (g.readyFrom == h.readyFrom && decide (g.ctx ≤ h.ctx))

/-- The group of a list that has been ready longest. -/
def longestReady : List Group → Option Group
  | [] => none
  | g :: gs =>
    match longestReady gs with
    | none => some g
    | some h => if readyBefore g h then some g else some h

/-- The instruction a group would issue next. -/
def State.peek (s : State) (gid : Nat) : Option Instr :=
  match issueCtx (s.offer gid) with
  | none => none
  | some c => match (fetch c.g.ranges c.pc s).1 with | .instr i => some i | _ => none

/-- Whether two groups may issue in one cycle of a quarter: their pipes differ, and their bank-use vectors share no bit (R125, R279). -/
def State.together (s : State) (g h : Group) : Bool :=
  match s.peek g.gid, s.peek h.gid with
  | some i, some j => formPipe i.form != formPipe j.form && !(bankUse i.form g).any (bankUse j.form h).contains
  | _, _ => false

/-- What a quarter picks in the present cycle: the group ready longest, then one that may issue together with it (R279). -/
def State.picks (s : State) (core q : Nat) : List Nat :=
  let cs := s.candidates core q
  match longestReady cs with
  | none => []
  | some g =>
    g.gid :: (match longestReady ((cs.filter (fun h => h.gid != g.gid)).filter (s.together g)) with
      | some h => [h.gid]
      | none => [])

/-- Whether a group is one of its quarter's picks. -/
def State.isPicked (s : State) (gid : Nat) : Bool :=
  match tfind gid s.groups with
  | some g => (s.picks (s.teamCore g.team) g.quarter).contains gid
  | none => false

/-- The quarter of a group, numbered over all cores. -/
def State.quarterKey (s : State) (gid : Nat) : Nat :=
  match tfind gid s.groups with | some g => 4 * s.teamCore g.team + g.quarter | none => 0

end Sys2Proof.Machine
end

