-- ==== Sys2Proof/Machine/Place.lean ====
section
/-! DEFINITION. A machine with one instruction placed where the next step fetches: a privileged group of one launch at an address
of an identity mapping. It stands for boot, a queue, a launch packet and a placement. -/

namespace Sys2Proof.Machine

open Sys2Proof

/-- The level table of one team of one group of eight strands. -/
def placedLevels : List Level := [⟨1, 0, 0⟩, ⟨4, 1, 0⟩, ⟨8, 2, 0⟩, ⟨1, 3, 0⟩]

/-- The launch record of the placed group: every register, privileged. -/
def placedRecord : LaunchRec := ⟨0x20000, 0, 0, 0, 0, 0, 0, 128, 8, 8, 0, 4, placedLevels, 0, 0, List.replicate 32 0⟩

/-- Range 0 over the whole IPA space, readable and writable. -/
def placedRanges : Table (BitVec 64) := [(0x100, 0xB#64), (0x110, 0xFFFFFFFFF0000#64)]

/-- The placed group at its instruction. -/
def placedGroup : Group :=
  { Group.start ⟨0, 0, 0, 0, 0, 0, 0, false, 8, 0x20000#64, [], 0, placedRanges, 0, 0, 0, 0⟩ with active := true }

/-- Memory with the words of an instruction at 0x20000, a level-1 table at 0 and a level-2 table at 0x8000 that map the first
256 MiB. -/
def placedMem (hbm : Table Byte) (v : Nat) : Table Byte :=
  twriteLE (twriteLE (twriteLE hbm 0x20000 v 16) 0 0x8001 8) 0x8000 0x7 8

/-- A machine whose next step fetches an instruction of `nbits` bits at 0x20000 (DESIGN CHOICE, log 5). -/
def State.placeWord (s : State) (nbits w : Nat) : State :=
  { s with
    groups := tinsert 0 placedGroup s.groups
    teams := tinsert 0 (Team.start 0 0 0 0 0 0 1) s.teams
    launches := tinsert 0 { Launch.start 0 placedRecord 0 0 0 0 0 placedRanges [] 1 with
      placed := [0], started := true, live := 1, coresRun := [0] } s.launches
    hbm := placedMem s.hbm (w % 2 ^ nbits)
    poison := []
    l2 := []
    conf := []
    held := []
    tlb := []
    walkCache := []
    ops := []
    tc := { s.tc with root := 0, node := 0 }
    boot := { s.boot with phase := 4 }
    agenda := [.issue 0] }

end Sys2Proof.Machine
end

