-- ==== Sys2Proof/Machine/Policy.lean ====
section
/-! DEFINITION. Who moves next where the schedule names nobody: the first event that would change something, else the quarters' picks
in turn. One of the schedules the spec allows; the agenda holds any other. -/

namespace Sys2Proof.Machine

open Sys2Proof

/-- An event with its arguments. -/
abbrev Move := Instr × EvArgs

/-- An event with two numbers. -/
def moveOf (i : Instr) (a b : Nat) : Move := (i, { EvArgs.zero with a := a, b := b })

/-- What may happen to an instruction in flight (R32, R57, R98, R100, R120, R315, R403). -/
def opMoves (o : Op) : List Move :=
  let perReq (is : List Instr) : List Move :=
    ((List.range o.reqs.length).map (fun n => is.map (fun i => moveOf i o.id n))).flatten
  let own := match o.kind with
    | .immLoad _ _ _ _ _ | .immStore _ => perReq [.translationAnswer, .immediateAtHome]
    | .atomic _ _ => perReq [.translationAnswer, .atomicAtHome, .foreignAtomicApply]
    | .local _ _ _ _ => perReq [.granuleServe]
    | .cpy _ _ _ _ _ => perReq [.translationAnswer, .granuleServe]
    | .prism _ _ => [moveOf .granuleServe o.id 0, moveOf .prismCommandStart o.core 0]
    | .ray _ => perReq [.rayLaneFinish]
    | k => if k.answered then perReq [.translationAnswer] else []
  own ++ [moveOf .longLatencyComplete o.id 0]

/-- What may happen to a group (R150, R186, R199, R202, R373). -/
def groupMoves (g : Group) : List Move :=
  if g.retiring then [moveOf .groupRetire g.gid g.launch]
  else g.pending.map (fun e => moveOf .queueElementServe g.gid e.1)
    ++ (if g.live.all (fun t => (g.strand t).wait == .regang) then [moveOf .regangMeet g.gid 0] else [])
    ++ (if g.yielded.isSome then [moveOf .yieldEnd g.gid 0] else [])
    ++ (if g.task.isSome && g.live == [] then [moveOf .taskFinish g.gid 0] else [])

/-- What may happen to a task domain: its frontier commits, and a queued task goes to the first idle worker (R374, R379). -/
def State.domainMoves (s : State) (launch : Nat) (d : Domain) : List Move :=
  let idle := ((tvalues s.groups).find? (s.freeWorker? launch)).elim s.nextId (fun g => g.gid)
  moveOf .taskCommit launch 0 ::
    (d.recs.filter (fun e => d.dispatchable e.1 e.2)).map (fun e => (.taskDispatch, { EvArgs.zero with a := launch, b := e.1, c := idle }))

/-- The placement of the launch whose turn it is (R274). -/
def State.placementMoves (s : State) : List Move :=
  match s.placementHead with
  | none => []
  | some l =>
    if l.record.cosched then
      [(.teamPlacement, { EvArgs.zero with a := l.id, secs := (s.coresForAll l).getD [] })]
    else
      let place := (s.firstPlace l).getD (0, 192)
      [(.teamPlacement, { EvArgs.zero with a := l.id, b := place.2, c := place.1 })]

/-- The cores on which the teams of a launch resume together, each the lowest left that takes its team. -/
def State.resumeCores (s : State) : List Nat → List Nat → List Nat
  | _, [] => []
  | used, id :: ids =>
    match (tfind id s.teams).bind (fun t => (List.range 192).find? (fun c => !used.contains c && s.canResume t c)) with
    | some c => c :: s.resumeCores (c :: used) ids
    | none => []

/-- What may happen to a team that leaves its core or has left it (R414). -/
def State.teamMoves (s : State) (t : Team) : List Move :=
  if t.saving && !t.preempted then [moveOf .preemptTeam t.id 0]
  else if t.preempted then
    [(.resumeTeam, { EvArgs.zero with
      a := t.id, b := ((List.range 192).find? (s.canResume t)).getD 192, secs := s.resumeCores [] (s.awayTeams t.launch) })]
  else []

/-- What may happen to a user queue: its next packet, and the end of its time slice (R269, R270). -/
def queueMoves (id : Nat) (q : UQueue) : List Move :=
  if q.reads then
    [.nopPacket, .launchPacket, .launchIndPacket, .waitPacket, .waitRecheck, .signalPacket, .copyPacket, .loopPacket, .endLoopPacket,
      .ifPacket, .orderPacket].map (fun i => moveOf i id 0) ++ [moveOf .queueTimeslice id 0]
  else if q.slot.isSome then [moveOf .queueTimeslice id 0] else []

/-- The quarters that hold resident groups. -/
def State.quarters (s : State) : List Nat :=
  (((tvalues s.groups).filter (fun g => g.resident)).map (fun g => 4 * s.teamCore g.team + g.quarter)).dedup

/-- The exchanges of the active sets (R278). -/
def State.exchangeMoves (s : State) : List Move := s.quarters.map (fun k => moveOf .activeSetExchange (k / 4) (k % 4))

/-- The lines of the cores' held sectors, where a core may have reached a limit (R67). -/
def State.implicitMoves (s : State) : List Move :=
  if s.versions.length + s.marks.length < 16384 then []
  else (s.sectors.map (fun e =>
    let x : EvArgs := { EvArgs.zero with a := e.1 / 2 ^ 56, b := e.2.loc.home, c := e.2.loc.line }
    [(Instr.implicitBoundary, x), (Instr.implicitBoundary, { x with on := true })])).flatten

/-- The events that may be due. -/
def State.moves (s : State) : List Move :=
  (if s.boot.phase = 3 then [moveOf .fullServiceStart 0 0] else [])
    ++ (s.ops.map opMoves).flatten
    ++ s.rels.map (fun r => moveOf .releaseBoundary r.id 0)
    ++ s.acqs.map (fun a => moveOf .acquireBoundary a.id 0)
    ++ s.changes.map (fun b => moveOf .bankModeChange b.cluster b.bank)
    ++ s.implicitMoves
    ++ (s.groups.map (fun e => groupMoves e.2)).flatten
    ++ (s.domains.map (fun e => s.domainMoves e.1 e.2)).flatten
    ++ (s.launches.filter (fun e => e.2.record.det)).map (fun e => moveOf .tokenPass e.1 0)
    ++ s.launches.map (fun e => moveOf .groupRetire s.nextId e.1)
    ++ s.launches.map (fun e => moveOf .deadlineMiss e.1 0)
    ++ (s.teams.map (fun e => s.teamMoves e.2)).flatten
    ++ s.placementMoves
    ++ s.exchangeMoves
    ++ (if s.rung = [] then [] else [(.qdoor, { EvArgs.zero with on := true })])
    ++ (if s.qrstat = 1 then [(.queueRegister, { EvArgs.zero with on := true })] else [])
    ++ (s.queues.map (fun e => queueMoves e.1 e.2)).flatten
    ++ [(.ringPosting, EvArgs.zero), (.ringPosting, { EvArgs.zero with on := true }), moveOf .eventPost 0 0]
    ++ (if s.tc.busy then [moveOf .tcCommandDone 0 0] else [])
    ++ (if s.attest.stat = 1 then [moveOf .attestReportReady 0 0] else [])
    ++ (s.ports.filter (fun e => e.2.resend)).map (fun e => moveOf .flitReplay e.1 0)

/-- Whether an event would change the machine. -/
def State.moved (s : State) (m : Move) : Bool :=
  match exec m.1 { s with ev := m.2 } with
  | .next t => decide ({ t with ev := s.ev } ≠ s)
  | _ => true

/-- The first event that is due. -/
def nextEvent (s : State) : Option Move := s.moves.find? s.moved

/-- The pick of the next quarter in turn that has one. -/
def State.nextIssuer (s : State) : Option Nat :=
  let ready := s.quarters.filter (fun k => s.picks (k / 4) (k % 4) != [])
  let key := match ready.filter (fun k => decide (s.cursor ≤ k)) with
    | [] => lowestOf ready
    | ks => lowestOf ks
  if ready = [] then none else (s.picks (key / 4) (key % 4)).head?

/-- The default turn. -/
def State.defaultTurn (s : State) : Turn :=
  match nextEvent s with
  | some (i, x) => .ev i x
  | none =>
    match s.nextIssuer with
    | some gid => .issue gid
    | none => .idle

end Sys2Proof.Machine
end

