-- ==== Sys2Proof/Machine/Turns.lean ====
section
/-! DEFINITION. The turns that no instruction or event names: evictions, dropped translations, and memory that fails. -/

namespace Sys2Proof.Machine

open Sys2Proof

/-- Whether the schedule may name an instruction as an event: it is one of no word, and not one that a fetch brings (R126, R260). -/
def isEvent (i : Instr) : Bool := i.form == .event && i != .fetchFault && i != .illegalInstruction

/-- A group that is not ready in a cycle starts to be so in a later one (R279). -/
def State.noteReady (s : State) : State :=
  { s with groups := s.groups.map (fun (e : Nat × Group) => if s.groupReady e.2 then e else (e.1, { e.2 with readyFrom := s.clock })) }

/-- One cycle passes: stores that wait for their slices are tried again, and the task unit's records are brought up to date in queue memory (R43,
R255, R279, R370, R385, R414). -/
def State.cycle (s : State) : State := s.tick.retryPosted.wakeSlots.showTasks.noteReady.saveImages

/-- A turn that moves what programs cannot name (DESIGN CHOICE, log 10). -/
def State.hidden (s : State) (t : Turn) : State :=
  match t with
  | .l1Evict core home line bank => s.evictL1 core home line bank
  | .bankEvict core home line => s.evictBank core home line
  | .l2Evict home line => s.evictLine home line
  | .tlbDrop false key => { s with tlb := terase key s.tlb }
  | .tlbDrop true key => { s with walkCache := terase key s.walkCache }
  | .flitSend port payload => if port < 36 then s.modPort port (fun p => p.send payload) else s
  | .poison pa on => { s with poison := if on then pa :: s.poison else s.poison.filter (· != pa) }
  | _ => s

end Sys2Proof.Machine
end

