-- ==== Sys2Proof/Machine/Step.lean ====
section
/-! DEFINITION. One step of the machine: the turn that the schedule names next, and one cycle of time. -/

namespace Sys2Proof.Machine

open Sys2Proof

/-- A group that its quarter picks: its next gang fetches its instruction, and what the fetch brought is done. -/
def stepIssue (gid : Nat) (s : State) : Host.Outcome State Fault Refusal :=
  if !s.isPicked gid then .next s
  else
    let s := s.offer gid
    match issueCtx s with
    | none => .next s
    | some c =>
      if s.boot.phase ≠ 4 then .next s
      else match fetch c.g.ranges c.pc s with
        | (.stalled, s) => .next s
        | (.instr i, s) => exec i (s.noteFetch c i)
        | (.illegal w, s) => exec .illegalInstruction { s with word := w }
        | (.bad cause sub pc, s) =>
          exec .fetchFault { s with ev := { EvArgs.zero with a := cause, b := sub, val := BitVec.ofNat 64 pc } }

/-- One turn. -/
def stepTurn (t : Turn) (s : State) : Host.Outcome State Fault Refusal :=
  match t with
  | .issue gid => stepIssue gid { s with cursor := s.quarterKey gid + 1 }
  | .ev i x => if isEvent i then exec i { s with ev := x } else .next s
  | t => .next (s.hidden t)

/-- One step: the next turn of the agenda, or the default one, in one cycle (DESIGN CHOICE, log 3). -/
def step (s : State) : Host.Outcome State Fault Refusal :=
  match s.agenda with
  | t :: ts => stepTurn t { s with agenda := ts }.cycle
  | [] => stepTurn s.cycle.defaultTurn s.cycle

/-- The machine with an instruction where its next step fetches. -/
def State.withFetchWord (s : State) (nbits w : Nat) : State := s.placeWord nbits w

end Sys2Proof.Machine
end

