-- ==== Sys2Proof/Machine/AsmText.lean ====
section
/-! DEFINITION. Vuden assembly as text (R439 to R441): the tokens of a line, numbers, expressions, and the parts of a statement. -/

namespace Sys2Proof.Machine

open Sys2Proof

/-! ### Tokens (R439, R440) -/

/-- A token of a line. A number keeps its spelling. -/
inductive Tok where
  | name (s : String)
  | num (s : String)
  | sym (s : String)
  deriving DecidableEq, Repr

/-- A character of a name (R439). -/
def isNameChar (c : Char) : Bool := c.isAlphanum || c == '_'

/-- A name's first character (R439). -/
def isNameStart (c : Char) : Bool := c.isAlpha || c == '_'

/-- The value of a digit of a base up to sixteen. -/
def digitOf (base : Nat) (c : Char) : Option Nat :=
  let d := if c.isDigit then c.toNat - 48 else if 'a' ≤ c.toLower ∧ c.toLower ≤ 'f' then c.toLower.toNat - 87 else 16
  if d < base then some d else none

/-- A digit string's value, with underscores between digits (R440). -/
def digitsOf (base : Nat) (cs : List Char) : Option Nat :=
  if cs.head? = some '_' ∨ cs.getLast? = some '_' ∨ cs = [] then none
  else (cs.filter (· != '_')).foldl (fun n c => match n, digitOf base c with
    | some n, some d => some (base * n + d)
    | _, _ => none) (some 0)

/-- An integer's value: hexadecimal, binary or decimal (R440). -/
def intOf (s : String) : Option Nat :=
  match s.toList with
  | '0' :: 'x' :: cs => digitsOf 16 cs
  | '0' :: 'b' :: cs => digitsOf 2 cs
  | cs => digitsOf 10 cs

/-- An exponent's value, with its sign. -/
def exponentOf (cs : List Char) : Option Int :=
  match cs with
  | '-' :: cs => (digitsOf 10 cs).map (fun n => -(n : Int))
  | '+' :: cs => (digitsOf 10 cs).map (fun n => (n : Int))
  | cs => (digitsOf 10 cs).map (fun n => (n : Int))

/-- A float's value as `mant * 10^exp`: decimal, with a point between digits, an exponent or both (R440) (DEDUCED, log 96). -/
def floatParts (s : String) : Option (Nat × Int) :=
  let isExp (c : Char) : Bool := c == 'e' || c == 'E'
  let cs := s.toList
  let mant := cs.takeWhile (!isExp ·)
  let whole := mant.takeWhile (· != '.')
  let frac := (mant.dropWhile (· != '.')).drop 1
  let exp := if cs.any isExp then exponentOf ((cs.dropWhile (!isExp ·)).drop 1) else some 0
  let digits := if mant.contains '.' then (match digitsOf 10 whole, digitsOf 10 frac with
    | some _, some _ => digitsOf 10 (whole ++ frac)
    | _, _ => none) else if cs.any isExp then digitsOf 10 whole else none
  match digits, exp with
  | some n, some e => some (n, e - ((frac.filter (· != '_')).length : Int))
  | _, _ => none

/-- The characters of a number at the head of a line: its digits and letters, then a decimal's fraction and its signed exponent. -/
def numberText (cs : List Char) : List Char :=
  let head := cs.takeWhile isNameChar
  if head.take 2 = ['0', 'x'] ∨ head.take 2 = ['0', 'b'] then head
  else
    let rest := cs.drop head.length
    let frac := match rest with
      | '.' :: c :: _ => if c.isDigit then '.' :: rest.tail.takeWhile isNameChar else []
      | _ => []
    let signed := match (head ++ frac).getLast?, rest.drop frac.length with
      | some e, c :: cs => if (e == 'e' || e == 'E') && (c == '-' || c == '+') then c :: cs.takeWhile isNameChar else []
      | _, _ => []
    head ++ frac ++ signed

/-- The characters that are tokens by themselves. -/
def symbolChars : List Char := "?!,|.^#~=[]()+-*&:".toList

/-- The tokens of a line, none where a character begins no token. `n` bounds their number. -/
def lexLine : Nat → List Char → Option (List Tok)
  | _, [] => some []
  | 0, _ => none
  | n + 1, c :: cs =>
    if c.isWhitespace then lexLine n cs
    else if isNameStart c then
      (lexLine n (cs.dropWhile isNameChar)).map (fun ts => .name (String.ofList (c :: cs.takeWhile isNameChar)) :: ts)
    else if c.isDigit then
      let text := numberText (c :: cs)
      (lexLine n ((c :: cs).drop text.length)).map (.num (String.ofList text) :: ·)
    else match c, cs with
      | '-', '>' :: cs => (lexLine n cs).map (.sym "->" :: ·)
      | '|', '|' :: cs => (lexLine n cs).map (.sym "||" :: ·)
      | '<', '<' :: cs => (lexLine n cs).map (.sym "<<" :: ·)
      | '>', '>' :: cs => (lexLine n cs).map (.sym ">>" :: ·)
      | c, cs => if symbolChars.contains c then (lexLine n cs).map (.sym (String.ofList [c]) :: ·) else none

/-- A line without its comment (R439). -/
def dropComment : List Char → List Char
  | ';' :: _ => []
  | '/' :: '/' :: _ => []
  | c :: cs => c :: dropComment cs
  | [] => []

/-- The tokens of a source line. -/
def tokensOf (line : String) : Option (List Tok) :=
  let cs := dropComment line.toList
  lexLine (cs.length + 1) cs

/-- A name as it is compared, without regard to case (R439). -/
def lower (s : String) : String := String.ofList (s.toList.map Char.toLower)

/-! ### Expressions (R440) -/

/-- The operators of two operands. -/
inductive BinOp where
  | mul | add | sub | shl | shr | and | or
  deriving DecidableEq, Repr

/-- An expression over integers and labels. -/
inductive Expr where
  | num (n : BitVec 64)
  | label (s : String)
  | neg (a : Expr)
  | not (a : Expr)
  | bin (op : BinOp) (a b : Expr)
  deriving DecidableEq, Repr

/-- The operators of a rank above the unary ones, the highest rank 0. -/
def binOpOf (rank : Nat) (s : String) : Option BinOp :=
  match rank, s with
  | 0, "*" => some .mul
  | 1, "+" => some .add
  | 1, "-" => some .sub
  | 2, "<<" => some .shl
  | 2, ">>" => some .shr
  | 3, "&" => some .and
  | 4, "|" => some .or
  | _, _ => none

/-- An expression of the lowest `rank` ranks at the head of a token list; `acc` is what stands before the next operator. `n` bounds the work. -/
def parseExpr : Nat → Nat → Option Expr → List Tok → Option (Expr × List Tok)
  | 0, _, _, _ => none
  | n + 1, 0, _, ts =>
    match ts with
    | .num s :: ts => (intOf s).map (fun v => (.num (BitVec.ofNat 64 v), ts))
    | .name s :: ts => some (.label s, ts)
    | .sym "-" :: ts => (parseExpr n 0 none ts).map (fun p => (.neg p.1, p.2))
    | .sym "~" :: ts => (parseExpr n 0 none ts).map (fun p => (.not p.1, p.2))
    | .sym "(" :: ts =>
      match parseExpr n 5 none ts with
      | some (a, .sym ")" :: ts) => some (a, ts)
      | _ => none
    | _ => none
  | n + 1, r + 1, none, ts =>
    match parseExpr n r none ts with
    | some (a, ts) => parseExpr n (r + 1) (some a) ts
    | none => none
  | n + 1, r + 1, some a, ts =>
    match ts with
    | .sym s :: us =>
      match binOpOf r s with
      | some op =>
        (match parseExpr n r none us with
         | some (b, us) => parseExpr n (r + 1) (some (.bin op a b)) us
         | none => none)
      | none => some (a, ts)
    | _ => some (a, ts)

/-- A token list that is one expression. -/
def exprOf (ts : List Tok) : Option Expr :=
  match parseExpr (8 * ts.length + 8) 5 none ts with
  | some (e, []) => some e
  | _ => none

/-- The value of an operator, mod 2^64 (R440). -/
def BinOp.eval (op : BinOp) (a b : BitVec 64) : BitVec 64 :=
  match op with
  | .mul => a * b
  | .add => a + b
  | .sub => a - b
  | .shl => a <<< b.toNat
  | .shr => a >>> b.toNat
  | .and => a &&& b
  | .or => a ||| b

/-- The value of an expression by the addresses of its labels; none for a label that is not defined (R440, R447). -/
def Expr.eval (env : String → Option Nat) : Expr → Option (BitVec 64)
  | .num n => some n
  | .label s => (env s).map (BitVec.ofNat 64)
  | .neg a => (a.eval env).map (fun x => -x)
  | .not a => (a.eval env).map (fun x => ~~~x)
  | .bin op a b =>
    match a.eval env, b.eval env with
    | some x, some y => some (op.eval x y)
    | _, _ => none

/-- Whether an expression holds a label, and so is a relocation (R440). -/
def Expr.hasLabel : Expr → Bool
  | .num _ => false
  | .label _ => true
  | .neg a | .not a => a.hasLabel
  | .bin _ a b => a.hasLabel || b.hasLabel

/-- A field's value, which must lie between two bounds (R442). -/
def fieldIn (env : String → Option Nat) (lo hi : Int) (e : Expr) : Option Nat :=
  match e.eval env with
  | some v => if lo ≤ v.toInt ∧ v.toInt ≤ hi then some v.toNat else none
  | none => none

/-! ### Floats (R440, R444) -/

/-- The exact value of a decimal float. -/
def decimalValue (neg : Bool) (mant : Nat) (exp : Int) : Exact :=
  if 0 ≤ exp then .frac neg (mant * 10 ^ exp.toNat) 1 else .frac neg mant (10 ^ (-exp).toNat)

/-- The FP32 pattern of a decimal float, rounded RNE (R6). -/
def floatBits (neg : Bool) (mant : Nat) (exp : Int) : Nat := f32.round .rne (decimalValue neg mant exp)

/-- Whether a pattern is the value of a fraction exactly. -/
def isExactly (bits : Nat) (v : Exact) : Bool :=
  match f32.value bits, v with
  | .frac _ a b, .frac _ c d => a * d == c * b
  | _, _ => false

/-- A decimal float with an optional sign. -/
def floatOf (ts : List Tok) : Option (Bool × Nat × Int) :=
  match ts with
  | [.num s] => (floatParts s).map (fun p => (false, p))
  | [.sym "-", .num s] => (floatParts s).map (fun p => (true, p))
  | _ => none

/-! ### Names of registers and special operands (R441) -/

/-- The number of a name that is a letter and decimal digits, as the registers are. -/
def numbered? (letter : Char) (s : String) : Option Nat :=
  match (lower s).toList with
  | c :: ds =>
    if c = letter ∧ ds.all Char.isDigit = true ∧ (ds.length = 1 ∨ ds.head? ≠ some '0') then digitsOf 10 ds else none
  | [] => none

/-- A register of one letter below a bound. -/
def regBelow (letter : Char) (n : Nat) (s : String) : Option Nat := (numbered? letter s).filter (· < n)

/-- The special operands (R111). -/
def specialOf (s : String) : Option Nat :=
  ([("lane", 0xE8), ("strand", 0xE9), ("group", 0xEA), ("team", 0xEB), ("active", 0xEC)] : List (String × Nat)).lookup (lower s)

/-- The code of a name that stands as a source: a register, a queue or a special operand (R111, R441). -/
def nameCode (s : String) : Option Nat :=
  (regBelow 'v' 128 s) <|> (regBelow 's' 64 s).map (0x80 + ·) <|> (regBelow 'c' 32 s).map (0xC0 + ·)
    <|> (regBelow 'q' 10 s).map (0xF0 + ·) <|> specialOf s

/-- Whether a name spells a register or a special operand, and so is no label (R439). -/
def isOperandName (s : String) : Bool :=
  (nameCode s).isSome || (regBelow 'q' 14 s).isSome || (regBelow 'p' 8 s).isSome || (regBelow 'b' 16 s).isSome
    || (regBelow 'k' 8 s).isSome || (regBelow 'e' 8 s).isSome || (regBelow 'f' 12 s).isSome

/-- The inline constants, bare, as they are written (R111, R441). -/
def inlineOf (ts : List Tok) : Option Nat :=
  match ts with
  | [.num s] => ([("0", 0xE0), ("1", 0xE1), ("2", 0xE3), ("1.0", 0xE4), ("0.5", 0xE6), ("2.0", 0xE7)] : List (String × Nat)).lookup s
  | [.sym "-", .num s] => ([("1", 0xE2), ("1.0", 0xE5)] : List (String × Nat)).lookup s
  | _ => none

/-! ### Statements (R439) -/

/-- A statement: predicate with its inversion, mnemonic and qualifiers in lower case, operands, and flag. -/
structure Stmt where
  pred : Option (Bool × Nat)
  mnem : String
  quals : List String
  ops : List (List Tok)
  flag : Option Nat
  deriving DecidableEq, Repr

/-- A token list cut at a symbol. -/
def splitAt (s : String) : List Tok → List (List Tok)
  | [] => [[]]
  | t :: ts =>
    let rest := splitAt s ts
    if t = .sym s then [] :: rest else match rest with | r :: rs => (t :: r) :: rs | [] => [[t]]

/-- The qualifiers that follow a mnemonic, and what follows them. -/
def qualsOf : List Tok → List String × List Tok
  | .sym "." :: .name q :: ts =>
    let p := qualsOf ts
    (lower q :: p.1, p.2)
  | ts => ([], ts)

/-- The operands of a statement: lists that are not empty, or no operand at all. -/
def operandsOf (ts : List Tok) : Option (List (List Tok)) :=
  if ts = [] then some [] else let os := splitAt "," ts; if os.contains [] then none else some os

/-- A statement from its mnemonic on, without predicate and flag. -/
def bareStmt (ts : List Tok) : Option Stmt :=
  match ts with
  | .name m :: ts =>
    let (qs, ts) := qualsOf ts
    (operandsOf ts).map (fun os => ⟨none, lower m, qs, os, none⟩)
  | _ => none

/-- A statement with its predicate and its flag (R439). -/
def stmtOf (ts : List Tok) : Option Stmt :=
  let (pred, ts) := match ts with
    | .sym "?" :: .sym "!" :: .name p :: ts => ((regBelow 'p' 8 p).map (fun n => some (true, n)), ts)
    | .sym "?" :: .name p :: ts => ((regBelow 'p' 8 p).map (fun n => some (false, n)), ts)
    | ts => (some none, ts)
  let flag := match splitAt "->" ts with
    | [us] => some (us, none)
    | [us, [.name f]] => (regBelow 'f' 12 f).map (fun n => (us, some n))
    | _ => none
  match pred, flag with
  | some p, some (us, f) => (bareStmt us).map (fun s => { s with pred := p, flag := f })
  | _, _ => none

/-- The statements of a line: one, or the two slots of a PAIR word, which take no predicate, qualifier or flag (R439). -/
def stmtsOf (ts : List Tok) : Option (List Stmt) :=
  match splitAt "||" ts with
  | [ts] => (stmtOf ts).map ([·])
  | [us, vs] =>
    match bareStmt us, bareStmt vs with
    | some a, some b => if a.quals = [] ∧ b.quals = [] then some [a, b] else none
    | _, _ => none
  | _ => none

/-- Whether an operand is a literal, so that its instruction takes a second word (R114, R441). -/
def isLitOperand (ts : List Tok) : Bool := ts.head? == some (.sym "=")

/-- The bytes of a line's statements (R107). -/
def stmtSize (ss : List Stmt) : Nat := if ss.any (fun s => s.ops.any isLitOperand) then 16 else 8

end Sys2Proof.Machine
end

