-- ==== Sys2Proof/Machine/AsmForms.lean ====
section
/-! DEFINITION. From a statement of Vuden assembly to its instruction word (R129, R130, R190, R441 to R444): mnemonics,
qualifiers and the forms each instruction's chapter gives. A word is built from its fields as numbers, and the decoder checks it. -/

namespace Sys2Proof.Machine

open Sys2Proof

/-- What a statement is assembled with: the addresses of the labels, and the address of its own word. -/
structure AsmEnv where
  labels : String → Option Nat
  pc : Nat

/-- A word without its format's check, and the literal that follows it. -/
abbrev RawWord := Nat × Option Nat

/-! ### Mnemonics (R127) -/

/-- Names numbered from an opcode on. -/
def namesFrom (op : Nat) (names : List String) : List (String × Nat) := names.zip ((List.range names.length).map (op + ·))

/-- The VF and VI mnemonics. -/
def vfNames : List (String × Nat) :=
  namesFrom 0x00 ["fadd", "fmul", "ffma", "fmin", "fmax", "frcp", "fsqrt", "frsq", "fexp2", "flog2", "fsinpi", "fcospi", "ffloor",
    "ffract", "fsetp"] ++
  namesFrom 0x10 ["hadd2", "hmul2", "hfma2", "bfma2"] ++ namesFrom 0x18 ["dot16e4", "dot16e5", "idp4"] ++
  namesFrom 0x20 ["iadd", "isub", "imul", "imulh", "umulh", "imad", "imin", "imax", "umin", "umax", "isetp", "usetp"] ++
  namesFrom 0x30 ["and", "or", "xor", "shl", "shr", "sar", "bfe", "bfi", "popc", "clz", "brev"] ++
  namesFrom 0x40 ["mov", "sel", "vidx", "vidxw"] ++ namesFrom 0x48 ["cvt", "cvtef", "cvtsr", "rng"] ++
  namesFrom 0x50 ["shfl", "putl", "vote", "ballot", "redux"]

/-- The SF mnemonics. -/
def sfNames : List (String × Nat) :=
  namesFrom 0x00 ["sadd", "ssub", "smul", "smulh", "sand", "sor", "sxor", "sshl", "sshr", "ssar", "smin", "smax", "smov", "ssetp",
    "ssel", "sfadd", "sfmul", "sffma", "sbfe", "spopc", "sread", "swrite", "sfromv"]

/-- The operations of ATOM and RED in opcode order (R142). -/
def atomNames : List String := ["add", "min", "max", "umin", "umax", "and", "or", "xor", "xchg", "cas", "fadd", "fmin", "fmax"]

/-- The MEM mnemonics with the part after their dot. -/
def memNames : List ((String × String) × Nat) :=
  let dotted (m : String) (op : Nat) (ps : List String) := (namesFrom op ps).map (fun e => ((m, e.1), e.2))
  dotted "ld" 0x00 ["b", "h", "w", "d", "q", "bs", "hs"] ++ dotted "st" 0x08 ["b", "h", "w", "d", "q"] ++
  dotted "ldu" 0x10 ["w", "d"] ++ dotted "lds" 0x18 ["w", "d", "q"] ++ dotted "sts" 0x1C ["w", "d", "q"] ++
  dotted "atom" 0x20 atomNames ++ dotted "red" 0x30 atomNames

/-- The MEM mnemonics without a dot. -/
def memPlainNames : List (String × Nat) :=
  [("ldc", 0x12)] ++ namesFrom 0x40 ["phase", "pref"] ++ namesFrom 0x48 ["cpy", "cbank", "qbind", "wake"]

/-- The CTL mnemonics without a dot. -/
def ctlNames : List (String × Nat) :=
  namesFrom 0x00 ["bra", "brx", "call", "ret", "ppush", "pinv", "ppop", "regang", "waitf", "yield", "exit", "trap", "nop"] ++
  namesFrom 0x12 ["sloop", "trapret", "syscall"]

/-- The ENG mnemonics. -/
def engNames : List (String × Nat) := namesFrom 0x00 ["mmload", "mmrun", "mmdrain"] ++ namesFrom 0x08 ["spawn", "task", "tabort", "twait"]

/-- The closure mnemonics. -/
def closureNames : List (String × Nat) :=
  namesFrom 0x10 ["kclr", "klobe", "kmix", "klayer", "kscale", "ksample", "keval", "kdens", "kspill", "kfill", "kinfo", "kmov"]

/-- The PAIR slot mnemonics. -/
def slotNames : List (String × Nat) :=
  namesFrom 0x00 ["fadd", "fmul", "fmin", "fmax", "iadd", "isub", "imul", "and", "or", "xor", "shl", "shr", "sar", "mov", "imin", "imax",
    "hadd2", "hmul2"] ++ [("nop", 0x3F)]

/-- The mnemonics without a dot, which no label may spell (R439). -/
def plainMnemonics : List String :=
  (vfNames ++ sfNames ++ memPlainNames ++ ctlNames ++ engNames ++ closureNames).map (·.1)

/-- The system registers by name (R255). -/
def sysNames : List (String × Nat) :=
  namesFrom 0x000 ["lane", "strand", "group", "team", "clock", "timeb"] ++ namesFrom 0x008 ["detmode", "intrude", "fbovf"] ++
  namesFrom 0x010 ["frontier", "tstamp", "taskid", "specwin"] ++ namesFrom 0x018 ["trapcause", "trappc", "trapaddr", "traptoken"] ++
  [("rheap", 0x020)]

/-- The number of a system register's name, the range registers among them (R255). -/
def sysNumber (s : String) : Option Nat :=
  let cs := (lower s).toList
  let range (pre : String) (base : Nat) : Option Nat :=
    if cs.take pre.length = pre.toList then (regBelow 'r' 16 (String.ofList ('r' :: cs.drop pre.length))).map (base + ·) else none
  sysNames.lookup (lower s) <|> range "rangebase" 0x100 <|> range "rangelim" 0x110 <|> range "rangeoff" 0x120

/-! ### Qualifiers (R130, R443) -/

/-- The value of the one qualifier of a table, none where none stands, and the qualifiers left; nothing where two stand. -/
def takeQual (table : List (String × Nat)) (qs : List String) : Option (Option Nat × List String) :=
  match qs.filter (fun q => (table.lookup q).isSome) with
  | [] => some (none, qs)
  | [q] => some (table.lookup q, qs.filter (· != q))
  | _ => none

/-- A field set by at most one qualifier of a table, zero where none stands. -/
def qualField (table : List (String × Nat)) (qs : List String) : Option (Nat × List String) :=
  (takeQual table qs).map (fun p => (p.1.getD 0, p.2))

/-- A field that one qualifier of a table must set. -/
def qualNeeded (table : List (String × Nat)) (qs : List String) : Option (Nat × List String) :=
  match takeQual table qs with
  | some (some n, qs) => some (n, qs)
  | _ => none

/-- The scopes (R36, R130). -/
def scopeQuals : List (String × Nat) := namesFrom 0 ["core", "pkg", "sys"]

/-- The compare conditions (R234). -/
def condQuals : List (String × Nat) := namesFrom 0 ["eq", "ne", "lt", "le", "gt", "ge", "ord", "uno"]

/-- The destination scales (R118). -/
def scaleQuals : List (String × Nat) := [("x2", 1), ("x4", 2), ("x8", 3), ("d8", 5), ("d4", 6), ("d2", 7)]

/-- The rounding modes (R243). -/
def modeQuals : List (String × Nat) := namesFrom 0 ["rne", "rtz", "rup", "rdn"]

/-- The conversion pairs, destination format first (R243). -/
def convPairs : List ((String × String) × Nat) :=
  [(("f16", "f32"), 0), (("bf16", "f32"), 1), (("e4m3", "f32"), 2), (("e5m2", "f32"), 3), (("f32", "f16"), 4), (("f32", "bf16"), 5),
    (("f32", "e4m3"), 6), (("f32", "e5m2"), 7), (("i32", "f32"), 8), (("u32", "f32"), 9), (("f32", "i32"), 10), (("f32", "u32"), 11),
    (("int", "f32"), 12)]

/-- The conversion pair among qualifiers, written as one unit, and the qualifiers left (R443). -/
def convOf : List String → Option (Nat × List String)
  | a :: b :: qs =>
    match convPairs.lookup (a, b) with
    | some n => some (n, qs)
    | none => (convOf (b :: qs)).map (fun p => (p.1, a :: p.2))
  | _ => none

/-- The conversion code of SC from the qualifiers, and the qualifiers left (R243). -/
def convCode (qs : List String) : Option (Nat × List String) :=
  match convOf qs with
  | none => none
  | some (conv, qs) =>
    let elems := match convRow conv with
      | some (2, _) => namesFrom 0 ["h0", "h1"]
      | some (4, _) => namesFrom 0 ["b0", "b1", "b2", "b3"]
      | _ => []
    match qualField modeQuals qs with
    | none => none
    | some (mode, qs) => (qualField elems qs).map (fun p => (16 * conv + 4 * p.1 + mode, p.2))

/-! ### Operands (R441) -/

/-- The immediate of a source (R129). -/
inductive AsmImm where
  | int (e : Expr)
  | float (neg : Bool) (mant : Nat) (exp : Int) (approx : Bool)
  deriving DecidableEq, Repr

/-- A source as it is written. -/
structure AsmSrc where
  code : Nat
  neg : Bool
  abs : Bool
  reuse : Bool
  imm : Option AsmImm
  lit : Option Expr
  deriving DecidableEq, Repr

/-- A source that is a code alone. -/
def AsmSrc.plain (n : Nat) : AsmSrc := ⟨n, false, false, false, none, none⟩

/-- The unused source 0xE0 (R110). -/
def AsmSrc.unused : AsmSrc := .plain 0xE0

/-- An immediate after its mark: a float, rounded where a tilde stands, or an expression, whose first operator may be a tilde (R129, R440)
(DEDUCED, log 96). -/
def immOf (ts : List Tok) : Option AsmImm :=
  match ts with
  | .sym "~" :: us =>
    (match floatOf us with
     | some (neg, m, e) => some (.float neg m e true)
     | none => (exprOf ts).map .int)
  | ts =>
    match floatOf ts with
    | some (neg, m, e) => some (.float neg m e false)
    | none => (exprOf ts).map .int

/-- A register, inline constant or special operand, with a reuse caret after a register. -/
def bareSrc (ts : List Tok) : Option AsmSrc :=
  match ts with
  | [.name s] => (nameCode s).map .plain
  | [.name s, .sym "^"] => if (specialOf s).isSome then none else (nameCode s).map (fun n => { AsmSrc.plain n with reuse := true })
  | ts => (inlineOf ts).map .plain

/-- A source with its modifiers, an immediate, or a literal (R441). An inline constant is read before a minus as a modifier, and a caret
may stand within the bars or after them (DEDUCED, log 96). -/
def srcOf (ts : List Tok) : Option AsmSrc :=
  let magnitude (ts : List Tok) : Option AsmSrc :=
    match ts with
    | .sym "|" :: us =>
      if us.getLast? = some (.sym "|") then (bareSrc us.dropLast).map (fun x => { x with abs := true })
      else if us.getLast? = some (.sym "^") ∧ us.dropLast.getLast? = some (.sym "|") then
        (bareSrc (us.dropLast.dropLast ++ [.sym "^"])).map (fun x => { x with abs := true })
      else none
    | ts => bareSrc ts
  match ts with
  | .sym "#" :: us => (immOf us).map (fun i => { AsmSrc.plain 0xFF with imm := some i })
  | .sym "=" :: us => (exprOf us).map (fun e => { AsmSrc.plain 0xFE with lit := some e })
  | .sym "-" :: us =>
    (match inlineOf ts with
     | some n => some (.plain n)
     | none => (magnitude us).map (fun x => { x with neg := true }))
  | ts => magnitude ts

/-- A source without modifiers, immediate or reuse hint. -/
def AsmSrc.isBare (x : AsmSrc) : Bool := !x.neg && !x.abs && !x.reuse && x.imm.isNone

/-- A register that is an operand by itself, as its code. -/
def regOf (ts : List Tok) : Option Nat :=
  match ts with
  | [.name s] => (nameCode s).filter (fun n => n < 0xC0 || 0xF0 ≤ n)
  | _ => none

/-- An operand that is one register of a kind: predicate, barrier, closure or residue. -/
def kindReg (letter : Char) (n : Nat) (ts : List Tok) : Option Nat :=
  match ts with
  | [.name s] => regBelow letter n s
  | _ => none

/-- A predicate code of CTL: bits 2:0 the register, bit 3 inverts it (R190). -/
def predCodeOf (ts : List Tok) : Option Nat :=
  match ts with
  | .sym "!" :: us => (kindReg 'p' 8 us).map (8 + ·)
  | us => kindReg 'p' 8 us

/-- A bracketed operand: its register, and its offset expression (R130, R441). -/
def addrOf (ts : List Tok) : Option (Nat × Expr) :=
  match ts with
  | .sym "[" :: .name s :: us =>
    if us.getLast? ≠ some (.sym "]") then none
    else match nameCode s, us.dropLast with
      | some n, [] => some (n, .num 0)
      | some n, .sym "+" :: vs => (exprOf vs).map (fun e => (n, e))
      | some n, .sym "-" :: vs => (exprOf vs).map (fun e => (n, .neg e))
      | _, _ => none
  | _ => none

/-- A bracketed operand without an offset. -/
def addrOnly (ts : List Tok) : Option Nat :=
  match addrOf ts with
  | some (n, .num 0) => some n
  | _ => none

/-- A 16-bit byte offset (R130). -/
def offsetField (env : AsmEnv) (e : Expr) : Option Nat := (fieldIn env.labels (-32768) 32767 e).map (· % 65536)

/-- A field written as a bare expression (R442). -/
def fieldOf (env : AsmEnv) (lo hi : Int) (ts : List Tok) : Option Nat := (exprOf ts).bind (fieldIn env.labels lo hi)

/-- A branch target: a label, or a label and an expression added to it (R441). -/
def targetExpr (ts : List Tok) : Option Expr :=
  match ts with
  | [.name s] => some (.label s)
  | .name s :: .sym "+" :: us => (exprOf us).map (.bin .add (.label s))
  | _ => none

/-- A branch target as OFFSET, the signed count of words from the branch (R191, R447). -/
def targetOf (env : AsmEnv) (ts : List Tok) : Option Nat :=
  match (targetExpr ts).bind (fun e => e.eval env.labels) with
  | none => none
  | some v =>
    let d := (v - BitVec.ofNat 64 env.pc).toInt
    if d % 8 = 0 ∧ -(2 ^ 31 : Int) ≤ d / 8 ∧ d / 8 < 2 ^ 31 then some ((d / 8) % 2 ^ 32).toNat else none

/-- IMM20 of an immediate by the kind its opcode takes (R112, R441, R444). -/
def imm20 (env : AsmEnv) (float unsigned : Bool) (i : AsmImm) : Option Nat :=
  match i with
  | .int e =>
    if float then none
    else if unsigned then fieldIn env.labels 0 0xFFFFF e
    else (fieldIn env.labels (-524288) 524287 e).map (· % 2 ^ 20)
  | .float neg m e approx =>
    let bits := floatBits neg m e
    if !float then none
    else if approx || (bits % 4096 == 0 && isExactly bits (decimalValue neg m e)) then some (bits / 4096)
    else none

/-- The one literal of a statement's sources: every one must have the same value (R114, R444). -/
def litOf (env : AsmEnv) (xs : List AsmSrc) : Option (Option Nat) :=
  match xs.filterMap (·.lit) with
  | [] => some none
  | e :: es =>
    match (e.eval env.labels).map (fun v => v.toNat % 2 ^ 32) with
    | none => none
    | some v => if es.all (fun e => (e.eval env.labels).map (fun v => v.toNat % 2 ^ 32) == some v) then some (some v) else none

/-- All of a list that is parsed item by item. -/
def allOf {α β : Type} (f : α → Option β) : List α → Option (List β)
  | [] => some []
  | a :: as => match f a, allOf f as with
    | some b, some bs => some (b :: bs)
    | _, _ => none

/-! ### VF and VI (R129, R444) -/

/-- A field that holds a source, and takes the next operand. -/
def takesSrc (k : SrcKind) : Bool :=
  match k with
  | .src | .vreg | .run4 => true
  | _ => false

/-- The destination of a vector statement as its field (R115). -/
def vecDst (k : DstKind) (ts : List Tok) : Option Nat :=
  match k with
  | .p => kindReg 'p' 7 ts
  | _ => regOf ts

/-- The code that stands in B or C: a predicate of SEL, a residue of CVTEF, or what the qualifiers say; with the operands and
qualifiers left. -/
def vecCode (op : Nat) (os : List (List Tok)) (qs : List String) : Option (Nat × List (List Tok) × List String) :=
  let byQual (p : Option (Nat × List String)) := p.map (fun p => (p.1, os, p.2))
  match op with
  | 0x0e | 0x2a | 0x2b => byQual (qualNeeded condQuals qs)
  | 0x41 => match os.getLast? with
    | some o => (kindReg 'p' 8 o).map (fun n => (n, os.dropLast, qs))
    | none => none
  | 0x48 | 0x49 | 0x4a => byQual (convCode qs)
  | 0x52 => byQual (qualNeeded (namesFrom 0 ["any", "all", "eq"]) qs)
  | 0x54 => byQual (qualNeeded (namesFrom 0 ["iadd", "imin", "imax", "umin", "umax", "and", "or", "xor", "fadd", "fmin", "fmax"]) qs)
  | _ => some (0xE0, os, qs)

/-- Modifier or reuse bits of A, B and C as one field. -/
def bits3Of (f : AsmSrc → Bool) (a b c : AsmSrc) : Nat := 4 * bit (f a) + 2 * bit (f b) + bit (f c)

/-- A VF word from its sources (R109). -/
def vfWord (env : AsmEnv) (op dst : Nat) (a b c : AsmSrc) (clamp scale pred : Nat) (pinv : Bool) : Option RawWord :=
  if [a, b, c].any (fun x => x.imm.isSome) then none
  else (litOf env [a, b, c]).map (fun l =>
    (pack [(3, 0), (1, bit pinv), (3, pred), (3, bits3Of (·.reuse) a b c), (3, scale), (1, clamp), (1, bit c.abs), (1, bit c.neg),
      (1, bit b.abs), (1, bit b.neg), (1, bit a.abs), (1, bit a.neg), (8, c.code), (8, b.code), (8, a.code), (8, dst), (8, op), (4, 0)], l))

/-- A VI word: the immediate is the last source (R112, R444). -/
def viWord (env : AsmEnv) (op dst : Nat) (xs : List AsmSrc) (i : AsmImm) (pred : Nat) (pinv : Bool) : Option RawWord :=
  let k := vecSpec op
  let a := xs.headD .unused
  let b := xs.tail.headD .unused
  let float := match k.cls with | .F | .H | .D => true | _ => false
  if xs.length + 1 ≠ k.viSrcs ∨ xs.any (fun x => x.imm.isSome || x.reuse) = true then none
  else match imm20 env float (op == 0x4b) i, litOf env [a, b] with
    | some v, some l =>
      some (pack [(20, v), (1, bit pinv), (3, pred), (1, bit b.abs), (1, bit b.neg), (1, bit a.abs), (1, bit a.neg), (8, b.code),
        (8, a.code), (8, dst), (8, op), (4, 1)], l)
    | _, _ => none

/-- A vector statement (R129, R444). -/
def vecStmt (env : AsmEnv) (op : Nat) (s : Stmt) : Option RawWord :=
  let k := vecSpec op
  let pred := match s.pred with | some (_, n) => n | none => 7
  let pinv := match s.pred with | some (i, _) => i | none => false
  match s.flag, s.ops with
  | none, d :: os =>
    match vecDst k.dst d, vecCode op os s.quals with
    | some dst, some (code, os, qs) =>
      -- CVTEF names its residue as the last operand (R245).
      let residue := if op = 0x49 then (os.getLast?.bind (kindReg 'e' 8)) else some 0xE0
      let os := if op = 0x49 then os.dropLast else os
      match residue, takeQual [("clamp", 1)] qs, allOf srcOf os with
      | some res, some (clamp, qs), some xs =>
        match takeQual scaleQuals qs with
        | some (scale, []) =>
          match xs.getLast? with
          | some ⟨_, _, _, _, some i, _⟩ =>
            if clamp.isSome || scale.isSome || (k.c != .unused && !takesSrc k.c) then none
            else viWord env op dst xs.dropLast i pred pinv
          | _ =>
            let count := ([k.a, k.b, k.c].filter takesSrc).length
            let a := xs.headD .unused
            let b := if takesSrc k.b then xs.tail.headD .unused else .plain res
            let c := if takesSrc k.c then xs.getLastD .unused else .plain code
            if xs.length ≠ count then none else vfWord env op dst a b c (clamp.getD 0) (scale.getD 0) pred pinv
        | _ => none
      | _, _, _ => none
    | _, _ => none
  | _, _ => none

/-! ### SF (R252 to R257) -/

/-- An SF word from its fields (R109). -/
def sfWord (env : AsmEnv) (op dst : Nat) (xs : List AsmSrc) (a b c imm : Nat) : Option RawWord :=
  (litOf env xs).map (fun l => (pack [(20, imm), (8, c), (8, b), (8, a), (8, dst), (8, op), (4, 2)], l))

/-- A scalar statement. -/
def sfStmt (env : AsmEnv) (op : Nat) (s : Stmt) : Option RawWord :=
  let float := decide (0x0f ≤ op ∧ op ≤ 0x11)
  let (dk, ka, kb, kc) := sfSpec op
  if s.pred.isSome || s.flag.isSome then none
  else match op, s.ops, s.quals with
    | 0x14, [d, [.name r]], [] =>
      (match regOf d, sysNumber r with | some d, some n => sfWord env op d [] 0xFF 0xE0 0xE0 n | _, _ => none)
    | 0x15, [[.name r], b], [] =>
      (match sysNumber r, srcOf b with
       | some n, some x => if x.isBare then sfWord env op 0 [x] 0xFF x.code 0xE0 n else none
       | _, _ => none)
    | op, d :: os, qs =>
      let cond := if op = 0x0d then qualNeeded condQuals qs else if qs = [] then some (0xE0, []) else none
      let sel := if op = 0x0e then os.getLast?.bind (kindReg 'p' 8) else some 0xE0
      let os := if op = 0x0e then os.dropLast else os
      match cond, sel, (match dk with | .p => kindReg 'p' 7 d | _ => regOf d), allOf srcOf os with
      | some (cond, []), some sel, some dst, some xs =>
        let count := ([ka, kb, kc].filter takesSrc).length
        let imm := match xs.getLast? with
          | some ⟨_, _, _, _, some i, _⟩ => imm20 env float false i
          | _ => some 0
        let code := if op = 0x0d then cond else sel
        let field (k : SrcKind) (n : Nat) := if takesSrc k then (xs.getD n .unused).code else 0xE0
        if xs.length ≠ count ∨ xs.any (fun x => x.neg || x.abs || x.reuse) = true ∨ xs.dropLast.any (fun x => x.imm.isSome) = true then none
        else imm.bind (sfWord env op dst xs (field ka 0) (field kb 1) (if takesSrc kc then field kc 2 else code))
      | _, _, _, _ => none
    | _, _, _ => none

/-! ### MEM (R130 to R151) -/

/-- The fields that MEM qualifiers and the flag set (R130). -/
structure MemQuals where
  scope : Nat
  acq : Nat
  rel : Nat
  sync : Nat
  nt : Nat
  fe : Nat
  deriving DecidableEq, Repr

/-- The qualifiers of a MEM statement; the decoder rejects one that its opcode does not accept. -/
def memQuals (qs : List String) : Option MemQuals := do
  let (scope, qs) ← qualField scopeQuals qs
  let (acq, qs) ← qualField [("acq", 1)] qs
  let (rel, qs) ← qualField [("rel", 1)] qs
  let (sync, qs) ← qualField [("sync", 1)] qs
  let (nt, qs) ← qualField [("nt", 1)] qs
  let (fe, qs) ← qualField [("wf", 1), ("wc", 2), ("sf", 3)] qs
  if qs = [] then some ⟨scope, acq, rel, sync, nt, fe⟩ else none

/-- A MEM word from its fields (R109). -/
def memWord (op data base sb offset : Nat) (q : MemQuals) (flag : Option Nat) (lit : Option Nat) : RawWord :=
  (pack [(4, flag.getD 15), (1, q.nt), (1, q.sync), (1, q.rel), (1, q.acq), (2, q.scope), (2, q.fe), (16, offset), (8, sb), (8, base),
    (8, data), (8, op), (4, 4)], lit)

/-- The index of LDC, written `c[x + expr]` (R140, R441). -/
def constIndex (ts : List Tok) : Option (Nat × Expr) :=
  match ts with
  | .name c :: .sym "[" :: .name x :: .sym "+" :: us => if lower c = "c" then addrOf (.sym "[" :: .name x :: .sym "+" :: us) else none
  | _ => none

/-- A MEM statement by its opcode, with the qualifiers that its mnemonic leaves. -/
def memStmt (env : AsmEnv) (op : Nat) (s : Stmt) : Option RawWord := do
  if s.pred.isSome then none
  let addressed (qs : List String) (data : List Tok) (mem : Option (Nat × Expr)) (sb : List AsmSrc) : Option RawWord := do
    let q ← memQuals qs
    let d ← if data = [] then some 0xE0 else regOf data
    let (b, e) ← mem
    let off ← offsetField env e
    let l ← litOf env sb
    if sb.all AsmSrc.isBare then some (memWord op d b (sb.headD .unused).code off q s.flag l) else none
  match op, s.ops with
  | 0x12, [d, x] => addressed s.quals d (constIndex x) []
  | 0x40, [] => (memQuals s.quals).map (fun q => memWord op 0xE0 0xE0 0xE0 0 q s.flag none)
  | 0x41, [x] => addressed s.quals [] (addrOf x) []
  | 0x48, [d, x, n] => do
    let (dir, qs) ← qualField [("in", 0), ("out", 1)] s.quals
    let (token, qs) ← qualField [("q9", 2)] qs
    let q ← memQuals qs
    some (memWord op (← regOf d) (← addrOnly x) (← regOf n) (dir + token) q s.flag none)
  | 0x49, [m] => do
    let (mode, qs) ← qualNeeded [("cache", 0), ("scratch", 1), ("fifo", 2)] s.quals
    let q ← memQuals qs
    if q.fe = 0 then some (memWord op 0xE0 0xE0 0xE0 (← fieldOf env 0 0xFFFF m) { q with fe := mode } s.flag none) else none
  | 0x4a, [d, b, n] => do
    let q ← memQuals s.quals
    let x ← srcOf n
    let l ← litOf env [x]
    if x.isBare then some (memWord op (← regOf d) (← regOf b) x.code 0 q s.flag l) else none
  | 0x4b, [b] => do
    let (page, qs) ← qualField [("token", 0), ("page", 1)] s.quals
    let q ← memQuals qs
    some (memWord op 0xE0 (← regOf b) 0xE0 page q s.flag none)
  | op, os =>
    if op ≤ 0x1e then
      match os with
      | [d, x] => addressed s.quals d (addrOf x) []
      | _ => none
    else match decide (op < 0x30 ∨ op = 0x39), os with
      | true, [d, x, v] => (srcOf v).bind (fun v => addressed s.quals d (addrOf x) [v])
      | false, [x, v] => (srcOf v).bind (fun v => addressed s.quals [] (addrOf x) [v])
      | _, _ => none

/-! ### CTL (R190) -/

/-- A CTL word from its fields (R109). -/
def ctlWord (op cond f12 offset : Nat) : RawWord := (pack [(32, offset), (12, f12), (8, cond), (8, op), (4, 5)], none)

/-- A control statement by its opcode, with the qualifiers that its mnemonic leaves. -/
def ctlStmt (env : AsmEnv) (op : Nat) (s : Stmt) : Option RawWord :=
  if s.pred.isSome || s.flag.isSome then none
  else match op, s.ops with
    | 0x00, [t] => if s.quals = [] then (targetOf env t).map (ctlWord op 7 0) else none
    | 0x00, [p, t] =>
      (match qualField [("any", 0), ("all", 1)] s.quals, predCodeOf p, targetOf env t with
       | some (all, []), some p, some t => some (ctlWord op p all t)
       | _, _, _ => none)
    | op, os =>
      if s.quals ≠ [] then none
      else match op, os with
        | 0x01, [x] | 0x03, [x] => (regOf x).map (fun n => ctlWord op n 0 0)
        | 0x02, [x, t] | 0x12, [x, t] =>
          (match regOf x, targetOf env t with | some n, some t => some (ctlWord op n 0 t) | _, _ => none)
        | 0x04, [p] => (predCodeOf p).map (fun p => ctlWord op p 0 0)
        | 0x08, [m] | 0x0b, [m] | 0x14, [m] => (fieldOf env 0 0xFFF m).map (fun n => ctlWord op 0xE0 n 0)
        | 0x0d, [b, n] =>
          (match kindReg 'b' 16 b, fieldOf env 1 64 n with | some b, some n => some (ctlWord op 0xE0 b n) | _, _ => none)
        | 0x0e, [b] | 0x0f, [b] | 0x10, [b] | 0x11, [b] => (kindReg 'b' 16 b).map (fun b => ctlWord op 0xE0 b 0)
        | 0x01, _ | 0x02, _ | 0x03, _ | 0x04, _ | 0x08, _ | 0x0b, _ | 0x0d, _ | 0x0e, _ | 0x0f, _ | 0x10, _ | 0x11, _ | 0x12, _ | 0x14, _ => none
        | op, [] => some (ctlWord op 0xE0 0 0)
        | _, _ => none

/-! ### ENG (R183, R289, R294, R387) -/

/-- An ENG word from its fields (R109). -/
def engWord (op a b c imm scope acq rel sub : Nat) (flag : Option Nat) : RawWord :=
  (pack [(4, flag.getD 15), (4, sub), (1, rel), (1, acq), (2, scope), (16, imm), (8, c), (8, b), (8, a), (8, op), (4, 6)], none)

/-- Mantissa widths of a Prism operand (R289). -/
def widthQuals : List (String × Nat) := namesFrom 2 ["m2", "m3", "m4", "m5", "m6", "m7", "m8"]

/-- The queues of a Prism stream or ring (R289, R294). -/
def queueQuals : List (String × Nat) := namesFrom 0 ["q0", "q1", "q2", "q3", "q4", "q5", "q6", "q7"]

/-- FMT of MMDRAIN with MB at bit 6 (R293, R294). -/
def drainQuals : List (String × Nat) :=
  namesFrom 0 ["f32", "f16", "bf16", "e4m3", "e5m2"] ++
    ([2, 3, 4, 5, 6, 7, 8].zip ["bfp2", "bfp3", "bfp4", "bfp5", "bfp6", "bfp7", "bfp8"]).map (fun e => (e.2, 5 + 64 * e.1))

/-- MMDRAIN by its destination: memory and local take an address, a row descriptor and, as the word requires, the pair of stride and
seed; a ring and q8 take no address, and the status takes nothing (R289, R294). -/
def drainStmt (s : Stmt) : Option RawWord := do
  let (scope, qs) ← qualField scopeQuals s.quals
  let (acq, qs) ← qualField [("acq", 1)] qs
  let (rel, qs) ← qualField [("rel", 1)] qs
  let (sub, qs) ← qualNeeded (namesFrom 0 ["mem", "loc", "ring", "q8", "stat"]) qs
  let word (a b c imm : Nat) := engWord 0x02 a b c imm scope acq rel sub s.flag
  if sub = 4 then
    let (clear, qs) ← qualField [("clear", 1)] qs
    if qs = [] ∧ s.ops = [] then some (word 0xE0 0xE0 0xE0 clear) else none
  else
    let (fmt, qs) ← qualNeeded drainQuals qs
    let (mode, qs) ← qualField (namesFrom 0 ["rne", "rtz", "rup", "rdn", "ef", "sr"]) qs
    let (clears, qs) ← qualField [("zero", 1)] qs
    let (qn, qs) ← if sub = 2 then qualNeeded queueQuals qs else some (0, qs)
    if qs ≠ [] then none
    let imm := fmt + 8 * mode + 1024 * clears + 2048 * qn
    let os ← if sub ≤ 1 then some s.ops else some ([] :: s.ops)
    match os with
    | [x, b] => do some (word (← if sub ≤ 1 then addrOnly x else some 0xE0) (← regOf b) 0xE0 imm)
    | [x, b, c] => do some (word (← if sub ≤ 1 then addrOnly x else some 0xE0) (← regOf b) (← regOf c) imm)
    | _ => none

/-- An engine or task statement. -/
def engStmt (op : Nat) (s : Stmt) : Option RawWord := do
  if s.pred.isSome then none
  match op, s.ops with
  | 0x00, [x] => do
    let (scope, qs) ← qualField scopeQuals s.quals
    let (acq, qs) ← qualField [("acq", 1)] qs
    let (m, qs) ← qualNeeded widthQuals qs
    if qs = [] then some (engWord op (← addrOnly x) 0xE0 0xE0 m scope acq 0 0 s.flag) else none
  | 0x01, [a, b] => do
    let (scope, qs) ← qualField scopeQuals s.quals
    let (acq, qs) ← qualField [("acq", 1)] qs
    let (m, qs) ← qualNeeded widthQuals qs
    let (qn, qs) ← qualField queueQuals qs
    let (clr, qs) ← qualField [("clr", 1)] qs
    if qs = [] then some (engWord op (← regOf a) (← regOf b) 0xE0 (m + 16 * qn + 128 * clr) scope acq 0 0 s.flag) else none
  | 0x02, _ => drainStmt s
  | 0x0a, [] => do
    let (sub, qs) ← qualNeeded [("retry", 0), ("drop", 1)] s.quals
    if qs = [] then some (engWord op 0xE0 0xE0 0xE0 0 0 0 0 sub s.flag) else none
  | 0x0b, [a] => if s.quals = [] then some (engWord op (← regOf a) 0xE0 0xE0 0 0 0 0 0 s.flag) else none
  | 0x08, [a, b, c] | 0x09, [a, b, c] =>
    if s.quals = [] then some (engWord op (← regOf a) (← regOf b) (← regOf c) 0 0 0 0 0 s.flag) else none
  | _, _ => none

/-! ### GFX (R306, R335, R357) -/

/-- A GFX word from its fields (R109). -/
def gfxWord (op dst a c kreg imm sub : Nat) (flag : Option Nat) : RawWord :=
  (pack [(4, flag.getD 15), (4, sub), (8, imm), (4, kreg), (8, c), (8, 0xE0), (8, a), (8, dst), (8, op), (4, 7)], none)

/-- IMM8 from `.acq`, a scope and, for TEX, `.nofb` (R306, R335, R357). -/
def scopeImm (nofb : Bool) (qs : List String) : Option Nat := do
  let (scope, qs) ← qualField scopeQuals qs
  let (acq, qs) ← qualField [("acq", 1)] qs
  let (nf, qs) ← if nofb then qualField [("nofb", 1)] qs else some (0, qs)
  if qs = [] then some (scope + 4 * acq + 8 * nf) else none

/-- A texture or ray statement: destination, source run, record index (R306, R335). -/
def unitStmt (op : Nat) (s : Stmt) : Option RawWord := do
  if s.pred.isSome then none
  match s.ops with
  | [d, a, c] => some (gfxWord op (← regOf d) (← regOf a) (← regOf c) 0 (← scopeImm (decide (op ≤ 0x02)) s.quals) 0 s.flag)
  | _ => none

/-- A trailing predicate as PDST, 7 where it is left out (R357). -/
def pdstOf (os : List (List Tok)) : Option Nat :=
  match os with
  | [] => some 7
  | [p] => kindReg 'p' 8 p
  | _ => none

/-- A closure statement (R357). -/
def closureStmt (env : AsmEnv) (op : Nat) (s : Stmt) : Option RawWord := do
  if s.pred.isSome then none
  let word (dst a kreg imm sub : Nat) := gfxWord op dst a 0xE0 kreg imm sub s.flag
  let plain : Option Unit := if s.quals = [] then some () else none
  match op, s.ops with
  | 0x10, [k, a] | 0x14, [k, a] => do plain; some (word 0 (← regOf a) (← kindReg 'k' 8 k) 0 0)
  | 0x11, k :: a :: p => do
    let (t, qs) ← qualNeeded (namesFrom 1 ["lambert", "ggxc", "ggxd", "net"]) s.quals
    if qs = [] then some (word 0 (← regOf a) t (← pdstOf p) (← kindReg 'k' 8 k)) else none
  | 0x12, k :: p => do plain; some (word 0 0xE0 (← kindReg 'k' 8 k) (← pdstOf p) 0)
  | 0x13, k :: a :: p => do plain; some (word 0 (← regOf a) (← kindReg 'k' 8 k) (← pdstOf p) 0)
  | 0x15, [d, k, a] | 0x16, [d, k, a] | 0x17, [d, k, a] => do
    some (word (← regOf d) (← regOf a) (← kindReg 'k' 8 k) (← scopeImm false s.quals) 0)
  | 0x18, [k, x] | 0x19, [k, x] => do plain; some (word 0 (← addrOnly x) (← kindReg 'k' 8 k) 0 0)
  | 0x1a, [d, k, .sym "#" :: n] => do plain; some (word (← regOf d) 0xE0 (← kindReg 'k' 8 k) (← fieldOf env 0 63 n) 0)
  | 0x1b, [k, j] => do plain; some (word 0 0xE0 (← kindReg 'k' 8 k) 0 (← kindReg 'k' 8 j))
  | _, _ => none

/-! ### PAIR (R122) -/

/-- The fields of one slot: opcode, destination, A and B. -/
def slotFields (s : Stmt) : Option (List (Nat × Nat)) := do
  let op ← slotNames.lookup s.mnem
  let fields (d a b : Nat) := [(8, b), (8, a), (8, d), (6, op)]
  match op, s.ops with
  | 0x3F, [] => some (fields 0 0xE0 0xE0)
  | 0x0D, [d, a] => do
    let x ← srcOf a
    if x.isBare then some (fields (← regOf d) x.code 0xE0) else none
  | op, [d, a, b] => do
    let x ← srcOf a
    let y ← srcOf b
    if op ≠ 0x0D ∧ op ≠ 0x3F ∧ x.isBare = true ∧ y.isBare = true then some (fields (← regOf d) x.code y.code) else none
  | _, _ => none

/-! ### Statements to instructions -/

/-- A statement's word, unchecked. -/
def rawWord (env : AsmEnv) (s : Stmt) : Option RawWord :=
  match vfNames.lookup s.mnem, sfNames.lookup s.mnem, memPlainNames.lookup s.mnem, ctlNames.lookup s.mnem, engNames.lookup s.mnem,
      closureNames.lookup s.mnem with
  | some op, _, _, _, _, _ => vecStmt env op s
  | _, some op, _, _, _, _ => sfStmt env op s
  | _, _, some op, _, _, _ => memStmt env op s
  | _, _, _, some op, _, _ => ctlStmt env op s
  | _, _, _, _, some op, _ => engStmt op s
  | _, _, _, _, _, some op => closureStmt env op s
  | none, none, none, none, none, none =>
    -- A mnemonic with a dot: its second part stands first among the qualifiers.
    match s.quals with
    | q :: qs =>
      let t := { s with quals := qs }
      match memNames.lookup (s.mnem, q), s.mnem, q with
      | some op, _, _ => memStmt env op t
      | none, "tex", q => ((namesFrom 0x00 ["s", "l", "q"]).lookup q).bind (fun op => unitStmt op t)
      | none, "ray", q => ((namesFrom 0x08 ["t", "o", "a"]).lookup q).bind (fun op => unitStmt op t)
      | none, "bar", q => ((namesFrom 0x0d ["init", "arv", "wait", "sync", "drop"]).lookup q).bind (fun op => ctlStmt env op t)
      | _, _, _ => none
    | [] => none

/-- The words of a line's statements, unchecked. -/
def rawWords (env : AsmEnv) (ss : List Stmt) : Option RawWord :=
  match ss with
  | [s] => rawWord env s
  | [a, b] =>
    match slotFields a, slotFields b with
    | some x, some y => some (pack (y ++ x ++ [(4, 8)]), none)
    | _, _ => none
  | _ => none

/-- The instruction of a line's statements: what its words decode to (R447). -/
def instrOf (env : AsmEnv) (ss : List Stmt) : Option Instr :=
  match rawWords env ss with
  | none => none
  | some (w, l) =>
    match decode (BitVec.ofNat 64 w) (BitVec.ofNat 64 (0xF000000000000000 + l.getD 0)) with
    | .ok i => some i
    | .error _ => none

end Sys2Proof.Machine
end

