-- ==== Sys2Proof/Machine/Asm.lean ====
section
/-! DEFINITION. The assembler ubn (R439, R445 to R447): the lines of a kernel, its directives, its image, and what the loader
makes of an image where it places it. -/

namespace Sys2Proof.Machine

open Sys2Proof

/-- What stands in a code section: a line's statements, or the NOP words of an `.align`. -/
inductive CodeItem where
  | stmts (ss : List Stmt)
  | nops (n : Nat)
  deriving DecidableEq, Repr

/-- What stands in a data section: an expression or a pattern of some bytes, or the zero bytes of an `.align`. -/
inductive DataItem where
  | expr (size : Nat) (e : Expr)
  | bits (size : Nat) (v : Nat)
  | zeros (n : Nat)
  deriving DecidableEq, Repr

/-- The bytes an item of code takes. -/
def CodeItem.size : CodeItem → Nat
  | .stmts ss => stmtSize ss
  | .nops n => 8 * n

/-- The bytes an item of data takes. -/
def DataItem.size : DataItem → Nat
  | .expr n _ => n
  | .bits n _ => n
  | .zeros n => n

/-- A kernel as ubn reads it (R445, R446). Its items stand in order, `labels` gives each label's section, data or not, and its offset
there, and `align` is the greatest alignment asked of its code. -/
structure Kernel where
  name : String
  regs : Option Nat
  closures : Option Nat
  width : Option Nat
  consts : List (Nat × Expr)
  labels : List (String × Bool × Nat)
  code : List CodeItem
  data : List DataItem
  align : Nat
  inData : Bool
  closed : Bool
  deriving DecidableEq, Repr

/-- The offset at which the next item of the open section stands. -/
def Kernel.here (k : Kernel) : Nat :=
  if k.inData then (k.data.map DataItem.size).foldl (· + ·) 0 else (k.code.map CodeItem.size).foldl (· + ·) 0

/-! ### Directives (R445) -/

/-- The value of an expression without labels, between two bounds. -/
def constOf (lo hi : Int) (ts : List Tok) : Option Nat := (exprOf ts).bind (fieldIn (fun _ => none) lo hi)

/-- A setting that must be written once, before the first statement (R445). -/
def Kernel.once (k : Kernel) (lo hi : Int) (old : Option Nat) (os : List (List Tok)) : Option Nat :=
  match old, os with
  | none, [o] => if k.code.any (fun c => match c with | .stmts _ => true | .nops _ => false) then none else constOf lo hi o
  | _, _ => none

/-- Items added to the data section, which must be open. -/
def Kernel.addData (k : Kernel) (items : Option (List DataItem)) : Option Kernel :=
  if k.inData then items.map (fun ds => { k with data := k.data ++ ds }) else none

/-- The data section opened: a label that no word of code follows names the byte that follows (R440). -/
def Kernel.openData (k : Kernel) : Kernel :=
  if k.inData then k
  else { k with inData := true, labels := k.labels.map (fun l => if l.2.2 = k.here then (l.1, true, 0) else l) }

/-- A directive (R445). -/
def Kernel.directive (k : Kernel) (d : String) (os : List (List Tok)) : Option Kernel :=
  let exprs (size : Nat) := if os = [] then none else allOf (fun o => (exprOf o).map (DataItem.expr size)) os
  match lower d, os with
  | "regs", os => (k.once 1 128 k.regs os).map (fun n => { k with regs := some n })
  | "closures", os => (k.once 0 8 k.closures os).map (fun n => { k with closures := some n })
  | "width", os => (k.once 1 8 k.width os).map (fun n => { k with width := some n })
  | "const", [c, e] =>
    (match kindReg 'c' 32 c, exprOf e with
     | some n, some e => if (k.consts.lookup n).isSome then none else some { k with consts := k.consts ++ [(n, e)] }
     | _, _ => none)
  | "data", [] => some k.openData
  | "word", _ => k.addData (exprs 4)
  | "half", _ => k.addData (exprs 2)
  | "byte", _ => k.addData (exprs 1)
  | "float", os =>
    k.addData (if os = [] then none else allOf (fun o => (floatOf o).map (fun f => DataItem.bits 4 (floatBits f.1 f.2.1 f.2.2))) os)
  | "align", [o] =>
    (match constOf 1 65536 o with
     | none => none
     | some a =>
       let pad := (a - k.here % a) % a
       if 2 ^ Nat.log2 a ≠ a then none
       else if k.inData then some { k with data := k.data ++ [.zeros pad] }
       else if a < 8 then none
       else some { k with code := k.code ++ [.nops (pad / 8)], align := max k.align a })
  | "end", [] => some { k with closed := true }
  | _, _ => none

/-! ### Lines (R439, R447) -/

/-- A label: not yet defined, and no register, special operand or mnemonic (R439). -/
def Kernel.labelled (k : Kernel) (s : String) : Option Kernel :=
  if isOperandName s || plainMnemonics.contains (lower s) || (k.labels.lookup s).isSome then none
  else some { k with labels := k.labels ++ [(s, k.inData, k.here)] }

/-- A statement or a directive, or neither. After `.end` nothing may stand (R447). -/
def Kernel.body (k : Kernel) (ts : List Tok) : Option Kernel :=
  match ts with
  | [] => some k
  | .sym "." :: .name d :: ts => if k.closed then none else (operandsOf ts).bind (k.directive d)
  | ts =>
    if k.closed || k.inData || k.regs.isNone || k.closures.isNone || k.width.isNone then none
    else (stmtsOf ts).map (fun ss => { k with code := k.code ++ [.stmts ss] })

/-- One line of a kernel. -/
def Kernel.line (k : Kernel) (line : String) : Option Kernel :=
  match tokensOf line with
  | none => none
  | some (.name s :: .sym ":" :: ts) => if k.closed then none else (k.labelled s).bind (fun k => k.body ts)
  | some ts => k.body ts

/-- The name of a line that opens a kernel. -/
def kernelName (line : String) : Option String :=
  match tokensOf line with
  | some [.sym ".", .name d, .name n] => if lower d = "kernel" then some n else none
  | _ => none

/-- The lines of a kernel after the one that opens it. -/
def Kernel.lines (k : Kernel) : List String → Option Kernel
  | [] => some k
  | l :: ls => (k.line l).bind (fun k => k.lines ls)

/-! ### Placement (R191, R446) -/

/-- An image where the loader has placed it: the words of its code, the bytes of its data, and its part of the launch record. -/
structure Placed where
  codeBase : Nat
  dataBase : Nat
  code : List (BitVec 64)
  data : List Byte
  nregs : Nat
  nkregs : Nat
  nstrands : Nat
  consts : List Word
  deriving DecidableEq, Repr

/-- The address of a label where the sections are placed. -/
def Kernel.address (k : Kernel) (code data : Nat) (s : String) : Option Nat :=
  (k.labels.lookup s).map (fun p => (if p.1 then data else code) + p.2)

/-- The registers a line's instruction names lie below `.regs` and `.closures` (R447). -/
def Kernel.regsFit (k : Kernel) (i : Instr) : Bool :=
  (formCodes i.form).all (fun n => (decide (0x80 ≤ n) || decide (n < k.regs.getD 0)) && (decide (n < 0x200) || decide (n - 0x200 < k.closures.getD 0)))

/-- The words of the code from an address on; none where a word would raise ILLEGAL or PAIRBANK, or a register is out of range (R447). -/
def Kernel.codeWords (k : Kernel) (labels : String → Option Nat) : Nat → List CodeItem → Option (List (BitVec 64))
  | _, [] => some []
  | pc, .nops n :: cs => (k.codeWords labels (pc + 8 * n) cs).map (List.replicate n (BitVec.ofNat 64 (ctlWord 0x0c 0xE0 0 0).1) ++ ·)
  | pc, .stmts ss :: cs =>
    match instrOf ⟨labels, pc⟩ ss with
    | none => none
    | some i =>
      let clash := match i.form with | .pair _ x y => pairBankClash x y | _ => false
      if clash || !k.regsFit i then none
      else (k.codeWords labels (pc + stmtSize ss) cs).map (encode i ++ ·)

/-- The bytes of the data (R445). -/
def dataBytes (labels : String → Option Nat) : List DataItem → Option (List Byte)
  | [] => some []
  | .expr n e :: ds =>
    (match e.eval labels, dataBytes labels ds with
     | some v, some bs => some (leBytes n v.toNat ++ bs)
     | _, _ => none)
  | .bits n v :: ds => (dataBytes labels ds).map (leBytes n v ++ ·)
  | .zeros n :: ds => (dataBytes labels ds).map (List.replicate n 0 ++ ·)

/-- An image with its sections at two addresses and its relocations resolved: the data at a multiple of 65,536, the code where its
`.align` requests hold (R440, R446). ENTRY is the start of the code. -/
def Kernel.place (k : Kernel) (code data : Nat) : Option Placed :=
  let labels := k.address code data
  let const (n : Nat) : Option Word := match k.consts.lookup n with
    | none => some 0
    | some e => (e.eval labels).map (fun v => BitVec.ofNat 32 v.toNat)
  if data % 65536 ≠ 0 ∨ code % max 8 k.align ≠ 0 then none
  else match k.regs, k.closures, k.width, k.codeWords labels code k.code, dataBytes labels k.data, allOf const (List.range 32) with
    | some regs, some closures, some width, some c, some d, some consts => some ⟨code, data, c, d, regs, closures, width, consts⟩
    | _, _, _, _, _, _ => none

/-- The launch record with what an image fills in; the loader fills in the rest (R446). -/
def Placed.fill (p : Placed) (r : LaunchRec) : LaunchRec :=
  { r with entry := p.codeBase, nregs := p.nregs, nkregs := p.nkregs, nstrands := p.nstrands, consts := p.consts }

/-- The expressions that stand in an operand: a literal's, an immediate's, an offset's, or the operand itself, a field or a target (R441). -/
def operandExprs (ts : List Tok) : List Expr :=
  match ts with
  | .sym "=" :: us => (exprOf us).toList
  | .sym "#" :: us => (match immOf us with | some (.int e) => [e] | _ => [])
  | ts => (((targetExpr ts) <|> (exprOf ts)).toList) ++ ((addrOf ts <|> constIndex ts).map (fun p => p.2)).toList

/-- The expressions of an image that hold a label, which the loader resolves (R440): those of its statements, data and constants. A name that is no
label of the kernel is a register or the like. -/
def Kernel.relocations (k : Kernel) : List Expr :=
  let stmts (ss : List Stmt) := (ss.map (fun s => (s.ops.map operandExprs).flatten)).flatten
  let all := (k.code.map (fun c => match c with | .stmts ss => stmts ss | .nops _ => [])).flatten
    ++ k.data.filterMap (fun d => match d with | .expr _ e => some e | _ => none) ++ k.consts.map (·.2)
  all.filter (fun e => e.hasLabel && (e.eval (k.address 0 0)).isSome)

/-- The words of one line's statements at an address, with the labels given; none where the line is an error of its own (R439, R447). -/
def asmLine (labels : String → Option Nat) (pc : Nat) (line : String) : Option (List (BitVec 64)) :=
  ((tokensOf line).bind stmtsOf).bind (fun ss => (instrOf ⟨labels, pc⟩ ss).map encode)

/-! ### ubn (R446, R447) -/

/-- Where ubn places a kernel to check it: code at 0, data at the next multiple of 65,536. -/
def Kernel.checked (k : Kernel) : Bool :=
  let size := (k.code.map CodeItem.size).foldl (· + ·) 0
  (k.place 0 ((size + 65535) / 65536 * 65536)).isSome

/-- The image of one kernel, none where it contains an error (R447). A kernel that the source's end closes is one too (DEDUCED, log 96). -/
def kernelImage (name : String) (lines : List String) : Option Kernel :=
  ((Kernel.mk name none none none [] [] [] [] 8 false false).lines lines).filter Kernel.checked

/-- The lines of each kernel of a source by its name, and the lines before the first, of which no image is written (DEDUCED, log 96). -/
def kernelsOf : List String → List String × List (String × List String)
  | [] => ([], [])
  | l :: ls =>
    let (before, ks) := kernelsOf ls
    match kernelName l with
    | some n => ([], (n, before) :: ks)
    | none => (l :: before, ks)

/-- The images that ubn writes for a source: one for each kernel without errors (R446, R447). -/
def ubn (source : List String) : List Kernel := (kernelsOf source).2.filterMap (fun k => kernelImage k.1 k.2)

end Sys2Proof.Machine
end

