-- ==== Sys2Proof/Safety.lean ====
section
/-! DEFINITION. What counts as a safe run: no fault and no refusal, and memory in its canonical form. -/

namespace Sys2Proof

open Machine

/-- The form of every memory of the machine: addresses strictly rising, no byte listed that an unlisted address reads as. -/
abbrev Memory.wf (m : Table Byte) : Prop := tcanon 0 m = true

/-- No launch and no group, in its handler or not, has more than the 8 strands a group may have (R168), and every group's number has
been given out. -/
def Shaped (s : State) : Prop :=
  (∀ e ∈ s.launches, e.2.record.nstrands ≤ 8) ∧
  ∀ e ∈ s.groups, e.1 < s.nextId ∧ e.2.strands.length ≤ 8 ∧ ∀ h, e.2.inHandler = some h → h.strands.length ≤ 8

/-- Physical memory, local space and the memories outside the package in canonical form, and no group too wide. -/
def Safe (s : State) : Prop :=
  (Memory.wf s.hbm ∧ Memory.wf s.banks ∧ Memory.wf s.remote ∧ Memory.wf s.hostMem) ∧ Shaped s

/-- Every group, team and launch stands under its own number. -/
def Keyed (s : State) : Prop :=
  (∀ e ∈ s.groups, e.2.gid = e.1) ∧ (∀ e ∈ s.teams, e.2.id = e.1) ∧ ∀ e ∈ s.launches, e.2.id = e.1

/-- A run of some steps ends in a safe state. -/
def SafeRun : Nat → State → Prop
  | 0, s => Safe s
  | n + 1, s => match step s with | .next t => SafeRun n t | .fault _ => False | .refused _ => False

end Sys2Proof
end

