-- ==== Sys2Proof/Certificates/Slice0/Obligations.lean ====
section
/-! DEFINITION. The statements for the provers. Where a statement rests on a choice of the model's own, its docstring says so. -/

/-! ### The words the statements are written in -/

namespace Sys2Proof.Claim

open Sys2Proof Sys2Proof.Machine

/-- An instruction of the issuing gang reaches its effect: the gang may issue (R187), it does not stand in a barrier wait or inside its
queue operands at this word already, every issue check passes (R126), no late trap is due (R32), no boundary holds it back (R144), and in a
deterministic launch no access of its team's earlier turns does (R395). -/
structure Issues (i : Instr) (s : State) (c : Ctx) : Prop where
  gang : issueCtx s = some c
  fresh : inWaitHalf i c = false
  begun : inQueueHalf i c = false
  checks : issueTrap i c s = none
  late : lateDue i c.g = none
  free : (formIsMemory i.form && s.memHold c.g.gid) = false
  turn : (c.det && s.teamHold c.g (formClass i.form)) = false

/-- An instruction of the issuing gang reaches its effect, or stands inside its queue operands, which it has begun to pop: it is judged
no more (R113, R126). -/
def Reaches (i : Instr) (s : State) (c : Ctx) : Prop := Issues i s c ∨ (issueCtx s = some c ∧ inQueueHalf i c = true)

/-- Two states that differ in one group at most: memory, caches, other groups and every other part are the same. -/
def SameBut (gid : Nat) (s t : State) : Prop :=
  t = { s with groups := t.groups } ∧ ∀ k, k ≠ gid → tfind k t.groups = tfind k s.groups

/-- The issuing gang's group in a state. -/
def Has (t : State) (c : Ctx) (g : Group) : Prop := tfind c.g.gid t.groups = some g

/-- Every strand of the gang at its own address, ready to issue; every other strand as it was. -/
def GangAt (c : Ctx) (dest : Nat → Addr) (g : Group) : Prop :=
  ∀ t, g.strand t = if t ∈ c.strands then { c.g.strand t with pc := dest t, wait := .ready } else c.g.strand t

/-- The gang at the word after an instruction. -/
def Advances (i : Instr) (c : Ctx) (g : Group) : Prop := GangAt c (fun _ => c.pc + BitVec.ofNat 64 i.size) g

/-- The gang still at its instruction, offered again later. -/
def Stays (c : Ctx) (g : Group) : Prop :=
  ∀ t, (g.strand t).pc = (c.g.strand t).pc ∧ (g.strand t).stack = (c.g.strand t).stack ∧
    (g.strand t).exited = (c.g.strand t).exited ∧ (g.strand t).gang = (c.g.strand t).gang

/-- The gang waits at its instruction for a reason; every other strand is as it was. -/
def Waits (c : Ctx) (w : GangWait) (g : Group) : Prop :=
  ∀ t, g.strand t = if t ∈ c.strands then { c.g.strand t with wait := w } else c.g.strand t

/-- What the other gangs have pending of their queue operands is as before. -/
def OthersPending (c : Ctx) (g : Group) : Prop := ∀ k, k ≠ c.lowest → tfind k g.pending = tfind k c.g.pending

/-- v(n) holds a word in each lane of a list, and every other element of every vector register is as before. -/
def VecWrote (n : Nat) (ls : List Nat) (f : Nat → Word) (g g' : Group) : Prop :=
  (∀ l ∈ ls, g'.vget n l = f l) ∧ ∀ m l, (∀ k ∈ ls, 32 * m + l ≠ 32 * n + k) → g'.vget m l = g.vget m l

/-- p(n) holds a bit in each lane of a list; its other bits and the other predicates are as before. -/
def PredWrote (n : Nat) (ls : List Nat) (f : Nat → Bool) (g g' : Group) : Prop :=
  (∀ l < 32, (g'.pget n).getLsbD l = if l ∈ ls then f l else (g.pget n).getLsbD l) ∧ ∀ m, m ≠ n → g'.pget m = g.pget m

/-- s(n) holds a word in each strand of a list, and every other scalar is as before. -/
def ScalarWrote (n : Nat) (ts : List Nat) (f : Nat → Word) (g g' : Group) : Prop :=
  (∀ t ∈ ts, g'.sget n t = f t) ∧ ∀ m t, (∀ k ∈ ts, 64 * t + m ≠ 64 * k + n) → g'.sget m t = g.sget m t

/-- What the gang had pending of its queue operands is used up; the other gangs' is as before. -/
def PendingDone (c : Ctx) (g : Group) : Prop :=
  tfind c.lowest g.pending = none ∧ OthersPending c g

/-- A vector instruction has ended: its results are in the destination's lanes, or wait to be pushed to its queue in ascending
lane order with the gang still at the word (R113, R231), and nothing else has changed but the gang's place and the reuse latch. -/
def VecEnds (i : Instr) (d : Dst) (ls : List Nat) (f : Nat → Word) (s : State) (c : Ctx) (t : State) : Prop :=
  SameBut c.g.gid s t ∧ ∃ g, Has t c g ∧
    match d with
    | .v n => Advances i c g ∧ VecWrote n.val ls f c.g g ∧ PendingDone c g ∧
        { g with v := c.g.v, strands := c.g.strands, pending := c.g.pending, latch := c.g.latch } = c.g
    | .p n => Advances i c g ∧ PredWrote n.val ls (fun l => f l != 0) c.g g ∧ PendingDone c g ∧
        { g with p := c.g.p, strands := c.g.strands, pending := c.g.pending, latch := c.g.latch } = c.g
    | .q n =>
        (if ls = [] then Advances i c g ∧ PendingDone c g
         else Waits c .retry g ∧ OthersPending c g ∧ tfind c.lowest g.pending = some ⟨c.lowest, i, [], [], ls.map (fun l => (n.val, l, f l)), true,
           c.pc + BitVec.ofNat 64 i.size, s.clock⟩) ∧
        { g with strands := c.g.strands, pending := c.g.pending, latch := c.g.latch } = c.g
    | _ => True

/-- The queue elements a vector word reads are there: it reads no queue, or no lane acts, or all its pops have been served (R113). -/
def Fed (i : Instr) (ls : List Nat) (c : Ctx) (pops : Table Word) : Prop :=
  if formPops i.form = [] then tfind c.lowest c.g.pending = none ∧ pops = []
  else if ls = [] then pops = []
  else ∃ p, tfind c.lowest c.g.pending = some p ∧ p.pops = [] ∧ p.pushing = false ∧ pops = p.popped

/-- What a vector word writes: its destination, the lanes that act, and each lane's result from the queue elements popped. -/
structure LaneRule where
  dst : Dst
  lanes : Ctx → List Nat
  value : Ctx → Table Word → Nat → Word

/-- A VF word's rule from what its opcode makes of the finished sources A, B and C and the destination's old word (R231). -/
def onVF (op : Nat) (x : VF) (f : Word → Word → Word → Word → Word) : LaneRule :=
  ⟨x.dst, fun c => c.acting x.pred x.pinv, fun c p l =>
    f (vfSrc c op x p 0 l) (vfSrc c op x p 1 l) (vfSrc c op x p 2 l) (oldDst c x.dst l)⟩

/-- A VI word's rule; the immediate is its last source (R112). -/
def onVI (op : Nat) (x : VI) (f : Word → Word → Word → Word) : LaneRule :=
  ⟨x.dst, fun c => c.acting x.pred x.pinv, fun c p l => f (viSrc c op x p 0 l) (viSrc c op x p 1 l) (viSrc c op x p 2 l)⟩

/-- Every well-formed instruction of a constructor completes with the results the constructor's rule gives. -/
def Completes {α : Type} (k : α → Instr) (rule : α → LaneRule) : Prop :=
  ∀ x s c pops, (k x).wf = true → Reaches (k x) s c → Fed (k x) ((rule x).lanes c) c pops →
    ∃ t, exec (k x) s = .next t ∧ VecEnds (k x) (rule x).dst ((rule x).lanes c) ((rule x).value c pops) s c t

/-! ### The rules of the vector opcodes -/

/-- Class I and Q: the exact integer mod 2^32, or saturated under CLAMP (R117, R238). -/
def reduced (clamp : Bool) (y : Int) : Word := BitVec.ofInt 32 (if clamp then max (-2 ^ 31) (min (2 ^ 31 - 1) y) else y)

/-- The sum over the four bytes of the products of the signed bytes. -/
def dot4 (a b : Word) : Int :=
  (a.extractLsb' 0 8).toInt * (b.extractLsb' 0 8).toInt + (a.extractLsb' 8 8).toInt * (b.extractLsb' 8 8).toInt +
    (a.extractLsb' 16 8).toInt * (b.extractLsb' 16 8).toInt + (a.extractLsb' 24 8).toInt * (b.extractLsb' 24 8).toInt

/-- A class F result: the exact value scaled, rounded once to FP32, and clamped (R118, R232). -/
def finished (x : VF) (y : Exact) : Word := BitVec.ofNat 32 (finishF f32 ⟨x.scale, x.clamp⟩ y)

/-- Half `k` of a word. -/
def half (k : Nat) (w : Word) : Nat := w.toNat / 2 ^ (16 * k) % 2 ^ 16

/-- A packed result: each half of its own exact value, scaled, rounded once to its format, and clamped (R235). -/
def packed (f : Fmt) (fin : Finish) (y : Nat → Exact) : Word := BitVec.ofNat 32 (finishF f fin (y 1) * 2 ^ 16 + finishF f fin (y 0))

/-- The exact sum, product and product plus addend of half `k` of packed words. -/
def sum (f : Fmt) (a b : Word) (k : Nat) : Exact := (f.value (half k a)).add (f.value (half k b))
def product (f : Fmt) (a b : Word) (k : Nat) : Exact := (f.value (half k a)).mul (f.value (half k b))
def fused (f : Fmt) (a b d : Word) (k : Nat) : Exact := (product f a b k).add (f.value (half k d))

/-- The sixteen dot-product operands of a run of four registers in a lane, the first byte of the first register first (R217, R228). -/
def runBytes (c : Ctx) (x : Src) (l : Nat) : List Nat := ((c.run x 4 l).map wordBytes).flatten

/-- A DOT16 word's rule. -/
def dots (f : Fmt) (op : Nat) (x : VF) : LaneRule :=
  ⟨x.dst, fun c => c.acting x.pred x.pinv, fun c p l => finished x (dotExact
    (List.zipWith Exact.mul ((runBytes c x.a l).map f.value) ((runBytes c x.b l).map f.value)) (val32 (vfSrc c op x p 2 l)))⟩

/-- FSETP: what each condition code asks of the operands' values, and its answer with a NaN operand (R234). -/
def floatCompare (code : Nat) (a b : Word) : Bool :=
  match (val32 a).cmp? (val32 b) with
  | none => decide (code = 1 ∨ code = 7)
  | some o => [decide (o = 0), decide (o ≠ 0), decide (o < 0), decide (o ≤ 0), decide (0 < o), decide (0 ≤ o), true, false].getD code false

/-- ISETP and USETP: what each condition code asks of the operands' integers (R234). -/
def intCompare (code : Nat) (a b : Int) : Bool :=
  [decide (a = b), decide (a ≠ b), decide (a < b), decide (a ≤ b), decide (a > b), decide (a ≥ b)].getD code false

/-- The lanes a word's predicate names. -/
def acts (x : VF) (c : Ctx) : List Nat := c.acting x.pred x.pinv
/-- The element a SHFL lane names, or its fallback (R248). -/
def named (c : Ctx) (reg : Nat) (j fallback : Word) : Word := if j.toNat < 4 * c.nstrands then c.g.vget reg j.toNat else fallback

end Sys2Proof.Claim

open Sys2Proof Sys2Proof.Machine Sys2Proof.Claim

/-- R238 (and IDP4, R237): the integer opcodes. -/
def Obligations.IntegerOpcodesCompute : Prop :=
  Completes Instr.iadd (fun x => onVF 0x20 x (fun a b _ _ => reduced x.clamp (a.toInt + b.toInt))) ∧
  Completes Instr.iaddImm (fun x => onVI 0x20 x (fun a b _ => reduced false (a.toInt + b.toInt))) ∧
  Completes Instr.isub (fun x => onVF 0x21 x (fun a b _ _ => reduced x.clamp (a.toInt - b.toInt))) ∧
  Completes Instr.isubImm (fun x => onVI 0x21 x (fun a b _ => reduced false (a.toInt - b.toInt))) ∧
  Completes Instr.imul (fun x => onVF 0x22 x (fun a b _ _ => reduced x.clamp (a.toInt * b.toInt))) ∧
  Completes Instr.imulImm (fun x => onVI 0x22 x (fun a b _ => reduced false (a.toInt * b.toInt))) ∧
  Completes Instr.imulh (fun x => onVF 0x23 x (fun a b _ _ => reduced x.clamp (a.toInt * b.toInt / 2 ^ 32))) ∧
  Completes Instr.imulhImm (fun x => onVI 0x23 x (fun a b _ => reduced false (a.toInt * b.toInt / 2 ^ 32))) ∧
  Completes Instr.umulh (fun x => onVF 0x24 x (fun a b _ _ => reduced x.clamp ((a.toNat * b.toNat / 2 ^ 32 : Nat) : Int))) ∧
  Completes Instr.umulhImm (fun x => onVI 0x24 x (fun a b _ => reduced false ((a.toNat * b.toNat / 2 ^ 32 : Nat) : Int))) ∧
  Completes Instr.imad (fun x => onVF 0x25 x (fun a b d _ => reduced x.clamp (a.toInt * b.toInt + d.toInt))) ∧
  Completes Instr.imadImm (fun x => onVI 0x25 x (fun a b d => reduced false (a.toInt * b.toInt + d.toInt))) ∧
  Completes Instr.imin (fun x => onVF 0x26 x (fun a b _ _ => reduced x.clamp (min a.toInt b.toInt))) ∧
  Completes Instr.iminImm (fun x => onVI 0x26 x (fun a b _ => reduced false (min a.toInt b.toInt))) ∧
  Completes Instr.imax (fun x => onVF 0x27 x (fun a b _ _ => reduced x.clamp (max a.toInt b.toInt))) ∧
  Completes Instr.imaxImm (fun x => onVI 0x27 x (fun a b _ => reduced false (max a.toInt b.toInt))) ∧
  Completes Instr.umin (fun x => onVF 0x28 x (fun a b _ _ => reduced x.clamp ((min a.toNat b.toNat : Nat) : Int))) ∧
  Completes Instr.uminImm (fun x => onVI 0x28 x (fun a b _ => reduced false ((min a.toNat b.toNat : Nat) : Int))) ∧
  Completes Instr.umax (fun x => onVF 0x29 x (fun a b _ _ => reduced x.clamp ((max a.toNat b.toNat : Nat) : Int))) ∧
  Completes Instr.umaxImm (fun x => onVI 0x29 x (fun a b _ => reduced false ((max a.toNat b.toNat : Nat) : Int))) ∧
  Completes Instr.idp4 (fun x => onVF 0x1a x (fun a b d _ => reduced x.clamp (d.toInt + dot4 a b))) ∧
  Completes Instr.idp4Imm (fun x => onVI 0x1a x (fun a b d => reduced false (d.toInt + dot4 a b)))

/-- R239: logic and shifts. -/
def Obligations.BitOpcodesCompute : Prop :=
  Completes Instr.and (fun x => onVF 0x30 x (fun a b _ _ => a &&& b)) ∧
  Completes Instr.andImm (fun x => onVI 0x30 x (fun a b _ => a &&& b)) ∧
  Completes Instr.or (fun x => onVF 0x31 x (fun a b _ _ => a ||| b)) ∧
  Completes Instr.orImm (fun x => onVI 0x31 x (fun a b _ => a ||| b)) ∧
  Completes Instr.xor (fun x => onVF 0x32 x (fun a b _ _ => a ^^^ b)) ∧
  Completes Instr.xorImm (fun x => onVI 0x32 x (fun a b _ => a ^^^ b)) ∧
  Completes Instr.shl (fun x => onVF 0x33 x (fun a b _ _ => a <<< b.toNat)) ∧
  Completes Instr.shlImm (fun x => onVI 0x33 x (fun a b _ => a <<< b.toNat)) ∧
  Completes Instr.shr (fun x => onVF 0x34 x (fun a b _ _ => a >>> b.toNat)) ∧
  Completes Instr.shrImm (fun x => onVI 0x34 x (fun a b _ => a >>> b.toNat)) ∧
  Completes Instr.sar (fun x => onVF 0x35 x (fun a b _ _ => a.sshiftRight b.toNat)) ∧
  Completes Instr.sarImm (fun x => onVI 0x35 x (fun a b _ => a.sshiftRight b.toNat)) ∧
  Completes Instr.popc (fun x => onVF 0x38 x (fun a _ _ _ => BitVec.ofNat 32 (((List.range 32).filter (fun i => a.getLsbD i)).length))) ∧
  Completes Instr.popcImm (fun x => onVI 0x38 x (fun a _ _ => BitVec.ofNat 32 (((List.range 32).filter (fun i => a.getLsbD i)).length))) ∧
  Completes Instr.clz (fun x => onVF 0x39 x (fun a _ _ _ => BitVec.ofNat 32 (32 - (List.range 33).findIdx (fun n => a.toNat < 2 ^ n)))) ∧
  Completes Instr.clzImm (fun x => onVI 0x39 x (fun a _ _ => BitVec.ofNat 32 (32 - (List.range 33).findIdx (fun n => a.toNat < 2 ^ n)))) ∧
  Completes Instr.brev (fun x => onVF 0x3a x (fun a _ _ _ => a.reverse)) ∧
  Completes Instr.brevImm (fun x => onVI 0x3a x (fun a _ _ => a.reverse))

/-- R240, R241, R247: bit fields, moves, selects and the counter hash. -/
def Obligations.MoveOpcodesCompute : Prop :=
  Completes Instr.bfe (fun x => onVF 0x36 x (fun a b _ _ => bitExtract a b)) ∧
  Completes Instr.bfeImm (fun x => onVI 0x36 x (fun a b _ => bitExtract a b)) ∧
  Completes Instr.bfi (fun x => onVF 0x37 x (fun a b d _ => bitInsert a b d)) ∧
  Completes Instr.bfiImm (fun x => onVI 0x37 x (fun a b d => bitInsert a b d)) ∧
  Completes Instr.mov (fun x => onVF 0x40 x (fun a _ _ _ => a)) ∧
  Completes Instr.movImm (fun x => onVI 0x40 x (fun a _ _ => a)) ∧
  Completes Instr.sel (fun x => ⟨x.dst, fun c => c.acting x.pred x.pinv, fun c p l =>
      if (c.g.pget (codeVal x.c)).getLsbD l then vfSrc c 0x41 x p 0 l else vfSrc c 0x41 x p 1 l⟩) ∧
  Completes Instr.rng (fun x => onVI 0x4b x (fun a b d => rngHash a b d))

/-- R232: FP32 arithmetic. -/
def Obligations.FloatOpcodesCompute : Prop :=
  Completes Instr.fadd (fun x => onVF 0x00 x (fun a b _ _ => finished x ((val32 a).add (val32 b)))) ∧
  Completes Instr.faddImm (fun x => onVI 0x00 x (fun a b _ => rne32 ((val32 a).add (val32 b)))) ∧
  Completes Instr.fmul (fun x => onVF 0x01 x (fun a b _ _ => finished x ((val32 a).mul (val32 b)))) ∧
  Completes Instr.fmulImm (fun x => onVI 0x01 x (fun a b _ => rne32 ((val32 a).mul (val32 b)))) ∧
  Completes Instr.ffma (fun x => onVF 0x02 x (fun a b d _ => finished x (((val32 a).mul (val32 b)).add (val32 d)))) ∧
  Completes Instr.ffmaImm (fun x => onVI 0x02 x (fun a b d => rne32 (((val32 a).mul (val32 b)).add (val32 d)))) ∧
  Completes Instr.fmin (fun x => onVF 0x03 x (fun a b _ _ => finished x (f32.value (f32.minNum a.toNat b.toNat)))) ∧
  Completes Instr.fminImm (fun x => onVI 0x03 x (fun a b _ => rne32 (f32.value (f32.minNum a.toNat b.toNat)))) ∧
  Completes Instr.fmax (fun x => onVF 0x04 x (fun a b _ _ => finished x (f32.value (f32.maxNum a.toNat b.toNat)))) ∧
  Completes Instr.fmaxImm (fun x => onVI 0x04 x (fun a b _ => rne32 (f32.value (f32.maxNum a.toNat b.toNat))))

/-- R233: the FP32 functions. -/
def Obligations.FunctionOpcodesCompute : Prop :=
  Completes Instr.frcp (fun x => onVF 0x05 x (fun a _ _ _ => fn32 .rcp ⟨x.scale, x.clamp⟩ a)) ∧
  Completes Instr.frcpImm (fun x => onVI 0x05 x (fun a _ _ => fn32 .rcp Finish.none a)) ∧
  Completes Instr.fsqrt (fun x => onVF 0x06 x (fun a _ _ _ => fn32 .sqrt ⟨x.scale, x.clamp⟩ a)) ∧
  Completes Instr.fsqrtImm (fun x => onVI 0x06 x (fun a _ _ => fn32 .sqrt Finish.none a)) ∧
  Completes Instr.frsq (fun x => onVF 0x07 x (fun a _ _ _ => fn32 .rsq ⟨x.scale, x.clamp⟩ a)) ∧
  Completes Instr.frsqImm (fun x => onVI 0x07 x (fun a _ _ => fn32 .rsq Finish.none a)) ∧
  Completes Instr.fexp2 (fun x => onVF 0x08 x (fun a _ _ _ => fn32 .exp2 ⟨x.scale, x.clamp⟩ a)) ∧
  Completes Instr.fexp2Imm (fun x => onVI 0x08 x (fun a _ _ => fn32 .exp2 Finish.none a)) ∧
  Completes Instr.flog2 (fun x => onVF 0x09 x (fun a _ _ _ => fn32 .log2 ⟨x.scale, x.clamp⟩ a)) ∧
  Completes Instr.flog2Imm (fun x => onVI 0x09 x (fun a _ _ => fn32 .log2 Finish.none a)) ∧
  Completes Instr.fsinpi (fun x => onVF 0x0a x (fun a _ _ _ => fn32 .sinpi ⟨x.scale, x.clamp⟩ a)) ∧
  Completes Instr.fsinpiImm (fun x => onVI 0x0a x (fun a _ _ => fn32 .sinpi Finish.none a)) ∧
  Completes Instr.fcospi (fun x => onVF 0x0b x (fun a _ _ _ => fn32 .cospi ⟨x.scale, x.clamp⟩ a)) ∧
  Completes Instr.fcospiImm (fun x => onVI 0x0b x (fun a _ _ => fn32 .cospi Finish.none a)) ∧
  Completes Instr.ffloor (fun x => onVF 0x0c x (fun a _ _ _ => fn32 .floor ⟨x.scale, x.clamp⟩ a)) ∧
  Completes Instr.ffloorImm (fun x => onVI 0x0c x (fun a _ _ => fn32 .floor Finish.none a)) ∧
  Completes Instr.ffract (fun x => onVF 0x0d x (fun a _ _ _ => fn32 .fract ⟨x.scale, x.clamp⟩ a)) ∧
  Completes Instr.ffractImm (fun x => onVI 0x0d x (fun a _ _ => fn32 .fract Finish.none a))

/-- R235: packed halves. -/
def Obligations.HalfOpcodesCompute : Prop :=
  Completes Instr.hadd2 (fun x => onVF 0x10 x (fun a b _ _ => packed f16 ⟨x.scale, x.clamp⟩ (sum f16 a b))) ∧
  Completes Instr.hadd2Imm (fun x => onVI 0x10 x (fun a b _ => packed f16 Finish.none (sum f16 a b))) ∧
  Completes Instr.hmul2 (fun x => onVF 0x11 x (fun a b _ _ => packed f16 ⟨x.scale, x.clamp⟩ (product f16 a b))) ∧
  Completes Instr.hmul2Imm (fun x => onVI 0x11 x (fun a b _ => packed f16 Finish.none (product f16 a b))) ∧
  Completes Instr.hfma2 (fun x => onVF 0x12 x (fun a b d _ => packed f16 ⟨x.scale, x.clamp⟩ (fused f16 a b d))) ∧
  Completes Instr.hfma2Imm (fun x => onVI 0x12 x (fun a b d => packed f16 Finish.none (fused f16 a b d))) ∧
  Completes Instr.bfma2 (fun x => onVF 0x13 x (fun a b d _ => packed bf16 ⟨x.scale, x.clamp⟩ (fused bf16 a b d))) ∧
  Completes Instr.bfma2Imm (fun x => onVI 0x13 x (fun a b d => packed bf16 Finish.none (fused bf16 a b d)))

/-- R236, R244, R246. -/
def Obligations.DotAndConvertOpcodesCompute : Prop :=
  Completes Instr.dot16e4 (fun x => dots e4m3 0x18 x) ∧
  Completes Instr.dot16e5 (fun x => dots e5m2 0x19 x) ∧
  Completes Instr.cvt (fun x => onVF 0x48 x (fun a _ _ old => convert (codeVal x.c) a old)) ∧
  Completes Instr.cvtsr (fun x => onVF 0x4a x (fun a b _ old => convertSr (codeVal x.c) a b old))

/-- R234. -/
def Obligations.CompareOpcodesCompute : Prop :=
  Completes Instr.fsetp (fun x => onVF 0x0e x (fun a b _ _ => if floatCompare (codeVal x.c) a b then 1 else 0)) ∧
  Completes Instr.isetp (fun x => onVF 0x2a x (fun a b _ _ => if intCompare (codeVal x.c) a.toInt b.toInt then 1 else 0)) ∧
  Completes Instr.usetp (fun x => onVF 0x2b x (fun a b _ _ => if intCompare (codeVal x.c) a.toNat b.toNat then 1 else 0))

/-- R248, R250, R251. -/
def Obligations.CrossLaneOpcodesCompute : Prop :=
  Completes Instr.shfl (fun x => ⟨x.dst, acts x, fun c p l => named c (x.a.vreg?.getD 0) (vfSrc c 0x50 x p 1 l) (vfSrc c 0x50 x p 2 l)⟩) ∧
  Completes Instr.shflImm (fun x => ⟨x.dst, fun c => c.acting x.pred x.pinv, fun c p l =>
      named c (x.a.vreg?.getD 0) (viSrc c 0x50 x p 1 l) (x.imm.signExtend 32)⟩) ∧
  Completes Instr.vote (fun x => ⟨x.dst, acts x, fun c p _ =>
      let ws := (acts x c).map (vfSrc c 0x52 x p 0)
      if [ws.any (· != 0), ws.all (· != 0)].getD (codeVal x.c) (ws.all (fun w => ws.all (· == w))) then 1 else 0⟩) ∧
  Completes Instr.ballot (fun x => ⟨x.dst, acts x, fun c p _ => laneMask ((acts x c).filter (fun l => vfSrc c 0x53 x p 0 l != 0))⟩) ∧
  Completes Instr.ballotImm (fun x => ⟨x.dst, fun c => c.acting x.pred x.pinv, fun c _ _ =>
      if x.imm.signExtend 32 = (0 : Word) then 0 else laneMask (c.acting x.pred x.pinv)⟩) ∧
  Completes Instr.redux (fun x => ⟨x.dst, acts x, fun c p _ => reduxWord (codeVal x.c) ((acts x c).map (vfSrc c 0x54 x p 0))⟩)

namespace Sys2Proof.Claim

/-- The gang has gone on to the next word, only its group has changed, and the group is as a property says. -/
def Does (i : Instr) (s : State) (c : Ctx) (t : State) (P : Group → Prop) : Prop :=
  SameBut c.g.gid s t ∧ ∃ g, Has t c g ∧ Advances i c g ∧ P g

/-- Nothing of the group but its strands, its vector registers, the pops it had pending and the reuse latch has changed. -/
def OnlyVec (c : Ctx) (g : Group) : Prop :=
  { g with v := c.g.v, strands := c.g.strands, pending := c.g.pending, latch := c.g.latch } = c.g

/-- The registers VIDX and VIDXW choose in the acting lanes: one sum a lane, reduced mod 2^32 (R242). -/
def chosen (base : Nat) (index : Nat → Word) (l : Nat) : Nat := (base + (index l).toNat) % 2 ^ 32

/-- A register a lane chooses may be used: the launch declares it and no flag tracks it (R242). -/
def mayChoose (c : Ctx) (n : Nat) : Prop := n < c.nregs ∧ n ∉ (c.g.flags.map (·.2.tracked)).flatten

/-- The lowest acting lane for whose register a property holds, with it false of every lower lane's. -/
def FirstChosen (c : Ctx) (ls : List Nat) (n : Nat → Nat) (bad : Nat → Prop) (l : Nat) : Prop :=
  l ∈ ls ∧ bad (n l) ∧ ∀ k ∈ ls, k < l → ¬bad (n k)

/-- VIDX and VIDXW trap, before any effect, where a chosen register is not declared, or else is tracked: with the register of the lowest such lane
(R242). -/
def IndexTraps (i : Instr) (s : State) (c : Ctx) (ls : List Nat) (n : Nat → Nat) : Prop :=
  (∀ l, FirstChosen c ls n (fun m => c.nregs ≤ m) l → exec i s = raiseHere c 0x04 0 (n l) s) ∧
  (∀ l, (∀ k ∈ ls, n k < c.nregs) → FirstChosen c ls n (fun m => m ∈ (c.g.flags.map (·.2.tracked)).flatten) l →
    exec i s = raiseHere c 0x05 0 (n l) s)

/-- The residue an acting lane's CVTEF leaves, and every other residue as it was. -/
def ResidueWrote (n : Nat) (ls : List Nat) (f : Nat → Word) (g g' : Group) : Prop :=
  ∀ m, ∀ l < 32, g'.eget m l = if m = n ∧ l ∈ ls then f l else g.eget m l

/-- The lanes PUTL writes and what each receives: of the acting lanes that name a lane, in ascending order, the last one's v(A);
a name outside the group's width is discarded (R249). -/
def putlTo (c : Ctx) (reg : Nat) (name : Nat → Word) (ls : List Nat) (j : Nat) : Option Word :=
  if j < 4 * c.nstrands then ((ls.filter (fun l => (name l).toNat = j)).getLast?).map (c.g.vget reg) else none

/-- What each opcode of a PAIR slot makes of its two sources: the VF opcode's result without modifiers (R258). -/
def slotValue (op : SlotOp) (a b : Word) : Word :=
  match op with
  | .fadd => rne32 ((val32 a).add (val32 b))
  | .fmul => rne32 ((val32 a).mul (val32 b))
  | .fmin => rne32 (f32.value (f32.minNum a.toNat b.toNat))
  | .fmax => rne32 (f32.value (f32.maxNum a.toNat b.toNat))
  | .iadd => BitVec.ofInt 32 (a.toInt + b.toInt)
  | .isub => BitVec.ofInt 32 (a.toInt - b.toInt)
  | .imul => BitVec.ofInt 32 (a.toInt * b.toInt)
  | .and => a &&& b
  | .or => a ||| b
  | .xor => a ^^^ b
  | .shl => a <<< b.toNat
  | .shr => a >>> b.toNat
  | .sar => a.sshiftRight b.toNat
  | .mov => a
  | .imin => BitVec.ofInt 32 (min a.toInt b.toInt)
  | .imax => BitVec.ofInt 32 (max a.toInt b.toInt)
  | .hadd2 => packed f16 Finish.none (sum f16 a b)
  | .hmul2 => packed f16 Finish.none (product f16 a b)
  | .nop => 0

/-- What a slot leaves in v(m) of a lane: its result where it writes that element, from registers as they were before the word. -/
def slotLeaves (c : Ctx) (op : SlotOp) (x : SlotArgs) (m l : Nat) (old : Word) : Word :=
  if op ≠ .nop ∧ m = x.dst.val ∧ l ∈ c.active then
    slotValue op (c.read (slotHalf op) 0 0 x.a l) (c.read (slotHalf op) 0 0 x.b l)
  else old

/-- A PAIR word with an opcode in slot 0 writes what its two slots make of the registers before the word (R122, R258). -/
def PairCompletes (k : SlotArgs → PairSlot → Instr) (op : SlotOp) : Prop :=
  ∀ x y s c, (k x y).wf = true → Shaped s → Issues (k x y) s c →
    ∃ t, exec (k x y) s = .next t ∧ Does (k x y) s c t (fun g =>
      { g with v := c.g.v, strands := c.g.strands, latch := c.g.latch } = c.g ∧
      ∀ m, ∀ l < 32, g.vget m l = slotLeaves c y.op y.args m l (slotLeaves c op x m l (c.g.vget m l)))

/-- A scalar word's end: s(DST) of every strand of the gang holds its value, and no other scalar and nothing else of the group
has changed but the gang's place (R252). -/
def ScalarEnds (i : Instr) (d : Dst) (f : Nat → Word) (s : State) (c : Ctx) (t : State) : Prop :=
  Does i s c t (fun g => { g with s := c.g.s, strands := c.g.strands } = c.g ∧
    match d with
    | .s n => ScalarWrote n.val c.strands f c.g g
    | _ => True)

/-- A scalar word writes what a rule makes of its three sources in each strand. -/
def ScalarCompletes (k : SF → Instr) (op : Nat) (f : Word → Word → Word → Word) : Prop :=
  ∀ x s c, (k x).wf = true → Issues (k x) s c →
    ∃ t, exec (k x) s = .next t ∧ ScalarEnds (k x) x.dst (fun u => f (sfSrc c op x 0 u) (sfSrc c op x 1 u) (sfSrc c op x 2 u)) s c t

/-- The slice of a predicate that belongs to a strand (R193). -/
def slice (m : BitVec 32) (u : Nat) : BitVec 4 := BitVec.ofNat 4 (m.toNat / 16 ^ u)

/-- What SREAD of each system register gives (R255), the ranges from 0x100 with their reserved bits zero (R19, R20). -/
def registerValue (s : State) (c : Ctx) (u : Nat) : List (Nat × Nat) :=
  [ (0x000, 4 * u), (0x001, u), (0x002, c.g.index.toNat), (0x003, c.teamIndex), (0x004, s.clock), (0x005, s.timeb),
    (0x008, (if c.det then 1 else 0) + match tfind c.g.launch s.launches with
      | some l => if l.token = some c.g.index.toNat then 2 else 0
      | none => 0),
    (0x009, match tfind c.g.launch s.launches with | some l => l.intrude.toNat | none => 0),
    (0x00A, c.g.fbovf.toNat),
    (0x010, match tfind c.g.launch s.domains with | some d => d.frontier | none => 0),
    (0x011, match s.taskOf c.g with | some (_, r) => r.ts | none => 0),
    (0x012, c.g.task.getD 0),
    (0x013, match tfind c.g.launch s.domains with | some d => d.specwin | none => 0),
    (0x018, c.g.trapCause.toNat), (0x019, c.g.trapPc.toNat), (0x01A, c.g.trapAddr.toNat), (0x01B, c.g.trapToken.toNat),
    (0x020, c.g.rheap.toNat) ] ++
  (List.range 16).map (fun n => (0x100 + n, (tget 0 c.g.ranges (0x100 + n) &&& 0xFFFFFFFFFFFF000F#64).toNat)) ++
  (List.range 16).map (fun n => (0x110 + n, (tget 0 c.g.ranges (0x110 + n) &&& 0xFFFFFFFFFFFF0000#64).toNat)) ++
  (List.range 16).map (fun n => (0x120 + n, (tget 0 c.g.ranges (0x120 + n)).toNat))

/-- What a register keeps of a value written to it (R19, R20, R23). -/
def keptOf (n : Nat) (v : BitVec 64) : BitVec 64 :=
  if n = 0x018 then v &&& 0x1FFFF#64
  else if n = 0x00A ∨ n = 0x01B then v &&& 0xFFFFFFFF#64
  else if 0x100 ≤ n ∧ n < 0x110 then v &&& 0xFFFFFFFFFFFF000F#64
  else if 0x110 ≤ n ∧ n < 0x120 then v &&& 0xFFFFFFFFFFFF0000#64
  else v

end Sys2Proof.Claim

/-- R242, R245, R249: VIDX, VIDXW, CVTEF and PUTL, whose effect is not one word a lane of the destination, and the traps of the first two. -/
def Obligations.ChosenRegisterOpcodesComplete : Prop :=
  (∀ x s c pops, (Instr.vidx x).wf = true → Reaches (.vidx x) s c → Fed (.vidx x) (c.acting x.pred x.pinv) c pops →
    IndexTraps (.vidx x) s c (c.acting x.pred x.pinv) (chosen (x.a.vreg?.getD 0) (vfSrc c 0x42 x pops 1))) ∧
  (∀ x s c pops n, (Instr.vidxw x).wf = true → x.dst = .v n → Reaches (.vidxw x) s c → Fed (.vidxw x) (c.acting x.pred x.pinv) c pops →
    IndexTraps (.vidxw x) s c (c.acting x.pred x.pinv) (chosen n.val (vfSrc c 0x43 x pops 0))) ∧
  (∀ x s c pops, (Instr.vidx x).wf = true → Reaches (.vidx x) s c → Fed (.vidx x) (c.acting x.pred x.pinv) c pops →
    (∀ l ∈ c.acting x.pred x.pinv, mayChoose c (chosen (x.a.vreg?.getD 0) (vfSrc c 0x42 x pops 1) l)) →
    ∃ t, exec (.vidx x) s = .next t ∧ VecEnds (.vidx x) x.dst (c.acting x.pred x.pinv)
      (fun l => c.g.vget (chosen (x.a.vreg?.getD 0) (vfSrc c 0x42 x pops 1) l) l) s c t) ∧
  (∀ x s c pops n, (Instr.vidxw x).wf = true → Shaped s → x.dst = .v n → Reaches (.vidxw x) s c → Fed (.vidxw x) (c.acting x.pred x.pinv) c pops →
    (∀ l ∈ c.acting x.pred x.pinv, mayChoose c (chosen n.val (vfSrc c 0x43 x pops 0) l)) →
    ∃ t, exec (.vidxw x) s = .next t ∧ Does (.vidxw x) s c t (fun g => PendingDone c g ∧ OnlyVec c g ∧ g.latch = [] ∧ ∀ m, ∀ l < 32,
      g.vget m l = if l ∈ c.acting x.pred x.pinv ∧ m = chosen n.val (vfSrc c 0x43 x pops 0) l
        then vfSrc c 0x43 x pops 1 l else c.g.vget m l)) ∧
  (∀ x s c pops, (Instr.cvtef x).wf = true → Shaped s → Reaches (.cvtef x) s c → Fed (.cvtef x) (c.acting x.pred x.pinv) c pops →
    ∃ t e, exec (.cvtef x) s = .next t ∧
      ResidueWrote (codeVal x.b) (c.acting x.pred x.pinv)
        (fun l => (convertEf (codeVal x.c) (vfSrc c 0x49 x pops 0 l) (oldDst c x.dst l) (c.g.eget (codeVal x.b) l)).2)
        c.g { c.g with e := e } ∧
      VecEnds (.cvtef x) x.dst (c.acting x.pred x.pinv)
        (fun l => (convertEf (codeVal x.c) (vfSrc c 0x49 x pops 0 l) (oldDst c x.dst l) (c.g.eget (codeVal x.b) l)).1)
        (s.modGroup c.g.gid (fun _ => { c.g with e := e })) { c with g := { c.g with e := e } } t) ∧
  (∀ x s c pops n, (Instr.putl x).wf = true → Shaped s → x.dst = .v n → Reaches (.putl x) s c → Fed (.putl x) (c.acting x.pred x.pinv) c pops →
    ∃ t, exec (.putl x) s = .next t ∧ Does (.putl x) s c t (fun g => PendingDone c g ∧ OnlyVec c g ∧ ∀ m, ∀ l < 32,
      g.vget m l = if m = n.val
        then (putlTo c (x.a.vreg?.getD 0) (vfSrc c 0x51 x pops 1) (c.acting x.pred x.pinv) l).getD (c.g.vget m l)
        else c.g.vget m l)) ∧
  (∀ x s c pops n, (Instr.putlImm x).wf = true → Shaped s → x.dst = .v n → Reaches (.putlImm x) s c →
    Fed (.putlImm x) (c.acting x.pred x.pinv) c pops →
    ∃ t, exec (.putlImm x) s = .next t ∧ Does (.putlImm x) s c t (fun g => PendingDone c g ∧ OnlyVec c g ∧ ∀ m, ∀ l < 32,
      g.vget m l = if m = n.val
        then (putlTo c (x.a.vreg?.getD 0) (fun _ => x.imm.signExtend 32) (c.acting x.pred x.pinv) l).getD (c.g.vget m l)
        else c.g.vget m l))

/-- R122, R258: both slots of a PAIR word read before either writes, on the gang's active lanes. -/
def Obligations.PairOpcodesCompute : Prop :=
  PairCompletes Instr.faddSlot .fadd ∧ PairCompletes Instr.fmulSlot .fmul ∧ PairCompletes Instr.fminSlot .fmin ∧
  PairCompletes Instr.fmaxSlot .fmax ∧ PairCompletes Instr.iaddSlot .iadd ∧ PairCompletes Instr.isubSlot .isub ∧
  PairCompletes Instr.imulSlot .imul ∧ PairCompletes Instr.andSlot .and ∧ PairCompletes Instr.orSlot .or ∧
  PairCompletes Instr.xorSlot .xor ∧ PairCompletes Instr.shlSlot .shl ∧ PairCompletes Instr.shrSlot .shr ∧
  PairCompletes Instr.sarSlot .sar ∧ PairCompletes Instr.movSlot .mov ∧ PairCompletes Instr.iminSlot .imin ∧
  PairCompletes Instr.imaxSlot .imax ∧ PairCompletes Instr.hadd2Slot .hadd2 ∧ PairCompletes Instr.hmul2Slot .hmul2 ∧
  PairCompletes (fun _ y => Instr.slotNop y) .nop

/-- R252, R253: scalar arithmetic, strand by strand. -/
def Obligations.ScalarOpcodesCompute : Prop :=
  ScalarCompletes .sadd 0x00 (fun a b _ => BitVec.ofInt 32 (a.toInt + b.toInt)) ∧
  ScalarCompletes .ssub 0x01 (fun a b _ => BitVec.ofInt 32 (a.toInt - b.toInt)) ∧
  ScalarCompletes .smul 0x02 (fun a b _ => BitVec.ofInt 32 (a.toInt * b.toInt)) ∧
  ScalarCompletes .smulh 0x03 (fun a b _ => BitVec.ofInt 32 (a.toInt * b.toInt / 2 ^ 32)) ∧
  ScalarCompletes .sand 0x04 (fun a b _ => a &&& b) ∧
  ScalarCompletes .sor 0x05 (fun a b _ => a ||| b) ∧
  ScalarCompletes .sxor 0x06 (fun a b _ => a ^^^ b) ∧
  ScalarCompletes .sshl 0x07 (fun a b _ => a <<< b.toNat) ∧
  ScalarCompletes .sshr 0x08 (fun a b _ => a >>> b.toNat) ∧
  ScalarCompletes .ssar 0x09 (fun a b _ => a.sshiftRight b.toNat) ∧
  ScalarCompletes .smin 0x0a (fun a b _ => BitVec.ofInt 32 (min a.toInt b.toInt)) ∧
  ScalarCompletes .smax 0x0b (fun a b _ => BitVec.ofInt 32 (max a.toInt b.toInt)) ∧
  ScalarCompletes .smov 0x0c (fun a _ _ => a) ∧
  ScalarCompletes .sfadd 0x0f (fun a b _ => rne32 ((val32 a).add (val32 b))) ∧
  ScalarCompletes .sfmul 0x10 (fun a b _ => rne32 ((val32 a).mul (val32 b))) ∧
  ScalarCompletes .sffma 0x11 (fun a b d => rne32 (((val32 a).mul (val32 b)).add (val32 d))) ∧
  ScalarCompletes .sbfe 0x12 (fun a b _ => bitExtract a b) ∧
  ScalarCompletes .spopc 0x13 (fun a _ _ => BitVec.ofNat 32 (((List.range 32).filter (fun i => a.getLsbD i)).length))

/-- R254, R257: SSETP writes all four bits of each strand of the gang, SSEL takes A in strands whose slice of the predicate is not
empty, and SFROMV reads one lane of v(A), or 0 outside the group's width. -/
def Obligations.ScalarSelectsComplete : Prop :=
  (∀ x s c, (Instr.ssetp x).wf = true → Issues (.ssetp x) s c →
    ∃ t, exec (.ssetp x) s = .next t ∧ Does (.ssetp x) s c t (fun g =>
      { g with p := c.g.p, strands := c.g.strands } = c.g ∧
      match x.dst with
      | .p n => PredWrote n.val (lanesOf c.strands) (fun l =>
          intCompare (codeVal x.c) (sfSrc c 0x0d x 0 (l / 4)).toInt (sfSrc c 0x0d x 1 (l / 4)).toInt) c.g g
      | _ => True)) ∧
  (∀ x s c, (Instr.ssel x).wf = true → Issues (.ssel x) s c →
    ∃ t, exec (.ssel x) s = .next t ∧ ScalarEnds (.ssel x) x.dst (fun u =>
      if slice (c.g.pget (codeVal x.c)) u ≠ 0 then sfSrc c 0x0e x 0 u else sfSrc c 0x0e x 1 u) s c t) ∧
  (∀ x s c, (Instr.sfromv x).wf = true → Issues (.sfromv x) s c →
    ∃ t, exec (.sfromv x) s = .next t ∧ ScalarEnds (.sfromv x) x.dst (fun u =>
      if (sfSrc c 0x16 x 1 u).toNat < 4 * c.nstrands
      then c.g.vget (x.a.vreg?.getD 0) (sfSrc c 0x16 x 1 u).toNat else 0) s c t)

/-- R255, R256: SREAD writes each strand's value of the register to s(DST), a wide register to the pair from s(DST). -/
def Obligations.SystemRegistersRead : Prop :=
  ∀ x s c n, (Instr.sread x).wf = true → Issues (.sread x) s c → x.dst = .s n →
    ∃ t, exec (.sread x) s = .next t ∧ Does (.sread x) s c t (fun g =>
      { g with s := c.g.s, strands := c.g.strands } = c.g ∧
      (∀ u ∈ c.strands, ∀ v, (x.imm.toNat, v) ∈ registerValue s c u →
        if sysWide x.imm.toNat then g.spair n.val u = v % 2 ^ 64 else g.sget n.val u = BitVec.ofNat 32 v) ∧
      ∀ m u, (u ∉ c.strands ∨ (m ≠ n.val ∧ ¬(sysWide x.imm.toNat ∧ m = n.val + 1))) → m < 64 → g.sget m u = c.g.sget m u)

/-- R255, R256: SWRITE writes the register with the value of the gang's lowest strand, so that a read then gives it, without the
bits the register does not keep; the group's general registers and every other system register are as before. -/
def Obligations.SystemRegistersWritten : Prop :=
  ∀ x s c, (Instr.swrite x).wf = true → Issues (.swrite x) s c →
    ∃ t, exec (.swrite x) s = .next t ∧ Does (.swrite x) s c t (fun g =>
      { g with fbovf := c.g.fbovf, trapCause := c.g.trapCause, trapPc := c.g.trapPc, trapAddr := c.g.trapAddr,
               trapToken := c.g.trapToken, rheap := c.g.rheap, ranges := c.g.ranges, strands := c.g.strands } = c.g ∧
      (∀ v, (x.imm.toNat, v) ∈ registerValue t { c with g := g } c.lowest →
        v = (keptOf x.imm.toNat (BitVec.ofNat 64
          (if sysWide x.imm.toNat then c.pair x.b else (c.scalar x.b).toNat))).toNat) ∧
      ∀ n v, n ≠ x.imm.toNat → (n, v) ∈ registerValue s c c.lowest → (n, v) ∈ registerValue t { c with g := g } c.lowest)

namespace Sys2Proof.Claim

/-- Only one group has changed, and it is as a property says. -/
def GroupEnds (s : State) (c : Ctx) (t : State) (P : Group → Prop) : Prop := SameBut c.g.gid s t ∧ ∃ g, Has t c g ∧ P g

/-- The gang's strands are as a rule gives, the others as they were. -/
def StrandsAre (c : Ctx) (g : Group) (f : Nat → Strand) : Prop := ∀ u, g.strand u = if u ∈ c.strands then f u else c.g.strand u

/-- Only strands of the group have changed. -/
def OnlyStrands (c : Ctx) (g : Group) : Prop := { g with strands := c.g.strands } = c.g

/-- Every strand of the gang stands at its own address, and strands with one address are one gang, named by its lowest (R170). -/
def Goes (c : Ctx) (dest : Nat → Addr) (g : Group) : Prop :=
  StrandsAre c g (fun u => { c.g.strand u with pc := dest u, wait := .ready, gang := lowestOf (c.strands.filter (fun w => dest w == dest u)) })

/-- The target of a branch: OFFSET counts words from the branch (R191). -/
def branchTarget (c : Ctx) (x : CTL) : Addr := BitVec.ofInt 64 (c.pc.toInt + 8 * x.offset.toInt)

/-- The address of the next word. -/
def nextWord (c : Ctx) : Addr := c.pc + 8

/-- The active mask of a strand: the top of its stack (R193). -/
def top (c : Ctx) (u : Nat) : BitVec 4 := (c.g.strand u).stack.headD 0

/-- The slice of the predicate a COND field names, inverted where its bit 3 is set (R193). -/
def condSlice (c : Ctx) (x : CTL) (u : Nat) : BitVec 4 :=
  let m := slice (c.g.pget (codeVal x.cond % 8)) u
  if codeVal x.cond / 8 % 2 = 1 then ~~~m else m

/-- Whether a strand takes BRA: some active lane's bit is 1, or every active lane's is (R195). -/
def takes (c : Ctx) (x : CTL) (u : Nat) : Bool :=
  if x.f12 = 0 then decide (top c u &&& condSlice c x u ≠ 0) else decide (top c u &&& ~~~condSlice c x u = 0)

/-- An instruction in flight has been put in the list, with the release it waits for if there is one, and its gang has gone on; the
group owns its flag with registers tracked against it, or is held where it has no flag and writes a register (R120, R121). Nothing
else has changed: no byte of memory, no register, no other group. -/
def Started (i : Instr) (dsts : List Nat) (rels : List Rel) (s : State) (c : Ctx) (o : Op) (t : State) : Prop :=
  t = { s with groups := t.groups, ops := s.ops ++ [o], rels := s.rels ++ rels, nextId := s.nextId + 1 + rels.length } ∧
  (∀ k, k ≠ c.g.gid → tfind k t.groups = tfind k s.groups) ∧
  ∃ g, Has t c g ∧ Advances i c g ∧ { g with strands := c.g.strands, flags := c.g.flags, heldBy := c.g.heldBy } = c.g ∧
    (if o.flag < 12 then
      g.flag o.flag = ⟨true, true, dsts, (c.g.flag o.flag).late⟩ ∧ (∀ n, n ≠ o.flag → g.flag n = c.g.flag n) ∧ g.heldBy = c.g.heldBy
    else g.flags = c.g.flags ∧ g.heldBy = if dsts = [] then c.g.heldBy else some o.id)

/-- What an instruction in flight is from its issue on: its number, its group, core and task, its flag and its word. -/
def IsOf (i : Instr) (s : State) (c : Ctx) (o : Op) : Prop :=
  o.id = s.nextId ∧ o.gid = c.g.gid ∧ o.core = c.core ∧ o.flag = formFlag i.form ∧ o.pc = c.pc ∧ o.strand = c.lowest ∧ o.instr = i ∧
  o.task = c.g.task.map (fun k => (c.g.launch, k)) ∧ o.lateTrap = none

/-- Barrier `b` of the issuing group's team is as given, and nothing else of the teams has changed. -/
def BarrierIs (s : State) (c : Ctx) (t : State) (b : Nat) (bar : Barrier) : Prop :=
  ∃ tm tm', tfind c.g.team s.teams = some tm ∧ tfind c.g.team t.teams = some tm' ∧
    tget Barrier.zero tm'.barriers b = bar ∧ (∀ n, n ≠ b → tget Barrier.zero tm'.barriers n = tget Barrier.zero tm.barriers n) ∧
    { tm' with barriers := tm.barriers } = tm ∧ ∀ k, k ≠ c.g.team → tfind k t.teams = tfind k s.teams

/-- A barrier instruction that goes on: the barrier is as given, the gang is at the next word, and nothing else has changed. -/
def BarrierGoesOn (i : Instr) (s : State) (c : Ctx) (t : State) (b : Nat) (bar : Barrier) : Prop :=
  t = { s with groups := t.groups, teams := t.teams } ∧ BarrierIs s c t b bar ∧
  (∀ k, k ≠ c.g.gid → tfind k t.groups = tfind k s.groups) ∧ ∃ g, Has t c g ∧ Advances i c g ∧ OnlyStrands c g

/-- The barrier a word names, as the team holds it. -/
def barAt (s : State) (c : Ctx) (x : CTL) : Barrier :=
  match tfind c.g.team s.teams with
  | some t => tget Barrier.zero t.barriers (x.f12.toNat % 16)
  | none => Barrier.zero

/-- COMPLETE where the count has reached EXPECT: the count and the waiting groups' marks are cleared (R209). -/
def completed (b : Barrier) : Barrier := if 0 < b.count ∧ b.count = b.expect then { b with count := 0, arrived := 0 } else b

/-- Bit `n` of a mask set, or cleared. -/
def withBit (m : BitVec 64) (n : Nat) (v : Bool) : BitVec 64 := if v then m ||| BitVec.twoPow 64 n else m &&& ~~~BitVec.twoPow 64 n

/-- A barrier after the group at a position has arrived (R209). -/
def afterArrive (b : Barrier) (pos : Nat) : Barrier :=
  completed { b with pend := withBit b.pend pos true, arrived := withBit b.arrived pos true, count := b.count + 1 }

/-- A CARE counter (R437). -/
def careAt (s : State) (n : Nat) : BitVec 64 := tget 0 s.care n

/-- The traps of completed instructions that a group has not been given (R32). -/
def lostTraps (g : Group) : BitVec 64 :=
  BitVec.ofNat 64 (((List.range 12).filter (fun n => (g.flag n).late.isSome)).length + g.late.length)

/-- A barrier after a participant has left it for good: it waits no more, and the barrier completes with the fewer (R209, R212). -/
def leaves (b : Barrier) (pos : Nat) : Barrier :=
  completed { b with part := withBit b.part pos false, pend := withBit b.pend pos false, arrived := withBit b.arrived pos false, expect := b.expect - 1 }

/-- A barrier instruction that waits: the barrier is as given, the gang stands in a wait at its word, and nothing else has changed. -/
def BarrierWaits (w : GangWait) (s : State) (c : Ctx) (t : State) (b : Nat) (bar : Barrier) : Prop :=
  t = { s with groups := t.groups, teams := t.teams } ∧ BarrierIs s c t b bar ∧
  (∀ k, k ≠ c.g.gid → tfind k t.groups = tfind k s.groups) ∧ ∃ g, Has t c g ∧ Claim.Waits c w g ∧ OnlyStrands c g

/-- No earlier plain load, KSPILL, KFILL or local access of the group waits to be performed (R211, R359). -/
def AccessesDone (s : State) (c : Ctx) : Prop :=
  ∀ o ∈ s.ops, o.gid = c.g.gid → o.performed = false → ∀ a b d e f,
    o.kind ≠ .load a b d e f ∧ (∀ st fe sz ds, o.kind ≠ .local st fe sz ds) ∧ ∀ i, o.kind ≠ .spillFill i

end Sys2Proof.Claim

/-- R191, R195 to R198: BRA, BRX, CALL, RET and SLOOP send each strand of the gang where its own copies say, and strands that part
form gangs of their own (R170). BRX and RET go where a 64-bit address says, and raise ALIGN with the address where its low three bits are not
zero: BRX that of the lowest strand whose address is so, RET that of the lowest strand. -/
def Obligations.BranchesComplete : Prop :=
  (∀ x s c, (Instr.bra x).wf = true → Issues (.bra x) s c →
    ∃ t, exec (.bra x) s = .next t ∧ GroupEnds s c t (fun g => OnlyStrands c g ∧
      Goes c (fun u => if takes c x u then branchTarget c x else nextWord c) g)) ∧
  (∀ x s c n, (Instr.brx x).wf = true → x.cond = .s n → Issues (.brx x) s c → (∀ u ∈ c.strands, c.g.spair n.val u % 8 = 0) →
    ∃ t, exec (.brx x) s = .next t ∧ GroupEnds s c t (fun g => OnlyStrands c g ∧ Goes c (fun u => BitVec.ofNat 64 (c.g.spair n.val u)) g)) ∧
  (∀ x s c n, (Instr.call x).wf = true → x.cond = .s n → Issues (.call x) s c →
    ∃ t, exec (.call x) s = .next t ∧ GroupEnds s c t (fun g =>
      { g with strands := c.g.strands, s := c.g.s } = c.g ∧ Goes c (fun _ => branchTarget c x) g ∧
      (∀ u ∈ c.strands, g.spair n.val u = (nextWord c).toNat) ∧
      ∀ m < 64, ∀ u, (u ∉ c.strands ∨ (m ≠ n.val ∧ m ≠ n.val + 1)) → g.sget m u = c.g.sget m u)) ∧
  (∀ x s c n, (Instr.ret x).wf = true → x.cond = .s n → Issues (.ret x) s c → c.g.spair n.val c.lowest % 8 = 0 →
    ∃ t, exec (.ret x) s = .next t ∧ GroupEnds s c t (fun g => OnlyStrands c g ∧
      Goes c (fun _ => BitVec.ofNat 64 (c.g.spair n.val c.lowest)) g)) ∧
  (∀ x s c n u, (Instr.brx x).wf = true → x.cond = .s n → Issues (.brx x) s c → u ∈ c.strands → c.g.spair n.val u % 8 ≠ 0 →
    (∀ w ∈ c.strands, w < u → c.g.spair n.val w % 8 = 0) → exec (.brx x) s = raiseHere c 0x08 0 (c.g.spair n.val u) s) ∧
  (∀ x s c n, (Instr.ret x).wf = true → x.cond = .s n → Issues (.ret x) s c → c.g.spair n.val c.lowest % 8 ≠ 0 →
    exec (.ret x) s = raiseHere c 0x08 0 (c.g.spair n.val c.lowest) s) ∧
  (∀ x s c n, (Instr.sloop x).wf = true → x.cond = .s n → Issues (.sloop x) s c →
    ∃ t, exec (.sloop x) s = .next t ∧ GroupEnds s c t (fun g =>
      { g with strands := c.g.strands, s := c.g.s } = c.g ∧ ScalarWrote n.val c.strands (fun u => c.g.sget n.val u - 1) c.g g ∧
      Goes c (fun u => if c.g.sget n.val u - 1 ≠ 0 then branchTarget c x else nextWord c) g))

/-- R194: PPUSH narrows the active mask of every strand of the gang by its slice of the predicate, PINV takes the lanes the top left
out of the entry below it, and PPOP drops the top; PSTACK names the lowest strand whose stack cannot change so. -/
def Obligations.PredicateStackWorks : Prop :=
  (∀ x s c, (Instr.ppush x).wf = true → Issues (.ppush x) s c → (∀ u ∈ c.strands, (c.g.strand u).stack.length < 16) →
    ∃ t, exec (.ppush x) s = .next t ∧ GroupEnds s c t (fun g => OnlyStrands c g ∧ StrandsAre c g (fun u =>
      { c.g.strand u with pc := nextWord c, wait := .ready, stack := (top c u &&& condSlice c x u) :: (c.g.strand u).stack }))) ∧
  (∀ s c, Issues .pinv s c → (∀ u ∈ c.strands, 2 ≤ (c.g.strand u).stack.length) →
    ∃ t, exec .pinv s = .next t ∧ GroupEnds s c t (fun g => OnlyStrands c g ∧ StrandsAre c g (fun u =>
      { c.g.strand u with pc := nextWord c, wait := .ready,
                          stack := (((c.g.strand u).stack.getD 1 0) &&& ~~~(top c u)) :: (c.g.strand u).stack.tail }))) ∧
  (∀ s c, Issues .ppop s c → (∀ u ∈ c.strands, 2 ≤ (c.g.strand u).stack.length) →
    ∃ t, exec .ppop s = .next t ∧ GroupEnds s c t (fun g => OnlyStrands c g ∧ StrandsAre c g (fun u =>
      { c.g.strand u with pc := nextWord c, wait := .ready, stack := (c.g.strand u).stack.tail }))) ∧
  (∀ x s c u, Issues (.ppush x) s c → u ∈ c.strands → 16 ≤ (c.g.strand u).stack.length →
    (∀ w ∈ c.strands, w < u → (c.g.strand w).stack.length < 16) → exec (.ppush x) s = raiseHere c 0x06 0 u s) ∧
  (∀ i s c u, i = .pinv ∨ i = .ppop → Issues i s c → u ∈ c.strands → (c.g.strand u).stack.length ≤ 1 →
    (∀ w ∈ c.strands, w < u → 2 ≤ (c.g.strand w).stack.length) → exec i s = raiseHere c 0x06 0 u s)

/-- R186, R199, R201 to R204, R212, R409: REGANG of a gang that holds every live strand, WAITF on clear flags and NOP go on at once; YIELD
goes on and gives its quarter's other groups their turn; EXIT ends the gang's strands. With its last strand, or in a handler, the group
retires: it takes part in no barrier of its team any more, and the traps it has not been given are counted. In a deterministic launch
YIELD and a last EXIT pass the turn (R189), so those two are stated of other launches here. A worker's last EXIT, with nothing of the group in
flight and no trap undelivered, ends its strands and leaves the group for its next task (R373). That the counter of lost traps lies where
`careIndex` says is the model's choice (log 18), and that a group leaves its barriers once, its ARRIVED bits cleared (log 47), and that an EXIT which
leaves live strands ends no turn of a deterministic launch (log 105), its readings. -/
def Obligations.GangsGoOn : Prop :=
  (∀ s c, Issues .regang s c → c.strands.length = c.g.live.length →
    ∃ t, exec .regang s = .next t ∧ GroupEnds s c t (fun g => OnlyStrands c g ∧ Advances .regang c g)) ∧
  (∀ s c, Issues .regang s c → c.strands.length ≠ c.g.live.length →
    ∃ t, exec .regang s = .next t ∧ GroupEnds s c t (fun g => OnlyStrands c g ∧
      StrandsAre c g (fun u => { c.g.strand u with wait := .regang }))) ∧
  (∀ x s c, Issues (.waitf x) s c → (∀ n < 12, x.f12.getLsbD n = true → (c.g.flag n).busy = false) →
    ∃ t, exec (.waitf x) s = .next t ∧ GroupEnds s c t (fun g => { g with strands := c.g.strands, flags := c.g.flags } = c.g ∧
      Advances (.waitf x) c g ∧ ∀ n, g.flag n =
        if n < 12 ∧ x.f12.getLsbD n = true then { c.g.flag n with owned := false, tracked := [] } else c.g.flag n)) ∧
  (∀ x s c n, Issues (.waitf x) s c → c.det = false → n < 12 → x.f12.getLsbD n = true → (c.g.flag n).busy = true →
    ∃ t, exec (.waitf x) s = .next t ∧ GroupEnds s c t (fun g => OnlyStrands c g ∧ Stays c g)) ∧
  (∀ s c, Issues .nop s c → ∃ t, exec .nop s = .next t ∧ GroupEnds s c t (fun g => OnlyStrands c g ∧ Advances .nop c g)) ∧
  (∀ s c, Issues .yield s c → c.det = false →
    ∃ t, exec .yield s = .next t ∧ GroupEnds s c t (fun g =>
      { g with strands := c.g.strands, yielded := c.g.yielded, offers := c.g.offers } = c.g ∧ Advances .yield c g ∧
      g.yielded = some s.clock ∧ g.offers = [])) ∧
  (∀ s c, Issues .exit s c → c.g.task = none → c.g.inHandler = none → c.strands.length ≠ c.g.live.length →
    ∃ t, exec .exit s = .next t ∧ GroupEnds s c t (fun g => OnlyStrands c g ∧
      StrandsAre c g (fun u => { c.g.strand u with exited := true, wait := .ready }))) ∧
  (∀ s c k, Issues .exit s c → c.g.task = some k → (∀ o ∈ s.ops, o.gid ≠ c.g.gid) → (∀ n, (c.g.flag n).late = none) → c.g.late = [] →
    ∃ t, exec .exit s = .next t ∧ GroupEnds s c t (fun g => OnlyStrands c g ∧
      ∀ u, g.strand u = if u ∈ (if c.g.inHandler = none then c.strands else c.g.live)
        then { c.g.strand u with exited := true, wait := .ready } else c.g.strand u)) ∧
  (∀ s c, Issues .exit s c → c.det = false → c.g.task = none → (c.g.inHandler ≠ none ∨ c.strands.length = c.g.live.length) →
    ∃ t g, exec .exit s = .next t ∧ t = { s with groups := t.groups, teams := t.teams, care := t.care } ∧
      (∀ k, k ≠ c.g.gid → tfind k t.groups = tfind k s.groups) ∧ Has t c g ∧ g.retiring = true ∧ g.live = [] ∧
      g.late = [] ∧ (∀ n, (g.flag n).late = none) ∧ g.pending = [] ∧
      { g with strands := c.g.strands, retiring := false, halted := false, pending := c.g.pending, flags := c.g.flags, late := c.g.late } = c.g ∧
      (∀ n, careAt t n = careAt s n + if n = careIndex careLostFault (dieOf (s.teamCore c.g.team)) then lostTraps c.g else 0) ∧
      (∀ k, k ≠ c.g.team → tfind k t.teams = tfind k s.teams) ∧
      ∀ tm, tfind c.g.team s.teams = some tm → tfind c.g.team t.teams = some { tm with
        barriers := tm.barriers.map (fun e => if e.2.part.getLsbD c.g.pos then (e.1, leaves e.2 c.g.pos) else e) })

/-- R199, R202: the two events that end a wait of gangs. Every live strand waiting at one REGANG, they go on as one gang; at different REGANG words
the gang of the lowest live strand takes the trap REGANG, its partition unchanged, and every gang stands at the word after its own (the model's
reading of R199, log 46). A group that yielded may issue again after 64 cycles. -/
def Obligations.WaitingGangsMeet : Prop :=
  (∀ s g, tfind s.ev.a s.groups = some g → g.gid = s.ev.a → g.live ≠ [] → s.groupRuns g = true →
    (∀ u ∈ g.live, (g.strand u).wait = .regang ∧ (g.strand u).pc = (g.strand (lowestOf g.live)).pc) →
    ∃ t, exec .regangMeet s = .next t ∧ SameBut g.gid s t ∧ ∃ g', tfind g.gid t.groups = some g' ∧
      { g' with strands := g.strands } = g ∧
      ∀ u, g'.strand u = if u ∈ g.live
        then { g.strand u with pc := (g.strand (lowestOf g.live)).pc + 8, gang := lowestOf g.live, wait := .ready } else g.strand u) ∧
  (∀ s g w, tfind s.ev.a s.groups = some g → g.gid = s.ev.a → s.groupRuns g = true → s.speculative g = false →
    (∀ u ∈ g.live, (g.strand u).wait = .regang) → w ∈ g.live → (g.strand w).pc ≠ (g.strand (lowestOf g.live)).pc →
    (∀ u ∈ g.live, u < w → (g.strand u).pc = (g.strand (lowestOf g.live)).pc) →
    ∃ u, SameBut g.gid s u ∧
      (∃ g', tfind g.gid u.groups = some g' ∧ { g' with strands := g.strands } = g ∧
        ∀ v, g'.strand v = if v ∈ g.live then { g.strand v with pc := (g.strand v).pc + 8, wait := .ready } else g.strand v) ∧
      exec .regangMeet s = .next (u.takeTrap g.gid (lowestOf g.live) ((g.strand (lowestOf g.live)).pc + 8) 0x0B 0 (g.strand w).pc false)) ∧
  (∀ s g y, tfind s.ev.a s.groups = some g → g.gid = s.ev.a → g.yielded = some y → y + 64 ≤ s.clock →
    ∃ t, exec .yieldEnd s = .next t ∧ SameBut g.gid s t ∧ tfind g.gid t.groups = some { g with yielded := none, offers := [] })

/-- R208, R209, R211: the barrier instructions. BAR.INIT sets EXPECT and makes the team's resident groups participants; BAR.ARV and
BAR.SYNC arrive, which completes the barrier when the count reaches EXPECT; BAR.WAIT and BAR.SYNC go on once the generation the
group arrived at has completed, and otherwise wait, and a gang that waits so goes on when it has; BAR.DROP leaves the barrier. In a deterministic
launch a wait passes the turn (R189), so the waiting is stated of other launches here. -/
def Obligations.BarriersComplete : Prop :=
  (∀ x s c, (Instr.barInit x).wf = true → Issues (.barInit x) s c → (barAt s c x).count = 0 →
    ∃ t, exec (.barInit x) s = .next t ∧ BarrierGoesOn (.barInit x) s c t (x.f12.toNat % 16)
      { barAt s c x with expect := x.offset.toNat,
                         part := ((tvalues s.groups).filter (fun g => g.team == c.g.team && g.resident)).foldl
                           (fun m g => withBit m g.pos true) (barAt s c x).part }) ∧
  (∀ x s c, (Instr.barArv x).wf = true → Issues (.barArv x) s c → AccessesDone s c → (barAt s c x).expect ≠ 0 →
    (barAt s c x).part.getLsbD c.g.pos = true → (barAt s c x).pend.getLsbD c.g.pos = false →
    ∃ t, exec (.barArv x) s = .next t ∧ BarrierGoesOn (.barArv x) s c t (x.f12.toNat % 16) (afterArrive (barAt s c x) c.g.pos)) ∧
  (∀ x s c, (Instr.barWait x).wf = true → Issues (.barWait x) s c → (barAt s c x).pend.getLsbD c.g.pos = true →
    (barAt s c x).arrived.getLsbD c.g.pos = false →
    ∃ t, exec (.barWait x) s = .next t ∧ BarrierGoesOn (.barWait x) s c t (x.f12.toNat % 16)
      { barAt s c x with pend := withBit (barAt s c x).pend c.g.pos false }) ∧
  (∀ x s c, (Instr.barSync x).wf = true → Issues (.barSync x) s c → AccessesDone s c → (barAt s c x).expect = (barAt s c x).count + 1 →
    (barAt s c x).part.getLsbD c.g.pos = true → (barAt s c x).pend.getLsbD c.g.pos = false →
    ∃ t, exec (.barSync x) s = .next t ∧ BarrierGoesOn (.barSync x) s c t (x.f12.toNat % 16)
      { barAt s c x with pend := withBit (withBit (barAt s c x).pend c.g.pos true) c.g.pos false, arrived := 0, count := 0 }) ∧
  (∀ x s c, (Instr.barWait x).wf = true → Issues (.barWait x) s c → c.det = false → (barAt s c x).pend.getLsbD c.g.pos = true →
    (barAt s c x).arrived.getLsbD c.g.pos = true →
    ∃ t, exec (.barWait x) s = .next t ∧ BarrierWaits (.bar (16 + x.f12.toNat % 16)) s c t (x.f12.toNat % 16) (barAt s c x)) ∧
  (∀ x s c, (Instr.barSync x).wf = true → Issues (.barSync x) s c → c.det = false → AccessesDone s c → (barAt s c x).expect ≠ 0 →
    (barAt s c x).expect ≠ (barAt s c x).count + 1 → (barAt s c x).part.getLsbD c.g.pos = true → (barAt s c x).pend.getLsbD c.g.pos = false →
    c.g.pos < 64 →
    ∃ t, exec (.barSync x) s = .next t ∧ BarrierWaits (.bar (x.f12.toNat % 16)) s c t (x.f12.toNat % 16) (afterArrive (barAt s c x) c.g.pos)) ∧
  (∀ i x s c, i = .barWait x ∨ i = .barSync x → issueCtx s = some c → inWaitHalf i c = true → (barAt s c x).pend.getLsbD c.g.pos = true →
    ((barAt s c x).arrived.getLsbD c.g.pos = false →
      ∃ t, exec i s = .next t ∧ BarrierGoesOn i s c t (x.f12.toNat % 16)
        { barAt s c x with pend := withBit (barAt s c x).pend c.g.pos false }) ∧
    ((barAt s c x).arrived.getLsbD c.g.pos = true → c.det = false →
      ∃ t b, exec i s = .next t ∧ BarrierWaits (.bar b) s c t (x.f12.toNat % 16) (barAt s c x))) ∧
  (∀ x s c, (Instr.barDrop x).wf = true → Issues (.barDrop x) s c → (barAt s c x).part.getLsbD c.g.pos = true →
    (barAt s c x).pend.getLsbD c.g.pos = false →
    ∃ t, exec (.barDrop x) s = .next t ∧ BarrierGoesOn (.barDrop x) s c t (x.f12.toNat % 16)
      (completed { barAt s c x with part := withBit (barAt s c x).part c.g.pos false, expect := (barAt s c x).expect - 1 }))

/-- R209: where ARRIVE, a wait or a drop fails, the group takes a BARRIER trap that names the barrier. -/
def Obligations.BarriersTrap : Prop :=
  (∀ x s c, Issues (.barInit x) s c → (barAt s c x).count ≠ 0 → exec (.barInit x) s = raiseHere c 0x07 4 (x.f12.toNat % 16) s) ∧
  (∀ i x s c, i = .barArv x ∨ i = .barSync x → Issues i s c → AccessesDone s c →
    ((barAt s c x).expect = 0 → exec i s = raiseHere c 0x07 5 (x.f12.toNat % 16) s) ∧
    ((barAt s c x).expect ≠ 0 → (barAt s c x).part.getLsbD c.g.pos = false → exec i s = raiseHere c 0x07 2 (x.f12.toNat % 16) s) ∧
    ((barAt s c x).expect ≠ 0 → (barAt s c x).part.getLsbD c.g.pos = true → (barAt s c x).pend.getLsbD c.g.pos = true →
      exec i s = raiseHere c 0x07 1 (x.f12.toNat % 16) s)) ∧
  (∀ x s c, Issues (.barWait x) s c → (barAt s c x).pend.getLsbD c.g.pos = false →
    exec (.barWait x) s = raiseHere c 0x07 3 (x.f12.toNat % 16) s) ∧
  (∀ x s c, Issues (.barDrop x) s c →
    ((barAt s c x).part.getLsbD c.g.pos = false → exec (.barDrop x) s = raiseHere c 0x07 2 (x.f12.toNat % 16) s) ∧
    ((barAt s c x).part.getLsbD c.g.pos = true → (barAt s c x).pend.getLsbD c.g.pos = true →
      exec (.barDrop x) s = raiseHere c 0x07 6 (x.f12.toNat % 16) s))

namespace Sys2Proof.Claim

/-- TRAPCAUSE, TRAPPC and TRAPADDR as a trap writes them (R23, R405, R408). -/
def TrapRegs (g : Group) (pc : Addr) (cause sub : Nat) (addr : Addr) (ipaAddr : Bool) : Prop :=
  g.trapCause.toNat = cause % 2 ^ 8 + sub % 2 ^ 8 * 2 ^ 8 + (if ipaAddr then 2 ^ 16 else 0) ∧ g.trapPc = pc ∧ g.trapAddr = addr

/-- An instruction word of a chip's program, and not an event or a literal word. -/
def isProgram (i : Instr) : Bool := match i.form with | .event | .lit => false | _ => true

/-- The bytes of a service record's fields (R412): the call number, the core, the context, the group index, s0 to s7 of the lowest
strand and the sequence number. -/
def serviceRecord (c : Ctx) (n seq : Nat) : List Byte :=
  leBytes 4 n ++ leBytes 2 c.core ++ [BitVec.ofNat 8 (16 * c.g.quarter + c.g.ctx), 0] ++ leBytes 8 c.g.index.toNat ++
    ((List.range 8).map (fun k => leBytes 4 (c.g.sget k c.lowest).toNat)).flatten ++ leBytes 4 seq ++ leBytes 12 0

end Sys2Proof.Claim

/-- R23, R90, R126, R187, R383, R406: what comes before the effect of any instruction that has not begun. A gang that may not issue does
nothing; a failing issue check takes its trap with TRAPPC at the instruction; a late trap due there is taken, and goes with its flag, or in
a speculative task stops the task; a boundary holds a memory, local or engine instruction back, and the gang stays; so does, in a
deterministic launch, what is in flight of the team and may meet it (the model's choice, log 80). -/
def Obligations.IssueComesFirst : Prop :=
  ∀ i, isProgram i = true → ∀ s,
    (issueCtx s = none → exec i s = .next s) ∧
    ∀ c, issueCtx s = some c → inWaitHalf i c = false → inQueueHalf i c = false →
      (∀ cause sub addr, issueTrap i c s = some (cause, sub, addr) → exec i s = raiseHere c cause sub addr s) ∧
      (issueTrap i c s = none → ∀ late g, lateDue i c.g = some (late, g) →
        exec i s = if s.speculative c.g then .next (s.deferTask c.g c.lowest (.late late))
          else .next ((s.modGroup c.g.gid (fun _ => g)).takeTrap c.g.gid c.lowest c.pc late.cause late.sub late.addr late.ipaAddr)) ∧
      (issueTrap i c s = none → lateDue i c.g = none →
        (formIsMemory i.form = true → s.memHold c.g.gid = true → exec i s = .next (c.waitOn .boundary s)) ∧
        ((formIsMemory i.form && s.memHold c.g.gid) = false → c.det = true → s.teamHold c.g (formClass i.form) = true →
          exec i s = .next (c.block s)))

/-- R408: a trap of a group that has a handler and is not in it. The group keeps its control state aside, its trap registers are
written, every live strand goes to HANDLER in one gang with one full stack entry, s60 and s61 hold HDATA in every strand, and
everything else of the group and of the machine stays. -/
def Obligations.TrapsAreTaken : Prop :=
  ∀ (s : State) (g : Group) gang pc cause sub addr ipaAddr, tfind g.gid s.groups = some g → g.inHandler = none → g.handler ≠ 0 →
    ∃ g' h, SameBut g.gid s (s.takeTrap g.gid gang pc cause sub addr ipaAddr) ∧
      tfind g.gid (s.takeTrap g.gid gang pc cause sub addr ipaAddr).groups = some g' ∧
      TrapRegs g' pc cause sub addr ipaAddr ∧
      (∀ u, g'.strand u = if u ∈ g.live then ⟨g.handler, [0xF], false, lowestOf g.live, .ready⟩ else g.strand u) ∧
      (∀ u < g.strands.length, g'.spair 60 u = g.hdata.toNat) ∧
      (∀ m < 64, ∀ u, m ≠ 60 → m ≠ 61 → g'.sget m u = g.sget m u) ∧
      g'.inHandler = some h ∧ h.strands = g.strands ∧ h.trapGang = gang ∧ h.pending = g.pending ∧ h.p6 = g.pget 6 ∧
      (∀ u < g.strands.length, ∀ k < 4, tget 0 h.s60 (4 * u + k) = g.sget (60 + k) u) ∧
      { g' with s := g.s, strands := g.strands, inHandler := none, pending := g.pending, latch := g.latch,
                trapCause := g.trapCause, trapPc := g.trapPc, trapAddr := g.trapAddr } = g

/-- R409: a trap in the handler, or of a tenant without one, halts the group and posts an event of type 0x03. -/
def Obligations.TrapsHalt : Prop :=
  ∀ (s : State) (g : Group) gang pc cause sub addr ipaAddr, tfind g.gid s.groups = some g → (g.inHandler ≠ none ∨ g.handler = 0) →
    ∃ t g', t = s.takeTrap g.gid gang pc cause sub addr ipaAddr ∧
      t = { s with groups := t.groups, evq := { s.evq with waiting := s.evq.waiting ++ [eventRecord 0x03
        (dieOf (s.teamCore g.team)) (s.teamCore g.team) g'.trapCause.toNat g'.trapAddr.toNat g'.index.toNat g'.trapPc.toNat g'.ctx] } } ∧
      (∀ k, k ≠ g.gid → tfind k t.groups = tfind k s.groups) ∧ tfind g.gid t.groups = some g' ∧ g'.halted = true ∧ TrapRegs g' pc cause sub addr ipaAddr ∧
      { g' with halted := g.halted, latch := g.latch, trapCause := g.trapCause, trapPc := g.trapPc, trapAddr := g.trapAddr } = g

/-- R207, R410: TRAPRET in a handler with an aligned TRAPPC gives back the control state that the trap put aside, with the
trapping gang at TRAPPC and ready; a misaligned TRAPPC is an ALIGN trap. What the trapping gang had popped for an instruction no longer at TRAPPC
is gone (the model's choice, log 104). -/
def Obligations.TrapsReturn : Prop :=
  (∀ s c h, Issues .trapret s c → c.g.inHandler = some h → c.g.trapPc.toNat % 8 = 0 →
    ∃ t, exec .trapret s = .next t ∧ GroupEnds s c t (fun g =>
      (∀ u, g.strand u = match h.strands[u]? with
        | some st => if st.exited = false ∧ st.gang = (h.strands.getD h.trapGang ⟨0, [], true, 0, .ready⟩).gang
          then { st with pc := c.g.trapPc, wait := .ready } else st
        | none => ⟨0, [], true, u, .ready⟩) ∧
      (∀ u < h.strands.length, ∀ k < 4, g.sget (60 + k) u = tget 0 h.s60 (4 * u + k)) ∧
      (∀ m < 60, ∀ u, g.sget m u = c.g.sget m u) ∧
      g.pget 6 = h.p6 ∧ (∀ m, m ≠ 6 → g.pget m = c.g.pget m) ∧ g.inHandler = none ∧
      g.pending = h.pending.filter (fun e => e.1 != (h.strands.getD h.trapGang ⟨0, [], true, 0, .ready⟩).gang || e.2.pushing ||
        e.2.next == c.g.trapPc + BitVec.ofNat 64 e.2.instr.size) ∧
      { g with strands := c.g.strands, s := c.g.s, p := c.g.p, inHandler := c.g.inHandler, pending := c.g.pending } = c.g)) ∧
  (∀ s c, Issues .trapret s c → c.g.trapPc.toNat % 8 ≠ 0 → exec .trapret s = raiseHere c 0x08 0 c.g.trapPc.toNat s)

/-- R114, R126, R205, R206, R32: words that trap or ask for service. TRAP takes SOFT with TRAPPC at the next word and TRAPADDR its
number; a literal word and a word that is no instruction trap where they stand; a fetch that met a fault other than NOTPRESENT
traps at once with the outcome's cause; SYSCALL sends a service record, its context numbered over the core
(the model's choice, log 106), and its gang waits for the answer. In a speculative task
the traps wait for the frontier (R383), so they are stated of other groups here. -/
def Obligations.TrapWordsTrap : Prop :=
  (∀ x s c, Issues (.trap x) s c → s.speculative c.g = false →
    exec (.trap x) s = .next (s.takeTrap c.g.gid c.lowest (nextWord c) 0x20 0 (BitVec.ofNat 64 x.f12.toNat) false)) ∧
  (∀ s c, issueCtx s = some c → s.speculative c.g = false →
    exec .litexec s = .next (s.takeTrap c.g.gid c.lowest c.pc 0x02 0 0 false) ∧
    exec .illegalInstruction s = .next (s.takeTrap c.g.gid c.lowest c.pc 0x01 0 0 false) ∧
    (¬(s.ev.a = 0x10 ∧ s.ev.b = 1) →
      exec .fetchFault s = .next (s.takeTrap c.g.gid c.lowest c.pc s.ev.a s.ev.b s.ev.val false))) ∧
  (∀ x s c, Issues (.syscall x) s c →
    ∃ t, exec (.syscall x) s = .next t ∧
      t = { s with groups := t.groups, syscallSeq := (s.syscallSeq + 1) % 2 ^ 32,
                   sq := { s.sq with waiting := s.sq.waiting ++ [serviceRecord c x.f12.toNat s.syscallSeq] } } ∧
      (∀ k, k ≠ c.g.gid → tfind k t.groups = tfind k s.groups) ∧ ∃ g, Has t c g ∧ OnlyStrands c g ∧
      StrandsAre c g (fun u => { c.g.strand u with wait := .syscall s.syscallSeq x.f12.toNat }))

/-- R113: a vector word that reads queues first lists the elements it pops, in the order A, B, C and ascending lanes, and its gang
stays at the word until they have been served. -/
def Obligations.QueueSourcesPopFirst : Prop :=
  ∀ i, (∃ op x, i.form = .vf op x ∨ ∃ y, i.form = .vi op y) → i.wf = true → ∀ s c, Issues i s c →
    formPops i.form ≠ [] → formActing i.form c ≠ [] → tfind c.lowest c.g.pending = none →
    ∃ t, exec i s = .next t ∧ GroupEnds s c t (fun g => { g with strands := c.g.strands, pending := c.g.pending } = c.g ∧ Stays c g ∧
      tfind c.lowest g.pending = some ⟨c.lowest, i,
        ((formPops i.form).map (fun e => (formActing i.form c).map (fun l => (e.1, e.2, l)))).flatten, [], [], false,
        c.pc + BitVec.ofNat 64 i.size, s.clock⟩ ∧ ∀ k, k ≠ c.lowest → tfind k g.pending = tfind k c.g.pending)

/-- R116, R117: NEG and ABS of a float operand act on its sign bit alone, ABS first, on each half of a packed operand; of an integer
operand they are exact mod 2^32. -/
def Obligations.ModifiersApply : Prop :=
  (∀ w : Word, applyMod .F false false true w = w &&& 0x7FFFFFFF ∧ applyMod .F false true false w = w ^^^ 0x80000000 ∧
    applyMod .F false true true w = w ||| 0x80000000) ∧
  (∀ w : Word, applyMod .H false false true w = w &&& 0x7FFF7FFF ∧ applyMod .H false true false w = w ^^^ 0x80008000 ∧
    applyMod .H false true true w = w ||| 0x80008000) ∧
  (∀ w : Word, applyMod .I false false true w = BitVec.ofInt 32 |w.toInt| ∧ applyMod .I false true false w = BitVec.ofInt 32 (-w.toInt) ∧
    applyMod .I false true true w = BitVec.ofInt 32 (-|w.toInt|)) ∧
  ∀ cls fl (w : Word), applyMod cls fl false false w = w

namespace Sys2Proof.Claim

/-- Every lane of a list may access `size` bytes at its address: the address is aligned, and the range registers lead it to a
location with the rights asked for (R22, R23, R134). -/
def Lands (c : Ctx) (x : MEM) (size : Nat) (rd wr : Bool) (loc : Nat → Loc) (lanes : List Nat) : Prop :=
  ∀ l ∈ lanes, c.va x l % size = 0 ∧ translate c.g.ranges (c.va x l) size rd wr false = .ok (loc l)

/-- A memory access in flight with its boundaries (R91, R137): an immediate access with REL that has something to send waits for
its release, everything else is sent at once; a task's accesses have no scope (R152). -/
def Sent (i : Instr) (x : MEM) (dsts : List Nat) (s : State) (c : Ctx) (o : Op) (t : State) : Prop :=
  IsOf i s c o ∧ o.rel = x.rel ∧ o.acq = x.acq ∧ o.scope = (if c.g.task.isSome then 0 else x.scope.toNat) ∧ o.results = [] ∧
  if x.rel = true ∧ isImmediate o.kind = true ∧ o.performed = false then
    o.sent = false ∧ o.relId = some (s.nextId + 1) ∧
      Started i dsts [⟨s.nextId + 1, c.core, o.scope, .op o.id, .pending c.core, false, [], [], [], none⟩] s c o t
  else o.sent = true ∧ o.relId = none ∧ Started i dsts [] s c o t

/-- The request of one lane, waiting for its answer. -/
def asked (c : Ctx) (x : MEM) (loc : Nat → Loc) (size data l : Nat) : Req := ⟨l, c.va x l, loc l, size, data, [], .waiting⟩

/-- A load of `size` bytes to a run of registers starts, one request a lane; SYNC makes it immediate (R135 to R137). -/
def LoadCompletes (k : MEM → Instr) (size run : Nat) (sgn : Bool) : Prop :=
  ∀ x s c loc, (k x).wf = true → Issues (k x) s c → Lands c x size true false loc c.active →
    ∃ t o, exec (k x) s = .next t ∧ Sent (k x) x (runCodes x.data run) s c o t ∧
      o.kind = (if x.sync then .immLoad size run (dataReg x.data) sgn false else .load size run (dataReg x.data) sgn false) ∧
      o.reqs = c.active.map (asked c x loc size 0) ∧ (o.performed = true ↔ c.active = [])

/-- LDU: one access, at the lowest strand's address, for every strand of the gang (R139). -/
def UniformLoadCompletes (k : MEM → Instr) (size run : Nat) : Prop :=
  ∀ x s c loc, (k x).wf = true → Issues (k x) s c → Lands c x size true false loc [4 * c.lowest] →
    ∃ t o, exec (k x) s = .next t ∧ Sent (k x) x (runCodes x.data run) s c o t ∧
      o.kind = (if x.sync then .immLoad size run (dataReg x.data) false true else .load size run (dataReg x.data) false true) ∧
      o.reqs = [asked c x loc size 0 (4 * c.lowest)] ∧ o.lanes = c.strands ∧ o.performed = false

/-- The words a loaded value of `size` bytes gives a run of registers (R135). -/
def loaded (size run : Nat) (sgn : Bool) (v k : Nat) : Word :=
  if sgn then (if v < 2 ^ (8 * size - 1) then BitVec.ofNat 32 v else BitVec.ofNat 32 (v + 2 ^ 32 - 2 ^ (8 * size)))
  else if k < run then BitVec.ofNat 32 (v / 2 ^ (32 * k)) else 0

/-- The lanes of a list that name a location, one request each location and each with its highest lane (R98). -/
def HighestLanes (c : Ctx) (x : MEM) (loc : Nat → Loc) (size : Nat) (data : Nat → Nat) (rs : List Req) : Prop :=
  (rs.map (·.loc)).Nodup ∧ (∀ l ∈ c.active, ∃ r ∈ rs, r.loc = loc l) ∧
  ∀ r ∈ rs, ∃ l, (c.active.filter (fun k => loc k = r.loc)).getLast? = some l ∧ r = asked c x loc size (data l) l

/-- The data of a lane's store: the low bytes of its run of registers, the first register lowest (R135). -/
def storeData (c : Ctx) (x : MEM) (size run l : Nat) : Nat :=
  ((c.run x.data run l).mapIdx (fun k w => w.toNat * 2 ^ (32 * k))).sum % 2 ^ (8 * size)

/-- The pending byte a core's L1 holds at a byte address of a home slice. -/
def l1Byte (s : State) (core home b : Nat) : Option (BitVec 8) :=
  let x := s.held? core ⟨home, b, none⟩
  if x.pmask.getLsbD (b % 16) then some (x.pdata.extractLsb' (8 * (b % 16)) 8) else none

/-- The pending byte a core has at a byte address of a home slice: L1's, or else that of its PENDING version at home (R47, R48). -/
def pendingByte (s : State) (core home b : Nat) : Option (BitVec 8) :=
  match l1Byte s core home b, s.version? (.pending core) home (b / 16) with
  | some x, _ => some x
  | none, some v => if v.mask.getLsbD (b % 16) then some (v.data.extractLsb' (8 * (b % 16)) 8) else none
  | none, none => none

/-- A home slice and an IPA that there are (R15, R60). -/
def Real (l : Loc) : Prop := l.home < 256 ∧ l.ipa < 2 ^ 52

/-- Every sector that a core holds is filed under its own home and place. -/
def Filed (s : State) : Prop :=
  ∀ e ∈ s.sectors, ∃ core, e.1 = coreKey core e.2.loc.home e.2.loc.sec ∧ e.2.loc.home < 256 ∧ e.2.loc.ipa < 2 ^ 52

/-- A core's L1 takes the lines of a store without an eviction: it holds them all, or no more than 8 lines with them (R10). -/
def L1Takes (s : State) (core : Nat) (locs : List Loc) : Prop :=
  (∀ l ∈ locs, (l.home, l.line) ∈ s.l1Lines core) ∨ (s.l1Lines core ++ locs.map (fun l => (l.home, l.line))).dedup.length ≤ 8

/-- The lane whose data a byte holds after a store: the highest of those that store there (R48, R89). -/
def storer (c : Ctx) (loc : Nat → Loc) (size home b : Nat) : Option Nat :=
  (c.active.filter (fun l => (loc l).home = home ∧ (loc l).ipa ≤ b ∧ b < (loc l).ipa + size)).getLast?

/-- A store starts. An immediate store, and a store in a task, only sends its requests. A plain store is performed at L1 as it issues, once
the group's earlier plain loads are and L1 makes room for its lines, which it does at once where it takes them without an eviction; `u` is the
machine with the bytes stored. Each byte the store covers is then the core's pending byte with the highest lane's data, and every other pending
byte of this and of every other core is as it was, though an eviction may have sent it home (R48, R89, R136 to R138). -/
def StoreCompletes (k : MEM → Instr) (size run : Nat) : Prop :=
  ∀ x s c loc, (k x).wf = true → Issues (k x) s c → Lands c x size false true loc c.active →
    (x.sync = true ∨ c.g.task ≠ none →
      ∃ t o, exec (k x) s = .next t ∧ Sent (k x) x [] s c o t ∧ o.kind = (if x.sync then .immStore size else .store size) ∧
        HighestLanes c x loc size (storeData c x size run) o.reqs ∧ (o.performed = true ↔ c.active = [])) ∧
    (x.sync = false → c.g.task = none →
      (c.active = [] ∨ ∀ p ∈ s.ops, p.gid = c.g.gid → p.performed = false → ∀ a b d e f, p.kind ≠ .load a b d e f) →
      Filed s → (∀ l ∈ c.active, Real (loc l)) →
      (L1Takes s c.core (c.active.map loc) →
        ∃ u, (storeAll c.core (c.active.map (fun l => asked c x loc size (storeData c x size run l) l))).run s = (.ok (), u) ∧
          u = { s with sectors := u.sectors, l1conf := u.l1conf }) ∧
      ∀ u, (storeAll c.core (c.active.map (fun l => asked c x loc size (storeData c x size run l) l))).run s = (.ok (), u) →
      ∃ t o, exec (k x) s = .next t ∧ Sent (k x) x [] u c o t ∧
        o.kind = .store size ∧ o.reqs = c.active.map (fun l => asked c x loc size (storeData c x size run l) l) ∧
        (o.performed = true ↔ c.active = []) ∧
        (∀ home < 256, ∀ b < 2 ^ 52, pendingByte t c.core home b = match storer c loc size home b with
          | some l => some (BitVec.ofNat 8 (storeData c x size run l / 2 ^ (8 * (b - (loc l).ipa))))
          | none => pendingByte s c.core home b) ∧
        (∀ core, core ≠ c.core → ∀ home < 256, ∀ b < 2 ^ 52, pendingByte t core home b = pendingByte s core home b))

/-- No atomic of the ordered buffer that the instruction may be is held back at issue for want of a block for its lines (R401). -/
def NotHeldBack (s : State) (c : Ctx) (loc : Nat → Loc) : Prop :=
  c.det = false ∨ ∀ lines : List (Nat × Nat), lines.Nodup → (∀ p, p ∈ lines ↔ ∃ l ∈ c.active, p = ((loc l).home, (loc l).line)) →
    s.overflowHolds c.g lines = false

/-- Two states alike but for the turn of a team. -/
def TurnMayPass (team : Nat) (u t : State) : Prop :=
  t = { u with teams := t.teams } ∧ (∀ k, k ≠ team → tfind k t.teams = tfind k u.teams) ∧
  ∀ tm, tfind team u.teams = some tm → ∃ n, tfind team t.teams = some { tm with turn := n }

/-- An atomic or a reduction starts: one request a location, with every lane that names it in ascending order, its operand and, for
CAS, its compare value (R100, R142, R143). In a deterministic launch one without a flag that goes to the ordered buffer passes the turn
(R396). -/
def AtomicCompletes (k : MEM → Instr) (op : AtomOp) (ret : Bool) : Prop :=
  ∀ x s c loc, (k x).wf = true → Issues (k x) s c → Lands c x 4 true true loc c.active → NotHeldBack s c loc →
    ∃ t u o, exec (k x) s = .next t ∧ Sent (k x) x (if ret then runCodes x.data 1 else []) s c o u ∧
      TurnMayPass c.g.team u t ∧ (c.det = false ∨ x.flag.toNat < 12 → t = u) ∧
      o.kind = .atomic op (if ret then some (dataReg x.data) else none) ∧ (o.performed = true ↔ c.active = []) ∧
      (o.reqs.map (·.loc)).Nodup ∧ (∀ l ∈ c.active, ∃ r ∈ o.reqs, r.loc = loc l) ∧
      ∀ r ∈ o.reqs, r.size = 4 ∧ r.state = .waiting ∧
        (∃ l, (c.active.filter (fun k => loc k = r.loc)).head? = some l ∧ r.lane = l ∧ r.va = c.va x l) ∧
        r.args = (c.active.filter (fun k => loc k = r.loc)).map (fun l =>
          (l, if op = .cas then (c.g.vget (dataReg x.data) l, c.read none 0 0 x.sb l) else (c.read none 0 0 x.sb l, 0)))

/-- A local access starts: one request a granule, with the lanes that name it in ascending order; a store's data is captured
(R57, R141). -/
def LocalCompletes (k : MEM → Instr) (store : Bool) (size run : Nat) : Prop :=
  ∀ x s c, (k x).wf = true → Shaped s → Issues (k x) s c →
    ∃ t o, exec (k x) s = .next t ∧ Started (k x) (if store then [] else runCodes x.data run) [] s c o t ∧ IsOf (k x) s c o ∧
      o.kind = .local store x.fe.toNat size (dataReg x.data) ∧ (o.performed = true ↔ c.active = []) ∧
      (o.reqs.map (·.va)).Nodup ∧ (∀ l ∈ c.active, ∃ r ∈ o.reqs, r.va = c.la x l / 16 * 16) ∧
      (∀ r ∈ o.reqs, r.size = size ∧ r.state = .confirmed ∧
        r.args = (c.active.filter (fun k => c.la x k / 16 * 16 = r.va)).map (fun l => (l, BitVec.ofNat 32 (c.la x l), 0))) ∧
      (store = true → ∀ l ∈ c.active, ∀ j < run, tget 0 o.src (32 * j + l) = (c.run x.data run l).getD j 0)

/-- The lowest lane of a list whose access faults gives the trap: the cause, the subcode and the lane's address (R23, R134). -/
def FirstFault (c : Ctx) (x : MEM) (size : Nat) (rd wr : Bool) (lanes : List Nat) (cause sub addr : Nat) : Prop :=
  ∃ before l after, lanes = before ++ l :: after ∧ addr = c.va x l ∧ (∃ loc, Lands c x size rd wr loc before) ∧
    (if c.va x l % size = 0 then translate c.g.ranges (c.va x l) size rd wr false = .bad cause sub else cause = 0x08 ∧ sub = 0)

/-- A memory access some lane of which faults at issue takes the lowest such lane's trap and does nothing else, where no check that comes
before it fails (R126). -/
def FaultsAtIssue (k : MEM → Instr) (size : Nat) (rd wr : Bool) (lanes : Ctx → List Nat := fun c => c.active) : Prop :=
  ∀ x s c cause sub addr, issueCtx s = some c → inQueueHalf (k x) c = false → decodeTrap (k x) c s = none →
    FirstFault c x size rd wr (lanes c) cause sub addr → exec (k x) s = raiseHere c cause sub addr s

end Sys2Proof.Claim

/-- R135 to R139: loads start, and the words a loaded value gives its run of registers, sign-extended for LD.BS and LD.HS. -/
def Obligations.LoadsStart : Prop :=
  LoadCompletes .ldB 1 1 false ∧ LoadCompletes .ldH 2 1 false ∧ LoadCompletes .ldW 4 1 false ∧ LoadCompletes .ldD 8 2 false ∧
  LoadCompletes .ldQ 16 4 false ∧ LoadCompletes .ldBs 1 1 true ∧ LoadCompletes .ldHs 2 1 true ∧
  UniformLoadCompletes .lduW 4 1 ∧ UniformLoadCompletes .lduD 8 2 ∧
  (∀ v < 2 ^ 8, loadWords 1 1 true v = [loaded 1 1 true v 0]) ∧ (∀ v < 2 ^ 16, loadWords 2 1 true v = [loaded 2 1 true v 0]) ∧
  ∀ size run v, loadWords size run false v = (List.range run).map (loaded size run false v)

/-- R48, R89, R136 to R138: stores start. -/
def Obligations.StoresStart : Prop :=
  StoreCompletes .stB 1 1 ∧ StoreCompletes .stH 2 1 ∧ StoreCompletes .stW 4 1 ∧ StoreCompletes .stD 8 2 ∧ StoreCompletes .stQ 16 4

/-- R100, R142, R143: atomics and reductions start. In a deterministic launch one that finds no block for a line of its own waits at issue whole (the
model's reading, log 101), so these are stated where it does not. -/
def Obligations.AtomicsStart : Prop :=
  AtomicCompletes .atomAdd .add true ∧ AtomicCompletes .atomMin .min true ∧ AtomicCompletes .atomMax .max true ∧
  AtomicCompletes .atomUmin .umin true ∧ AtomicCompletes .atomUmax .umax true ∧ AtomicCompletes .atomAnd .and true ∧
  AtomicCompletes .atomOr .or true ∧ AtomicCompletes .atomXor .xor true ∧ AtomicCompletes .atomXchg .xchg true ∧
  AtomicCompletes .atomCas .cas true ∧ AtomicCompletes .atomFadd .fadd true ∧ AtomicCompletes .atomFmin .fmin true ∧
  AtomicCompletes .atomFmax .fmax true ∧ AtomicCompletes .redAdd .add false ∧ AtomicCompletes .redMin .min false ∧
  AtomicCompletes .redMax .max false ∧ AtomicCompletes .redUmin .umin false ∧ AtomicCompletes .redUmax .umax false ∧
  AtomicCompletes .redAnd .and false ∧ AtomicCompletes .redOr .or false ∧ AtomicCompletes .redXor .xor false ∧
  AtomicCompletes .redXchg .xchg false ∧ AtomicCompletes .redCas .cas false ∧ AtomicCompletes .redFadd .fadd false ∧
  AtomicCompletes .redFmin .fmin false ∧ AtomicCompletes .redFmax .fmax false

/-- R140, R141: local accesses start, and LDC reads the launch's constants at its lanes' indexes, to a vector or to every strand's
scalar. -/
def Obligations.LocalAccessesStart : Prop :=
  LocalCompletes .ldsW false 4 1 ∧ LocalCompletes .ldsD false 8 2 ∧ LocalCompletes .ldsQ false 16 4 ∧
  LocalCompletes .stsW true 4 1 ∧ LocalCompletes .stsD true 8 2 ∧ LocalCompletes .stsQ true 16 4 ∧
  (∀ x s c n, (Instr.ldc x).wf = true → x.data = .v n → Issues (.ldc x) s c → (∀ l ∈ c.active, c.la x l < 32) →
    ∃ t o, exec (.ldc x) s = .next t ∧ Started (.ldc x) (runCodes x.data 1) [] s c o t ∧ IsOf (.ldc x) s c o ∧ o.performed = true ∧
      o.results = c.active.map (fun l => (RegElem.v n.val l, c.consts.getD (c.la x l) 0))) ∧
  (∀ x s c n, (Instr.ldc x).wf = true → x.data = .s n → Issues (.ldc x) s c → c.la x (4 * c.lowest) < 32 →
    ∃ t o, exec (.ldc x) s = .next t ∧ Started (.ldc x) (runCodes x.data 1) [] s c o t ∧ IsOf (.ldc x) s c o ∧ o.performed = true ∧
      o.results = c.strands.map (fun u => (RegElem.s n.val u, c.consts.getD (c.la x (4 * c.lowest)) 0)))

/-- R23, R134: a misaligned address, or one the range registers refuse, traps at issue. -/
def Obligations.AccessesFaultAtIssue : Prop :=
  FaultsAtIssue .ldB 1 true false ∧ FaultsAtIssue .ldH 2 true false ∧ FaultsAtIssue .ldW 4 true false ∧
  FaultsAtIssue .ldD 8 true false ∧ FaultsAtIssue .ldQ 16 true false ∧ FaultsAtIssue .ldBs 1 true false ∧
  FaultsAtIssue .ldHs 2 true false ∧ FaultsAtIssue .lduW 4 true false (fun c => [4 * c.lowest]) ∧
  FaultsAtIssue .lduD 8 true false (fun c => [4 * c.lowest]) ∧ FaultsAtIssue .stB 1 false true ∧ FaultsAtIssue .stH 2 false true ∧
  FaultsAtIssue .stW 4 false true ∧ FaultsAtIssue .stD 8 false true ∧ FaultsAtIssue .stQ 16 false true ∧
  FaultsAtIssue .atomAdd 4 true true ∧ FaultsAtIssue .atomMin 4 true true ∧ FaultsAtIssue .atomMax 4 true true ∧
  FaultsAtIssue .atomUmin 4 true true ∧ FaultsAtIssue .atomUmax 4 true true ∧ FaultsAtIssue .atomAnd 4 true true ∧
  FaultsAtIssue .atomOr 4 true true ∧ FaultsAtIssue .atomXor 4 true true ∧ FaultsAtIssue .atomXchg 4 true true ∧
  FaultsAtIssue .atomCas 4 true true ∧ FaultsAtIssue .atomFadd 4 true true ∧ FaultsAtIssue .atomFmin 4 true true ∧
  FaultsAtIssue .atomFmax 4 true true ∧ FaultsAtIssue .redAdd 4 true true ∧ FaultsAtIssue .redMin 4 true true ∧
  FaultsAtIssue .redMax 4 true true ∧ FaultsAtIssue .redUmin 4 true true ∧ FaultsAtIssue .redUmax 4 true true ∧
  FaultsAtIssue .redAnd 4 true true ∧ FaultsAtIssue .redOr 4 true true ∧ FaultsAtIssue .redXor 4 true true ∧
  FaultsAtIssue .redXchg 4 true true ∧ FaultsAtIssue .redCas 4 true true ∧ FaultsAtIssue .redFadd 4 true true ∧
  FaultsAtIssue .redFmin 4 true true ∧ FaultsAtIssue .redFmax 4 true true

/-- R144, R145: PHASE asks for its release, which covers the core's pending bytes where REL is set, and a PHASE without scope is
performed at once, and the group's later accesses stay behind its earlier ones (the model's choice, log 79). PREF asks for each line that an active lane's
readable address names, and drops a lane that would fault. -/
def Obligations.BoundariesStart : Prop :=
  (∀ x s c, (Instr.phase x).wf = true → Issues (.phase x) s c →
    ∃ t o, exec (.phase x) s = .next t ∧ IsOf (.phase x) s c o ∧ o.kind = .phase ∧ o.acq = x.acq ∧
      o.scope = (if c.g.task.isSome then 0 else x.scope.toNat) ∧
      if x.scope = 0 then o.performed = true ∧ o.relId = none ∧ ∃ u, Started (.phase x) [] [] s c o u ∧
        t = u.modGroup c.g.gid (fun g => { g with fence := o.id })
      else o.performed = false ∧ o.relId = some (s.nextId + 1) ∧ Started (.phase x) []
        [⟨s.nextId + 1, c.core, if x.rel then o.scope else 0, .op o.id, .pending c.core, false, [], [], [], none⟩] s c o t) ∧
  (∀ x s c, (Instr.pref x).wf = true → Issues (.pref x) s c →
    ∃ t o, exec (.pref x) s = .next t ∧ IsOf (.pref x) s c o ∧ o.kind = .pref ∧ Started (.pref x) [] [] s c o t ∧
      (o.reqs.map (·.loc)).Nodup ∧ (o.performed = true ↔ o.reqs = []) ∧
      (∀ l ∈ c.active, ∀ loc, translate c.g.ranges (c.va x l) 1 true false false = .ok loc →
        ∃ r ∈ o.reqs, r.loc = { loc with ipa := loc.ipa / 128 * 128 }) ∧
      ∀ r ∈ o.reqs, r.size = 16 ∧ r.state = .waiting ∧ ∃ l ∈ c.active, ∃ loc,
        translate c.g.ranges (c.va x l) 1 true false false = .ok loc ∧ r.loc = { loc with ipa := loc.ipa / 128 * 128 })

namespace Sys2Proof.Claim

/-- The banks of a local span. -/
def spanOf (la n : Nat) : List Nat := (List.range 16).filter (fun b => decide (la / 2 ^ 18 ≤ b ∧ b ≤ (la + n - 1) / 2 ^ 18))

/-- A copy starts: of the bytes its registers name, one request a granule; it holds the banks of its local span and, with a token asked for,
promises one to q9. The mode of no bank of the span is changing, and q9 has room for the token. A copy of nothing is performed at once (R146,
R147). -/
def CopyCompletes (k : MEM → Instr) (out : Bool) : Prop :=
  ∀ x s c va la n, (k x).wf = true → Issues (k x) s c → va = c.pair x.base → la = (c.scalar x.data).toNat → n = (c.scalar x.sb).toNat →
    (n = 0 → ∃ t o, exec (k x) s = .next t ∧ Started (k x) [] [] s c o t ∧ IsOf (k x) s c o ∧ o.reqs = [] ∧ o.banks = [] ∧ o.performed = true) ∧
    (n ≠ 0 → (∀ b ∈ spanOf la n, s.bankChanging (clusterOf c.core) b = false) → (x.offset.getLsbD 1 = true → c.g.q9.length + c.g.q9Promised < 16) →
      ∃ t u o loc, exec (k x) s = .next t ∧ Started (k x) [] [] s c o u ∧ IsOf (k x) s c o ∧ o.kind = .cpy out la va n (x.offset.getLsbD 1) ∧
        o.performed = false ∧ o.banks = spanOf la n ∧ translate c.g.ranges va n (!out) out false = .ok loc ∧
        o.reqs.map (fun r => (r.lane, r.va, r.loc.ipa, r.state)) =
          (List.range (n / 16)).map (fun j => (j, va + 16 * j, loc.ipa + 16 * j, ReqState.waiting)) ∧
        t = if x.offset.getLsbD 1 then u.modGroup c.g.gid (fun g => { g with q9Promised := g.q9Promised + 1 }) else u)

/-- WAKE is performed at once: what is parked under the entry that a test finds is sent again, of instructions and of releases, and the entry
is freed (R151). -/
def WakeCompletes (k : MEM → Instr) (here : Ctx → MEM → WaitEntry → Bool) : Prop :=
  ∀ x s c, (k x).wf = true → Issues (k x) s c →
    ∃ t u o, exec (k x) s = .next t ∧ Started (k x) [] [] s c o u ∧ IsOf (k x) s c o ∧ o.performed = true ∧
      (s.waits.find? (here c x) = none → t = u) ∧
      ∀ w, s.waits.find? (here c x) = some w → t.waits = s.waits.filter (fun v => v.token != w.token) ∧ t.groups = u.groups ∧
        ∀ a ∈ w.accesses, a.1 ≠ 0 →
          (∀ r ∈ t.rels, r.id = a.1 → a.2 ∉ r.parked) ∧
          (s.rels.any (fun r => r.id == a.1) = false → ∀ p, t.op? a.1 = some p → ∀ r, p.reqs[a.2]? = some r → r.state = .waiting)

end Sys2Proof.Claim

/-- R146 to R149, R151: copies, bank modes, queue bindings and WAKE. CBANK asks for one mode change a bank; QBIND binds an empty ring in one
FIFO bank, or takes the binding away, and completes at once, its flag owned until a WAITF. -/
def Obligations.CopiesAndBanksStart : Prop :=
  CopyCompletes .cpyIn false ∧ CopyCompletes .cpyOut true ∧
  (∀ x s c, (Instr.cbank x).wf = true → Issues (.cbank x) s c →
    ∃ t u o, exec (.cbank x) s = .next t ∧ Started (.cbank x) [] [] s c o u ∧ IsOf (.cbank x) s c o ∧
      t = { u with changes := t.changes } ∧ t.changes = s.changes ++ ((List.range 16).filter (fun b => x.offset.getLsbD b)).map
        (fun b => ⟨clusterOf c.core, b, x.fe.toNat, some o.id⟩) ∧
      (o.performed = true ↔ ∀ b < 16, x.offset.getLsbD b = false)) ∧
  (∀ x s c q, (Instr.qbind x).wf = true → x.data = .q q → Issues (.qbind x) s c →
    ∀ la size, la = (c.scalar x.base).toNat → size = (c.scalar x.sb).toNat →
    size = 0 ∨ (la % 16 = 0 ∧ size % 16 = 0 ∧ la < 2 ^ 22 ∧ (la + size - 1) / 2 ^ 18 = la / 2 ^ 18 ∧
      s.bankMode (clusterOf c.core) (la / 2 ^ 18) = 2) →
    ∃ t g, exec (.qbind x) s = .next t ∧
      t = { s with groups := t.groups, ops := s.ops.filter (fun p => p.id != s.nextId), nextId := s.nextId + 1 } ∧
      (∀ k, k ≠ c.g.gid → tfind k t.groups = tfind k s.groups) ∧ Has t c g ∧ Advances (.qbind x) c g ∧
      { g with qbinds := c.g.qbinds, flags := c.g.flags, strands := c.g.strands } = c.g ∧
      (∀ n, g.flag n = if n = x.flag.toNat ∧ n < 12 then ⟨false, true, [], (c.g.flag n).late⟩ else c.g.flag n) ∧
      tget ⟨0, 0, 0, 0⟩ g.qbinds q.val = (if size = 0 then ⟨0, 0, 0, 0⟩ else ⟨la, size, 0, 0⟩) ∧
      ∀ n, n ≠ q.val → tget ⟨0, 0, 0, 0⟩ g.qbinds n = tget ⟨0, 0, 0, 0⟩ c.g.qbinds n) ∧
  WakeCompletes .wakeToken (fun c x w => w.token == (c.scalar x.base).toNat) ∧
  WakeCompletes .wakePage (fun c x w =>
    w.page == c.pair x.base / 2 ^ 16 * 2 ^ 16 && w.die == unitDie (unitOf (c.pair x.base)))

namespace Sys2Proof.Claim

/-- The registers a result names are registers: lanes below 32, scalars below 64, closure bytes below 256. -/
def Proper (e : RegElem) : Prop :=
  match e with
  | .v _ l => l < 32
  | .s n _ => n < 64
  | .p n l => n < 7 ∧ l < 32
  | .k _ l b => l < 32 ∧ b < 256

/-- What a register element of a group holds. -/
def elemOf (g : Group) (e : RegElem) : Word :=
  match e with
  | .v n l => g.vget n l
  | .s n u => g.sget n u
  | .p n l => if (g.pget n).getLsbD l then 1 else 0
  | .k n l b => (tget 0 g.k (256 * (32 * n + l) + b)).zeroExtend 32

/-- What a result leaves in its register element: a bit of a predicate, a byte of a closure register, else the word. -/
def elemKeeps (e : RegElem) (w : Word) : Word :=
  match e with
  | .v _ _ | .s _ _ => w
  | .p _ _ => if w = 0 then 0 else 1
  | .k _ _ _ => w &&& 0xFF

/-- The local address that a copy which asked for a token gives to q9 when it completes (R147). -/
def tokenOf (k : OpKind) : Option Nat := match k with | .cpy _ la _ _ true => some la | _ => none

/-- Where the late trap of an instruction without a flag is due: at its group's next instruction where it held its group, else at the next Prism
or closure instruction where it is one, else at the next wait or release (R32, R291, R362). -/
def lateWhere (k : OpKind) (held : Prop) [Decidable held] : LatePoint :=
  if held then .next else match k with | .prism _ _ => .prism | .closure _ | .spillFill _ => .closure | _ => .waitOrRelease

/-- A request of an instruction in flight has come to a state, its other requests and everything else about it as before. -/
def RequestIs (o p : Op) (n : Nat) (st : ReqState) : Prop :=
  { p with reqs := o.reqs } = o ∧ p.reqs.length = o.reqs.length ∧
  ∀ m r, o.reqs[m]? = some r → p.reqs[m]? = some (if m = n then { r with state := st } else r)

/-- Kinds of access that wait at their home once confirmed: an immediate access or an atomic (R98, R100). -/
def actsAtHome (k : OpKind) : Bool := isImmediate k

/-- What an atomic makes of the value at its location and its operand (R100, R142). -/
def atomValue (op : AtomOp) (v x cmp : Word) : Word :=
  match op with
  | .add => BitVec.ofInt 32 (v.toInt + x.toInt)
  | .min => BitVec.ofInt 32 (min v.toInt x.toInt)
  | .max => BitVec.ofInt 32 (max v.toInt x.toInt)
  | .umin => BitVec.ofNat 32 (min v.toNat x.toNat)
  | .umax => BitVec.ofNat 32 (max v.toNat x.toNat)
  | .and => v &&& x
  | .or => v ||| x
  | .xor => v ^^^ x
  | .xchg => x
  | .cas => if v = cmp then x else v
  | .fadd => rne32 ((val32 v).add (val32 x))
  | .fmin => BitVec.ofNat 32 (f32.minNum v.toNat x.toNat)
  | .fmax => BitVec.ofNat 32 (f32.maxNum v.toNat x.toNat)

/-- A byte of a cluster's local space (R17). -/
def localByte (s : State) (cluster la : Nat) : BitVec 8 := tget 0 s.banks (cluster * 2 ^ 22 + la)

/-- The mode that a bank will have once the changes asked of it are made (R148). -/
def modeToBe (s : State) (cluster bank : Nat) : Nat :=
  ((s.changes.filter (fun b => b.cluster = cluster ∧ b.bank = bank)).map (·.mode)).getLastD (s.bankMode cluster bank)

/-- A granule's full bit (R56). -/
def fullAt (s : State) (cluster granule : Nat) : Bool := tget false s.full (cluster * 2 ^ 18 + granule)

end Sys2Proof.Claim

/-- R120, R121: an instruction in flight that has been performed completes: it leaves the machine, its results are in its registers
and no other register has changed, its flag is clear of BUSY but still owned until a wait, and a group it held is held no more. A
trap found late is attached to its flag, and without a flag waits for the point where it is due (R32). A copy that asked for a token gives it to
q9, unless it trapped, and the room promised to it is free (R147). The reuse latch loses the registers written (R124). -/
def Obligations.LongLatencyCompletes : Prop :=
  ∀ s (o : Op) (g : Group), s.op? s.ev.a = some o → o.performed = true →
    tfind o.gid s.groups = some g → g.retiring = false → (o.results.map (·.1)).Nodup → (∀ e ∈ o.results, Proper e.1) →
    ∃ t g', exec .longLatencyComplete s = .next t ∧
      t = { s with groups := t.groups, ops := s.ops.filter (fun p => p.id != o.id) } ∧
      (∀ k, k ≠ o.gid → tfind k t.groups = tfind k s.groups) ∧ tfind o.gid t.groups = some g' ∧
      { g' with v := g.v, s := g.s, p := g.p, k := g.k, flags := g.flags, heldBy := g.heldBy, late := g.late, latch := g.latch,
                q9 := g.q9, q9Promised := g.q9Promised } = g ∧
      (∀ e ∈ g'.latch, e ∈ g.latch ∧ ∀ n l w, (RegElem.v n l, w) ∈ o.results → e.2 ≠ n) ∧
      (∀ e w, (e, w) ∈ o.results → elemOf g' e = elemKeeps e w) ∧
      (∀ e, Proper e → e ∉ o.results.map (·.1) → elemOf g' e = elemOf g e) ∧
      (∀ n, g'.flag n = if n = o.flag ∧ n < 12
        then { g.flag n with busy := false, late := match o.lateTrap with | some t => some t | none => (g.flag n).late } else g.flag n) ∧
      g'.heldBy = (if g.heldBy = some o.id then none else g.heldBy) ∧
      g'.late = g.late ++ (if o.flag < 12 then [] else (o.lateTrap.map (fun t => (lateWhere o.kind (g.heldBy = some o.id), t))).toList) ∧
      g'.q9 = g.q9 ++ (if o.lateTrap.isSome then [] else ((tokenOf o.kind).map (BitVec.ofNat 32)).toList) ∧
      g'.q9Promised = g.q9Promised - (if (tokenOf o.kind).isSome then 1 else 0)

/-- R31 to R33: the memory side's answer to a request that waits for it. Confirmed, an immediate access or an atomic then waits at
its home; absent, the access of a group outside a task parks under the token of the page that is absent, its own or that of its line's metadata, and
TRAPTOKEN and TRAPADDR hold the token and its address. -/
def Obligations.AccessesAreAnswered : Prop :=
  (∀ s u (o : Op) r, s.op? s.ev.a = some o → o.reqs[s.ev.b]? = some r → r.state = .waiting → o.sent = true → actsAtHome o.kind = true →
    s.boot.phase = 4 → (answer o r).run s = (.ok (), u) → (∀ m q, m ≠ s.ev.b → o.reqs[m]? = some q → q.state.bad = false) →
    u.op? o.id = some o →
    ∃ t p, exec .translationAnswer s = .next t ∧ t = { u with ops := t.ops } ∧ t.op? o.id = some p ∧ RequestIs o p s.ev.b .confirmed ∧
      ∀ k, k ≠ o.id → t.op? k = u.op? k) ∧
  (∀ s u (o : Op) r token v ipa, s.op? s.ev.a = some o → o.reqs[s.ev.b]? = some r → r.state = .waiting → o.sent = true →
    actsAtHome o.kind = true → o.task = none → s.boot.phase = 4 → (answer o r).run s = (.error (0x10, 1, ipa), u) →
    u.enterWait ipa (kindCode o.kind) [(o.id, s.ev.b)] = some (token, v) → v.op? o.id = some o →
    ∃ t p, exec .translationAnswer s = .next t ∧ t = { v with ops := t.ops, groups := t.groups } ∧ t.op? o.id = some p ∧
      RequestIs { o with parked := true } p s.ev.b (.parked token) ∧ (∀ k, k ≠ o.gid → tfind k t.groups = tfind k v.groups) ∧
      ∀ g, tfind o.gid v.groups = some g → tfind o.gid t.groups =
        some { g with trapToken := BitVec.ofNat 32 token, trapAddr := BitVec.ofNat 64 r.va })

/-- R98, R100, R403: a request that may be performed at its home is performed there in one step: an immediate access, an atomic that
is not buffered and finds its line free, and one held on a line that has drained. Its results are added, and it is done. A store that
writes a whole compressed line is performed on the line at once (R83). -/
def Obligations.HomesPerform : Prop :=
  (∀ s u (o : Op) r res, s.op? s.ev.a = some o → o.reqs[s.ev.b]? = some r →
    ((∃ a b d e f, o.kind = .immLoad a b d e f) ∨ ∃ a, o.kind = .immStore a) → s.homeReady o r = true → o.task = none →
    wholeImmediate o r = [] → (immPerform o r).run s = (.ok res, u) → u.op? o.id = some o →
    ∃ t p, exec .immediateAtHome s = .next t ∧ t = { u with ops := t.ops, acqs := t.acqs, nextId := t.nextId } ∧ t.op? o.id = some p ∧
      p.results = o.results ++ res ∧ (∀ q, p.reqs[s.ev.b]? = some q → q.state = .done) ∧
      (p.performed = true ↔ o.performed = true ∨ ∀ m q, m ≠ s.ev.b → o.reqs[m]? = some q → q.state = .done)) ∧
  (∀ s u (o : Op) r size, s.op? s.ev.a = some o → o.reqs[s.ev.b]? = some r → o.kind = .immStore size → s.homeReady o r = true →
    wholeImmediate o r ≠ [] → (∀ e ∈ wholeImmediate o r, s.homeReady o e.2 = true) →
    (immLine r.loc (lineOf (wholeImmediate o r))).run s = (.ok (), u) → u.op? o.id = some o →
    ∃ t p, exec .immediateAtHome s = .next t ∧ t = { u with ops := t.ops, acqs := t.acqs, nextId := t.nextId } ∧ t.op? o.id = some p ∧
      p.results = o.results ∧ ∀ e ∈ wholeImmediate o r, ∀ q, p.reqs[e.1]? = some q → q.state = .done) ∧
  (∀ s u (o : Op) r op dst res, s.op? s.ev.a = some o → o.reqs[s.ev.b]? = some r → o.kind = .atomic op dst → s.homeReady o r = true →
    o.task = none → s.buffers o op dst.isSome = false → s.ownOrdered o r.loc = false → (op.float = true → s.openFor o r.loc = []) →
    (atomPerform o op dst r).run s = (.ok res, u) → u.op? o.id = some o →
    ∃ t p, exec .atomicAtHome s = .next t ∧ t = { u with ops := t.ops, acqs := t.acqs, nextId := t.nextId } ∧ t.op? o.id = some p ∧
      p.results = o.results ++ res ∧ ∀ q, p.reqs[s.ev.b]? = some q → q.state = .done) ∧
  (∀ s u (o : Op) r op dst ls res, s.op? s.ev.a = some o → o.reqs[s.ev.b]? = some r → o.kind = .atomic op dst → r.state = .held ls →
    o.task = none → s.openFor o r.loc = [] →
    (atomPerform o op dst r).run (ls.foldl (fun s l => s.modLaunch l (fun l => { l with intrude := l.intrude + 1 })) s) = (.ok res, u) →
    u.op? o.id = some o →
    ∃ t p, exec .foreignAtomicApply s = .next t ∧ t = { u with ops := t.ops, acqs := t.acqs, nextId := t.nextId } ∧
      t.op? o.id = some p ∧ p.results = o.results ++ res ∧ ∀ q, p.reqs[s.ev.b]? = some q → q.state = .done)

/-- R100, R142: what an atomic leaves at its location, lane by lane in order, and what each lane sees: each the value that the lane
before it left. -/
def Obligations.AtomicsApplyInOrder : Prop :=
  (∀ op v x cmp, applyAtom op v x cmp = atomValue op v x cmp) ∧
  ∀ op v args, (applyLanes op v args).1 = args.foldl (fun v a => atomValue op v a.2.1 a.2.2) v ∧
    ∀ k a, args[k]? = some a →
      (applyLanes op v args).2[k]? = some (a.1, (args.take k).foldl (fun v a => atomValue op v a.2.1 a.2.2) v)

/-- R59, R64: COMMITTED holds what was written to it. After masked bytes are written over a sector of an uncompressed range, a read of
it gives the old sector with those bytes; where L2 holds the line, so that nothing has to make room for it, every other sector that L2 held
is as it was. -/
def Obligations.CommittedKeepsWrites : Prop :=
  ∀ s u old m d (l : Loc), l.md = none → (∃ s', (committed l).run s = (.ok old, s')) → (commitBytes l m d).run s = (.ok (), u) →
    (∃ u', (committed l).run u = (.ok (mergeBytes old d m), u')) ∧
    (s.lineSectors l.home l.line ≠ [] → ∀ key x, tfind key s.l2 = some x → key ≠ l.home * 2 ^ 48 + l.ipa / 16 → tfind key u.l2 = some x)

/-- R47, R48, R89: a core's plain load sees the core's own latest plain store to the bytes it reads, in every state that files the sectors
its cores hold as the operations on them keep them filed. -/
def Obligations.OwnStoresAreSeen : Prop :=
  (∀ (s u : State) core (l : Loc) size v w, Filed s → Real l → 0 < size → l.ipa % 16 + size ≤ 16 →
    (plainLoad core l size).run (s.plainStore core l size v) = (.ok w, u) → w = v % 2 ^ (8 * size)) ∧
  (∀ s core l size v, Filed s → Real l → Filed (s.plainStore core l size v)) ∧
  (∀ s core l size, Filed s → Real l → Filed ((plainLoad core l size).run s).2) ∧
  (∀ s core home line bank, Filed s → Filed (s.evictL1 core home line bank) ∧ Filed (s.evictBank core home line)) ∧
  (∀ s core, Filed s → Filed (s.acquire core))

/-- R49, R50, R67, R91 to R93: boundaries. A release with nothing left to publish is complete, and the PHASE that asked for it has
been performed; a sector that a release sends home leaves no pending byte in its core's L1, while what is pending of it and of every other sector
stays as it was, and one that it publishes leaves no version behind; an acquire drops the core's pinned
values and SNAPSHOT versions, and keeps its pending bytes. -/
def Obligations.BoundariesWork : Prop :=
  (∀ s (r : Rel) (o : Op) id, s.rels.find? (fun q => q.id == s.ev.a) = some r → r.begun = true → r.todo = [] → r.sent = [] → r.parked = [] →
    s.ev.late = [] → r.fault = none → r.source = .op id → s.op? id = some o → o.kind = .phase → o.acq = false →
    ∃ t, exec .releaseBoundary s = .next t ∧ t = { s with ops := t.ops, rels := s.rels.filter (fun q => q.id != r.id) } ∧
      t.op? id = some { o with relId := none, performed := true, parked := false } ∧ ∀ k, k ≠ id → t.op? k = s.op? k) ∧
  (∀ s u (r : Rel) k l, Filed s → k / 2 ^ 48 < 256 → r.of_ = .pending r.core → l = s.pendingLoc r.core k →
    (sendSector r k).run s = (.ok (), u) → (u.held? r.core l).pmask = 0 ∧
      ∀ core home b, home < 256 → b < 2 ^ 52 → pendingByte u core home b = pendingByte s core home b) ∧
  (∀ s u (r : Rel) k v, s.version? r.of_ (k / 2 ^ 48) (k % 2 ^ 48) = some v → (publishSector r k).run s = (.ok (), u) →
    u.version? r.of_ v.home v.sector = none) ∧
  (∀ s (a : Acq), s.acqs.find? (fun b => b.id == s.ev.a) = some a → a.scope ≠ 0 →
    ∃ t, exec .acquireBoundary s = .next t ∧ (∀ b ∈ t.acqs, b.id ≠ a.id) ∧
      (∀ v ∈ t.versions, v.kind ≠ .snapshot a.core) ∧ (∀ v ∈ s.versions, v.kind ≠ .snapshot a.core → v ∈ t.versions) ∧
      (∀ e ∈ t.sectors, e.1 / 2 ^ 56 = a.core → e.2.pinned = none) ∧
      (∀ e ∈ s.sectors, e.2.pmask ≠ 0 → ∃ x, (e.1, x) ∈ t.sectors ∧ x.pmask = e.2.pmask ∧ x.pdata = e.2.pdata) ∧
      t.hbm = s.hbm ∧ t.l2 = s.l2 ∧ t.groups = s.groups) ∧
  (∀ s, s.ev.on = true → 16384 ≤ s.blockCount (.snapshot s.ev.a) → s.wantsBlock s.ev.a s.ev.b s.ev.c (.snapshot s.ev.a) = true →
    ∃ t, exec .implicitBoundary s = .next t ∧ (∀ v ∈ t.versions, v.kind ≠ .snapshot s.ev.a) ∧
      (t.coreState s.ev.a).implicitAcq = (s.coreState s.ev.a).implicitAcq + 1 ∧ t.groups = s.groups ∧ t.hbm = s.hbm)

/-- R54 to R57, R141, R150: local space. A store is served on its granule, each byte from the highest lane that stores there; a load
gets its lanes' bytes; of those that wait for a granule the first to come, as the model counts it (log 85), is served; a queue element is taken
from a full granule and put in an empty one, whose bit follows; a bank that leaves SCRATCH or FIFO mode is cleared. That a change
asked of a bank Apex holds as boot memory waits is the model's choice (log 102). -/
def Obligations.LocalSpaceServes : Prop :=
  (∀ s (o : Op) r fe size dst, s.op? s.ev.a = some o → o.kind = .local true fe size dst → o.reqs[s.ev.b]? = some r → r.state = .confirmed →
    s.mayServe o = true → s.granuleReady o true fe r = true → s.bankMode (clusterOf o.core) (r.va / 2 ^ 18) ≠ 0 →
    ∃ t, exec .granuleServe s = .next t ∧ t = { s with ops := t.ops, banks := t.banks, full := t.full } ∧
      (∀ key, (∀ a ∈ r.args, key < clusterOf o.core * 2 ^ 22 + a.2.1.toNat ∨ clusterOf o.core * 2 ^ 22 + a.2.1.toNat + size ≤ key) →
        tget 0 t.banks key = tget 0 s.banks key) ∧
      (∀ before a after, r.args = before ++ a :: after → ∀ j < size,
        (∀ b ∈ after, a.2.1.toNat + j < b.2.1.toNat ∨ b.2.1.toNat + size ≤ a.2.1.toNat + j) →
        localByte t (clusterOf o.core) (a.2.1.toNat + j) = BitVec.ofNat 8 (srcValue o (ceilDiv size 4) a.1 / 2 ^ (8 * j))) ∧
      ∀ n, tget false t.full n = if fe = 3 ∧ n = clusterOf o.core * 2 ^ 18 + r.va / 16 then true else tget false s.full n) ∧
  (∀ s (o : Op) r fe size dst, s.op? s.ev.a = some o → o.kind = .local false fe size dst → o.reqs[s.ev.b]? = some r → r.state = .confirmed →
    s.mayServe o = true → s.granuleReady o false fe r = true → s.bankMode (clusterOf o.core) (r.va / 2 ^ 18) ≠ 0 →
    ∃ t p, exec .granuleServe s = .next t ∧ t = { s with ops := t.ops, full := t.full } ∧ t.op? o.id = some p ∧
      (o.reqs.all (fun q => !q.state.bad) = true → p.results = o.results ++ (r.args.map (fun a =>
        (List.range (ceilDiv size 4)).map (fun k => (RegElem.v (dst + k) a.1,
          BitVec.ofNat 32 (treadLE s.banks (clusterOf o.core * 2 ^ 22 + a.2.1.toNat) size / 2 ^ (32 * k)))))).flatten) ∧
      ∀ n, tget false t.full n = if fe = 2 ∧ n = clusterOf o.core * 2 ^ 18 + r.va / 16 then false else tget false s.full n) ∧
  (∀ s (g : Group) p f q l rest cl b, tfind s.ev.a s.groups = some g → g.gid = s.ev.a → tfind s.ev.b g.pending = some p → p.strand = s.ev.b →
    g.resident = true → g.halted = false → s.resumes g p.strand = false → p.pushing = false → p.pops = (f, q, l) :: rest → q < 8 →
    s.binding g q = some (cl, b) →
    s.bankChanging cl ((b.start + b.rd) / 2 ^ 18) = false → fullAt s cl ((b.start + b.rd) / 16) = true →
    s.firstAt cl (b.start + b.rd) true p.since g.gid = true →
    ∃ t, exec .queueElementServe s = .next t ∧ t = { s with groups := t.groups, full := t.full } ∧
      (∀ n, tget false t.full n = if n = cl * 2 ^ 18 + (b.start + b.rd) / 16 then false else tget false s.full n) ∧
      tfind s.ev.a t.groups = some { g with
        qbinds := tset ⟨0, 0, 0, 0⟩ g.qbinds q { b with rd := (b.rd + 16) % b.size },
        pending := tinsert s.ev.b { p with
          since := s.clock
          pops := rest
          popped := tset 0 p.popped (32 * f + l) (BitVec.ofNat 32 (treadLE s.banks (cl * 2 ^ 22 + (b.start + b.rd)) 4)) } g.pending }) ∧
  (∀ s (g : Group) p q l w cl b, tfind s.ev.a s.groups = some g → g.gid = s.ev.a → tfind s.ev.b g.pending = some p → p.strand = s.ev.b →
    g.resident = true → g.halted = false → s.resumes g p.strand = false → p.pushing = true → p.pushes = [(q, l, w)] → s.binding g q = some (cl, b) →
    s.bankChanging cl ((b.start + b.wr) / 2 ^ 18) = false → fullAt s cl ((b.start + b.wr) / 16) = false →
    s.firstAt cl (b.start + b.wr) false p.since g.gid = true →
    ∃ t g', exec .queueElementServe s = .next t ∧ t = { s with groups := t.groups, full := t.full, banks := t.banks } ∧
      treadLE t.banks (cl * 2 ^ 22 + (b.start + b.wr)) 16 = w.toNat ∧
      (∀ k, (k < cl * 2 ^ 22 + (b.start + b.wr) ∨ cl * 2 ^ 22 + (b.start + b.wr) + 16 ≤ k) → tget 0 t.banks k = tget 0 s.banks k) ∧
      (∀ n, tget false t.full n = if n = cl * 2 ^ 18 + (b.start + b.wr) / 16 then true else tget false s.full n) ∧
      tfind s.ev.a t.groups = some g' ∧ tfind s.ev.b g'.pending = none ∧
      (∀ u ∈ g.gangOf (g.strand s.ev.b).gang, (g'.strand u).pc = p.next ∧ (g'.strand u).wait = .ready)) ∧
  (∀ s, s.ev.a < 48 → ∃ t, exec .clbmodeWrite s = .next t ∧ t = { s with changes := t.changes } ∧
    t.changes = s.changes ++ ((List.range 16).filter (fun b => decide (s.ev.val.toNat / 4 ^ b % 4 ≠ 3 ∧
      s.ev.val.toNat / 4 ^ b % 4 ≠ modeToBe s s.ev.a b))).map (fun b => ⟨s.ev.a, b, s.ev.val.toNat / 4 ^ b % 4, none⟩)) ∧
  (∀ s, s.boot.phase < 4 → s.ev.a < 8 → exec .bankModeChange s = .next s) ∧
  (∀ s b, s.changes.find? (fun c => c.cluster == s.ev.a && c.bank == s.ev.b) = some b → b.op = none → b.cluster < 48 → b.bank < 16 →
    (s.boot.phase = 4 ∨ 8 ≤ b.cluster) →
    (∀ o ∈ s.ops, clusterOf o.core = b.cluster → b.bank ∉ o.banks) → s.bankMode b.cluster b.bank ≠ 0 → s.bankedIn b.cluster b.bank = [] →
    ∃ t, exec .bankModeChange s = .next t ∧ t.changes = s.changes.erase b ∧
      (∀ c k, k < 16 → t.bankMode c k = if c = b.cluster ∧ k = b.bank then b.mode else s.bankMode c k) ∧
      (∀ la, la / 2 ^ 18 = b.bank → localByte t b.cluster la = 0 ∧ fullAt t b.cluster (la / 16) = false) ∧
      (∀ c la, la < 2 ^ 22 → (c ≠ b.cluster ∨ la / 2 ^ 18 ≠ b.bank) → localByte t c la = localByte s c la ∧
        fullAt t c (la / 16) = fullAt s c (la / 16)) ∧
      t.hbm = s.hbm ∧ t.l2 = s.l2 ∧ t.sectors = s.sectors)

namespace Sys2Proof.Claim

/-- The array of a core is free, or the issuing gang's team holds it (R282). -/
def ArrayFree (s : State) (c : Ctx) : Prop := (s.coreState c.core).prism.team = none ∨ (s.coreState c.core).prism.team = some c.g.team

/-- A row descriptor is valid: AROW in bits 8:0, COUNT in bits 25:16, between one row and the rows there are (R289). -/
def RowsAre (w : Word) (row count : Nat) : Prop := w.toNat = row + 2 ^ 16 * count ∧ 0 < count ∧ row + count ≤ 512

/-- A Prism command has gone to the array: it is in flight, last in the array's order, and its team holds the array; nothing else of
the machine has changed but what `array` says of the array and `ring` of the group's queue bindings (R282, R283, R291). -/
def CommandSent (i : Instr) (s : State) (c : Ctx) (p : PrismCmd) (banks : List Nat) (array : Prism → Prism)
    (ring : Table QBind → Table QBind) (t : State) : Prop :=
  ∃ u o, IsOf i s c o ∧ Started i [] [] s c o u ∧ o.kind = .prism i p ∧ o.banks = banks ∧ o.performed = false ∧
    (∀ core, t.coreState core = if core = c.core then
      { s.coreState core with prism := array { (s.coreState core).prism with team := some c.g.team,
                                                                              cmds := (s.coreState core).prism.cmds ++ [s.nextId] } }
      else s.coreState core) ∧
    t = { u with cores := t.cores, groups := t.groups } ∧ (∀ k, k ≠ c.g.gid → tfind k t.groups = tfind k s.groups) ∧
    ∃ g, Has u c g ∧ Has t c { g with qbinds := ring g.qbinds }

/-- The command a drain sends: its rows and seed, and as many granules, or to q8 words, as its rows have (R296). -/
def drainCommand (c : Ctx) (x : ENG) (row count : Nat) : PrismCmd :=
  { PrismCmd.empty with row := row, count := count, seed := BitVec.ofNat 32 (c.pair x.c / 2 ^ 32), total := count * rowBytes x / 16 }

/-- What an engine instruction of the GFX format captures as it starts: one slot for each acting lane, its run of registers and the
index in SC; ACQ drops the copies its engine keeps (R103, R309, R337, R358). -/
def EngineStarts (i : Instr) (x : GFX) (kind : OpKind) (run unit : Nat) (acq : Bool) (more : List Req) (s : State) (c : Ctx)
    (t : State) : Prop :=
  ∃ o, IsOf i s c o ∧ Started i (opDsts i.form) [] { s with cores := t.cores } c o t ∧ o.kind = kind ∧ o.acq = acq ∧
    o.results = [] ∧ o.lanes = c.active ∧ o.reqs = c.active.map laneSlot ++ more ∧ (o.performed = true ↔ c.active = []) ∧
    (∀ l ∈ c.active, (∀ j < run, tget 0 o.src (32 * j + l) = (c.run x.a run l).getD j 0) ∧
      tget 0 o.src (32 * run + l) = c.read none 0 0 x.c l) ∧
    ∀ core, t.coreState core = if acq = true ∧ c.active ≠ [] ∧ core = c.core then
      { s.coreState core with engineCopies := (s.coreState core).engineCopies.filter (fun e => e.1 / 2 ^ 56 % 8 != unit) }
      else s.coreState core

/-- A texture, ray or closure instruction starts. -/
def GfxCompletes (k : GFX → Instr) (kind : Instr → OpKind) (run : GFX → Nat) (unit : Nat) (acq : GFX → Bool) (more : List Req) : Prop :=
  ∀ x s c, (k x).wf = true → Shaped s → Issues (k x) s c →
    ∃ t, exec (k x) s = .next t ∧ EngineStarts (k x) x (kind (k x)) (run x) unit (acq x) more s c t

/-- KSPILL or KFILL starts: sixteen sectors a lane (R359). -/
def SpillCompletes (k : GFX → Instr) (store : Bool) : Prop :=
  ∀ x s c, (k x).wf = true → Issues (k x) s c →
    (∀ l ∈ c.active, c.base64 x.a l % 256 = 0 ∧ ∃ loc, translate c.g.ranges (c.base64 x.a l) 256 (!store) store false = .ok loc) →
    ∃ t o, exec (k x) s = .next t ∧ IsOf (k x) s c o ∧ Started (k x) [] [] s c o t ∧ o.kind = .spillFill (k x) ∧
      (o.performed = true ↔ c.active = []) ∧ (∀ r ∈ o.reqs, r.size = 16 ∧ r.state = .waiting) ∧
      o.reqs.map (fun r => (r.lane, r.va)) =
        (c.active.map (fun l => (List.range 16).map (fun j => (l, c.base64 x.a l + 16 * j)))).flatten

/-- The results of SPAWN and TASK: a status and an index in the pair, in every strand of the gang. -/
def statusPair (c : Ctx) (x : Src) (status index : Nat) : List (RegElem × Word) :=
  (c.strands.map (fun u => [(RegElem.s (dataReg x) u, BitVec.ofNat 32 status), (RegElem.s (dataReg x + 1) u, BitVec.ofNat 32 index)])).flatten

/-- An instruction whose results are formed as it issues is in flight, and its results come with its completion. -/
def FixedStart (i : Instr) (x : Src) (status index : Nat) (s : State) (c : Ctx) (t : State) : Prop :=
  ∃ o, IsOf i s c o ∧ Started i (runCodes x 2) [] s c o t ∧ o.performed = true ∧ o.results = statusPair c x status index

end Sys2Proof.Claim

/-- R282, R283, R285 to R297: the Prism instructions send their commands to the array, which their team then holds. A run and a drain
to a ring take their granules of the ring as they issue. -/
def Obligations.PrismCommandsIssue : Prop :=
  (∀ x s c loc, (Instr.mmload x).wf = true → Issues (.mmload x) s c → ArrayFree s c → c.pair x.a % 128 = 0 →
    translate c.g.ranges (c.pair x.a) (2048 * (x.imm.toNat % 16) + 1024) true false false = .ok loc → s.boot.phase = 4 →
    ∃ t, exec (.mmload x) s = .next t ∧ CommandSent (.mmload x) s c { PrismCmd.empty with addr := c.pair x.a } []
      (fun a => { a with issued := (x.imm.toNat % 16, BitVec.ofNat 64 (c.pair x.a)) }) id t) ∧
  (∀ x s c b row count steps, (Instr.mmrun x).wf = true → Issues (.mmrun x) s c → ArrayFree s c →
    RowsAre (c.scalar x.a) row count → steps = (c.scalar x.b).toNat → 1 ≤ steps → steps ≤ 256 → s.boot.phase = 4 →
    (2 ≤ steps → ∃ loc, translate c.g.ranges
      ((s.coreState c.core).prism.issued.2.toNat + (2048 * (s.coreState c.core).prism.issued.1 + 1024))
      ((steps - 1) * (2048 * (s.coreState c.core).prism.issued.1 + 1024)) true false false = .ok loc) →
    s.ring? c (x.imm.toNat / 16 % 8) = some b → (∀ k ∈ b.banks, s.bankChanging (clusterOf c.core) k = false) →
    ∃ t, exec (.mmrun x) s = .next t ∧ CommandSent (.mmrun x) s c
      { PrismCmd.empty with row := row, count := count, steps := steps, ring := b.start, size := b.size, pos := b.rd,
                            total := steps * count * (x.imm.toNat % 16 + 1) } b.banks id
      (fun q => tset ⟨0, 0, 0, 0⟩ q (x.imm.toNat / 16 % 8)
        { b with rd := (b.rd + 16 * (steps * count * (x.imm.toNat % 16 + 1))) % b.size }) t) ∧
  (∀ x s c row count loc, (Instr.mmdrainMem x).wf = true → Issues (.mmdrainMem x) s c → ArrayFree s c → RowsAre (c.scalar x.b) row count →
    c.pair x.a % 16 = 0 → c.pair x.c % 2 ^ 32 % 16 = 0 → rowBytes x ≤ c.pair x.c % 2 ^ 32 → s.boot.phase = 4 →
    translate c.g.ranges (c.pair x.a) (rowBytes x + (count - 1) * (c.pair x.c % 2 ^ 32)) false true false = .ok loc →
    ∃ t, exec (.mmdrainMem x) s = .next t ∧ CommandSent (.mmdrainMem x) s c
      { drainCommand c x row count with addr := c.pair x.a, stride := c.pair x.c % 2 ^ 32 } [] id id t) ∧
  (∀ x s c row count la, (Instr.mmdrainLoc x).wf = true → Issues (.mmdrainLoc x) s c → ArrayFree s c → RowsAre (c.scalar x.b) row count →
    la = (c.scalar x.a).toNat → la % 16 = 0 → la + count * rowBytes x ≤ 2 ^ 22 → s.boot.phase = 4 →
    (∀ b ∈ spanBanks la (count * rowBytes x), s.bankMode (clusterOf c.core) b ≠ 0 ∧ s.bankChanging (clusterOf c.core) b = false) →
    ∃ t, exec (.mmdrainLoc x) s = .next t ∧ CommandSent (.mmdrainLoc x) s c { drainCommand c x row count with addr := la }
      (spanBanks la (count * rowBytes x)) id id t) ∧
  (∀ x s c b row count, (Instr.mmdrainRing x).wf = true → Issues (.mmdrainRing x) s c → ArrayFree s c → RowsAre (c.scalar x.b) row count →
    s.ring? c (drainQn x) = some b → s.boot.phase = 4 → (∀ k ∈ b.banks, s.bankChanging (clusterOf c.core) k = false) →
    ∃ t, exec (.mmdrainRing x) s = .next t ∧ CommandSent (.mmdrainRing x) s c
      { drainCommand c x row count with ring := b.start, size := b.size, pos := b.wr } b.banks id
      (fun q => tset ⟨0, 0, 0, 0⟩ q (drainQn x) { b with wr := (b.wr + 16 * (count * rowBytes x / 16)) % b.size }) t) ∧
  (∀ x s c row count, (Instr.mmdrainQ8 x).wf = true → Issues (.mmdrainQ8 x) s c → ArrayFree s c → RowsAre (c.scalar x.b) row count →
    s.boot.phase = 4 →
    ∃ t, exec (.mmdrainQ8 x) s = .next t ∧ CommandSent (.mmdrainQ8 x) s c
      { drainCommand c x row count with total := count * rowBytes x / 4 } [] id id t) ∧
  (∀ x s c, (Instr.mmdrainStat x).wf = true → Issues (.mmdrainStat x) s c → ArrayFree s c →
    ∃ t, exec (.mmdrainStat x) s = .next t ∧ CommandSent (.mmdrainStat x) s c PrismCmd.empty [] id id t)

/-- R283, R287, R288, R292, R297: the array works. A tile that can be read is latched; a run that has a tile begins, and with CLEAR its
rows are cleared; a status word goes to q8, and NANBLK is cleared where the word asks for it. A vector of finite blocks adds to each
column, in ascending order of its blocks, their products' sums rounded once each. -/
def Obligations.PrismArrayWorks : Prop :=
  (∀ s u o x p v, s.headCmd s.ev.a = some o → o.kind = .prism (.mmload x) p →
    (readTile o p.addr (x.imm.toNat % 16)).run s = (.ok v, u) →
    ∃ t, exec .prismCommandStart s = .next t ∧ t = { u with cores := t.cores, ops := t.ops } ∧
      (t.coreState o.core).prism = { (u.coreState o.core).prism with
        mw := x.imm.toNat % 16, wbase := BitVec.ofNat 64 p.addr, step := [], cmds := (u.coreState o.core).prism.cmds.tail,
        tile := bytesTable v (2048 * (x.imm.toNat % 16) + 1024) } ∧
      ∀ q, t.op? o.id = some q → q.performed = true) ∧
  (∀ s o x p, s.headCmd s.ev.a = some o → o.kind = .prism (.mmrun x) p → p.begun = false → (s.coreState o.core).prism.mw ≠ 0 →
    ∃ t, exec .prismCommandStart s = .next t ∧ t = { s with cores := t.cores, ops := t.ops } ∧
      ∀ a n, n < 128 → (t.coreState o.core).prism.entry a n =
        if x.imm.getLsbD 7 ∧ p.row ≤ a ∧ a < p.row + p.count then 0 else (s.coreState o.core).prism.entry a n) ∧
  (∀ s o x p g, s.headCmd s.ev.a = some o → o.kind = .prism (.mmdrainStat x) p → tfind o.gid s.groups = some g →
    (tget [] (s.coreState o.core).prism.q8 g.pos).length < 1024 →
    ∃ t, exec .prismCommandStart s = .next t ∧ t = { s with cores := t.cores, ops := t.ops } ∧
      tget [] (t.coreState o.core).prism.q8 g.pos = tget [] (s.coreState o.core).prism.q8 g.pos ++
        [if (s.coreState o.core).prism.nanblk then 1 else 0] ∧
      (t.coreState o.core).prism.nanblk = ((s.coreState o.core).prism.nanblk && !x.imm.getLsbD 0)) ∧
  ∀ (p : Prism) tile held ma a n, n < 128 → ∀ a', (p.addVector tile held ma a).entry a' n =
    if a' = a then (List.range 8).foldl (fun acc j => rne32 ((val32 acc).add
      (blockTerm p.mw ma (tileBlock tile p.mw (8 * n + j)) (vectorBlock held ma j)))) (p.entry a n)
    else p.entry a' n

/-- R308, R335 to R337, R357 to R362: texture, ray and closure instructions start; a ray instruction with an acting lane
waits until its core has a free ray slot for each of its lanes (R309). -/
def Obligations.GraphicsInstructionsStart : Prop :=
  GfxCompletes .texS (fun i => .tex i []) (fun _ => 4) 0 gfxAcq [laneSlot 32] ∧
  GfxCompletes .texL (fun i => .tex i []) (fun _ => 4) 0 gfxAcq [laneSlot 32] ∧
  GfxCompletes .texQ (fun i => .tex i []) (fun _ => 4) 0 gfxAcq [laneSlot 32] ∧
  (∀ k, k = Instr.rayT ∨ k = Instr.rayO ∨ k = Instr.rayA → ∀ x s c, (k x).wf = true → Shaped s → Issues (k x) s c →
    (c.active = [] ∨ s.raysInFlight c.core + c.active.length ≤ 1024 →
      ∃ t, exec (k x) s = .next t ∧ EngineStarts (k x) x (.ray (k x)) 10 1 (gfxAcq x) [] s c t) ∧
    (c.active ≠ [] → 1024 < s.raysInFlight c.core + c.active.length →
      ∃ t, exec (k x) s = .next t ∧ GroupEnds s c t (fun g => OnlyStrands c g ∧ Claim.Waits c (.slots c.active.length) g))) ∧
  GfxCompletes .kclr .closure (fun _ => 6) 2 (fun _ => false) [] ∧
  GfxCompletes .klobe .closure (fun x => Machine.lobeRun x.kreg.toNat) 2 (fun _ => false) [] ∧
  GfxCompletes .kmix .closure (fun _ => 0) 2 (fun _ => false) [] ∧
  GfxCompletes .klayer .closure (fun _ => 3) 2 (fun _ => false) [] ∧
  GfxCompletes .kscale .closure (fun _ => 3) 2 (fun _ => false) [] ∧
  GfxCompletes .ksample .closure (fun _ => 6) 2 gfxAcq [] ∧
  GfxCompletes .keval .closure (fun _ => 6) 2 gfxAcq [] ∧
  GfxCompletes .kdens .closure (fun _ => 6) 2 gfxAcq [] ∧
  GfxCompletes .kinfo .closure (fun _ => 0) 2 (fun _ => false) [] ∧
  GfxCompletes .kmov .closure (fun _ => 0) 2 (fun _ => false) [] ∧
  SpillCompletes .kspill true ∧ SpillCompletes .kfill false

/-- R315: a lane of a ray instruction finishes: its results are in its run of registers, every other element of the vector registers
is as it was, its request is done, and the instruction has been performed once all its lanes are; every other instruction in flight is as it was. The
reuse latch loses the registers written (R124). -/
def Obligations.RayLanesFinish : Prop :=
  ∀ (s u : State) (o : Op) i r ws g, s.op? s.ev.a = some o → o.kind = .ray i → o.reqs[s.ev.b]? = some r → o.performed = false → r.state = .waiting →
    s.unitRuns o = true → (rayLane o (s.mayCopy o) i r.lane).run s = (.ok ws, u) → u.op? o.id = some o →
    tfind o.gid u.groups = some g → r.lane < 32 →
    ∃ t g' p, exec .rayLaneFinish s = .next t ∧ t = { u with groups := t.groups, ops := t.ops } ∧
      (∀ k, k ≠ o.gid → tfind k t.groups = tfind k u.groups) ∧ tfind o.gid t.groups = some g' ∧ { g' with v := g.v, latch := g.latch } = g ∧
      (∀ k w, ws[k]? = some w → g'.vget (rayDst i + k) r.lane = w) ∧
      (∀ m l, l < 32 → (l ≠ r.lane ∨ m < rayDst i ∨ rayDst i + ws.length ≤ m) → g'.vget m l = g.vget m l) ∧
      (∀ e, e ∈ g'.latch ↔ e ∈ g.latch ∧ (e.2 < rayDst i ∨ rayDst i + ws.length ≤ e.2)) ∧
      t.op? o.id = some p ∧ RequestIs { o with performed := p.performed } p s.ev.b .done ∧
      (p.performed = true ↔ ∀ m q, m ≠ s.ev.b → o.reqs[m]? = some q → q.state = .done) ∧
      t.ops.length = u.ops.length ∧ ∀ (n : Nat) q, u.ops[n]? = some q → q.id ≠ o.id → t.ops[n]? = some q

/-- R183, R184, R387 to R390: SPAWN and the task instructions. SPAWN with room starts a group at its entry in a position of the
team that no group holds, one that is retiring among them (the model's choice, log 90), with that position's bits clear in every barrier of the team
(R208), and gives status 0; TASK gives a status to a task it may not enqueue, and otherwise a record in the lowest free slot; TABORT
takes the task's versions and read marks away; TWAIT goes on once the frontier has passed its time. -/
def Obligations.SpawnsAndTasks : Prop :=
  (∀ x s c u status index, (Instr.spawn x).wf = true → Shaped s → Keyed s → Issues (.spawn x) s c → c.pair x.c % 8 = 0 →
    (spawnAt c (c.pair x.c) ((List.range 8).map (fun k => c.g.sget (dataReg x.b + k) c.lowest))).run s = (.ok (status, index), u) →
    (Has u c c.g → ∃ t, exec (.spawn x) s = .next t ∧ (∃ o, IsOf (.spawn x) u c o ∧ Started (.spawn x) (runCodes x.a 2) [] u c o t ∧
      o.performed = true ∧ o.results = statusPair c x.a status index)) ∧
    (status ≠ 0 → u = s ∧ index = 0xFFFFFFFF) ∧
    (status = 0 → ∃ gid g tm tm', tfind gid s.groups = none ∧ tfind gid u.groups = some g ∧ tfind c.g.team s.teams = some tm ∧
      g.launch = c.g.launch ∧ g.team = c.g.team ∧ tm.size ≤ g.pos ∧ g.pos < 64 ∧
      (∀ e ∈ s.groups, e.2.team = c.g.team → e.2.pos ≠ g.pos) ∧ g.spawned = true ∧
      (∀ st ∈ g.strands, st = ⟨BitVec.ofNat 64 (c.pair x.c), [0xF], false, 0, .ready⟩) ∧
      tfind c.g.team u.teams = some tm' ∧ ∀ b, (tget Barrier.zero tm'.barriers b).part.getLsbD g.pos = false ∧
        (tget Barrier.zero tm'.barriers b).pend.getLsbD g.pos = false ∧ (tget Barrier.zero tm'.barriers b).arrived.getLsbD g.pos = false)) ∧
  (∀ x s c d k r status, (Instr.task x).wf = true → Issues (.task x) s c → c.pair x.c % 8 = 0 → s.taskCtx c = some (d, k, r) →
    (if c.pair x.a < r.ts then status = 1 else if r.spawns = 63 then status = 2 else 2 ^ 32 ≤ 64 * r.tie + 64 ∧ status = 3) →
    ∃ t, exec (.task x) s = .next t ∧ FixedStart (.task x) x.a status 0xFFFFFFFF s c t) ∧
  (∀ x s c d k r u, (Instr.task x).wf = true → Issues (.task x) s c → c.pair x.c % 8 = 0 → s.taskCtx c = some (d, k, r) →
    r.ts ≤ c.pair x.a → r.spawns ≠ 63 → 64 * r.tie + 64 < 2 ^ 32 → d.recs.length < d.slotLimit k →
    u = (s.modTask c.g.launch k (fun r => { r with spawns := r.spawns + 1 })).putTask c.g.launch d.freeSlot
      ⟨c.pair x.c, (List.range 8).map (fun k => c.g.sget (dataReg x.b + k) c.lowest), c.pair x.a, 64 * r.tie + r.spawns + 1, k, 0, 1,
        none, none, none, false⟩ →
    (∃ e, tfind c.g.launch u.domains = some e ∧ e.ended = false ∧ (tfind d.freeSlot e.recs).isSome = true) →
    ∃ t o, exec (.task x) s = .next t ∧ IsOf (.task x) u c o ∧ t.ops = u.ops ++ [o] ∧ o.performed = true ∧
      o.results = statusPair c x.a 0 d.freeSlot ∧ t.domains = u.domains) ∧
  (∀ s c d k r, Issues .tabortRetry s c → s.taskCtx c = some (d, k, r) →
    ∃ t, exec .tabortRetry s = .next t ∧ t = (s.abortTasks c.g.launch [k]).modTask c.g.launch k (fun r => { r with retryAt := some d.frontier })) ∧
  (∀ s c d k r, Issues .tabortDrop s c → s.taskCtx c = some (d, k, r) →
    ∃ t, exec .tabortDrop s = .next t ∧ t = (s.abortTasks c.g.launch [k]).modTask c.g.launch k (fun r => { r with state := 4 })) ∧
  (∀ (s : State) launch slot, (∃ d r, tfind launch s.domains = some d ∧ tfind slot d.recs = some r) →
    (∀ v ∈ (s.abortTasks launch [slot]).versions, v.kind ≠ .spec launch slot) ∧
    (∀ m ∈ (s.abortTasks launch [slot]).marks, ¬(m.launch = launch ∧ m.slot = slot))) ∧
  (∀ x s c d k r, (Instr.twait x).wf = true → Issues (.twait x) s c → s.taskCtx c = some (d, k, r) →
    (c.pair x.a < d.frontier ∨ d.isFrontier k = true) →
    ∃ t, exec (.twait x) s = .next t ∧ GroupEnds s c t (fun g => OnlyStrands c g ∧ Advances (.twait x) c g))

namespace Sys2Proof.Claim

/-- A task may be dispatched (R374, R389): it is queued in a domain that runs, at most SPECWIN after the frontier, not held back by its
retry, and not behind a frontier task that is queued itself. -/
structure Due (d : Domain) (slot : Nat) (r : TaskRec) : Prop where
  held : tfind slot d.recs = some r
  queued : r.state = 1
  runs : d.ended = false
  window : r.ts ≤ d.frontier + d.specwin
  top : r.ts < 2 ^ 64
  retry : d.isFrontier slot = true ∨ r.retryAt ≠ some d.frontier
  first : d.isFrontier slot = true ∨ ∀ k f, d.frontierTask = some (k, f) → f.state ≠ 1

/-- A worker that stands without a task (R373). -/
structure Idle (s : State) (launch gid : Nat) (g : Group) : Prop where
  here : tfind gid s.groups = some g
  named : g.gid = gid
  launch : g.launch = launch
  free : g.task = none
  runs : s.groupRuns g = true
  quiet : ∀ o ∈ s.ops, o.gid ≠ gid

/-- All strands at an address, in one gang, with one full stack entry (R182). -/
def AtEntry (g : Group) (nstrands entry : Nat) : Prop :=
  g.strands = List.replicate nstrands ⟨BitVec.ofNat 64 entry, [0xF], false, 0, .ready⟩

/-- Registers as a group starts with them (R182): arguments in s0 to s7, everything else zero. -/
def FreshRegs (g : Group) (nstrands : Nat) (args : List Word) : Prop :=
  (∀ n l, g.vget n l = 0) ∧ (∀ n, n ≠ 7 → g.pget n = 0) ∧ g.k = [] ∧ g.e = [] ∧ g.flags = [] ∧ g.qbinds = [] ∧ g.q9 = [] ∧
  (∀ n < 8, ∀ u < nstrands, g.sget n u = args.getD n 0) ∧ ∀ n, 8 ≤ n → n < 63 → ∀ u, g.sget n u = 0

/-- The packet at the head of a queue Apex reads, sound (R270, R271). -/
structure AtPacket (s : State) (type : Nat) (q : UQueue) (p : Packet) (u : State) : Prop where
  queue : tfind s.ev.a s.queues = some q
  reads : q.slot.isSome = true ∧ q.halted = false ∧ q.cursor < q.wr
  full : s.boot.phase = 4
  read : (readPacket q q.cursor).run s = (.ok p, u)
  same : tfind s.ev.a u.queues = some q
  typed : p.type = type
  sound : p.bad q = none

/-- A queue has gone on to a byte count, with its loops open; RDPTR follows where no LOOP runs (R270). -/
def WentOn (id : Nat) (q : UQueue) (cursor : Nat) (loops : List (Nat × Nat)) (t : State) : Prop :=
  ∃ q', tfind id t.queues = some q' ∧ q'.cursor = cursor ∧ q'.loops = loops ∧ q'.waiting = false ∧
    q'.rd = if loops = [] then cursor else q.rd

/-- A queue waits at its packet. -/
def Holds (id : Nat) (q : UQueue) (u t : State) : Prop :=
  t = { u with queues := t.queues } ∧ tfind id t.queues = some { q with waiting := true } ∧ ∀ k, k ≠ id → tfind k t.queues = tfind k u.queues

/-- The events that take the packets, with the packets' types (R270). -/
def packetEvents : List (Instr × Nat) :=
  [(.nopPacket, 0), (.launchPacket, 1), (.launchIndPacket, 2), (.waitPacket, 3), (.waitRecheck, 3), (.signalPacket, 4), (.copyPacket, 5),
   (.loopPacket, 6), (.endLoopPacket, 7), (.ifPacket, 8), (.orderPacket, 9)]

/-- A queue has halted at its packet. -/
def QueueHalts (id : Nat) (q : UQueue) (t : State) : Prop :=
  ∃ q', tfind id t.queues = some q' ∧ q'.halted = true ∧ q'.cursor = q.cursor ∧ q'.rd = q.rd

/-- What a packet reads or writes through its queue's range registers has succeeded. -/
def Through {α : Type} (id : Nat) (q : UQueue) (m : Table (BitVec 64) → Mem α) (u : State) (a : α) (w : State) : Prop :=
  (readDwords q.qrange 48 >>= fun v => m (rangeSet v)).run u = (.ok a, w) ∧ tfind id w.queues = some q

/-- The condition of an IF (R270). -/
def ifHolds (cond v x : Nat) : Bool := [decide (v = x), decide (v ≠ x), decide (v ≥ x), decide (v < x)].getD cond false

/-- QRCMD 1 is written while QRSTAT does not read busy, or the registration under way goes on (R424): the descriptor's IPA, and the machine in which it
is looked at. -/
def Registers (s : State) (ipa : Nat) (u : State) : Prop :=
  s.ev.on = false ∧ s.qrstat ≠ 1 ∧ ipa = s.qripa.toNat ∧ u = { s with qrcmd := 1 } ∨ s.ev.on = true ∧ s.qrBusy = some ipa ∧ u = s

end Sys2Proof.Claim

/-- R373, R374, R379, R386, R397: tasks are dispatched, finish and commit, and the determinism token moves. A dispatch stops only where
queue memory no longer holds the record the task unit wrote. -/
def Obligations.TasksRun : Prop :=
  (∀ s u d l r g ws, tfind s.ev.a s.domains = some d → tfind s.ev.a s.launches = some l → Due d s.ev.b r → Idle s s.ev.a s.ev.c g →
    (domainReadAll l.ranges (d.slotVa s.ev.b) 7).run s = (.ok ws, u) →
    (∀ v ranges, ws.take 6 = r.dwords.take 6 → ws.getD 6 0 % 2 ^ 32 = r.tie → (loadRanges s.ev.a).run u = (.ok ranges, v) →
      tfind s.ev.c v.groups = some g → tfind s.ev.a v.domains = some d →
      ∃ t g' d', exec .taskDispatch s = .next t ∧ t = { v.clearQ8 g.team g.pos with groups := t.groups, domains := t.domains } ∧
        tfind s.ev.c t.groups = some g' ∧ g'.task = some s.ev.b ∧ g'.ranges = ranges ∧ AtEntry g' l.record.nstrands r.entry ∧
        FreshRegs g' l.record.nstrands r.args ∧ (∀ k, k ≠ s.ev.c → tfind k t.groups = tfind k v.groups) ∧
        tfind s.ev.a t.domains = some d' ∧ { d' with recs := d.recs } = d ∧
        tfind s.ev.b d'.recs = some { r with state := 2, gid := some s.ev.c, spawns := 0, retryAt := none } ∧
        ∀ k, k ≠ s.ev.b → tfind k d'.recs = tfind k d.recs) ∧
    (¬(ws.take 6 = r.dwords.take 6 ∧ ws.getD 6 0 % 2 ^ 32 = r.tie) → exec .taskDispatch s = .fault .taskQueueWritten)) ∧
  (∀ s (g : Group) k, tfind s.ev.a s.groups = some g → g.gid = s.ev.a → g.task = some k → g.live = [] → g.deferred = none →
    (∀ o ∈ s.ops, o.gid ≠ s.ev.a) →
    ∃ t g', exec .taskFinish s = .next t ∧ t = { s with groups := t.groups, domains := t.domains } ∧
      tfind s.ev.a t.groups = some g' ∧ g'.task = none ∧ g'.live = [] ∧ (∀ j, j ≠ s.ev.a → tfind j t.groups = tfind j s.groups) ∧
      ∀ d r, tfind g.launch s.domains = some d → tfind k d.recs = some r →
        ∃ d', tfind g.launch t.domains = some d' ∧ tfind k d'.recs = some { r with state := 4, gid := none }) ∧
  (∀ s d k r, tfind s.ev.a s.domains = some d → d.frontierTask = some (k, r) → r.state = 4 → d.ended = false →
    s.taskVersions s.ev.a k = [] →
    ∃ (t u : State) (d' : Domain), exec .taskCommit s = .next t ∧ t = (if d'.recs = [] then u.endDomain s.ev.a 1 else u.settleFrontier s.ev.a) ∧
      u = { s with marks := u.marks, domains := u.domains } ∧ tfind s.ev.a u.domains = some d' ∧
      (∀ m, m ∈ u.marks ↔ m ∈ s.marks ∧ (d.committing ≠ some k → ¬(m.launch = s.ev.a ∧ m.slot = k))) ∧
      d'.commits = d.commits + 1 ∧ d'.lastts = r.ts ∧ d'.committing = none ∧ tfind k d'.recs = none ∧
      (∀ j q, j ≠ k → tfind j d.recs = some q → tfind j d'.recs =
        some (if q.parent = k then { q with confirmed := true } else q)) ∧
      ∀ j f, d'.frontierTask = some (j, f) → d'.frontier = f.ts) ∧
  (∀ s l k, tfind s.ev.a s.launches = some l → l.id = s.ev.a → l.record.det = true → l.token = some k → s.mayPass l k = true →
    (∀ q ∈ s.ordered, ¬(q.launch = s.ev.a ∧ q.index = k)) →
    ∃ t, exec .tokenPass s = .next t ∧ t = { s with launches := t.launches } ∧
      tfind s.ev.a t.launches = some { l with token := some (k + 1) } ∧ ∀ j, j ≠ s.ev.a → tfind j t.launches = tfind j s.launches) ∧
  (∀ s l, tfind s.ev.a s.launches = some l → l.id = s.ev.a → l.record.det = true → l.token = none → s.ev.on = true → l.record.fabpos ≠ 0 →
    ∃ t, exec .tokenPass s = .next t ∧ t = { s with launches := t.launches } ∧
      tfind s.ev.a t.launches = some { l with token := some (l.record.fabpos * l.teams * l.record.teamSize) })

/-- R9, R172, R179, R182, R186, R212, R274, R276, R278, R414: teams are placed, pre-empted and resumed, groups retire and move between
the sets, and a core that fails is exchanged or leaves service. The model's own: a set that can no longer be read (log 50), where a save image lies
(log 13), the moves of an exchange (log 44), which cores take new units (log 93), the order of teams that return (log 64), and when a failed
core's event is posted (log 65). -/
def Obligations.TeamsComeAndGo : Prop :=
  (∀ s u l l₁ ranges, s.placementHead = some l → l.id = s.ev.a → tfind s.ev.a s.launches = some l → l.record.cosched = false →
    s.canPlace l s.ev.c s.ev.b = true → (loadRanges s.ev.a).run s = (.ok ranges, u) → tfind s.ev.a u.launches = some l₁ →
    l₁.record = l.record → l₁.id = l.id →
    ∃ t tm l', exec .teamPlacement s = .next t ∧ tfind u.nextId t.teams = some tm ∧ tm.launch = s.ev.a ∧ tm.number = s.ev.c ∧
      tm.core = s.ev.b ∧
      (∀ b < 16, tget Barrier.zero tm.barriers b = ⟨l.record.teamSize, 0, BitVec.ofNat 64 (2 ^ l.record.teamSize - 1), 0, 0⟩) ∧
      tfind s.ev.a t.launches = some l' ∧ s.ev.c ∈ l'.placed ∧ l'.started = true ∧
      ∀ pos < l.record.teamSize, ∃ g, tfind (u.nextId + 1 + pos) t.groups = some g ∧ g.launch = s.ev.a ∧ g.team = u.nextId ∧ g.pos = pos ∧
        g.quarter = pos % 4 ∧ g.resident = true ∧ g.active = false ∧ g.ranges = ranges ∧ AtEntry g l.record.nstrands l.record.entry ∧
        FreshRegs g l.record.nstrands [] ∧
        g.index = BitVec.ofNat 64 ((l.record.fabpos * l.teams + s.ev.c) * l.record.teamSize + pos)) ∧
  (∀ s (g : Group) l, tfind s.ev.a s.groups = some g → g.gid = s.ev.a → g.retiring = true → tfind g.launch s.launches = some l →
    (∀ o ∈ s.ops, o.gid ≠ s.ev.a) → s.tokenReached l g = true → tfind s.ev.b s.launches = none →
    ∃ t, exec .groupRetire s = .next t ∧ tfind s.ev.a t.groups = none ∧ (∀ k, k ≠ s.ev.a → tfind k t.groups = tfind k s.groups) ∧
      (∃ l', tfind g.launch t.launches = some l' ∧ l'.live = l.live - 1) ∧
      ∀ tm k h, tfind g.team s.teams = some tm → tm.id = g.team → k ≠ s.ev.a → tfind k s.groups = some h → h.team = g.team →
        ∃ tm', tfind g.team t.teams = some tm' ∧ tm'.barriers = tm.barriers) ∧
  (∀ s l, tfind s.ev.a s.groups = none → tfind s.ev.b s.launches = some l → l.over = true →
    ∃ t, exec .groupRetire s = .next t ∧ tfind s.ev.b t.launches = none ∧ tfind s.ev.b t.domains = none ∧
      ∀ q, tfind l.queue s.queues = some q → q.done = l.number →
        ∃ q', tfind l.queue t.queues = some q' ∧ l.number < q'.done) ∧
  (∀ s g, g ∈ s.quarterOf s.ev.a s.ev.b → g.active = true → s.waitsBeyond g = true → tfind g.gid s.groups = some g →
    (∀ p ∈ s.quarterOf s.ev.a s.ev.b, p.gid = g.gid → p = g) →
    ∃ t, exec .activeSetExchange s = .next t ∧ t = { s with groups := t.groups } ∧
      tfind g.gid t.groups = some { g with active := false, since := s.clock, latch := [] }) ∧
  (∀ s p, (∀ g ∈ s.quarterOf s.ev.a s.ev.b, g.active = true → s.waitsBeyond g = false) →
    s.entrant ((s.quarterOf s.ev.a s.ev.b).filter (fun g => !g.active)) = some p →
    ((s.quarterOf s.ev.a s.ev.b).filter (fun g => g.active)).length < 8 → tfind p.gid s.groups = some p →
    ∃ t, exec .activeSetExchange s = .next t ∧ t = { s with groups := t.groups } ∧
      tfind p.gid t.groups = some { p with active := true, since := s.clock, latch := [] } ∧
      ∀ k, k ≠ p.gid → tfind k t.groups = tfind k s.groups) ∧
  (∀ s p g, (∀ h ∈ s.quarterOf s.ev.a s.ev.b, h.active = true → s.waitsBeyond h = false) →
    s.entrant ((s.quarterOf s.ev.a s.ev.b).filter (fun h => !h.active)) = some p →
    8 ≤ ((s.quarterOf s.ev.a s.ev.b).filter (fun h => h.active)).length →
    s.leaver ((s.quarterOf s.ev.a s.ev.b).filter (fun h => h.active)) p = some g → tfind p.gid s.groups = some p →
    tfind g.gid s.groups = some g → p.gid ≠ g.gid →
    ∃ t, exec .activeSetExchange s = .next t ∧ t = { s with groups := t.groups } ∧
      tfind p.gid t.groups = some { p with active := true, since := s.clock, latch := [] } ∧
      tfind g.gid t.groups = some { g with active := false, since := s.clock, latch := [] }) ∧
  (∀ s e w, s.ev.a < 192 → s.ev.b < 64 → (s.ev.c = 8 → s.ev.b % 2 = 0) →
    e = s.ev.b ∧ w = s.ev.val.toNat % 2 ^ 32 &&& 0x8F8F8F8F ∨ s.ev.c = 8 ∧ e = s.ev.b + 1 ∧ w = s.ev.val.toNat / 2 ^ 32 &&& 0x8F8F8F8F →
    ∃ t, exec .istabWrite s = .next t ∧ t.istabWord s.ev.a e = w ∧ (∀ core, t.istabEntry core = s.istabEntry core) ∧
      ((s.clock + 1) % 64 = 0 → (s.coreState s.ev.a).istabNew = [] → (tget istabReset (t.tick.coreState s.ev.a).istab e).toNat = w)) ∧
  (∀ s tm place, tfind s.ev.a s.teams = some tm → tm.id = s.ev.a → tm.saving = true → tm.preempted = false → tm.image = none →
    (∀ r ∈ s.rels, r.source ≠ .move s.ev.a) → (∀ a ∈ s.acqs, a.source ≠ .move s.ev.a) → s.imageReady tm = true → s.savesAt tm = some place →
    (∀ o ∈ s.ops, s.inTeam s.ev.a o.gid = false) → (∀ g ∈ tvalues s.groups, g.team = s.ev.a → g.task = none) →
    ∃ t r, exec .preemptTeam s = .next t ∧ t = { s with teams := t.teams, rels := s.rels ++ [r], nextId := s.nextId + 1 } ∧
      r.core = tm.core ∧ r.scope = 2 ∧ r.source = .move s.ev.a ∧ tfind s.ev.a t.teams = some { tm with image := some place }) ∧
  (∀ s tm n, tfind s.ev.a s.teams = some tm → tm.id = s.ev.a → tm.saving = true → tm.preempted = false → tm.image = some n →
    (∀ r ∈ s.rels, r.source ≠ .move s.ev.a) → (∀ a ∈ s.acqs, a.source ≠ .move s.ev.a) → (∀ o ∈ s.ops, s.inTeam s.ev.a o.gid = false) →
    ∃ t tm', exec .preemptTeam s = .next t ∧ tfind s.ev.a t.teams = some tm' ∧ tm'.preempted = true ∧ tm'.saving = false ∧
      tm'.prism = (if (s.prismOf tm.core).team = some s.ev.a then some (s.prismOf tm.core) else none) ∧
      (∀ k g, tfind k s.groups = some g → g.team = s.ev.a → ∃ g', tfind k t.groups = some g' ∧ g'.resident = false ∧
        { g' with resident := g.resident, active := g.active, yielded := g.yielded, offers := g.offers, latch := g.latch } = g) ∧
      (∀ k g, tfind k s.groups = some g → g.team ≠ s.ev.a → tfind k t.groups = some g)) ∧
  (∀ s tm l, tfind s.ev.a s.teams = some tm → tm.id = s.ev.a → tfind tm.launch s.launches = some l → l.record.cosched = false →
    s.canResume tm s.ev.b = true →
    ∃ t tm', exec .resumeTeam s = .next t ∧ tfind s.ev.a t.teams = some tm' ∧ tm'.core = s.ev.b ∧ tm'.preempted = false ∧
      tm'.barriers = tm.barriers ∧ (∃ a ∈ t.acqs, a.core = s.ev.b ∧ a.scope = 2 ∧ a.source = .move s.ev.a) ∧
      (∀ k g, tfind k s.groups = some g → g.gid = k → g.team = s.ev.a → ∃ g', tfind k t.groups = some g' ∧ g'.resident = true ∧
        { g' with resident := g.resident, ctx := g.ctx, since := g.since, readyFrom := g.readyFrom, pending := g.pending } = g ∧
        g'.pending = g.pending.map (fun e => (e.1, { e.2 with since := s.clock })))) ∧
  (∀ s, s.ev.a < 192 → (s.coreState s.ev.a).outOfService = false → (∀ tm ∈ tvalues s.teams, tm.core = s.ev.a → tm.saving = false) →
    s.ev.secs = [] →
    (tget 0 s.spareCores (dieOf s.ev.a) < 4 →
      ∃ t, exec .coreFailure s = .next t ∧ tget 0 t.spareCores (dieOf s.ev.a) = tget 0 s.spareCores (dieOf s.ev.a) + 1 ∧
        ∀ k tm, tfind k s.teams = some tm → tm.id = k → tm.core = s.ev.a → tm.preempted = false →
          tfind k t.teams = some { tm with saving := true, stay := true }) ∧
    (4 ≤ tget 0 s.spareCores (dieOf s.ev.a) →
      ∃ t, exec .coreFailure s = .next t ∧ (t.coreState s.ev.a).outOfService = true ∧
        (∃ r, t.evq.waiting = s.evq.waiting ++ [r] ∧ r.take 1 = [0x04]) ∧
        ∀ k tm, tfind k s.teams = some tm → tm.id = k → tm.core = s.ev.a → tm.preempted = false →
          tfind k t.teams = some { tm with saving := true, stay := false })) ∧
  (∀ s l, tfind s.ev.a s.launches = some l → l.id = s.ev.a → l.record.prio % 4 = 0 → l.missed = false → l.ended = false →
    l.record.deadline < s.timeb →
    ∃ t r, exec .deadlineMiss s = .next t ∧ t = { s with launches := t.launches, care := t.care, evq := t.evq } ∧
      tfind s.ev.a t.launches = some { l with missed := true } ∧ t.evq.waiting = s.evq.waiting ++ [r] ∧ r.take 1 = [0x05])

/-- R268 to R273, R424: Apex takes the packets of its queues in order, and queues come and go. That LAUNCH.IND with a count of 0 and a record
that may not launch halts its queue is the model's reading (log 57), and so are that a queue's set of range registers is read for each packet that uses it (log
51), which descriptors and records are refused beyond the rules' words (logs 52, 53, 55), that WRPTR is read at the doorbell (log 54), how an IF skips
(log 56), and what a doorbell before full service does (log 91). -/
def Obligations.PacketsAreTaken : Prop :=
  (∀ s q p u, AtPacket s 0x00 q p u → ∃ t, exec .nopPacket s = .next t ∧ WentOn s.ev.a q (q.cursor + 32) q.loops t) ∧
  (∀ s q p u w v, AtPacket s 0x03 q p u → Through s.ev.a q (fun r => vaRead r p.addr 8) u v w →
    (q.waiting = false → ∃ t, exec .waitPacket s = .next t ∧
      (if p.val ≤ v then WentOn s.ev.a q (q.cursor + 32) q.loops t else Holds s.ev.a q w t)) ∧
    (q.waiting = true → ∃ t, exec .waitRecheck s = .next t ∧
      (if p.val ≤ v then WentOn s.ev.a q (q.cursor + 32) q.loops t else Holds s.ev.a q w t))) ∧
  (∀ s q p u w, AtPacket s 0x04 q p u → u.earlierDone q = true → Through s.ev.a q (fun r => signalWord r p) u () w →
    ∃ t, exec .signalPacket s = .next t ∧ WentOn s.ev.a q (q.cursor + 32) q.loops t) ∧
  (∀ s q p u w, AtPacket s 0x05 q p u → u.earlierDone q = true →
    Through s.ev.a q (fun r => vaReadAll r p.addr (p.val / 8) >>= fun v => vaWriteAll r p.aux v (p.val / 8)) u () w →
    ∃ t, exec .copyPacket s = .next t ∧ WentOn s.ev.a q (q.cursor + 32) q.loops t) ∧
  (∀ s q p u, AtPacket s 0x06 q p u →
    ∃ t, exec .loopPacket s = .next t ∧ WentOn s.ev.a q (q.cursor + 32) ((q.cursor, p.arg) :: q.loops) t) ∧
  (∀ s q p u start left rest, AtPacket s 0x07 q p u → q.loops = (start, left) :: rest →
    ∃ t, exec .endLoopPacket s = .next t ∧
      (if 1 < left then WentOn s.ev.a q (start + 32) ((start, left - 1) :: rest) t else WentOn s.ev.a q (q.cursor + 32) rest t)) ∧
  (∀ s q p u w v, AtPacket s 0x08 q p u → q.waiting = false → Through s.ev.a q (fun r => vaRead r p.addr 8) u v w →
    (ifHolds p.arg v p.val = true → ∃ t, exec .ifPacket s = .next t ∧ WentOn s.ev.a q (q.cursor + 32) q.loops t) ∧
    (ifHolds p.arg v p.val = false → q.wr < q.cursor + 32 * (p.aux + 1) → ∃ t, exec .ifPacket s = .next t ∧ Holds s.ev.a q w t) ∧
    (∀ x, ifHolds p.arg v p.val = false → q.cursor + 32 * (p.aux + 1) ≤ q.wr →
      (skipDepth q (q.cursor + 32) p.aux 0).run w = (.ok (some 0), x) → tfind s.ev.a x.queues = some q →
      ∃ t, exec .ifPacket s = .next t ∧ WentOn s.ev.a q (q.cursor + 32 * (p.aux + 1)) q.loops t)) ∧
  (∀ s q p u, AtPacket s 0x09 q p u → ∃ t, exec .orderPacket s = .next t ∧
    (if ∀ l ∈ q.launches, tfind l u.launches = none then WentOn s.ev.a q (q.cursor + 32) q.loops t else Holds s.ev.a q u t)) ∧
  (∀ s q p u w y ind r n v ranges, (if ind then AtPacket s 0x02 q p u else AtPacket s 0x01 q p u) →
    (if ind = false ∧ p.flags % 2 = 1 then u.prevStarted q = true else u.earlierDone q = true) →
    Through s.ev.a q (fun r => (if ind then vaRead r p.aux 4 else pure 0) >>= fun n => pure (r, n)) u (r, n) w →
    (vaReadAll r p.addr 32 >>= fun v => launchSets r (launchRecord v []) >>= fun t => pure (v, t)).run w = (.ok (v, ranges), y) →
    tfind s.ev.a y.queues = some q →
    ∀ levels, levels = (if ind = true ∧ n ≠ 0 then replaceTop n ((recordLevels v).map levelOf) else (recordLevels v).map levelOf) →
    (∀ code, y.launchStatus q p.addr v levels (launchRecord v levels) (if ind then some n else none) = some code →
      ∃ t, exec (if ind then .launchIndPacket else .launchPacket) s = .next t ∧ QueueHalts s.ev.a q t) ∧
    (y.launchStatus q p.addr v levels (launchRecord v levels) (if ind then some n else none) = none → ind = true → n = 0 →
      ∃ t, exec .launchIndPacket s = .next t ∧ WentOn s.ev.a q (q.cursor + 32) q.loops t) ∧
    (y.launchStatus q p.addr v levels (launchRecord v levels) (if ind then some n else none) = none → ind = false ∨ n ≠ 0 →
      (launchRecord v levels).task = false →
      ∃ t l q', exec (if ind then .launchIndPacket else .launchPacket) s = .next t ∧ WentOn s.ev.a q (q.cursor + 32) q.loops t ∧
        tfind y.nextId t.launches = some l ∧ l.record = launchRecord v levels ∧ l.ranges = ranges ∧ l.via = r ∧ l.queue = s.ev.a ∧ l.number = q.count ∧
        l.placed = [] ∧ tfind s.ev.a t.queues = some q' ∧ q'.count = q.count + 1) ∧
    (∀ z d, y.launchStatus q p.addr v levels (launchRecord v levels) (if ind then some n else none) = none → ind = false ∨ n ≠ 0 →
      (checkDomain (launchRecord v levels) ranges).run y = (.ok (.ok (some d)), z) → tfind s.ev.a z.queues = some q →
      (z.acceptLaunch s.ev.a q p (launchRecord v levels) ranges r (some d)).unfilled z.nextId 0 = false →
      ∃ t l, exec (if ind then .launchIndPacket else .launchPacket) s = .next t ∧ WentOn s.ev.a q (q.cursor + 32) q.loops t ∧
        tfind z.nextId t.launches = some l ∧ l.record = launchRecord v levels ∧ (tfind z.nextId t.domains).isSome = true)) ∧
  (∀ e ∈ packetEvents, ∀ s q p u code, tfind s.ev.a s.queues = some q → q.reads = true → s.boot.phase = 4 →
    (readPacket q q.cursor).run s = (.ok p, u) → tfind s.ev.a u.queues = some q → p.type = e.2 → p.bad q = some code →
    ∃ t, exec e.1 s = .next t ∧ QueueHalts s.ev.a q t) ∧
  (∀ e ∈ packetEvents, ∀ s q p u, tfind s.ev.a s.queues = some q → q.reads = true → s.boot.phase = 4 →
    (readPacket q q.cursor).run s = (.ok p, u) → tfind s.ev.a u.queues = some q → 9 < p.type →
    ∃ t, exec e.1 s = .next t ∧ QueueHalts s.ev.a q t) ∧
  (∀ s id q u v, s.boot.phase = 4 →
    (s.ev.on = false ∧ s.queueAt s.ev.val.toNat = some (id, q) ∧ (readUnits q.ipa 4).run s = (.ok v, u) ∨
      s.ev.on = true ∧ ∃ ipa rest, s.rung = ipa :: rest ∧ s.queueAt ipa = some (id, q) ∧
        (readUnits q.ipa 4).run { s with rung := rest } = (.ok v, u)) →
    tfind id u.queues = some q →
    ∃ t q', exec .qdoor s = .next t ∧ tfind id t.queues = some q' ∧ q'.wr = bitsOf v (8 * 0x20) 64 ∧
      (q.halted = true → bitsOf v (8 * 0x09 + 2) 1 = 0 → q'.rd = bitsOf v (8 * 0x18) 64 ∧ q'.cursor = q'.rd ∧ q'.loops = []) ∧
      (q.halted = false ∨ bitsOf v (8 * 0x09 + 2) 1 = 1 → q'.rd = q.rd ∧ q'.cursor = q.cursor)) ∧
  (∀ s, s.boot.phase ≠ 4 → s.ev.on = false → ∃ t, exec .qdoor s = .next t ∧ t = { s with rung := t.rung } ∧ s.ev.val.toNat ∈ t.rung) ∧
  (∀ s q n d rest x, tfind s.ev.a s.queues = some q → q.slot = some n → q.pinned = false → s.doors = d :: rest → d ≠ s.ev.a →
    q.sliceFrom + 50000 ≤ s.timeb → (s.unmap s.ev.a).freeSlot.isSome = true → tfind d s.queues = some x →
    ∃ t x', exec .queueTimeslice s = .next t ∧ tfind d t.queues = some x' ∧ x'.slot.isSome = true) ∧
  (∀ s, s.qrstat ≠ 1 → s.queueAt s.qripa.toNat = none → ∃ t, exec .queueUnregister s = .next t ∧ t = { s with qrcmd := 2, qrstat := 5 }) ∧
  (∀ s, s.qrstat = 1 → exec .queueUnregister s = .next s ∧ (s.ev.on = false → exec .queueRegister s = .next s)) ∧
  (∀ s w ipa, Registers s ipa w → w.queueAt ipa = none → w.boot.phase ≠ 4 →
    exec .queueRegister s = .next { w with qrstat := 1, qrBusy := some ipa }) ∧
  (∀ s w ipa u v, Registers s ipa w → w.queueAt ipa = none → w.boot.phase = 4 → (readUnits (ipa / 64 * 64) 4).run w = (.ok v, u) →
    (∀ code, u.queueRefused ipa v = some code →
      ∃ t r, exec .queueRegister s = .next t ∧ t = { u with qrstat := code, qrBusy := none, evq := t.evq } ∧
        t.evq.waiting = u.evq.waiting ++ [r] ∧ r.take 1 = [0x02]) ∧
    (u.queueRefused ipa v = none →
      ∃ t q, exec .queueRegister s = .next t ∧ t.qrstat = 0 ∧ t.qrBusy = none ∧ tfind u.nextId t.queues = some q ∧ q.ipa = ipa ∧
        q.ring = bitsOf v 0 64 ∧ q.wr = bitsOf v (8 * 0x20) 64 ∧ q.rd = bitsOf v (8 * 0x18) 64 ∧ q.done = 0)) ∧
  (∀ s w ipa id q, Registers s ipa w → w.queueAt ipa = some (id, q) →
    ∃ t, exec .queueRegister s = .next t ∧ t = { w with qrstat := 6, qrBusy := none }) ∧
  (∀ s id q, s.qrstat ≠ 1 → s.queueAt s.qripa.toNat = some (id, q) →
    ∃ t, exec .queueUnregister s = .next t ∧ t.qrstat = 0 ∧ tfind id t.queues = none ∧ id ∉ t.doors)

namespace Sys2Proof.Claim

/-- A 32-bit register set up to hold a ring of records (R425), with a record waiting and room for it. -/
def MayPost (r : Ring) : Prop := r.ready = true ∧ r.room = true ∧ r.stalled = false

/-- A byte of memory outside a span is as before. -/
def MemExcept (s t : State) (a n : Nat) : Prop := ∀ k, (k < a ∨ a + n ≤ k) → tget 0 t.hbm k = tget 0 s.hbm k

/-- The state a turn of the agenda starts from: the turn taken off it and a cycle passed (R255, R370). -/
def turnState (s : State) (rest : List Turn) : State := { s with agenda := rest }.cycle

/-- The state in which a quarter picks the group that the agenda names. -/
def pickState (s : State) (rest : List Turn) (gid : Nat) : State :=
  { turnState s rest with cursor := (turnState s rest).quarterKey gid + 1 }

/-- The state a gang fetches in, when the agenda names its group. -/
def fetchState (s : State) (rest : List Turn) (gid : Nat) : State := (pickState s rest gid).offer gid

/-- The agenda names a group that its quarter picks, and a gang of it may issue (R187, R188, R279). -/
structure Offered (s : State) (rest : List Turn) (gid : Nat) (c : Ctx) : Prop where
  named : s.agenda = .issue gid :: rest
  picked : (pickState s rest gid).isPicked gid = true
  gang : issueCtx (fetchState s rest gid) = some c
  full : (fetchState s rest gid).boot.phase = 4

/-- A flit is one of the 64 before the next that a port accepts: the port has accepted it before (R430, R431). -/
def Repeats (f : List Byte) (p : Port) : Prop := ∃ k, 1 ≤ k ∧ k ≤ 64 ∧ (flitSeq f + k) % 4096 = p.expected % 4096

/-- Two spans share a byte. -/
def Shares (a la b lb : Nat) : Prop := ∃ n, a ≤ n ∧ n < a + la ∧ b ≤ n ∧ n < b + lb

/-- The span of INV and INVFLUSH (R38): TCARG1 granules of 64 KiB from TCARG0 on. -/
def InSpan (s : State) (a la : Nat) : Prop := Shares a la s.tc.arg0.toNat (s.tc.arg1.toNat * 65536)

/-- A translation command runs: BUSY is set, ERR is as before (R37, R38). -/
def CommandRuns (s t : State) : Prop := t.tc = { s.tc with
  cmd := t.tc.cmd, busy := true, runOp := t.tc.runOp, runFirst := s.tc.arg0.toNat, runCount := s.tc.arg1.toNat }

end Sys2Proof.Claim

/-- R206, R409, R412, R421 to R423, R425 to R427, R429, R437: registers, rings, answers and host accesses. The address of a ring record is cut to
39 bits (the model's choice, log 31); GKILL counts the traps that are lost where `careIndex` says (log 18, the model's choice) and takes the group out of
its barriers once (log 47, its reading). -/
def Obligations.RegistersAndRingsWork : Prop :=
  (∀ s, s.ev.b = 8 →
    (s.ev.a = 0x08 → exec .registerWrite s = .next { s with ipawin := s.ev.val &&& 0xFFFFFFF000000000 }) ∧
    (s.ev.a = 0x10 → exec .registerWrite s = .next { s with hostbase := s.ev.val &&& 0xFFFFFFFFFFFFF000 }) ∧
    (s.ev.a = 0x800000 ∨ s.ev.a = 0x10000 → exec .registerWrite s = .next { s with tc := { s.tc with root := s.ev.val &&& 0x7FFFFF8000 } }) ∧
    (s.ev.a = 0x800008 ∨ s.ev.a = 0x10008 → exec .registerWrite s = .next { s with tc := { s.tc with node := s.ev.val &&& 0xFF } }) ∧
    (s.ev.a = 0x800010 ∨ s.ev.a = 0x10010 → exec .registerWrite s = .next { s with tc := { s.tc with arg0 := s.ev.val } }) ∧
    (s.ev.a = 0x800018 ∨ s.ev.a = 0x10018 → exec .registerWrite s = .next { s with tc := { s.tc with arg1 := s.ev.val } }) ∧
    (s.ev.a = 0x840000 → exec .registerWrite s = .next { s with qripa := s.ev.val }) ∧
    (s.ev.a = 0x860008 → exec .registerWrite s = .next { s with ans0 := s.ev.val.truncate 32, ans1 := (s.ev.val >>> 32).truncate 32 }) ∧
    (∀ k < 255, s.ev.a = 0x40000 + 8 * k → ∃ t, exec .registerWrite s = .next t ∧ t = { s with rtab := t.rtab } ∧
      ∀ n, tget 0 t.rtab n = if n = k then s.ev.val &&& 0xFFFFFFFFF else tget 0 s.rtab n) ∧
    (∀ k < 30, s.ev.a = 0x830000 + 8 * k → ∃ t, exec .registerWrite s = .next t ∧ t = { s with tvtab := t.tvtab } ∧
      ∀ n, tget 0 t.tvtab n = if n = k then s.ev.val else tget 0 s.tvtab n) ∧
    (∀ k < 4, s.ev.a = 0x60040 + 8 * k → ∃ t, exec .registerWrite s = .next t ∧ t = { s with attest := t.attest } ∧
      treadLE t.attest.nonce (8 * k) 8 = s.ev.val.toNat)) ∧
  (∀ s, s.ev.b = 4 →
    (s.ev.a = 0x840000 → exec .registerWrite s = .next { s with qripa := (s.ev.val.truncate 32 : Word).zeroExtend 64 ||| (s.qripa >>> 32) <<< 32 }) ∧
    (s.ev.a = 0x840004 → exec .registerWrite s = .next { s with qripa := (s.qripa.truncate 32 : Word).zeroExtend 64 ||| s.ev.val <<< 32 }) ∧
    (s.ev.a = 0x86000C → exec .registerWrite s = .next { s with ans1 := s.ev.val.truncate 32 })) ∧
  (∀ s rec_ rest pa n, (s.ring s.ev.on).waiting = rec_ :: rest → MayPost (s.ring s.ev.on) → n = (if s.ev.on then 64 else 32) →
    pa = ((s.ring s.ev.on).base.toNat % 2 ^ 39 + n * ((s.ring s.ev.on).head.toNat % 2 ^ (s.ring s.ev.on).log.toNat)) % 2 ^ 39 →
    (∀ p ∈ s.poison, p < pa ∨ pa + n ≤ p) →
    ∃ t, exec .ringPosting s = .next t ∧ t.ring s.ev.on = { s.ring s.ev.on with head := (s.ring s.ev.on).head + 1, waiting := rest } ∧
      MemExcept s t pa n ∧ t.groups = s.groups ∧
      treadLE t.hbm pa n = leValue (if s.ev.on then rec_ else rec_.take 16 ++ leBytes 8 s.timeb ++ rec_.drop 24) % 2 ^ (8 * n) ∧
      (s.ev.on = false → ∃ e, t.evq.waiting = s.evq.waiting ++ [e] ∧ e.take 1 = [0x07])) ∧
  (∀ s, (s.ev.a = 0 → s.ev.b = 8 → ∃ t, exec .ringRegWrite s = .next t ∧
      t.ring s.ev.on = { s.ring s.ev.on with base := s.ev.val, based := true, stalled := false }) ∧
    (s.ev.a = 8 → s.ev.b = 4 → ∃ t, exec .ringRegWrite s = .next t ∧ t.ring s.ev.on = { s.ring s.ev.on with log := s.ev.val.truncate 32 }) ∧
    (s.ev.a = 12 → s.ev.b = 4 → ∃ t, exec .ringRegWrite s = .next t ∧ t.ring s.ev.on = s.ring s.ev.on) ∧
    (s.ev.a = 16 → s.ev.b = 4 → ∃ t, exec .ringRegWrite s = .next t ∧
      t.ring s.ev.on = { s.ring s.ev.on with tail := s.ev.val.truncate 32, stalled := false })) ∧
  (∀ s u e rest, s.evq.waiting = e :: rest → s.evq.stalled = false →
    (s.evq.ready = true → s.evq.room = true → s.boot.phase = 4 →
      (immBytes (s.evq.base.toNat % 2 ^ 52 + 64 * (s.evq.head.toNat % 2 ^ s.evq.log.toNat)) (e.take 24 ++ leBytes 8 s.timeb ++ e.drop 32) 4).run s
        = (.ok (), u) →
      exec .eventPost s = .next { u with evq := { u.evq with head := u.evq.head + 1, waiting := rest } }) ∧
    (s.evq.ready = false ∨ s.evq.room = false →
      ∃ t, exec .eventPost s = .next t ∧ t = { s with evq := { s.evq with stalled := true }, care := t.care })) ∧
  (∀ s, (s.ev.a = 0 → s.ev.b = 8 → exec .evqRegWrite s = .next { s with evq := { s.evq with base := s.ev.val, based := true, stalled := false } }) ∧
    (s.ev.a = 8 → s.ev.b = 4 → exec .evqRegWrite s = .next { s with evq := { s.evq with log := s.ev.val.truncate 32, stalled := false } }) ∧
    (s.ev.a = 16 → s.ev.b = 4 → exec .evqRegWrite s = .next { s with evq := { s.evq with tail := s.ev.val.truncate 32, stalled := false } })) ∧
  (∀ s seq, seq = s.ev.val.toNat % 2 ^ 32 →
    ∃ t, exec .syscallAnswer s = .next t ∧ t = { s with groups := t.groups, ansSeq := BitVec.ofNat 32 seq } ∧
      ∀ k g, tfind k s.groups = some g → g.inHandler = none → ∃ g', tfind k t.groups = some g' ∧
        { g' with strands := g.strands, s := g.s } = g ∧ g'.strands.length = g.strands.length ∧
        ∀ u st, g.strands[u]? = some st →
          (∀ n, st.exited = false → st.wait = .syscall seq n →
            g'.strands[u]? = some { st with pc := st.pc + 8, wait := .ready } ∧ g'.sget 0 u = s.ans0 ∧ g'.sget 1 u = s.ans1) ∧
          ((st.exited = true ∨ ∀ n, st.wait ≠ .syscall seq n) →
            g'.strands[u]? = some st ∧ ∀ n < 64, g'.sget n u = g.sget n u)) ∧
  (∀ s k g, tfind k s.groups = some g → g.gid = k → g.halted = true → g.retiring = false → g.index = s.ev.val →
    (∀ h ∈ tvalues s.groups, h.halted = true → h.index = s.ev.val → h.task = none) →
    ∃ t g', exec .gkill s = .next t ∧ t = { s with groups := t.groups, teams := t.teams, care := t.care } ∧ tfind k t.groups = some g' ∧
      g'.halted = false ∧ g'.retiring = true ∧ g'.live = [] ∧ g'.pending = [] ∧ g'.late = [] ∧ (∀ n, (g'.flag n).late = none) ∧
      { g' with halted := g.halted, retiring := g.retiring, strands := g.strands, pending := g.pending, late := g.late, flags := g.flags } = g ∧
      ((∀ h ∈ tvalues s.groups, h.halted = true → h.index = s.ev.val → h = g) →
        (∀ n, careAt t n = careAt s n + if n = careIndex careLostFault (dieOf (s.teamCore g.team)) then lostTraps g else 0) ∧
        (∀ j, j ≠ k → tfind j t.groups = tfind j s.groups) ∧ (∀ j, j ≠ g.team → tfind j t.teams = tfind j s.teams) ∧
        ∀ tm, tfind g.team s.teams = some tm → tfind g.team t.teams = some { tm with
          barriers := tm.barriers.map (fun e => if e.2.part.getLsbD g.pos then (e.1, leaves e.2 g.pos) else e) })) ∧
  (∀ s, ∃ t, exec .careClear s = .next t ∧ t = { s with care := t.care } ∧
    ∀ n, tget 0 t.care n = if n = s.ev.a then 0 else tget 0 s.care n) ∧
  (∀ s u v ipa n, s.boot.phase = 4 → s.ev.a < 2 ^ 36 → n = s.ev.b → n = 1 ∨ n = 2 ∨ n = 4 ∨ n = 8 → ipa = (s.ipawin.toNat + s.ev.a) % 2 ^ 52 →
    ipa % n = 0 →
    (s.ev.on = false → (immRead ⟨homeOf ipa false, ipa, none⟩ n).run s = (.ok v, u) →
      exec .hostIpaAccess s = .next { u with busRead := BitVec.ofNat 64 v, busBytes := [] }) ∧
    (s.ev.on = true → (immWrite ⟨homeOf ipa false, ipa, none⟩ n (s.ev.val.toNat % 2 ^ (8 * n))).run s = (.ok (), u) →
      exec .hostIpaAccess s = .next u)) ∧
  (∀ s u v ipa n, s.boot.phase = 4 → s.ev.a < 2 ^ 36 → n = s.ev.b → ipa = (s.ipawin.toNat + s.ev.a) % 2 ^ 52 →
    (n ≠ 1 ∧ n ≠ 2 ∧ n ≠ 4 ∧ n ≠ 8) ∨ ipa % n ≠ 0 →
    (s.ev.on = false → (hostReadBytes ipa n).run s = (.ok v, u) →
      exec .hostIpaAccess s = .next { u with busRead := BitVec.ofNat 64 v, busBytes := if n ≤ 8 then [] else leBytes n v }) ∧
    (s.ev.on = true → (hostWriteBytes ipa ((if n ≤ 8 then s.ev.val.toNat else leValue s.ev.bytes) % 2 ^ (8 * n)) n).run s = (.ok (), u) →
      exec .hostIpaAccess s = .next u))

/-- R37 to R39, R41: translation commands and page-table writes. INV drops the cached translations and table pointers that share a byte with
its span, an empty span none; INVFLUSH clears the confirmations of its span besides, but for a
line that a commit in progress needs (the model's reading, log 92); a command that may not start sets ERR and nothing else. A write
to a page table changes no cached translation. PCOPY's addresses are cut to 39 bits (log 31), and TCCMD reads as it was written last (log 88): the
model's choices. -/
def Obligations.TranslationCommandsWork : Prop :=
  (∀ s, s.tc.busy = false → s.tc.arg0.toNat % 65536 = 0 →
    (∃ t, exec .tcInv s = .next t ∧ CommandRuns s t ∧ t.tc.runOp = 1 ∧ t = { s with tc := t.tc, tlb := t.tlb, walkCache := t.walkCache } ∧
      (∀ e, e ∈ t.tlb ↔ e ∈ s.tlb ∧ ¬InSpan s (tlbSpan e.1).1 (tlbSpan e.1).2) ∧
      ∀ e, e ∈ t.walkCache ↔ e ∈ s.walkCache ∧ ¬InSpan s (walkSpan e.1).1 (walkSpan e.1).2) ∧
    (∃ t, exec .tcInvFlush s = .next t ∧ CommandRuns s t ∧ t.tc.runOp = 2 ∧
      (∀ e ∈ t.conf, s.committingAt (e.1 / 2 ^ 48) (e.1 % 2 ^ 48) = false → ¬InSpan s (e.1 % 2 ^ 48 * 128) 128) ∧
      (∀ e ∈ t.l1conf, ¬InSpan s (e.1 % 2 ^ 48 * 128) 128) ∧ t.groups = s.groups ∧ t.versions = s.versions ∧ t.sectors = s.sectors)) ∧
  (∀ s, s.tc.busy = false →
    ∃ t, exec .tcInvAll s = .next t ∧ CommandRuns s t ∧ t.tc.runOp = 3 ∧ t = { s with tc := t.tc, tlb := [], walkCache := [] }) ∧
  (∀ s n, Safe s → s.tc.busy = false → n = (if s.ev.on then 2 ^ 28 else 65536) → paOf s.tc.arg0 % n = 0 → paOf s.tc.arg1 % n = 0 →
    ∃ t, exec .tcPcopy s = .next t ∧ t = { s with tc := t.tc, hbm := t.hbm } ∧ CommandRuns s t ∧ t.tc.runOp = 4 ∧
      (∀ j < n, tget 0 t.hbm (paOf s.tc.arg1 + j) = tget 0 s.hbm (paOf s.tc.arg0 + j)) ∧ MemExcept s t (paOf s.tc.arg1) n) ∧
  (∀ s n op, op = s.ev.val.toNat % 16 → n = (if s.ev.val.toNat / 16 % 2 = 1 then 2 ^ 28 else 65536) →
    s.tc.busy = true ∨ op = 0 ∨ 4 < op ∨ (op < 3 ∧ s.tc.arg0.toNat % 65536 ≠ 0) ∨
      (op = 4 ∧ (paOf s.tc.arg0 % n ≠ 0 ∨ paOf s.tc.arg1 % n ≠ 0)) →
    ∃ t, exec .tccmdInvalid s = .next t ∧ t = { s with tc := { s.tc with cmd := t.tc.cmd, err := true } }) ∧
  (∀ e ∈ ([.tcInv, .tcInvFlush, .tcInvAll, .tcPcopy] : List Instr), ∀ s, s.tc.busy = true →
    ∃ t, exec e s = .next t ∧ t = { s with tc := { s.tc with cmd := t.tc.cmd, err := true } }) ∧
  (∀ s, s.tc.busy = true →
    (s.tc.runOp = 2 → (s.flushLines s.tc.runFirst (s.tc.runCount * 65536)).spanFlushed s.tc.runFirst (s.tc.runCount * 65536) = true) →
    ∃ t, exec .tcCommandDone s = .next t ∧ t.tc = { s.tc with busy := false } ∧ (s.tc.runOp = 4 → t = { s with tc := t.tc }) ∧
      (s.tc.runOp = 1 ∨ s.tc.runOp = 3 → s.held = [] → (∀ e ∈ s.launches, e.2.ovfFull = false) → t = { s with tc := t.tc })) ∧
  (∀ s u k l loc, s.tc.busy = true → s.tc.runOp = 3 → s.held = [] → s.launches = [(k, l)] → l.ovfFull = true → l.ovfNext = some loc →
    (confirm loc true).run s = (.ok (), u) → u.launches = s.launches → u.tc = s.tc →
    ∃ t, exec .tcCommandDone s = .next t ∧
      t = { u with tc := { s.tc with busy := false }, launches := [(k, { l with ovfFull := false })] }) ∧
  (∀ s, exec .tcstatRead s = .next { s with
    busRead := BitVec.ofNat 64 ((if s.tc.busy then 1 else 0) + (if s.tc.err then 2 else 0)), tc := { s.tc with err := false } }) ∧
  (∀ s, s.ev.a % 8 = 0 → s.ev.a < 2 ^ 39 →
    ∃ t, exec .pageTableWrite s = .next t ∧ t = { s with hbm := t.hbm } ∧ treadLE t.hbm s.ev.a 8 = s.ev.val.toNat ∧ MemExcept s t s.ev.a 8)

/-- R428 to R438, R449: the link, boot, attestation, the time base and failures. The model's own: a flit accepted before leaves its port as it is (log
72), QDOOR is published as the image starts (log 91), an error in group state posts the event of type 0x08 before the one of type 0x03 (log 67), where a
CARE counter lies (log 18), how lanes count against a pool (log 69), how often the boot ROM fetches (log 70), and the grain of a stretched cycle (log 74). -/
def Obligations.LinkBootAndCareWork : Prop :=
  (∀ s p, s.ev.a < 36 → s.port s.ev.a = p → p.up = true →
    ∃ t, exec .flitReceive s = .next t ∧ t = { s with ports := t.ports } ∧ (∀ n, n ≠ s.ev.a → t.port n = s.port n) ∧
      (flitGood s.ev.bytes = true → flitSeq s.ev.bytes = p.expected →
        (t.port s.ev.a).expected = (p.expected + 1) % 4096 ∧ (t.port s.ev.a).nak = false ∧
        (t.port s.ev.a).accepted = p.accepted ++ [(s.ev.bytes.drop 4).take 244] ∧
        (∀ f ∈ (t.port s.ev.a).replay, f ∈ p.replay)) ∧
      (flitGood s.ev.bytes = true → Repeats s.ev.bytes p → t.port s.ev.a = p) ∧
      (flitGood s.ev.bytes = false ∨ (flitSeq s.ev.bytes ≠ p.expected ∧ ¬Repeats s.ev.bytes p) → t.port s.ev.a = { p with nak := true })) ∧
  (∀ s p, s.ev.a < 36 → s.port s.ev.a = p → p.up = true → p.resend = true →
    ∃ t, exec .flitReplay s = .next t ∧ t = { s with ports := t.ports } ∧
      t.port s.ev.a = { p with resend := false, wire := p.wire ++ p.replay }) ∧
  (∀ s p, s.ev.a < 36 → s.ev.b < 4 → s.port s.ev.a = p → s.ev.b ∉ p.failed →
    ∃ t, exec .laneFailure s = .next t ∧ t = { s with ports := t.ports, care := t.care } ∧
      t.port s.ev.a = (if s.poolUsed s.ev.a < 2 then { p with remapped := p.remapped + 1, resend := true }
        else { p with failed := s.ev.b :: p.failed, up := decide (p.failed.length + 1 ≤ 2), resend := true })) ∧
  (∀ s, (∃ n < 36, (s.port n).up = true) →
    (s.timeb < s.ev.val.toNat → exec .timebSync s = .next { s with timeb := s.ev.val.toNat, timebAhead := 0, timebHalf := false }) ∧
    (s.ev.val.toNat ≤ s.timeb → exec .timebSync s = .next { s with timebAhead := s.timeb - s.ev.val.toNat })) ∧
  (∀ s, s.boot.phase = 0 → ∃ t, exec .bootRom s = .next t ∧ t = { s with boot := t.boot } ∧ t.boot.phase = 1 ∧ t.boot.tries = 0 ∧
    t.boot.image = s.ev.bytes) ∧
  (∀ s, s.boot.phase = 1 → ∃ t, exec .imageVerify s = .next t ∧ t = { s with boot := t.boot, apex := t.apex, qdoor := t.qdoor } ∧
    (imageAccepted s.boot.image = true → t.boot.phase = 3 ∧ t.qdoor.isSome = true ∧
      (∃ a, tfind 0 t.apex = some a ∧ a.run = .image ∧ a.pc = BitVec.ofNat 64 (bytesField s.boot.image 0x0C 4)) ∧
      ∀ j < imageBody s.boot.image, tget 0 t.boot.mem j = s.boot.image.getD (128 + j) 0) ∧
    (imageAccepted s.boot.image = false → s.boot.tries < 3 →
      t.boot = { s.boot with tries := s.boot.tries + 1, image := s.ev.bytes } ∧ t.apex = s.apex ∧ t.qdoor = s.qdoor) ∧
    (imageAccepted s.boot.image = false → 3 ≤ s.boot.tries →
      t.boot = { s.boot with phase := 2 } ∧ t.qdoor = s.qdoor ∧ ∃ a, tfind 0 t.apex = some a ∧ a.run = .stopped)) ∧
  (∀ s, s.boot.phase = 3 → ∃ t, exec .fullServiceStart s = .next t ∧
    t = { s with boot := { s.boot with phase := 4, mem := [] }, bankModes := t.bankModes } ∧
    ∀ c b, b < 16 → t.bankMode c b = if c < 8 then 0 else s.bankMode c b) ∧
  (∀ s, s.ev.val = 1 → s.attest.stat ≠ 1 →
    exec .acmd s = .next { s with attest := { s.attest with stat := if s.boot.phase = 4 then 1 else 3 } }) ∧
  (∀ s, s.attest.stat = 1 → ∃ t, exec .attestReportReady s = .next t ∧ t = { s with attest := t.attest } ∧ t.attest.stat = 2 ∧
    t.attest.report.length = 368 ∧ t.attest.nonce = s.attest.nonce) ∧
  (∀ s, s.ev.a < 2 → ∃ t, exec .softError s = .next t ∧ t = { s with care := t.care } ∧
    tget 0 t.care (careIndex 0 s.ev.a) = tget 0 s.care (careIndex 0 s.ev.a) + 1) ∧
  (∀ s, s.ev.a < 2 → ∃ t, exec .hbmSymbolError s = .next t ∧ t = { s with care := t.care } ∧
    tget 0 t.care (careIndex 2 s.ev.a) = tget 0 s.care (careIndex 2 s.ev.a) + 1) ∧
  (∀ s (g : Group), tfind s.ev.a s.groups = some g → g.gid = s.ev.a → g.halted = false → g.retiring = false →
    ∃ t, exec .uncorrectableGroupError s = .next t ∧ t = { s with groups := t.groups, care := t.care, evq := t.evq } ∧
      tfind s.ev.a t.groups = some { g with halted := true } ∧ (∀ k, k ≠ s.ev.a → tfind k t.groups = tfind k s.groups) ∧
      ∃ e f, t.evq.waiting = s.evq.waiting ++ [e, f] ∧ e.take 1 = [0x08] ∧ f.take 1 = [0x03]) ∧
  (∀ s, s.ev.a < 256 → tget 0 s.spareSlices (s.ev.a / 128) < 4 →
    ∃ t, exec .l2SliceFailure s = .next t ∧ tget 0 t.spareSlices (s.ev.a / 128) = tget 0 s.spareSlices (s.ev.a / 128) + 1) ∧
  (∀ s, s.timebAhead = 0 → ∃ t, exec .clockStretch s = .next t ∧
    t = { s with stretched := s.stretched + 1, timeb := s.timeb + (s.thirds + s.ev.a) / 3, thirds := (s.thirds + s.ev.a) % 3, care := t.care }) ∧
  (∀ s ns left, 0 < s.timebAhead → ns = (s.thirds + s.ev.a) / 3 → left = min (ns - ((if s.timebHalf then 1 else 0) + ns) / 2) s.timebAhead →
    ∃ t, exec .clockStretch s = .next t ∧ t.timeb = s.timeb + (ns - left) ∧ t.timebAhead = s.timebAhead - left)

/-- R107 to R118: the words of every well-formed instruction that has words decode to it again, with every operand and every field
at every value its encoding admits. -/
def Obligations.DecodeUndoesEncode : Prop :=
  ∀ i : Instr, i.form ≠ .event → i.wf = true → decodeWords (encode i) = .ok i

/-- Words that the spec writes out in chapters 6, 7, 10, 12, 17, 18, 20 and 22 decode to the instructions they stand for, and the assembler
gives the words that the spec writes beside lines of assembly (R129, R444). -/
def Obligations.SpecWordsDecode : Prop :=
  decode 0x002040102C312820 0 = .ok (.ffma ⟨.v 4, .v 1, .v 2, .c 3, 0, 2, true, 2, 0, 2, false⟩) ∧
  decode 0x1000505E00E3F000 0 = .ok (.faddImm ⟨.v 5, .v 5, .const 0, 0, 0, 7, false, 0x3F000⟩) ∧
  decode 0x0010605FEE000070 0xF00000003E2AAAAB = .ok (.fmul ⟨.v 6, .v 5, .lit 0x3E2AAAAB, .const 0, 0, 0, false, 0, 0, 7, false⟩) ∧
  decode 0x80004080C6060482 0 = .ok (.faddSlot ⟨1, .v 2, .v 3⟩ ⟨.imul, ⟨6, .v 4, .s 2⟩⟩) ∧
  decode 0x42A0C860D0008001 0 = .ok (.atomFadd ⟨.v 12, .s 6, .v 13, 8, 0, 0, false, false, false, false, 1⟩) ∧
  decode 0x5000900100000005 0 = .ok (.bra ⟨.code 9, 1, 5⟩) ∧
  decode 0x00E0304050200070 0 = .ok (.fsetp ⟨.p 3, .v 4, .v 5, .code 2, 0, 0, false, 0, 0, 7, false⟩) ∧
  decode 0x2008484FFE0FFFFF 0 = .ok (.sadd ⟨.s 4, .s 4, .imm, .const 0, 0xFFFFF⟩) ∧
  decode 0x60294989A0002505 0 = .ok (.mmdrainMem ⟨.s 20, .s 24, .s 26, 2, 1, false, true, 0, 5⟩) ∧
  decode 0x7091900E08C00503 0 = .ok (.rayO ⟨.v 25, .v 0, .const 0, .s 12, 0, 5, 0, 3⟩) ∧
  decode 0x711000CE0E020101 0 = .ok (.klobe ⟨.v 0, .v 12, .const 0, .const 0, 2, 1, 0, 1⟩) ∧
  decode 0x6099488820000001 0 = .ok (.task ⟨.s 20, .s 8, .s 2, 0, 0, false, false, 0, 1⟩) ∧
  (let words := asmLine (fun s => if s = "label" then some 0x128 else none) 0x100
   words "?p2 ffma.clamp.x4 v4, v1, |v2|, c3" = some [0x002040102C312820] ∧
   words "fadd v5, v5, #0.5" = some [0x1000505E00E3F000] ∧
   words "fmul v6, v5, =0x3E2A_AAAB" = some [0x0010605FEE000070, 0xF00000003E2AAAAB] ∧
   words "fadd v1, v2, v3 || imul v6, v4, s2" = some [0x80004080C6060482] ∧
   words "?!p1 fmul v6, -v5, #~0.33333334" = some [0x1010605E0833EAAA] ∧
   words "?!p1 fmul.d2 v6, -v5, =0x3EAA_AAAB" = some [0x0010605FEE081C18, 0xF00000003EAAAAAB] ∧
   words "st.w.sync.rel.pkg v3, [v10 + 0x40]" = some [0x40A030AE0004016F] ∧
   words "bra.all !p1, label" = some [0x5000900100000005] ∧
   words "?!p1 fmul.d2 v6, -v5, #~0.33333334" = none)

/-- R107, R114, R187, R279: when the agenda names a group that its quarter picks, a gang of it may issue, and the word at its program counter,
with the word after it where it takes a literal, decodes to an instruction, the step is that instruction's exec, after one cycle has passed and the
fetch is done. A word that is no instruction raises ILLEGAL, a fetch that fails raises its fault, and one that a slice stalls leaves the gang where
it stands. An event of the agenda is its own exec; with nothing on the agenda the step takes the default turn. That a schedule names the turns is the model's choice
(log 3), and so is that a step is one cycle of CLOCK, of which TIMEB counts the thirds of a nanosecond (log 4). -/
def Obligations.StepRunsDecoded : Prop :=
  (∀ s gid rest c w u, Offered s rest gid c → (fetchWord c.g.ranges c.pc.toNat).run (fetchState s rest gid) = (.ok w, u) →
    wordTakesLit w = false →
    (∀ i, decode w 0 = .ok i → step s = exec i (u.noteFetch c i)) ∧
    ∀ e, decode w 0 = .error e → step s = exec .illegalInstruction { u with word := w }) ∧
  (∀ s gid rest c w next u v, Offered s rest gid c → (fetchWord c.g.ranges c.pc.toNat).run (fetchState s rest gid) = (.ok w, u) →
    wordTakesLit w = true → (fetchWord c.g.ranges (c.pc + 8).toNat).run u = (.ok next, v) →
    (∀ i, decode w next = .ok i → step s = exec i (v.noteFetch c i)) ∧
    ∀ e, decode w next = .error e → step s = exec .illegalInstruction { v with word := w }) ∧
  (∀ s gid rest c u cause sub ipa, Offered s rest gid c →
    (fetchWord c.g.ranges c.pc.toNat).run (fetchState s rest gid) = (.error (cause, sub, ipa), u) →
    step s = if cause = 0 then .next ((fetchState s rest gid).keepFull u)
      else exec .fetchFault { u with ev := { EvArgs.zero with a := cause, b := sub, val := BitVec.ofNat 64 c.pc.toNat } }) ∧
  (∀ s gid rest c w u v cause sub ipa, Offered s rest gid c →
    (fetchWord c.g.ranges c.pc.toNat).run (fetchState s rest gid) = (.ok w, u) → wordTakesLit w = true →
    (fetchWord c.g.ranges (c.pc + 8).toNat).run u = (.error (cause, sub, ipa), v) →
    step s = if cause = 0 then .next (u.keepFull v)
      else exec .fetchFault { v with ev := { EvArgs.zero with a := cause, b := sub, val := BitVec.ofNat 64 (c.pc + 8).toNat } }) ∧
  (∀ s gid rest, s.agenda = .issue gid :: rest → (pickState s rest gid).isPicked gid = false → step s = .next (pickState s rest gid)) ∧
  (∀ s i x rest, s.agenda = .ev i x :: rest → isEvent i = true → step s = exec i { turnState s rest with ev := x }) ∧
  (∀ s, s.agenda = [] → step s = step { s with agenda := [s.cycle.defaultTurn] }) ∧
  ∀ s rest, s.domains = [] → s.posted = [] → (∀ e ∈ s.teams, e.2.preempted = false) → (turnState s rest).clock = s.clock + 1 ∧
    (turnState s rest).groups.map (fun e => (e.1, { e.2 with readyFrom := 0 })) = s.groups.map (fun e => (e.1, { e.2 with readyFrom := 0 })) ∧
    (turnState s rest).hbm = s.hbm ∧
    (s.boot.phase = 4 → s.timebAhead = 0 → (turnState s rest).timeb = s.timeb + (s.thirds + 1) / 3)

/-- R54, R276, R433, R449: after reset every bank is in CACHE mode, every issue slot is open and lendable, BOOTSTAT and TIMEB read 0.
The rest of the state after reset is the model's choice (log entry 2): every register 0, nothing resident, no byte of memory listed. -/
def Obligations.ResetLeaves : Prop :=
  (∀ cluster bank, State.reset.bankMode cluster bank = 0) ∧ (∀ core e, State.reset.istabWord core e = 0x8F8F8F8F) ∧
  State.reset.bar0Word 0 = 0 ∧ State.reset.timeb = 0 ∧ State.reset.groups = [] ∧ (∀ a, tget 0 State.reset.hbm a = 0) ∧ Safe State.reset

/-- Every step from a safe state ends in a safe state: memories keep their canonical form and no group grows too wide. No instruction is
refused, and the one fault is a worker that finds queue memory overwritten by another party (R371). -/
def Obligations.StepKeepsSafe : Prop :=
  ∀ s, Safe s → (∃ t, step s = .next t ∧ Safe t) ∨ step s = .fault .taskQueueWritten

/-- Every group, team and launch stands under its own number after reset, and a step keeps it so: the registers and events that
name one by its number reach that one and no other. -/
def Obligations.StepKeepsKeys : Prop :=
  Keyed State.reset ∧ ∀ s t, Keyed s → step s = .next t → Keyed t
end

