-- ==== Sys2Proof/Laws/Link.lean ====
section
/-! SUPPORT. What a flit holds: its bytes end in the CRC of the bytes before (R428). -/

namespace Sys2Proof.Machine

open Sys2Proof

/-- Little-endian bytes read back as their value. -/
theorem leValue_leBytes (n v : Nat) : leValue (leBytes n v) = v % 256 ^ n := by
  induction n generalizing v with
  | zero => simp [leBytes, leValue, Nat.mod_one]
  | succ n ih =>
    have h : 256 ^ (n + 1) = 256 * 256 ^ n := by rw [Nat.pow_succ, Nat.mul_comm]
    rw [leBytes, leValue, ih, BitVec.toNat_ofNat, h, Nat.mod_mul]

@[simp] theorem length_leBytes (n v : Nat) : (leBytes n v).length = n := by
  induction n generalizing v with
  | zero => rfl
  | succ n ih => simp [leBytes, ih]

/-- 248 bytes followed by a value are a good flit where the value is their CRC, and no other. -/
theorem flitGood_sealed (body : List Byte) (v : BitVec 64) (h : body.length = 248) :
    flitGood (body ++ leBytes 8 v.toNat) = (v.toNat == (crc64 body).toNat) := by
  have h1 : (body ++ leBytes 8 v.toNat).length = 256 := by simp [h]
  have h2 : (body ++ leBytes 8 v.toNat).drop 248 = leBytes 8 v.toNat := by rw [← h]; simp
  have h3 : (body ++ leBytes 8 v.toNat).take 248 = body := by rw [← h]; simp
  rw [flitGood, h1, h2, h3, leValue_leBytes, Nat.mod_eq_of_lt (a := v.toNat) (b := 256 ^ 8) (by have := v.isLt; omega)]
  simp

/-- A flit that a port makes is good. -/
theorem flitGood_makeFlit (seq ack : Nat) (nak : Bool) (payload : List Byte) (h : payload.length ≤ 244) :
    flitGood (makeFlit seq ack nak payload) = true := by
  rw [makeFlit, flitGood_sealed _ _ (by simp [payloadBytes]; omega)]
  simp

end Sys2Proof.Machine
end

