-- ==== Sys2Proof/Laws/Sparse.lean ====
section
/-! SUPPORT. What the operations on tables do: a read after a write, and the canonical form kept by each of them. -/

namespace Sys2Proof.Machine

variable {α : Type}

/-! ### Reads after writes -/

@[simp] theorem tfind_nil (k : Nat) : tfind k ([] : Table α) = none := rfl

@[simp] theorem tget_nil (d : α) (k : Nat) : tget d ([] : Table α) k = d := rfl

@[simp] theorem tfind_tinsert_self (k : Nat) (v : α) (t : Table α) : tfind k (tinsert k v t) = some v := by
  induction t with
  | nil => simp [tinsert, tfind]
  | cons e t ih =>
    simp only [tinsert]
    split
    · simp [tfind]
    · split
      · simp [tfind]
      · simp [tfind, *]

theorem tfind_tinsert_ne {k j : Nat} (h : j ≠ k) (v : α) (t : Table α) : tfind j (tinsert k v t) = tfind j t := by
  induction t with
  | nil => simp [tinsert, tfind, h]
  | cons e t ih =>
    simp only [tinsert]
    split
    · simp [tfind, h]
    · split
      · next hk => subst hk; simp [tfind, h]
      · simp only [tfind, ih]

@[simp] theorem tfind_terase_self (k : Nat) (t : Table α) : tfind k (terase k t) = none := by
  induction t with
  | nil => rfl
  | cons e t ih =>
    simp only [terase]
    split
    · exact ih
    · next h => simp [tfind, h, ih]

theorem tfind_terase_ne {k j : Nat} (h : j ≠ k) (t : Table α) : tfind j (terase k t) = tfind j t := by
  induction t with
  | nil => rfl
  | cons e t ih =>
    simp only [terase]
    split
    · next hk => subst hk; simp [tfind, h, ih]
    · simp only [tfind, ih]

@[simp] theorem tget_tset_self [DecidableEq α] (d : α) (t : Table α) (k : Nat) (v : α) : tget d (tset d t k v) k = v := by
  unfold tset tget
  split
  · next h => simp [h]
  · simp

theorem tget_tset_ne [DecidableEq α] (d : α) (t : Table α) {k j : Nat} (h : j ≠ k) (v : α) :
    tget d (tset d t k v) j = tget d t j := by
  unfold tset tget
  split
  · rw [tfind_terase_ne h]
  · rw [tfind_tinsert_ne h]

/-- A read after a write: the value written at its key, what was there at every other. -/
theorem tget_tset [DecidableEq α] (d : α) (t : Table α) (k j : Nat) (v : α) :
    tget d (tset d t k v) j = if j = k then v else tget d t j := by
  split
  · next h => subst h; exact tget_tset_self d t j v
  · next h => exact tget_tset_ne d t h v

theorem tfind_tmodify (k j : Nat) (f : α → α) (t : Table α) :
    tfind j (tmodify k f t) = if j = k then (tfind k t).map f else tfind j t := by
  induction t with
  | nil => simp [tmodify]
  | cons e t ih =>
    simp only [tmodify]
    split
    · next h => subst h; simp only [tfind]; split <;> simp_all
    · next h =>
      simp only [tfind, ih]
      by_cases hj : j = e.1
      · simp [hj, h]
        intro hk; exact absurd hk.symm h
      · by_cases hk : j = k
        · subst hk; simp [hj]
        · simp [hj, hk]

@[simp] theorem tfind_tmodify_self (k : Nat) (f : α → α) (t : Table α) : tfind k (tmodify k f t) = (tfind k t).map f := by
  simp [tfind_tmodify]

theorem tfind_tmodify_ne {k j : Nat} (h : j ≠ k) (f : α → α) (t : Table α) : tfind j (tmodify k f t) = tfind j t := by
  simp [tfind_tmodify, h]

/-! ### Keys in rising order -/

theorem tsortedFrom_mono {a b : Nat} (h : a ≤ b) {t : Table α} (ht : tsortedFrom b t = true) : tsortedFrom a t = true := by
  cases t with
  | nil => rfl
  | cons e t => simp [tsortedFrom] at *; exact ⟨by omega, ht.2⟩

theorem tsortedFrom_tinsert {b k : Nat} (hk : b ≤ k) (v : α) {t : Table α} (ht : tsortedFrom b t = true) :
    tsortedFrom b (tinsert k v t) = true := by
  induction t generalizing b with
  | nil => simp [tinsert, tsortedFrom, hk]
  | cons e t ih =>
    simp only [tsortedFrom, Bool.and_eq_true, decide_eq_true_eq] at ht
    simp only [tinsert]
    split
    · simp [tsortedFrom, hk, ht.2]; omega
    · split
      · next h => subst h; simp [tsortedFrom, ht]
      · simp only [tsortedFrom, Bool.and_eq_true, decide_eq_true_eq]
        exact ⟨ht.1, ih (by omega) ht.2⟩

theorem tsortedFrom_terase {b : Nat} (k : Nat) {t : Table α} (ht : tsortedFrom b t = true) : tsortedFrom b (terase k t) = true := by
  induction t generalizing b with
  | nil => rfl
  | cons e t ih =>
    simp only [tsortedFrom, Bool.and_eq_true, decide_eq_true_eq] at ht
    simp only [terase]
    split
    · exact tsortedFrom_mono (by omega) (ih ht.2)
    · simp only [tsortedFrom, Bool.and_eq_true, decide_eq_true_eq]; exact ⟨ht.1, ih ht.2⟩

theorem tsortedFrom_filter {b : Nat} (p : Nat × α → Bool) {t : Table α} (ht : tsortedFrom b t = true) :
    tsortedFrom b (t.filter p) = true := by
  induction t generalizing b with
  | nil => rfl
  | cons e t ih =>
    simp only [tsortedFrom, Bool.and_eq_true, decide_eq_true_eq] at ht
    simp only [List.filter_cons]
    split
    · simp only [tsortedFrom, Bool.and_eq_true, decide_eq_true_eq]; exact ⟨ht.1, ih ht.2⟩
    · exact tsortedFrom_mono (by omega) (ih ht.2)

theorem mem_tinsert {k : Nat} {v : α} {t : Table α} {e : Nat × α} (h : e ∈ tinsert k v t) : e = (k, v) ∨ e ∈ t := by
  induction t with
  | nil => simpa [tinsert] using h
  | cons f t ih =>
    simp only [tinsert] at h
    split at h
    · simpa using h
    · split at h
      · simp only [List.mem_cons] at h ⊢; tauto
      · simp only [List.mem_cons] at h ⊢
        rcases h with h | h
        · exact .inr (.inl h)
        · rcases ih h with h | h <;> tauto

theorem mem_terase {k : Nat} {t : Table α} {e : Nat × α} (h : e ∈ terase k t) : e ∈ t := by
  induction t with
  | nil => simp [terase] at h
  | cons f t ih =>
    simp only [terase] at h
    split at h
    · exact .tail _ (ih h)
    · simp only [List.mem_cons] at h ⊢
      exact h.imp id ih

/-! ### The canonical form -/

/-- The canonical form as a statement: keys rise, and no entry holds the default. -/
theorem tcanon_iff [DecidableEq α] {d : α} {t : Table α} :
    tcanon d t = true ↔ tsorted t = true ∧ ∀ e ∈ t, e.2 ≠ d := by simp [tcanon]

@[simp] theorem tcanon_nil [DecidableEq α] (d : α) : tcanon d ([] : Table α) = true := by simp [tcanon, tsorted, tsortedFrom]

theorem tcanon_tset [DecidableEq α] {d : α} {t : Table α} (h : tcanon d t = true) (k : Nat) (v : α) :
    tcanon d (tset d t k v) = true := by
  rw [tcanon_iff] at *
  unfold tset
  split
  · exact ⟨tsortedFrom_terase k h.1, fun e he => h.2 e (mem_terase he)⟩
  · next hv =>
    refine ⟨tsortedFrom_tinsert (Nat.zero_le _) v h.1, fun e he => ?_⟩
    rcases mem_tinsert he with rfl | he
    · exact hv
    · exact h.2 e he

theorem tcanon_filter [DecidableEq α] {d : α} {t : Table α} (h : tcanon d t = true) (p : Nat × α → Bool) :
    tcanon d (t.filter p) = true := by
  rw [tcanon_iff] at *
  exact ⟨tsortedFrom_filter p h.1, fun e he => h.2 e (List.mem_filter.mp he).1⟩

theorem tcanon_twriteLE {t : Table Byte} (h : tcanon 0 t = true) (a v n : Nat) : tcanon 0 (twriteLE t a v n) = true := by
  induction n generalizing t a v with
  | zero => exact h
  | succ n ih => exact ih (tcanon_tset h _ _) _ _

/-! ### Bytes -/

/-- A byte outside a write reads as before. -/
theorem tget_twriteLE_outside (t : Table Byte) (a v n b : Nat) (h : b < a ∨ a + n ≤ b) :
    tget 0 (twriteLE t a v n) b = tget 0 t b := by
  induction n generalizing t a v with
  | zero => rfl
  | succ n ih =>
    simp only [twriteLE]
    rw [ih _ _ _ (by omega), tget_tset_ne _ _ (by omega)]

/-- A byte inside a write reads as the value's byte there. -/
theorem tget_twriteLE_inside (t : Table Byte) (a v n i : Nat) (h : i < n) :
    tget 0 (twriteLE t a v n) (a + i) = BitVec.ofNat 8 (v / 256 ^ i) := by
  induction n generalizing t a v i with
  | zero => omega
  | succ n ih =>
    simp only [twriteLE]
    cases i with
    | zero => rw [Nat.add_zero, tget_twriteLE_outside _ _ _ _ _ (by omega)]; simp
    | succ i =>
      rw [show a + (i + 1) = a + 1 + i by omega, ih _ _ _ _ (by omega), Nat.div_div_eq_div_mul, pow_succ, Nat.mul_comm]

/-- What is written reads back. -/
theorem treadLE_twriteLE (t : Table Byte) (a v n : Nat) : treadLE (twriteLE t a v n) a n = v % 256 ^ n := by
  induction n generalizing t a v with
  | zero => simp [treadLE, Nat.mod_one]
  | succ n ih =>
    simp only [treadLE, twriteLE]
    rw [ih, tget_twriteLE_outside _ _ _ _ _ (by omega), tget_tset_self, BitVec.toNat_ofNat]
    have h := Nat.mod_mul (x := v) (a := 256) (b := 256 ^ n)
    rw [← pow_succ'] at h
    exact h.symm

end Sys2Proof.Machine
end

