-- ==== Sys2Proof/Laws/State.lean ====
section
/-! SUPPORT. What each update of the state does to each of its parts: one lemma for each, so that no proof unfolds an update. -/

namespace Sys2Proof.Machine

open Sys2Proof

section modGroup
variable (s : State) (gid : Nat) (f : Group → Group)
@[simp] theorem State.modGroup_posted : (s.modGroup gid f).posted = s.posted := rfl
@[simp] theorem State.modGroup_groups : (s.modGroup gid f).groups = tmodify gid f s.groups := rfl
@[simp] theorem State.modGroup_teams : (s.modGroup gid f).teams = s.teams := rfl
@[simp] theorem State.modGroup_launches : (s.modGroup gid f).launches = s.launches := rfl
@[simp] theorem State.modGroup_domains : (s.modGroup gid f).domains = s.domains := rfl
@[simp] theorem State.modGroup_hbm : (s.modGroup gid f).hbm = s.hbm := rfl
@[simp] theorem State.modGroup_l2 : (s.modGroup gid f).l2 = s.l2 := rfl
@[simp] theorem State.modGroup_versions : (s.modGroup gid f).versions = s.versions := rfl
@[simp] theorem State.modGroup_marks : (s.modGroup gid f).marks = s.marks := rfl
@[simp] theorem State.modGroup_sectors : (s.modGroup gid f).sectors = s.sectors := rfl
@[simp] theorem State.modGroup_banks : (s.modGroup gid f).banks = s.banks := rfl
@[simp] theorem State.modGroup_full : (s.modGroup gid f).full = s.full := rfl
@[simp] theorem State.modGroup_remote : (s.modGroup gid f).remote = s.remote := rfl
@[simp] theorem State.modGroup_hostMem : (s.modGroup gid f).hostMem = s.hostMem := rfl
@[simp] theorem State.modGroup_cores : (s.modGroup gid f).cores = s.cores := rfl
@[simp] theorem State.modGroup_ops : (s.modGroup gid f).ops = s.ops := rfl
@[simp] theorem State.modGroup_rels : (s.modGroup gid f).rels = s.rels := rfl
@[simp] theorem State.modGroup_acqs : (s.modGroup gid f).acqs = s.acqs := rfl
@[simp] theorem State.modGroup_queues : (s.modGroup gid f).queues = s.queues := rfl
@[simp] theorem State.modGroup_evq : (s.modGroup gid f).evq = s.evq := rfl
@[simp] theorem State.modGroup_care : (s.modGroup gid f).care = s.care := rfl
@[simp] theorem State.modGroup_boot : (s.modGroup gid f).boot = s.boot := rfl
@[simp] theorem State.modGroup_rung : (s.modGroup gid f).rung = s.rung := rfl
@[simp] theorem State.modGroup_ev : (s.modGroup gid f).ev = s.ev := rfl
@[simp] theorem State.modGroup_nextId : (s.modGroup gid f).nextId = s.nextId := rfl
@[simp] theorem State.modGroup_ports : (s.modGroup gid f).ports = s.ports := rfl
end modGroup

section modTeam
variable (s : State) (id : Nat) (f : Team → Team)
@[simp] theorem State.modTeam_posted : (s.modTeam id f).posted = s.posted := rfl
@[simp] theorem State.modTeam_groups : (s.modTeam id f).groups = s.groups := rfl
@[simp] theorem State.modTeam_teams : (s.modTeam id f).teams = tmodify id f s.teams := rfl
@[simp] theorem State.modTeam_launches : (s.modTeam id f).launches = s.launches := rfl
@[simp] theorem State.modTeam_domains : (s.modTeam id f).domains = s.domains := rfl
@[simp] theorem State.modTeam_hbm : (s.modTeam id f).hbm = s.hbm := rfl
@[simp] theorem State.modTeam_l2 : (s.modTeam id f).l2 = s.l2 := rfl
@[simp] theorem State.modTeam_versions : (s.modTeam id f).versions = s.versions := rfl
@[simp] theorem State.modTeam_marks : (s.modTeam id f).marks = s.marks := rfl
@[simp] theorem State.modTeam_sectors : (s.modTeam id f).sectors = s.sectors := rfl
@[simp] theorem State.modTeam_banks : (s.modTeam id f).banks = s.banks := rfl
@[simp] theorem State.modTeam_full : (s.modTeam id f).full = s.full := rfl
@[simp] theorem State.modTeam_remote : (s.modTeam id f).remote = s.remote := rfl
@[simp] theorem State.modTeam_hostMem : (s.modTeam id f).hostMem = s.hostMem := rfl
@[simp] theorem State.modTeam_cores : (s.modTeam id f).cores = s.cores := rfl
@[simp] theorem State.modTeam_ops : (s.modTeam id f).ops = s.ops := rfl
@[simp] theorem State.modTeam_rels : (s.modTeam id f).rels = s.rels := rfl
@[simp] theorem State.modTeam_acqs : (s.modTeam id f).acqs = s.acqs := rfl
@[simp] theorem State.modTeam_queues : (s.modTeam id f).queues = s.queues := rfl
@[simp] theorem State.modTeam_evq : (s.modTeam id f).evq = s.evq := rfl
@[simp] theorem State.modTeam_care : (s.modTeam id f).care = s.care := rfl
@[simp] theorem State.modTeam_boot : (s.modTeam id f).boot = s.boot := rfl
@[simp] theorem State.modTeam_rung : (s.modTeam id f).rung = s.rung := rfl
@[simp] theorem State.modTeam_ev : (s.modTeam id f).ev = s.ev := rfl
@[simp] theorem State.modTeam_nextId : (s.modTeam id f).nextId = s.nextId := rfl
@[simp] theorem State.modTeam_ports : (s.modTeam id f).ports = s.ports := rfl
end modTeam

section modLaunch
variable (s : State) (id : Nat) (f : Launch → Launch)
@[simp] theorem State.modLaunch_posted : (s.modLaunch id f).posted = s.posted := rfl
@[simp] theorem State.modLaunch_groups : (s.modLaunch id f).groups = s.groups := rfl
@[simp] theorem State.modLaunch_teams : (s.modLaunch id f).teams = s.teams := rfl
@[simp] theorem State.modLaunch_launches : (s.modLaunch id f).launches = tmodify id f s.launches := rfl
@[simp] theorem State.modLaunch_domains : (s.modLaunch id f).domains = s.domains := rfl
@[simp] theorem State.modLaunch_hbm : (s.modLaunch id f).hbm = s.hbm := rfl
@[simp] theorem State.modLaunch_l2 : (s.modLaunch id f).l2 = s.l2 := rfl
@[simp] theorem State.modLaunch_versions : (s.modLaunch id f).versions = s.versions := rfl
@[simp] theorem State.modLaunch_marks : (s.modLaunch id f).marks = s.marks := rfl
@[simp] theorem State.modLaunch_sectors : (s.modLaunch id f).sectors = s.sectors := rfl
@[simp] theorem State.modLaunch_banks : (s.modLaunch id f).banks = s.banks := rfl
@[simp] theorem State.modLaunch_full : (s.modLaunch id f).full = s.full := rfl
@[simp] theorem State.modLaunch_remote : (s.modLaunch id f).remote = s.remote := rfl
@[simp] theorem State.modLaunch_hostMem : (s.modLaunch id f).hostMem = s.hostMem := rfl
@[simp] theorem State.modLaunch_cores : (s.modLaunch id f).cores = s.cores := rfl
@[simp] theorem State.modLaunch_ops : (s.modLaunch id f).ops = s.ops := rfl
@[simp] theorem State.modLaunch_rels : (s.modLaunch id f).rels = s.rels := rfl
@[simp] theorem State.modLaunch_acqs : (s.modLaunch id f).acqs = s.acqs := rfl
@[simp] theorem State.modLaunch_queues : (s.modLaunch id f).queues = s.queues := rfl
@[simp] theorem State.modLaunch_evq : (s.modLaunch id f).evq = s.evq := rfl
@[simp] theorem State.modLaunch_care : (s.modLaunch id f).care = s.care := rfl
@[simp] theorem State.modLaunch_boot : (s.modLaunch id f).boot = s.boot := rfl
@[simp] theorem State.modLaunch_rung : (s.modLaunch id f).rung = s.rung := rfl
@[simp] theorem State.modLaunch_ev : (s.modLaunch id f).ev = s.ev := rfl
@[simp] theorem State.modLaunch_nextId : (s.modLaunch id f).nextId = s.nextId := rfl
@[simp] theorem State.modLaunch_ports : (s.modLaunch id f).ports = s.ports := rfl
end modLaunch

section modDomain
variable (s : State) (id : Nat) (f : Domain → Domain)
@[simp] theorem State.modDomain_posted : (s.modDomain id f).posted = s.posted := rfl
@[simp] theorem State.modDomain_groups : (s.modDomain id f).groups = s.groups := rfl
@[simp] theorem State.modDomain_teams : (s.modDomain id f).teams = s.teams := rfl
@[simp] theorem State.modDomain_launches : (s.modDomain id f).launches = s.launches := rfl
@[simp] theorem State.modDomain_domains : (s.modDomain id f).domains = tmodify id f s.domains := rfl
@[simp] theorem State.modDomain_hbm : (s.modDomain id f).hbm = s.hbm := rfl
@[simp] theorem State.modDomain_l2 : (s.modDomain id f).l2 = s.l2 := rfl
@[simp] theorem State.modDomain_versions : (s.modDomain id f).versions = s.versions := rfl
@[simp] theorem State.modDomain_marks : (s.modDomain id f).marks = s.marks := rfl
@[simp] theorem State.modDomain_sectors : (s.modDomain id f).sectors = s.sectors := rfl
@[simp] theorem State.modDomain_banks : (s.modDomain id f).banks = s.banks := rfl
@[simp] theorem State.modDomain_full : (s.modDomain id f).full = s.full := rfl
@[simp] theorem State.modDomain_remote : (s.modDomain id f).remote = s.remote := rfl
@[simp] theorem State.modDomain_hostMem : (s.modDomain id f).hostMem = s.hostMem := rfl
@[simp] theorem State.modDomain_cores : (s.modDomain id f).cores = s.cores := rfl
@[simp] theorem State.modDomain_ops : (s.modDomain id f).ops = s.ops := rfl
@[simp] theorem State.modDomain_rels : (s.modDomain id f).rels = s.rels := rfl
@[simp] theorem State.modDomain_acqs : (s.modDomain id f).acqs = s.acqs := rfl
@[simp] theorem State.modDomain_queues : (s.modDomain id f).queues = s.queues := rfl
@[simp] theorem State.modDomain_evq : (s.modDomain id f).evq = s.evq := rfl
@[simp] theorem State.modDomain_care : (s.modDomain id f).care = s.care := rfl
@[simp] theorem State.modDomain_boot : (s.modDomain id f).boot = s.boot := rfl
@[simp] theorem State.modDomain_rung : (s.modDomain id f).rung = s.rung := rfl
@[simp] theorem State.modDomain_ev : (s.modDomain id f).ev = s.ev := rfl
@[simp] theorem State.modDomain_nextId : (s.modDomain id f).nextId = s.nextId := rfl
@[simp] theorem State.modDomain_ports : (s.modDomain id f).ports = s.ports := rfl
end modDomain

section modTask
variable (s : State) (launch slot : Nat) (f : TaskRec → TaskRec)
@[simp] theorem State.modTask_posted : (s.modTask launch slot f).posted = s.posted := rfl
@[simp] theorem State.modTask_groups : (s.modTask launch slot f).groups = s.groups := rfl
@[simp] theorem State.modTask_teams : (s.modTask launch slot f).teams = s.teams := rfl
@[simp] theorem State.modTask_launches : (s.modTask launch slot f).launches = s.launches := rfl
@[simp] theorem State.modTask_domains : (s.modTask launch slot f).domains = tmodify launch (fun d => { d with recs := tmodify slot f d.recs }) s.domains := rfl
@[simp] theorem State.modTask_hbm : (s.modTask launch slot f).hbm = s.hbm := rfl
@[simp] theorem State.modTask_l2 : (s.modTask launch slot f).l2 = s.l2 := rfl
@[simp] theorem State.modTask_versions : (s.modTask launch slot f).versions = s.versions := rfl
@[simp] theorem State.modTask_marks : (s.modTask launch slot f).marks = s.marks := rfl
@[simp] theorem State.modTask_sectors : (s.modTask launch slot f).sectors = s.sectors := rfl
@[simp] theorem State.modTask_banks : (s.modTask launch slot f).banks = s.banks := rfl
@[simp] theorem State.modTask_full : (s.modTask launch slot f).full = s.full := rfl
@[simp] theorem State.modTask_remote : (s.modTask launch slot f).remote = s.remote := rfl
@[simp] theorem State.modTask_hostMem : (s.modTask launch slot f).hostMem = s.hostMem := rfl
@[simp] theorem State.modTask_cores : (s.modTask launch slot f).cores = s.cores := rfl
@[simp] theorem State.modTask_ops : (s.modTask launch slot f).ops = s.ops := rfl
@[simp] theorem State.modTask_rels : (s.modTask launch slot f).rels = s.rels := rfl
@[simp] theorem State.modTask_acqs : (s.modTask launch slot f).acqs = s.acqs := rfl
@[simp] theorem State.modTask_queues : (s.modTask launch slot f).queues = s.queues := rfl
@[simp] theorem State.modTask_evq : (s.modTask launch slot f).evq = s.evq := rfl
@[simp] theorem State.modTask_care : (s.modTask launch slot f).care = s.care := rfl
@[simp] theorem State.modTask_boot : (s.modTask launch slot f).boot = s.boot := rfl
@[simp] theorem State.modTask_rung : (s.modTask launch slot f).rung = s.rung := rfl
@[simp] theorem State.modTask_ev : (s.modTask launch slot f).ev = s.ev := rfl
@[simp] theorem State.modTask_nextId : (s.modTask launch slot f).nextId = s.nextId := rfl
@[simp] theorem State.modTask_ports : (s.modTask launch slot f).ports = s.ports := rfl
end modTask

section modCore
variable (s : State) (core : Nat) (f : CoreState → CoreState)
@[simp] theorem State.modCore_posted : (s.modCore core f).posted = s.posted := rfl
@[simp] theorem State.modCore_groups : (s.modCore core f).groups = s.groups := rfl
@[simp] theorem State.modCore_teams : (s.modCore core f).teams = s.teams := rfl
@[simp] theorem State.modCore_launches : (s.modCore core f).launches = s.launches := rfl
@[simp] theorem State.modCore_domains : (s.modCore core f).domains = s.domains := rfl
@[simp] theorem State.modCore_hbm : (s.modCore core f).hbm = s.hbm := rfl
@[simp] theorem State.modCore_l2 : (s.modCore core f).l2 = s.l2 := rfl
@[simp] theorem State.modCore_versions : (s.modCore core f).versions = s.versions := rfl
@[simp] theorem State.modCore_marks : (s.modCore core f).marks = s.marks := rfl
@[simp] theorem State.modCore_sectors : (s.modCore core f).sectors = s.sectors := rfl
@[simp] theorem State.modCore_banks : (s.modCore core f).banks = s.banks := rfl
@[simp] theorem State.modCore_full : (s.modCore core f).full = s.full := rfl
@[simp] theorem State.modCore_remote : (s.modCore core f).remote = s.remote := rfl
@[simp] theorem State.modCore_hostMem : (s.modCore core f).hostMem = s.hostMem := rfl
@[simp] theorem State.modCore_cores : (s.modCore core f).cores = tset CoreState.reset s.cores core (f (s.coreState core)) := rfl
@[simp] theorem State.modCore_ops : (s.modCore core f).ops = s.ops := rfl
@[simp] theorem State.modCore_rels : (s.modCore core f).rels = s.rels := rfl
@[simp] theorem State.modCore_acqs : (s.modCore core f).acqs = s.acqs := rfl
@[simp] theorem State.modCore_queues : (s.modCore core f).queues = s.queues := rfl
@[simp] theorem State.modCore_evq : (s.modCore core f).evq = s.evq := rfl
@[simp] theorem State.modCore_care : (s.modCore core f).care = s.care := rfl
@[simp] theorem State.modCore_boot : (s.modCore core f).boot = s.boot := rfl
@[simp] theorem State.modCore_rung : (s.modCore core f).rung = s.rung := rfl
@[simp] theorem State.modCore_ev : (s.modCore core f).ev = s.ev := rfl
@[simp] theorem State.modCore_nextId : (s.modCore core f).nextId = s.nextId := rfl
@[simp] theorem State.modCore_ports : (s.modCore core f).ports = s.ports := rfl
end modCore

section modOp
variable (s : State) (id : Nat) (f : Op → Op)
@[simp] theorem State.modOp_posted : (s.modOp id f).posted = s.posted := rfl
@[simp] theorem State.modOp_groups : (s.modOp id f).groups = s.groups := rfl
@[simp] theorem State.modOp_teams : (s.modOp id f).teams = s.teams := rfl
@[simp] theorem State.modOp_launches : (s.modOp id f).launches = s.launches := rfl
@[simp] theorem State.modOp_domains : (s.modOp id f).domains = s.domains := rfl
@[simp] theorem State.modOp_hbm : (s.modOp id f).hbm = s.hbm := rfl
@[simp] theorem State.modOp_l2 : (s.modOp id f).l2 = s.l2 := rfl
@[simp] theorem State.modOp_versions : (s.modOp id f).versions = s.versions := rfl
@[simp] theorem State.modOp_marks : (s.modOp id f).marks = s.marks := rfl
@[simp] theorem State.modOp_sectors : (s.modOp id f).sectors = s.sectors := rfl
@[simp] theorem State.modOp_banks : (s.modOp id f).banks = s.banks := rfl
@[simp] theorem State.modOp_full : (s.modOp id f).full = s.full := rfl
@[simp] theorem State.modOp_remote : (s.modOp id f).remote = s.remote := rfl
@[simp] theorem State.modOp_hostMem : (s.modOp id f).hostMem = s.hostMem := rfl
@[simp] theorem State.modOp_cores : (s.modOp id f).cores = s.cores := rfl
@[simp] theorem State.modOp_ops : (s.modOp id f).ops = s.ops.map (fun o => if o.id = id then f o else o) := rfl
@[simp] theorem State.modOp_rels : (s.modOp id f).rels = s.rels := rfl
@[simp] theorem State.modOp_acqs : (s.modOp id f).acqs = s.acqs := rfl
@[simp] theorem State.modOp_queues : (s.modOp id f).queues = s.queues := rfl
@[simp] theorem State.modOp_evq : (s.modOp id f).evq = s.evq := rfl
@[simp] theorem State.modOp_care : (s.modOp id f).care = s.care := rfl
@[simp] theorem State.modOp_boot : (s.modOp id f).boot = s.boot := rfl
@[simp] theorem State.modOp_rung : (s.modOp id f).rung = s.rung := rfl
@[simp] theorem State.modOp_ev : (s.modOp id f).ev = s.ev := rfl
@[simp] theorem State.modOp_nextId : (s.modOp id f).nextId = s.nextId := rfl
@[simp] theorem State.modOp_ports : (s.modOp id f).ports = s.ports := rfl
end modOp

section modQueue
variable (s : State) (id : Nat) (f : UQueue → UQueue)
@[simp] theorem State.modQueue_posted : (s.modQueue id f).posted = s.posted := rfl
@[simp] theorem State.modQueue_groups : (s.modQueue id f).groups = s.groups := rfl
@[simp] theorem State.modQueue_teams : (s.modQueue id f).teams = s.teams := rfl
@[simp] theorem State.modQueue_launches : (s.modQueue id f).launches = s.launches := rfl
@[simp] theorem State.modQueue_domains : (s.modQueue id f).domains = s.domains := rfl
@[simp] theorem State.modQueue_hbm : (s.modQueue id f).hbm = s.hbm := rfl
@[simp] theorem State.modQueue_l2 : (s.modQueue id f).l2 = s.l2 := rfl
@[simp] theorem State.modQueue_versions : (s.modQueue id f).versions = s.versions := rfl
@[simp] theorem State.modQueue_marks : (s.modQueue id f).marks = s.marks := rfl
@[simp] theorem State.modQueue_sectors : (s.modQueue id f).sectors = s.sectors := rfl
@[simp] theorem State.modQueue_banks : (s.modQueue id f).banks = s.banks := rfl
@[simp] theorem State.modQueue_full : (s.modQueue id f).full = s.full := rfl
@[simp] theorem State.modQueue_remote : (s.modQueue id f).remote = s.remote := rfl
@[simp] theorem State.modQueue_hostMem : (s.modQueue id f).hostMem = s.hostMem := rfl
@[simp] theorem State.modQueue_cores : (s.modQueue id f).cores = s.cores := rfl
@[simp] theorem State.modQueue_ops : (s.modQueue id f).ops = s.ops := rfl
@[simp] theorem State.modQueue_rels : (s.modQueue id f).rels = s.rels := rfl
@[simp] theorem State.modQueue_acqs : (s.modQueue id f).acqs = s.acqs := rfl
@[simp] theorem State.modQueue_queues : (s.modQueue id f).queues = tmodify id f s.queues := rfl
@[simp] theorem State.modQueue_evq : (s.modQueue id f).evq = s.evq := rfl
@[simp] theorem State.modQueue_care : (s.modQueue id f).care = s.care := rfl
@[simp] theorem State.modQueue_boot : (s.modQueue id f).boot = s.boot := rfl
@[simp] theorem State.modQueue_rung : (s.modQueue id f).rung = s.rung := rfl
@[simp] theorem State.modQueue_ev : (s.modQueue id f).ev = s.ev := rfl
@[simp] theorem State.modQueue_nextId : (s.modQueue id f).nextId = s.nextId := rfl
@[simp] theorem State.modQueue_ports : (s.modQueue id f).ports = s.ports := rfl
end modQueue

section modPort
variable (s : State) (n : Nat) (f : Port → Port)
@[simp] theorem State.modPort_posted : (s.modPort n f).posted = s.posted := rfl
@[simp] theorem State.modPort_groups : (s.modPort n f).groups = s.groups := rfl
@[simp] theorem State.modPort_teams : (s.modPort n f).teams = s.teams := rfl
@[simp] theorem State.modPort_launches : (s.modPort n f).launches = s.launches := rfl
@[simp] theorem State.modPort_domains : (s.modPort n f).domains = s.domains := rfl
@[simp] theorem State.modPort_hbm : (s.modPort n f).hbm = s.hbm := rfl
@[simp] theorem State.modPort_l2 : (s.modPort n f).l2 = s.l2 := rfl
@[simp] theorem State.modPort_versions : (s.modPort n f).versions = s.versions := rfl
@[simp] theorem State.modPort_marks : (s.modPort n f).marks = s.marks := rfl
@[simp] theorem State.modPort_sectors : (s.modPort n f).sectors = s.sectors := rfl
@[simp] theorem State.modPort_banks : (s.modPort n f).banks = s.banks := rfl
@[simp] theorem State.modPort_full : (s.modPort n f).full = s.full := rfl
@[simp] theorem State.modPort_remote : (s.modPort n f).remote = s.remote := rfl
@[simp] theorem State.modPort_hostMem : (s.modPort n f).hostMem = s.hostMem := rfl
@[simp] theorem State.modPort_cores : (s.modPort n f).cores = s.cores := rfl
@[simp] theorem State.modPort_ops : (s.modPort n f).ops = s.ops := rfl
@[simp] theorem State.modPort_rels : (s.modPort n f).rels = s.rels := rfl
@[simp] theorem State.modPort_acqs : (s.modPort n f).acqs = s.acqs := rfl
@[simp] theorem State.modPort_queues : (s.modPort n f).queues = s.queues := rfl
@[simp] theorem State.modPort_evq : (s.modPort n f).evq = s.evq := rfl
@[simp] theorem State.modPort_care : (s.modPort n f).care = s.care := rfl
@[simp] theorem State.modPort_boot : (s.modPort n f).boot = s.boot := rfl
@[simp] theorem State.modPort_rung : (s.modPort n f).rung = s.rung := rfl
@[simp] theorem State.modPort_ev : (s.modPort n f).ev = s.ev := rfl
@[simp] theorem State.modPort_nextId : (s.modPort n f).nextId = s.nextId := rfl
@[simp] theorem State.modPort_ports : (s.modPort n f).ports = tset Port.reset s.ports n (f (s.port n)) := rfl
end modPort

section postEvent
variable (s : State) (r : List Byte)
@[simp] theorem State.postEvent_posted : (s.postEvent r).posted = s.posted := rfl
@[simp] theorem State.postEvent_groups : (s.postEvent r).groups = s.groups := rfl
@[simp] theorem State.postEvent_teams : (s.postEvent r).teams = s.teams := rfl
@[simp] theorem State.postEvent_launches : (s.postEvent r).launches = s.launches := rfl
@[simp] theorem State.postEvent_domains : (s.postEvent r).domains = s.domains := rfl
@[simp] theorem State.postEvent_hbm : (s.postEvent r).hbm = s.hbm := rfl
@[simp] theorem State.postEvent_l2 : (s.postEvent r).l2 = s.l2 := rfl
@[simp] theorem State.postEvent_versions : (s.postEvent r).versions = s.versions := rfl
@[simp] theorem State.postEvent_marks : (s.postEvent r).marks = s.marks := rfl
@[simp] theorem State.postEvent_sectors : (s.postEvent r).sectors = s.sectors := rfl
@[simp] theorem State.postEvent_banks : (s.postEvent r).banks = s.banks := rfl
@[simp] theorem State.postEvent_full : (s.postEvent r).full = s.full := rfl
@[simp] theorem State.postEvent_remote : (s.postEvent r).remote = s.remote := rfl
@[simp] theorem State.postEvent_hostMem : (s.postEvent r).hostMem = s.hostMem := rfl
@[simp] theorem State.postEvent_cores : (s.postEvent r).cores = s.cores := rfl
@[simp] theorem State.postEvent_ops : (s.postEvent r).ops = s.ops := rfl
@[simp] theorem State.postEvent_rels : (s.postEvent r).rels = s.rels := rfl
@[simp] theorem State.postEvent_acqs : (s.postEvent r).acqs = s.acqs := rfl
@[simp] theorem State.postEvent_queues : (s.postEvent r).queues = s.queues := rfl
@[simp] theorem State.postEvent_evq : (s.postEvent r).evq = { s.evq with waiting := s.evq.waiting ++ [r] } := rfl
@[simp] theorem State.postEvent_care : (s.postEvent r).care = s.care := rfl
@[simp] theorem State.postEvent_boot : (s.postEvent r).boot = s.boot := rfl
@[simp] theorem State.postEvent_rung : (s.postEvent r).rung = s.rung := rfl
@[simp] theorem State.postEvent_ev : (s.postEvent r).ev = s.ev := rfl
@[simp] theorem State.postEvent_nextId : (s.postEvent r).nextId = s.nextId := rfl
@[simp] theorem State.postEvent_ports : (s.postEvent r).ports = s.ports := rfl
end postEvent

section count
variable (s : State) (idx : Nat)
@[simp] theorem State.count_posted : (s.count idx).posted = s.posted := rfl
@[simp] theorem State.count_groups : (s.count idx).groups = s.groups := rfl
@[simp] theorem State.count_teams : (s.count idx).teams = s.teams := rfl
@[simp] theorem State.count_launches : (s.count idx).launches = s.launches := rfl
@[simp] theorem State.count_domains : (s.count idx).domains = s.domains := rfl
@[simp] theorem State.count_hbm : (s.count idx).hbm = s.hbm := rfl
@[simp] theorem State.count_l2 : (s.count idx).l2 = s.l2 := rfl
@[simp] theorem State.count_versions : (s.count idx).versions = s.versions := rfl
@[simp] theorem State.count_marks : (s.count idx).marks = s.marks := rfl
@[simp] theorem State.count_sectors : (s.count idx).sectors = s.sectors := rfl
@[simp] theorem State.count_banks : (s.count idx).banks = s.banks := rfl
@[simp] theorem State.count_full : (s.count idx).full = s.full := rfl
@[simp] theorem State.count_remote : (s.count idx).remote = s.remote := rfl
@[simp] theorem State.count_hostMem : (s.count idx).hostMem = s.hostMem := rfl
@[simp] theorem State.count_cores : (s.count idx).cores = s.cores := rfl
@[simp] theorem State.count_ops : (s.count idx).ops = s.ops := rfl
@[simp] theorem State.count_rels : (s.count idx).rels = s.rels := rfl
@[simp] theorem State.count_acqs : (s.count idx).acqs = s.acqs := rfl
@[simp] theorem State.count_queues : (s.count idx).queues = s.queues := rfl
@[simp] theorem State.count_evq : (s.count idx).evq = s.evq := rfl
@[simp] theorem State.count_care : (s.count idx).care = tset 0 s.care idx (tget 0 s.care idx + 1) := rfl
@[simp] theorem State.count_boot : (s.count idx).boot = s.boot := rfl
@[simp] theorem State.count_rung : (s.count idx).rung = s.rung := rfl
@[simp] theorem State.count_ev : (s.count idx).ev = s.ev := rfl
@[simp] theorem State.count_nextId : (s.count idx).nextId = s.nextId := rfl
@[simp] theorem State.count_ports : (s.count idx).ports = s.ports := rfl
end count

section countMany
variable (s : State) (idx n : Nat)
@[simp] theorem State.countMany_posted : (s.countMany idx n).posted = s.posted := rfl
@[simp] theorem State.countMany_groups : (s.countMany idx n).groups = s.groups := rfl
@[simp] theorem State.countMany_teams : (s.countMany idx n).teams = s.teams := rfl
@[simp] theorem State.countMany_launches : (s.countMany idx n).launches = s.launches := rfl
@[simp] theorem State.countMany_domains : (s.countMany idx n).domains = s.domains := rfl
@[simp] theorem State.countMany_hbm : (s.countMany idx n).hbm = s.hbm := rfl
@[simp] theorem State.countMany_l2 : (s.countMany idx n).l2 = s.l2 := rfl
@[simp] theorem State.countMany_versions : (s.countMany idx n).versions = s.versions := rfl
@[simp] theorem State.countMany_marks : (s.countMany idx n).marks = s.marks := rfl
@[simp] theorem State.countMany_sectors : (s.countMany idx n).sectors = s.sectors := rfl
@[simp] theorem State.countMany_banks : (s.countMany idx n).banks = s.banks := rfl
@[simp] theorem State.countMany_full : (s.countMany idx n).full = s.full := rfl
@[simp] theorem State.countMany_remote : (s.countMany idx n).remote = s.remote := rfl
@[simp] theorem State.countMany_hostMem : (s.countMany idx n).hostMem = s.hostMem := rfl
@[simp] theorem State.countMany_cores : (s.countMany idx n).cores = s.cores := rfl
@[simp] theorem State.countMany_ops : (s.countMany idx n).ops = s.ops := rfl
@[simp] theorem State.countMany_rels : (s.countMany idx n).rels = s.rels := rfl
@[simp] theorem State.countMany_acqs : (s.countMany idx n).acqs = s.acqs := rfl
@[simp] theorem State.countMany_queues : (s.countMany idx n).queues = s.queues := rfl
@[simp] theorem State.countMany_evq : (s.countMany idx n).evq = s.evq := rfl
@[simp] theorem State.countMany_care : (s.countMany idx n).care = tset 0 s.care idx (tget 0 s.care idx + n) := rfl
@[simp] theorem State.countMany_boot : (s.countMany idx n).boot = s.boot := rfl
@[simp] theorem State.countMany_rung : (s.countMany idx n).rung = s.rung := rfl
@[simp] theorem State.countMany_ev : (s.countMany idx n).ev = s.ev := rfl
@[simp] theorem State.countMany_nextId : (s.countMany idx n).nextId = s.nextId := rfl
@[simp] theorem State.countMany_ports : (s.countMany idx n).ports = s.ports := rfl
end countMany

section ringDoorbell
variable (s : State) (ipa : Nat)
@[simp] theorem State.ringDoorbell_posted : (s.ringDoorbell ipa).posted = s.posted := rfl
@[simp] theorem State.ringDoorbell_groups : (s.ringDoorbell ipa).groups = s.groups := rfl
@[simp] theorem State.ringDoorbell_teams : (s.ringDoorbell ipa).teams = s.teams := rfl
@[simp] theorem State.ringDoorbell_launches : (s.ringDoorbell ipa).launches = s.launches := rfl
@[simp] theorem State.ringDoorbell_domains : (s.ringDoorbell ipa).domains = s.domains := rfl
@[simp] theorem State.ringDoorbell_hbm : (s.ringDoorbell ipa).hbm = s.hbm := rfl
@[simp] theorem State.ringDoorbell_l2 : (s.ringDoorbell ipa).l2 = s.l2 := rfl
@[simp] theorem State.ringDoorbell_versions : (s.ringDoorbell ipa).versions = s.versions := rfl
@[simp] theorem State.ringDoorbell_marks : (s.ringDoorbell ipa).marks = s.marks := rfl
@[simp] theorem State.ringDoorbell_sectors : (s.ringDoorbell ipa).sectors = s.sectors := rfl
@[simp] theorem State.ringDoorbell_banks : (s.ringDoorbell ipa).banks = s.banks := rfl
@[simp] theorem State.ringDoorbell_full : (s.ringDoorbell ipa).full = s.full := rfl
@[simp] theorem State.ringDoorbell_remote : (s.ringDoorbell ipa).remote = s.remote := rfl
@[simp] theorem State.ringDoorbell_hostMem : (s.ringDoorbell ipa).hostMem = s.hostMem := rfl
@[simp] theorem State.ringDoorbell_cores : (s.ringDoorbell ipa).cores = s.cores := rfl
@[simp] theorem State.ringDoorbell_ops : (s.ringDoorbell ipa).ops = s.ops := rfl
@[simp] theorem State.ringDoorbell_rels : (s.ringDoorbell ipa).rels = s.rels := rfl
@[simp] theorem State.ringDoorbell_acqs : (s.ringDoorbell ipa).acqs = s.acqs := rfl
@[simp] theorem State.ringDoorbell_queues : (s.ringDoorbell ipa).queues = s.queues := rfl
@[simp] theorem State.ringDoorbell_evq : (s.ringDoorbell ipa).evq = s.evq := rfl
@[simp] theorem State.ringDoorbell_care : (s.ringDoorbell ipa).care = s.care := rfl
@[simp] theorem State.ringDoorbell_boot : (s.ringDoorbell ipa).boot = s.boot := rfl
@[simp] theorem State.ringDoorbell_rung : (s.ringDoorbell ipa).rung = s.rung ++ [ipa] := rfl
@[simp] theorem State.ringDoorbell_ev : (s.ringDoorbell ipa).ev = s.ev := rfl
@[simp] theorem State.ringDoorbell_nextId : (s.ringDoorbell ipa).nextId = s.nextId := rfl
@[simp] theorem State.ringDoorbell_ports : (s.ringDoorbell ipa).ports = s.ports := rfl
end ringDoorbell

section newAcq
variable (s : State) (core scope : Nat) (src : BoundarySource)
@[simp] theorem State.newAcq_posted : (s.newAcq core scope src).posted = s.posted := rfl
@[simp] theorem State.newAcq_groups : (s.newAcq core scope src).groups = s.groups := rfl
@[simp] theorem State.newAcq_teams : (s.newAcq core scope src).teams = s.teams := rfl
@[simp] theorem State.newAcq_launches : (s.newAcq core scope src).launches = s.launches := rfl
@[simp] theorem State.newAcq_domains : (s.newAcq core scope src).domains = s.domains := rfl
@[simp] theorem State.newAcq_hbm : (s.newAcq core scope src).hbm = s.hbm := rfl
@[simp] theorem State.newAcq_l2 : (s.newAcq core scope src).l2 = s.l2 := rfl
@[simp] theorem State.newAcq_versions : (s.newAcq core scope src).versions = s.versions := rfl
@[simp] theorem State.newAcq_marks : (s.newAcq core scope src).marks = s.marks := rfl
@[simp] theorem State.newAcq_sectors : (s.newAcq core scope src).sectors = s.sectors := rfl
@[simp] theorem State.newAcq_banks : (s.newAcq core scope src).banks = s.banks := rfl
@[simp] theorem State.newAcq_full : (s.newAcq core scope src).full = s.full := rfl
@[simp] theorem State.newAcq_remote : (s.newAcq core scope src).remote = s.remote := rfl
@[simp] theorem State.newAcq_hostMem : (s.newAcq core scope src).hostMem = s.hostMem := rfl
@[simp] theorem State.newAcq_cores : (s.newAcq core scope src).cores = s.cores := rfl
@[simp] theorem State.newAcq_ops : (s.newAcq core scope src).ops = s.ops := rfl
@[simp] theorem State.newAcq_rels : (s.newAcq core scope src).rels = s.rels := rfl
@[simp] theorem State.newAcq_acqs : (s.newAcq core scope src).acqs = s.acqs ++ [⟨s.nextId, core, scope, src⟩] := rfl
@[simp] theorem State.newAcq_queues : (s.newAcq core scope src).queues = s.queues := rfl
@[simp] theorem State.newAcq_evq : (s.newAcq core scope src).evq = s.evq := rfl
@[simp] theorem State.newAcq_care : (s.newAcq core scope src).care = s.care := rfl
@[simp] theorem State.newAcq_boot : (s.newAcq core scope src).boot = s.boot := rfl
@[simp] theorem State.newAcq_rung : (s.newAcq core scope src).rung = s.rung := rfl
@[simp] theorem State.newAcq_ev : (s.newAcq core scope src).ev = s.ev := rfl
@[simp] theorem State.newAcq_nextId : (s.newAcq core scope src).nextId = s.nextId + 1 := rfl
@[simp] theorem State.newAcq_ports : (s.newAcq core scope src).ports = s.ports := rfl
end newAcq

section startRel
variable (s : State) (core scope : Nat) (src : BoundarySource)
@[simp] theorem State.startRel_posted : (s.startRel core scope src).posted = s.posted := rfl
@[simp] theorem State.startRel_groups : (s.startRel core scope src).groups = s.groups := rfl
@[simp] theorem State.startRel_teams : (s.startRel core scope src).teams = s.teams := rfl
@[simp] theorem State.startRel_launches : (s.startRel core scope src).launches = s.launches := rfl
@[simp] theorem State.startRel_domains : (s.startRel core scope src).domains = s.domains := rfl
@[simp] theorem State.startRel_hbm : (s.startRel core scope src).hbm = s.hbm := rfl
@[simp] theorem State.startRel_l2 : (s.startRel core scope src).l2 = s.l2 := rfl
@[simp] theorem State.startRel_versions : (s.startRel core scope src).versions = s.versions := rfl
@[simp] theorem State.startRel_marks : (s.startRel core scope src).marks = s.marks := rfl
@[simp] theorem State.startRel_sectors : (s.startRel core scope src).sectors = s.sectors := rfl
@[simp] theorem State.startRel_banks : (s.startRel core scope src).banks = s.banks := rfl
@[simp] theorem State.startRel_full : (s.startRel core scope src).full = s.full := rfl
@[simp] theorem State.startRel_remote : (s.startRel core scope src).remote = s.remote := rfl
@[simp] theorem State.startRel_hostMem : (s.startRel core scope src).hostMem = s.hostMem := rfl
@[simp] theorem State.startRel_cores : (s.startRel core scope src).cores = s.cores := rfl
@[simp] theorem State.startRel_ops : (s.startRel core scope src).ops = s.ops := rfl
@[simp] theorem State.startRel_rels : (s.startRel core scope src).rels = s.rels ++ [⟨s.nextId, core, scope, src, .pending core, true, s.pendingSectors core scope, [], [], none⟩] := rfl
@[simp] theorem State.startRel_acqs : (s.startRel core scope src).acqs = s.acqs := rfl
@[simp] theorem State.startRel_queues : (s.startRel core scope src).queues = s.queues := rfl
@[simp] theorem State.startRel_evq : (s.startRel core scope src).evq = s.evq := rfl
@[simp] theorem State.startRel_care : (s.startRel core scope src).care = s.care := rfl
@[simp] theorem State.startRel_boot : (s.startRel core scope src).boot = s.boot := rfl
@[simp] theorem State.startRel_rung : (s.startRel core scope src).rung = s.rung := rfl
@[simp] theorem State.startRel_ev : (s.startRel core scope src).ev = s.ev := rfl
@[simp] theorem State.startRel_nextId : (s.startRel core scope src).nextId = s.nextId + 1 := rfl
@[simp] theorem State.startRel_ports : (s.startRel core scope src).ports = s.ports := rfl
end startRel

section physWrite
variable (s : State) (pa v n : Nat)
@[simp] theorem State.physWrite_posted : (s.physWrite pa v n).posted = s.posted := rfl
@[simp] theorem State.physWrite_groups : (s.physWrite pa v n).groups = s.groups := rfl
@[simp] theorem State.physWrite_teams : (s.physWrite pa v n).teams = s.teams := rfl
@[simp] theorem State.physWrite_launches : (s.physWrite pa v n).launches = s.launches := rfl
@[simp] theorem State.physWrite_domains : (s.physWrite pa v n).domains = s.domains := rfl
@[simp] theorem State.physWrite_hbm : (s.physWrite pa v n).hbm = twriteLE s.hbm pa v n := rfl
@[simp] theorem State.physWrite_l2 : (s.physWrite pa v n).l2 = s.l2 := rfl
@[simp] theorem State.physWrite_versions : (s.physWrite pa v n).versions = s.versions := rfl
@[simp] theorem State.physWrite_marks : (s.physWrite pa v n).marks = s.marks := rfl
@[simp] theorem State.physWrite_sectors : (s.physWrite pa v n).sectors = s.sectors := rfl
@[simp] theorem State.physWrite_banks : (s.physWrite pa v n).banks = s.banks := rfl
@[simp] theorem State.physWrite_full : (s.physWrite pa v n).full = s.full := rfl
@[simp] theorem State.physWrite_remote : (s.physWrite pa v n).remote = s.remote := rfl
@[simp] theorem State.physWrite_hostMem : (s.physWrite pa v n).hostMem = s.hostMem := rfl
@[simp] theorem State.physWrite_cores : (s.physWrite pa v n).cores = s.cores := rfl
@[simp] theorem State.physWrite_ops : (s.physWrite pa v n).ops = s.ops := rfl
@[simp] theorem State.physWrite_rels : (s.physWrite pa v n).rels = s.rels := rfl
@[simp] theorem State.physWrite_acqs : (s.physWrite pa v n).acqs = s.acqs := rfl
@[simp] theorem State.physWrite_queues : (s.physWrite pa v n).queues = s.queues := rfl
@[simp] theorem State.physWrite_evq : (s.physWrite pa v n).evq = s.evq := rfl
@[simp] theorem State.physWrite_care : (s.physWrite pa v n).care = s.care := rfl
@[simp] theorem State.physWrite_boot : (s.physWrite pa v n).boot = s.boot := rfl
@[simp] theorem State.physWrite_rung : (s.physWrite pa v n).rung = s.rung := rfl
@[simp] theorem State.physWrite_ev : (s.physWrite pa v n).ev = s.ev := rfl
@[simp] theorem State.physWrite_nextId : (s.physWrite pa v n).nextId = s.nextId := rfl
@[simp] theorem State.physWrite_ports : (s.physWrite pa v n).ports = s.ports := rfl
end physWrite

section localWrite
variable (s : State) (cluster la v n : Nat)
@[simp] theorem State.localWrite_posted : (s.localWrite cluster la v n).posted = s.posted := rfl
@[simp] theorem State.localWrite_groups : (s.localWrite cluster la v n).groups = s.groups := rfl
@[simp] theorem State.localWrite_teams : (s.localWrite cluster la v n).teams = s.teams := rfl
@[simp] theorem State.localWrite_launches : (s.localWrite cluster la v n).launches = s.launches := rfl
@[simp] theorem State.localWrite_domains : (s.localWrite cluster la v n).domains = s.domains := rfl
@[simp] theorem State.localWrite_hbm : (s.localWrite cluster la v n).hbm = s.hbm := rfl
@[simp] theorem State.localWrite_l2 : (s.localWrite cluster la v n).l2 = s.l2 := rfl
@[simp] theorem State.localWrite_versions : (s.localWrite cluster la v n).versions = s.versions := rfl
@[simp] theorem State.localWrite_marks : (s.localWrite cluster la v n).marks = s.marks := rfl
@[simp] theorem State.localWrite_sectors : (s.localWrite cluster la v n).sectors = s.sectors := rfl
@[simp] theorem State.localWrite_banks : (s.localWrite cluster la v n).banks = twriteLE s.banks (bankKey cluster la) v n := rfl
@[simp] theorem State.localWrite_full : (s.localWrite cluster la v n).full = s.full := rfl
@[simp] theorem State.localWrite_remote : (s.localWrite cluster la v n).remote = s.remote := rfl
@[simp] theorem State.localWrite_hostMem : (s.localWrite cluster la v n).hostMem = s.hostMem := rfl
@[simp] theorem State.localWrite_cores : (s.localWrite cluster la v n).cores = s.cores := rfl
@[simp] theorem State.localWrite_ops : (s.localWrite cluster la v n).ops = s.ops := rfl
@[simp] theorem State.localWrite_rels : (s.localWrite cluster la v n).rels = s.rels := rfl
@[simp] theorem State.localWrite_acqs : (s.localWrite cluster la v n).acqs = s.acqs := rfl
@[simp] theorem State.localWrite_queues : (s.localWrite cluster la v n).queues = s.queues := rfl
@[simp] theorem State.localWrite_evq : (s.localWrite cluster la v n).evq = s.evq := rfl
@[simp] theorem State.localWrite_care : (s.localWrite cluster la v n).care = s.care := rfl
@[simp] theorem State.localWrite_boot : (s.localWrite cluster la v n).boot = s.boot := rfl
@[simp] theorem State.localWrite_rung : (s.localWrite cluster la v n).rung = s.rung := rfl
@[simp] theorem State.localWrite_ev : (s.localWrite cluster la v n).ev = s.ev := rfl
@[simp] theorem State.localWrite_nextId : (s.localWrite cluster la v n).nextId = s.nextId := rfl
@[simp] theorem State.localWrite_ports : (s.localWrite cluster la v n).ports = s.ports := rfl
end localWrite

section setFull
variable (s : State) (cluster la : Nat) (b : Bool)
@[simp] theorem State.setFull_posted : (s.setFull cluster la b).posted = s.posted := rfl
@[simp] theorem State.setFull_groups : (s.setFull cluster la b).groups = s.groups := rfl
@[simp] theorem State.setFull_teams : (s.setFull cluster la b).teams = s.teams := rfl
@[simp] theorem State.setFull_launches : (s.setFull cluster la b).launches = s.launches := rfl
@[simp] theorem State.setFull_domains : (s.setFull cluster la b).domains = s.domains := rfl
@[simp] theorem State.setFull_hbm : (s.setFull cluster la b).hbm = s.hbm := rfl
@[simp] theorem State.setFull_l2 : (s.setFull cluster la b).l2 = s.l2 := rfl
@[simp] theorem State.setFull_versions : (s.setFull cluster la b).versions = s.versions := rfl
@[simp] theorem State.setFull_marks : (s.setFull cluster la b).marks = s.marks := rfl
@[simp] theorem State.setFull_sectors : (s.setFull cluster la b).sectors = s.sectors := rfl
@[simp] theorem State.setFull_banks : (s.setFull cluster la b).banks = s.banks := rfl
@[simp] theorem State.setFull_full : (s.setFull cluster la b).full = tset false s.full (granuleKey cluster la) b := rfl
@[simp] theorem State.setFull_remote : (s.setFull cluster la b).remote = s.remote := rfl
@[simp] theorem State.setFull_hostMem : (s.setFull cluster la b).hostMem = s.hostMem := rfl
@[simp] theorem State.setFull_cores : (s.setFull cluster la b).cores = s.cores := rfl
@[simp] theorem State.setFull_ops : (s.setFull cluster la b).ops = s.ops := rfl
@[simp] theorem State.setFull_rels : (s.setFull cluster la b).rels = s.rels := rfl
@[simp] theorem State.setFull_acqs : (s.setFull cluster la b).acqs = s.acqs := rfl
@[simp] theorem State.setFull_queues : (s.setFull cluster la b).queues = s.queues := rfl
@[simp] theorem State.setFull_evq : (s.setFull cluster la b).evq = s.evq := rfl
@[simp] theorem State.setFull_care : (s.setFull cluster la b).care = s.care := rfl
@[simp] theorem State.setFull_boot : (s.setFull cluster la b).boot = s.boot := rfl
@[simp] theorem State.setFull_rung : (s.setFull cluster la b).rung = s.rung := rfl
@[simp] theorem State.setFull_ev : (s.setFull cluster la b).ev = s.ev := rfl
@[simp] theorem State.setFull_nextId : (s.setFull cluster la b).nextId = s.nextId := rfl
@[simp] theorem State.setFull_ports : (s.setFull cluster la b).ports = s.ports := rfl
end setFull

end Sys2Proof.Machine
end

