-- ==== Sys2Proof/Laws/Memory.lean ====
section
/-! SUPPORT. Every operation on memory keeps its canonical form: physical memory, local space, and the memories outside the package. -/

namespace Sys2Proof.Machine

open Sys2Proof

/-- The memories of a machine in canonical form. -/
def State.Formed (s : State) : Prop := Memory.wf s.hbm ∧ Memory.wf s.banks ∧ Memory.wf s.remote ∧ Memory.wf s.hostMem

theorem State.Formed.of_eq {s t : State} (h : s.Formed) (e : t.hbm = s.hbm ∧ t.banks = s.banks ∧ t.remote = s.remote ∧ t.hostMem = s.hostMem) :
    t.Formed := by
  unfold State.Formed; rw [e.1, e.2.1, e.2.2.1, e.2.2.2]; exact h

theorem State.reset_formed : State.reset.Formed := by simp [State.Formed, State.reset, Memory.wf]

/-! ### The operations that write bytes -/

theorem wf_twriteLE {m : Table Byte} (h : Memory.wf m) (a v n : Nat) : Memory.wf (twriteLE m a v n) := tcanon_twriteLE h a v n

theorem State.Formed.physWrite {s : State} (h : s.Formed) (pa v n : Nat) : (s.physWrite pa v n).Formed :=
  ⟨wf_twriteLE h.1 pa v n, h.2⟩

theorem State.Formed.localWrite {s : State} (h : s.Formed) (cluster la v n : Nat) : (s.localWrite cluster la v n).Formed :=
  ⟨h.1, wf_twriteLE h.2.1 _ v n, h.2.2⟩

theorem State.Formed.clearBank {s : State} (h : s.Formed) (cluster bank : Nat) : (s.clearBank cluster bank).Formed :=
  ⟨h.1, tcanon_filter h.2.1 _, h.2.2⟩

theorem wf_foldl_tset (es : List (Nat × Byte)) (at' : Nat × Byte → Nat) {m : Table Byte} (h : Memory.wf m) :
    Memory.wf (es.foldl (fun t e => tset 0 t (at' e) e.2) m) := by
  induction es generalizing m with
  | nil => exact h
  | cons e es ih => exact ih (tcanon_tset h _ _)

theorem State.Formed.copyPhys {s : State} (h : s.Formed) (src dst len : Nat) : (s.copyPhys src dst len).Formed := by
  unfold State.copyPhys
  refine ⟨?_, h.2⟩
  exact wf_foldl_tset _ (fun e => e.1 - src + dst) (tcanon_filter h.1 _)

theorem tsorted_bytes (bs : List Byte) (a b : Nat) (h : b ≤ a) : tsortedFrom b (bs.mapIdx (fun i x => (a + i, x))) = true ∧
    ∀ e ∈ bs.mapIdx (fun i x => (a + i, x)), e.1 < a + bs.length := by
  induction bs generalizing a b with
  | nil => simp [tsortedFrom]
  | cons x xs ih =>
    have hx := ih (a + 1) (a + 1) (Nat.le_refl _)
    have he : (fun i x => (a + (i + 1), x)) = (fun i (x : Byte) => (a + 1 + i, x)) := by funext i x; rw [Nat.add_assoc, Nat.add_comm 1 i]
    simp only [List.mapIdx_cons, he, Nat.add_zero, tsortedFrom, List.length_cons, List.mem_cons]
    refine ⟨by simp [h, hx.1], ?_⟩
    rintro e (rfl | h)
    · simp
    · have := hx.2 e h; omega

theorem tsorted_append {xs ys : Table Byte} {b c : Nat} (hx : tsortedFrom b xs = true) (hc : ∀ e ∈ xs, e.1 < c) (hb : b ≤ c)
    (hy : tsortedFrom c ys = true) : tsortedFrom b (xs ++ ys) = true := by
  induction xs generalizing b with
  | nil => exact tsortedFrom_mono hb hy
  | cons e xs ih =>
    simp only [tsortedFrom, List.cons_append, Bool.and_eq_true, decide_eq_true_eq] at hx ⊢
    exact ⟨hx.1, ih hx.2 (fun e he => hc e (List.mem_cons_of_mem _ he)) (hc e (List.mem_cons_self))⟩

theorem tsorted_raise {t : Table Byte} {b c : Nat} (ht : tsortedFrom b t = true) (h : ∀ e ∈ t, c ≤ e.1) : tsortedFrom c t = true := by
  cases t with
  | nil => rfl
  | cons e t =>
    simp only [tsortedFrom, Bool.and_eq_true, decide_eq_true_eq] at ht ⊢
    exact ⟨h e (List.mem_cons_self), ht.2⟩

theorem wf_tsplice {t : Table Byte} (h : Memory.wf t) (a : Nat) (bs : List Byte) : Memory.wf (tsplice t a bs) := by
  have hb := tsorted_bytes bs a a (Nat.le_refl _)
  have hh := tcanon_iff.1 h
  refine tcanon_iff.2 ⟨?_, ?_⟩
  · have h1 := tsortedFrom_filter (fun e => decide (e.1 < a)) hh.1
    have h2 := tsortedFrom_filter (fun e => e.2 != 0) hb.1
    have h3 := tsortedFrom_filter (fun e => decide (a + bs.length ≤ e.1)) hh.1
    unfold tsplice
    rw [List.append_assoc]
    refine tsorted_append h1 (c := a) (fun e he => by simpa using (List.mem_filter.1 he).2) (Nat.zero_le _) ?_
    refine tsorted_append h2 (c := a + bs.length) (fun e he => hb.2 e (List.mem_filter.1 he).1) (by omega) ?_
    exact tsorted_raise h3 (fun e he => by simpa using (List.mem_filter.1 he).2)
  · intro e he
    rcases List.mem_append.1 he with he | he
    · rcases List.mem_append.1 he with he | he
      · exact hh.2 e (List.mem_filter.1 he).1
      · simpa using (List.mem_filter.1 he).2
    · exact hh.2 e (List.mem_filter.1 he).1

theorem State.Formed.saveImage {s : State} (h : s.Formed) (t : Team) : (s.saveImage t).Formed := by
  unfold State.saveImage
  split
  · exact ⟨wf_tsplice h.1 _ _, h.2⟩
  · exact h

theorem State.Formed.saveImages {s : State} (h : s.Formed) : s.saveImages.Formed := by
  unfold State.saveImages
  induction tvalues s.teams generalizing s with
  | nil => exact h
  | cons t ts ih => exact ih (h.saveImage t)

/-! ### Actions of the memory side -/

/-- An action of the memory side keeps a property of the machine, whatever it answers. -/
def Keeps {α : Type} (P : State → Prop) (m : Mem α) : Prop := ∀ s, P s → P (m.run s).2

variable {α β : Type} {P : State → Prop}

theorem Keeps.pure (a : α) : Keeps P (pure a : Mem α) := fun _ h => h

theorem Keeps.fault (cause sub ipa : Nat) : Keeps P (memFault cause sub ipa : Mem α) := fun _ h => h

theorem Keeps.update {f : State → State} (h : ∀ s, P s → P (f s)) : Keeps P (modify f : Mem Unit) := fun s hs => h s hs

/-- An action and then another: the second runs only after an answer. -/
theorem run_bind (m : Mem α) (k : α → Mem β) (s : State) :
    (m >>= k).run s = match m.run s with | (.ok a, t) => (k a).run t | (.error e, t) => (.error e, t) := by
  show (ExceptT.bind m k).run s = _
  unfold ExceptT.bind ExceptT.run ExceptT.mk ExceptT.bindCont
  show (bind (m := StateM State) m _) s = _
  rcases h : m s with ⟨a | a, t⟩ <;> simp [bind, StateT.bind, h]
  rfl

theorem Keeps.bind {m : Mem α} {k : α → Mem β} (hm : Keeps P m) (hk : ∀ a, Keeps P (k a)) : Keeps P (m >>= k) := by
  intro s hs
  have h1 := hm s hs
  rw [run_bind]
  rcases hr : m.run s with ⟨a | a, t⟩ <;> rw [hr] at h1
  · exact h1
  · exact hk a t h1

/-- An action that reads the machine: what follows may depend on the state it found, which has the property. -/
theorem Keeps.get {k : State → Mem β} (hk : ∀ s, P s → P ((k s).run s).2) : Keeps P (MonadState.get >>= k : Mem β) := fun s hs => hk s hs

/-- A property that the memory side's own updates keep: of its caches, counters and postings, and of bytes of the three memories. -/
structure MemSide (P : State → Prop) : Prop where
  caches : ∀ s t : State, P s → t = { s with
    tlb := t.tlb, walkCache := t.walkCache, l2 := t.l2, conf := t.conf, copies := t.copies, held := t.held, tokenSeq := t.tokenSeq,
    fq := t.fq, evq := t.evq, care := t.care } → P t
  phys : ∀ s pa v n, P s → P (s.physWrite pa v n)
  remote : ∀ s a v n, P s → P { s with remote := twriteLE s.remote a v n }
  host : ∀ s a v n, P s → P { s with hostMem := twriteLE s.hostMem a v n }

theorem formed_memSide : MemSide State.Formed where
  caches s t h e := h.of_eq (by rw [e]; exact ⟨rfl, rfl, rfl, rfl⟩)
  phys s pa v n h := h.physWrite pa v n
  remote s a v n h := ⟨h.1, h.2.1, wf_twriteLE h.2.2.1 a v n, h.2.2.2⟩
  host s a v n h := ⟨h.1, h.2.1, h.2.2.1, wf_twriteLE h.2.2.2 a v n⟩

/-- What an action done on a machine leads to has the property, where each way of going on does. -/
theorem Keeps.on {m : Mem α} (hm : Keeps P m) {s : State} {stall : State → State} {ok : α → State → State} {bad : Nat → Nat → Nat → State → State}
    (hs : P s) (h0 : ∀ t, P t → P (stall (s.keepFull t))) (h1 : ∀ a t, P t → P (ok a t)) (h2 : ∀ c b a t, P t → P (bad c b a t)) : P (m.on s stall ok bad) := by
  have h := hm s hs
  unfold Mem.on
  rcases hr : m.run s with ⟨⟨c, b, a⟩ | a, t⟩ <;> rw [hr] at h <;> simp only
  · split
    · exact h0 _ h
    · exact h2 _ _ _ _ h
  · exact h1 _ _ h

theorem Keeps.ite {c : Prop} [Decidable c] {m n : Mem α} (hm : Keeps P m) (hn : Keeps P n) : Keeps P (if c then m else n) := by
  split
  · exact hm
  · exact hn

namespace MemSide

variable (hP : MemSide P)
include hP

theorem walkFrom (ipa fuel level table : Nat) : Keeps P (Machine.walkFrom ipa fuel level table) := by
  induction fuel generalizing level table with
  | zero => exact Keeps.fault _ _ _
  | succ n ih =>
    unfold Machine.walkFrom
    refine Keeps.get fun s hs => ?_
    split
    · exact Keeps.bind (Keeps.update fun s hs => hP.caches s _ hs rfl) (fun _ => Keeps.fault _ _ _) s hs
    · split
      · exact hs
      · exact hs
      · exact Keeps.bind (Keeps.update fun s hs => hP.caches s _ hs rfl) (fun _ => ih _ _) s hs
      · exact Keeps.bind (Keeps.update fun s hs => hP.caches s _ hs rfl) (fun _ => Keeps.pure _) s hs

theorem walk (ipa : Nat) : Keeps P (Machine.walk ipa) := by
  unfold Machine.walk
  refine Keeps.get fun s hs => ?_
  split
  · exact hs
  · exact hs
  · split <;> exact hP.walkFrom _ _ _ _ s hs

theorem reach (ipa : Nat) (write : Bool) : Keeps P (Machine.reach ipa write) := by
  unfold Machine.reach
  refine Keeps.get fun s hs => ?_
  split
  · exact hs
  · split
    · split <;> exact hs
    · exact Keeps.bind (hP.walk ipa) (fun e => Keeps.ite (Keeps.fault _ _ _) (Keeps.pure _)) s hs

/-! ### Write-back and eviction -/

theorem writeBack (s : State) (home sec : Nat) (x : L2Sector) (hs : P s) {e : State × Bool} (h : s.writeBack home sec x = some e) :
    P e.1 := by
  unfold State.writeBack at h
  dsimp only at h
  have hw := hP.walk (16 * sec) s hs
  rcases hr : (Machine.walk (16 * sec)).run s with ⟨a | a, u⟩ <;> rw [hr] at hw h <;> simp only at h
  · split at h
    · cases h
    · split at h
      · cases h; exact hP.caches u _ hw rfl
      · cases h; exact hP.caches u _ hw rfl
  · split at h
    · cases h; exact hP.caches _ _ (hP.phys u _ _ _ hw) rfl
    · split at h
      · cases h
      · cases h; exact hP.caches u _ hw rfl

theorem cleanAll (home : Nat) (xs : List (Nat × L2Sector)) (s t : State) (hs : P s) (h : Machine.cleanAll home xs s = some t) : P t := by
  induction xs generalizing s with
  | nil => cases h; exact hs
  | cons e xs ih =>
    obtain ⟨sec, x⟩ := e
    unfold Machine.cleanAll at h
    split at h
    · split at h
      · next u hu => exact ih _ (hP.caches u _ (hP.writeBack s home sec x hs hu) rfl) h
      · next u hu => exact ih u (hP.writeBack s home sec x hs hu) h
      · cases h
    · exact ih s hs h

theorem cleanLine (s : State) (home line : Nat) (hs : P s) : P (s.cleanLine home line) := by
  unfold State.cleanLine
  split
  · exact hs
  split
  · exact hs
  next u hu =>
  have hu' := hP.cleanAll _ _ s u hs hu
  split
  · exact hu'
  · rcases hc : Machine.cleanAll home (u.lineSectors home line) u with - | v
    · exact hu'
    · exact hP.cleanAll _ _ u v hu' hc

theorem evictLine (s : State) (home line : Nat) (hs : P s) : P (s.evictLine home line) := by
  unfold State.evictLine
  dsimp only
  split
  · exact hP.cleanLine s home line hs
  · exact hP.caches _ _ (hP.cleanLine s home line hs) rfl

theorem evictFirst (home : Nat) (lines : List Nat) (s t : State) (hs : P s) (h : Machine.evictFirst home s lines = some t) : P t := by
  induction lines with
  | nil => cases h
  | cons line lines ih =>
    unfold Machine.evictFirst at h
    dsimp only at h
    split at h
    · cases h; exact hP.evictLine s home line hs
    · exact ih h

theorem wayFor (s t : State) (home line : Nat) (hs : P s) (h : s.wayFor home line = some t) : P t := by
  unfold State.wayFor at h
  split at h
  · cases h; exact hs
  · dsimp only at h
    split at h
    · cases h; exact hs
    · exact hP.evictFirst _ _ s t hs h

theorem lineRoom (home line : Nat) : Keeps P (Machine.lineRoom home line) := by
  unfold Machine.lineRoom
  refine Keeps.get fun s hs => ?_
  split
  · exact hs
  split
  · next t ht => exact hP.wayFor s t home line hs ht
  · exact hs

/-! ### Sectors and lines -/

theorem fillSector (home ipa key : Nat) (x : L2Sector) (d : BitVec 128) :
    Keeps P (do Machine.lineRoom home ipa; modify (fun s => { s with l2 := tinsert key x s.l2 }); Pure.pure d : Mem (BitVec 128)) :=
  Keeps.bind (hP.lineRoom _ _) fun _ => Keeps.bind (Keeps.update fun s hs => hP.caches s _ hs rfl) fun _ => Keeps.pure _

theorem sector (home ipa : Nat) (md : Option Nat) : Keeps P (Machine.sector home ipa md) := by
  unfold Machine.sector
  refine Keeps.get fun s hs => ?_
  dsimp only
  split
  · exact hs
  split
  · exact hs
  split
  · exact hs
  split
  · exact hP.fillSector _ _ _ _ _ s hs
  refine Keeps.bind (hP.walk _) (fun e => Keeps.get fun s hs => ?_) s hs
  split
  · exact hP.fillSector _ _ _ _ _ s hs
  · exact Keeps.bind (Keeps.update fun s hs => hP.caches s _ hs rfl) (fun _ => Keeps.fault _ _ _) s hs

theorem putSector (home ipa : Nat) (md : Option Nat) (d : BitVec 128) : Keeps P (Machine.putSector home ipa md d) := by
  unfold Machine.putSector
  refine Keeps.get fun s hs => ?_
  dsimp only
  split
  · exact hP.host _ _ _ _ hs
  split
  · exact hP.remote _ _ _ _ hs
  · exact Keeps.bind (hP.lineRoom _ _) (fun _ => Keeps.update fun s hs => hP.caches s _ hs rfl) s hs

theorem lineCount (home md : Nat) : Keeps P (Machine.lineCount home md) :=
  Keeps.bind (hP.sector _ _ _) fun _ => Keeps.ite (Keeps.fault _ _ _) (Keeps.pure _)

theorem setLineCount (home md c : Nat) : Keeps P (Machine.setLineCount home md c) :=
  Keeps.bind (hP.sector _ _ _) fun _ => hP.putSector _ _ _ _

theorem storedLine (l : Loc) (n : Nat) : Keeps P (Machine.storedLine l n) := by
  induction n with
  | zero => exact Keeps.pure _
  | succ n ih => exact Keeps.bind ih fun _ => Keeps.bind (hP.sector _ _ _) fun _ => Keeps.pure _

theorem wholeLine (l : Loc) : Keeps P (Machine.wholeLine l) := by
  unfold Machine.wholeLine
  split
  · exact hP.storedLine l 8
  · refine Keeps.bind (hP.lineCount _ _) fun c => Keeps.bind (hP.storedLine l c) fun v => ?_
    split
    · exact Keeps.pure _
    · exact Keeps.fault _ _ _

theorem committed (l : Loc) : Keeps P (Machine.committed l) := by
  unfold Machine.committed
  split
  · exact hP.sector _ _ _
  · exact Keeps.bind (hP.wholeLine l) fun _ => Keeps.pure _

theorem putLine (l : Loc) (v n k : Nat) : Keeps P (Machine.putLine l v n k) := by
  induction n generalizing k with
  | zero => exact Keeps.pure _
  | succ n ih => exact Keeps.bind (hP.putSector _ _ _ _) fun _ => ih _

theorem dropCopies (l : Loc) : Keeps P (Machine.dropCopies l) := Keeps.update fun s hs => hP.caches s _ hs rfl

theorem commitBytes (l : Loc) (m : BitVec 16) (d : BitVec 128) : Keeps P (Machine.commitBytes l m d) := by
  refine Keeps.bind (hP.dropCopies l) fun _ => ?_
  split
  · exact Keeps.bind (hP.sector _ _ _) fun _ => hP.putSector _ _ _ _
  · refine Keeps.bind (hP.wholeLine l) fun v => Keeps.bind (hP.lineCount _ _) fun c => ?_
    refine Keeps.ite (hP.putSector _ _ _ _) ?_
    exact Keeps.bind (hP.putLine _ _ _ _) fun _ => hP.setLineCount _ _ _

theorem commitWhole (l : Loc) (md v : Nat) : Keeps P (Machine.commitWhole l md v) :=
  Keeps.bind (hP.sector _ _ _) fun _ => Keeps.bind (hP.dropCopies l) fun _ =>
    Keeps.bind (Keeps.update fun s hs => hP.caches s _ hs rfl) fun _ =>
    Keeps.bind (hP.putLine _ _ _ _) fun _ => hP.setLineCount _ _ _

theorem confirm (l : Loc) (write : Bool) : Keeps P (Machine.confirm l write) := by
  have hmd : Keeps P (match l.md with | none => (Pure.pure () : Mem Unit) | some m => do let _ ← Machine.lineCount l.home m) := by
    split
    · exact Keeps.pure _
    · exact Keeps.bind (hP.lineCount _ _) fun _ => Keeps.pure _
  unfold Machine.confirm
  refine Keeps.get fun s hs => ?_
  dsimp only
  refine Keeps.ite hmd (Keeps.bind (hP.reach _ _) fun _ => Keeps.ite hmd ?_) s hs
  exact Keeps.bind (Keeps.update fun s hs => hP.caches s _ hs rfl) fun _ => hmd

theorem immRead (l : Loc) (size : Nat) : Keeps P (Machine.immRead l size) :=
  Keeps.bind (hP.confirm l false) fun _ => Keeps.bind (hP.committed l) fun _ => Keeps.pure _

end MemSide

/-! ### Writes that abort tasks (R65, R380, R381) -/

/-- Two states that differ at most in what an abort changes: tasks, their workers, and their accesses, versions and marks. -/
def OnlyTasks (s t : State) : Prop :=
  t = { s with groups := t.groups, ops := t.ops, waits := t.waits, versions := t.versions, marks := t.marks, domains := t.domains }

theorem OnlyTasks.refl (s : State) : OnlyTasks s s := rfl

theorem OnlyTasks.trans {s t u : State} (h : OnlyTasks s t) (k : OnlyTasks t u) : OnlyTasks s u := by
  unfold OnlyTasks at *; rw [k, h]

theorem OnlyTasks.foldl {γ : Type} (f : State → γ → State) (hf : ∀ s x, OnlyTasks s (f s x)) (xs : List γ) (s : State) :
    OnlyTasks s (xs.foldl f s) := by
  induction xs generalizing s with
  | nil => exact OnlyTasks.refl s
  | cons x xs ih => exact (hf s x).trans (ih _)

theorem State.killTask_only (s : State) (launch slot : Nat) : OnlyTasks s (s.killTask launch slot) := by
  unfold State.killTask
  split
  · exact OnlyTasks.refl s
  split
  · exact OnlyTasks.refl s
  dsimp only
  split <;> rfl

theorem State.abortTasks_only (s : State) (launch : Nat) (slots : List Nat) : OnlyTasks s (s.abortTasks launch slots) := by
  unfold State.abortTasks
  split
  · exact OnlyTasks.refl s
  dsimp only
  refine OnlyTasks.trans (OnlyTasks.trans (OnlyTasks.foldl _ (fun s k => ?_) _ s) (OnlyTasks.foldl _ (fun s k => s.killTask_only launch k) _ _)) rfl
  exact (s.killTask_only launch k).trans rfl

theorem State.writeConflict_only (s : State) (home sec : Nat) (by_ : Option (Nat × Nat)) : OnlyTasks s (s.writeConflict home sec by_) := by
  unfold State.writeConflict
  exact OnlyTasks.foldl (fun (s : State) (m : Mark) => s.abortTasks m.launch [m.slot]) (fun s m => s.abortTasks_only m.launch [m.slot]) _ s

/-- What outlasts a stall: nothing, or what the action did to the launches, the wait table and the fault ring. -/
theorem State.keepFull_cases (s t : State) : s.keepFull t = s ∨
    ∃ ls, s.keepFull t = { s with launches := ls, fq := t.fq, waits := t.waits, tokenSeq := t.tokenSeq } := by
  unfold State.keepFull
  dsimp only
  exact (ite_eq_or_eq _ _ _).symm.imp id (fun h => ⟨_, h⟩)

theorem State.keepFull_only (s t : State) : s.keepFull t = { s with
    launches := (s.keepFull t).launches, fq := (s.keepFull t).fq, waits := (s.keepFull t).waits, tokenSeq := (s.keepFull t).tokenSeq } := by
  rcases s.keepFull_cases t with h | ⟨ls, h⟩ <;> rw [h]

/-- A property that the memory side keeps, and aborts and stores that wait keep. -/
structure HomeSide (P : State → Prop) : Prop extends MemSide P where
  aborts : ∀ s launch slots, P s → P (s.abortTasks launch slots)
  rings : ∀ s ipa, P s → P (s.ringDoorbell ipa)
  full : ∀ s t, P s → P (s.keepFull t)
  posts : ∀ s ps, P s → P { s with posted := ps }

theorem formed_homeSide : HomeSide State.Formed where
  toMemSide := formed_memSide
  aborts s launch slots h := h.of_eq (by rw [s.abortTasks_only launch slots]; exact ⟨rfl, rfl, rfl, rfl⟩)
  rings s ipa h := h.of_eq ⟨rfl, rfl, rfl, rfl⟩
  full s t h := h.of_eq (by rw [s.keepFull_only t]; exact ⟨rfl, rfl, rfl, rfl⟩)
  posts s ps h := h.of_eq ⟨rfl, rfl, rfl, rfl⟩

/-- Any property of what neither the memory side nor an abort changes is such a property. -/
theorem HomeSide.of_frame {γ : Type} (f : State → γ) (c : γ)
    (h : ∀ s t : State, t = { s with
      tlb := t.tlb, walkCache := t.walkCache, l2 := t.l2, conf := t.conf, copies := t.copies, held := t.held, tokenSeq := t.tokenSeq,
      fq := t.fq, evq := t.evq, care := t.care, rung := t.rung, launches := t.launches, posted := t.posted, hbm := t.hbm, remote := t.remote, hostMem := t.hostMem, groups := t.groups, ops := t.ops,
      waits := t.waits, versions := t.versions, marks := t.marks, domains := t.domains } → f t = f s) : HomeSide (fun s => f s = c) where
  caches s t hs e := by rw [h s t (by rw [e]), hs]
  phys s pa v n hs := by rw [h s _ rfl, hs]
  remote s a v n hs := by rw [h s _ rfl, hs]
  host s a v n hs := by rw [h s _ rfl, hs]
  aborts s launch slots hs := by rw [h s _ (by rw [s.abortTasks_only launch slots]), hs]
  rings s ipa hs := by rw [h s _ rfl, hs]
  full s t hs := by rw [h s _ (by rw [s.keepFull_only t]), hs]
  posts s ps hs := by rw [h s _ rfl, hs]

namespace HomeSide

variable (hP : HomeSide P)
include hP

theorem writeConflict (s : State) (home sec : Nat) (by_ : Option (Nat × Nat)) (hs : P s) : P (s.writeConflict home sec by_) := by
  unfold State.writeConflict
  dsimp only
  generalize List.filter _ _ = ms
  induction ms generalizing s with
  | nil => exact hs
  | cons m ms ih => exact ih _ (hP.aborts s _ _ hs)

theorem commitAt (l : Loc) (m : BitVec 16) (d : BitVec 128) (by_ : Option (Nat × Nat)) : Keeps P (Machine.commitAt l m d by_) :=
  Keeps.bind (hP.toMemSide.commitBytes l m d) fun _ => Keeps.update fun s hs => hP.writeConflict s _ _ _ hs

theorem immWrite (l : Loc) (size v : Nat) : Keeps P (Machine.immWrite l size v) := by
  refine Keeps.bind (hP.toMemSide.confirm l true) fun _ => Keeps.get fun s hs => ?_
  split
  · exact hP.rings s _ hs
  · exact hP.commitAt _ _ _ _ s hs

theorem putImm (s : State) (l : Loc) (size v : Nat) (hs : P s) : P (s.putImm l size v) := by
  unfold State.putImm
  dsimp only
  split
  · exact hP.posts _ _ hs
  · exact (hP.immWrite l size v).on hs (fun t _ => hP.posts _ _ (hP.full s t hs)) (fun _ _ h => h) fun _ _ _ _ h => h

theorem retryPosted (s : State) (hs : P s) : P s.retryPosted := by
  unfold State.retryPosted
  have hs := hP.posts s [] hs
  revert hs
  generalize ({ s with posted := [] } : State) = u
  induction s.posted generalizing u with
  | nil => exact id
  | cons p ps ih => exact fun hu => ih _ (hP.putImm u _ _ _ hu)

end HomeSide

/-- A descriptor's bytes written leave the queues as they are. -/
theorem State.putDesc_queues (s : State) (ipa off n v : Nat) : (s.putDesc ipa off n v).queues = s.queues :=
  (HomeSide.of_frame State.queues s.queues (fun s t e => by rw [e])).putImm s _ _ _ rfl

end Sys2Proof.Machine
end

