-- ==== Sys2Proof/Laws/Registers.lean ====
section
/-! SUPPORT. What the register operations of a group do: reads after writes of vector, scalar, predicate and error registers, and
of lists of them. -/

namespace Sys2Proof.Machine

open Sys2Proof

/-! ### Lists of writes -/

/-- A key that no write of a list names reads as before. -/
theorem tget_writes_out {α : Type} [DecidableEq α] (d : α) (es : List (Nat × α)) (t : Table α) (k : Nat)
    (h : ∀ e ∈ es, e.1 ≠ k) : tget d (es.foldl (fun t e => tset d t e.1 e.2) t) k = tget d t k := by
  induction es generalizing t with
  | nil => rfl
  | cons e es ih =>
    simp only [List.foldl_cons]
    rw [ih _ (fun f hf => h f (.tail _ hf)), tget_tset_ne _ _ (fun hk => h e (.head _) hk.symm)]

/-- A key that writes of a list name, all with one value, reads as that value. -/
theorem tget_writes_in {α : Type} [DecidableEq α] (d : α) (es : List (Nat × α)) (t : Table α) (k : Nat) (v : α)
    (hin : (k, v) ∈ es) (h : ∀ e ∈ es, e.1 = k → e.2 = v) : tget d (es.foldl (fun t e => tset d t e.1 e.2) t) k = v := by
  induction es generalizing t with
  | nil => cases hin
  | cons e es ih =>
    simp only [List.foldl_cons]
    by_cases hm : (k, v) ∈ es
    · exact ih _ hm (fun f hf => h f (.tail _ hf))
    · have he : e = (k, v) := by cases hin with | head => rfl | tail _ h' => exact absurd h' hm
      rw [tget_writes_out]
      · subst he; exact tget_tset_self d t k v
      · intro f hf hk
        have : f.2 = v := h f (.tail _ hf) hk
        exact hm (by rw [← hk, ← this]; exact hf)

/-! ### Vector registers -/

theorem Group.vget_vset (g : Group) (n l m k : Nat) (w : Word) :
    (g.vset n l w).vget m k = if 32 * m + k = 32 * n + l then w else g.vget m k := tget_tset 0 g.v _ _ w

/-- A list of lane writes changes the vector registers and nothing else. -/
theorem Group.writeLanes_eq (g : Group) (n : Nat) (ws : List (Nat × Word)) :
    g.writeLanes n ws =
      { g with v := (ws.map (fun e => (32 * n + e.1, e.2))).foldl (fun t e => tset 0 t e.1 e.2) g.v } := by
  unfold Group.writeLanes
  induction ws generalizing g with
  | nil => rfl
  | cons e ws ih => simp only [List.foldl_cons, List.map_cons]; rw [ih]; rfl

/-- A word written to each lane of a list: there it reads, and no other element has changed. -/
theorem Group.vget_writeLanes_map (g : Group) (n : Nat) (ls : List Nat) (f : Nat → Word) :
    (∀ l ∈ ls, (g.writeLanes n (ls.map (fun l => (l, f l)))).vget n l = f l) ∧
    ∀ m l, (∀ k ∈ ls, 32 * m + l ≠ 32 * n + k) →
      (g.writeLanes n (ls.map (fun l => (l, f l)))).vget m l = g.vget m l := by
  rw [Group.writeLanes_eq, List.map_map]
  refine ⟨fun l hl => ?_, fun m l h => ?_⟩
  · refine tget_writes_in 0 _ _ _ _ (List.mem_map.mpr ⟨l, hl, rfl⟩) (fun e he hk => ?_)
    obtain ⟨k, _, rfl⟩ := List.mem_map.mp he
    simp only [Function.comp_apply] at hk ⊢
    rw [show k = l by omega]
  · refine tget_writes_out 0 _ _ _ (fun e he hk => ?_)
    obtain ⟨k, hk', rfl⟩ := List.mem_map.mp he
    exact h k hk' (by simpa using hk.symm)

/-! ### Predicates -/

theorem getLsbD_setBit (m : BitVec 32) (i j : Nat) (b : Bool) (hj : j < 32) :
    (setBit m i b).getLsbD j = if j = i then b else m.getLsbD j := by
  unfold setBit
  cases b <;> by_cases h : j = i <;> simp [BitVec.getLsbD_twoPow, h, hj]
  all_goals omega

/-- Bits set in each lane of a list. -/
theorem getLsbD_setBits (m : BitVec 32) (ls : List Nat) (f : Nat → Bool) (j : Nat) (hj : j < 32) :
    ((ls.map (fun l => (l, f l))).foldl (fun m e => setBit m e.1 e.2) m).getLsbD j = if j ∈ ls then f j else m.getLsbD j := by
  induction ls generalizing m with
  | nil => simp
  | cons l ls ih =>
    simp only [List.map_cons, List.foldl_cons, ih, getLsbD_setBit _ _ _ _ hj, List.mem_cons]
    by_cases h : j ∈ ls
    · simp [h]
    · by_cases hl : j = l <;> simp [h, hl]

theorem Group.pget_pset (g : Group) (n m : Nat) (w : BitVec 32) :
    (g.pset n w).pget m = if m = 7 then BitVec.allOnes 32 else if m = n then w else g.pget m := by
  unfold Group.pset Group.pget
  split
  · rfl
  · exact (tget_tset 0 g.p n m w).trans (by simp)

/-! ### Scalars -/

theorem Group.sget_sset (g : Group) (n t m u : Nat) (w : Word) :
    (g.sset n t w).sget m u = if 64 * u + m = 64 * t + n then w else g.sget m u := tget_tset 0 g.s _ _ w

/-- A word written to a scalar in each strand of a list: there it reads, and no other scalar has changed. -/
theorem Group.sget_writeStrands (g : Group) (n : Fin 64) (ts : List Nat) (f : Nat → Word) :
    (∀ t ∈ ts, (g.writeStrands (.s n) ts f).sget n.val t = f t) ∧
    (∀ m t, (∀ k ∈ ts, 64 * t + m ≠ 64 * k + n.val) → (g.writeStrands (.s n) ts f).sget m t = g.sget m t) ∧
    g.writeStrands (.s n) ts f = { g with s := (g.writeStrands (.s n) ts f).s } := by
  have key : ∀ (ts : List Nat) (g : Group), g.writeStrands (.s n) ts f =
      { g with s := (ts.map (fun t => (64 * t + n.val, f t))).foldl (fun t e => tset 0 t e.1 e.2) g.s } := by
    intro ts
    induction ts with
    | nil => intro g; rfl
    | cons t ts ih => intro g; exact ih (g.sset n.val t (f t))
  rw [key]
  refine ⟨fun t ht => ?_, fun m t h => ?_, rfl⟩
  · refine tget_writes_in 0 _ _ _ _ (List.mem_map.mpr ⟨t, ht, rfl⟩) (fun e he hk => ?_)
    obtain ⟨k, _, rfl⟩ := List.mem_map.mp he
    simp only at hk ⊢
    rw [show k = t by omega]
  · refine tget_writes_out 0 _ _ _ (fun e he hk => ?_)
    obtain ⟨k, hk', rfl⟩ := List.mem_map.mp he
    exact h k hk' hk.symm

end Sys2Proof.Machine
end

