-- ==== Sys2Proof/Laws/Ops.lean ====
section
/-! SUPPORT. What the shared operations can do, once each: an instruction's issue, the update of a group and of its strands, the
end of an instruction, and the write of a vector result. -/

namespace Sys2Proof.Machine

open Sys2Proof

/-! ### Issue -/

/-- What an issuing gang is: a gang of a resident, active group that nothing stops. -/
theorem issueCtx_spec {s : State} {c : Ctx} (h : issueCtx s = some c) :
    tfind c.g.gid s.groups = some c.g ∧ c.g.gid = s.cur.1 ∧ c.strands = c.g.gangOf (c.g.strand s.cur.2).gang ∧
      c.lowest = lowestOf c.strands ∧ c.pc = (c.g.strand s.cur.2).pc ∧ c.g.resident = true ∧ c.g.active = true ∧
      c.g.halted = false ∧ c.g.retiring = false ∧ c.g.heldBy = none ∧ c.g.deferred = none := by
  unfold issueCtx at h
  split at h
  · cases h
  · next g hg =>
    split at h
    · next l t hl ht =>
      dsimp only at h
      split at h
      · cases h
      · next hn =>
        simp only [Bool.or_eq_true, not_or, bne_iff_ne, ne_eq, not_not, Bool.not_eq_true', Bool.not_eq_false] at hn
        split at h
        all_goals first | (cases h; done) | skip
        cases h
        have h0 : g.gid = s.cur.1 := by tauto
        refine ⟨by rw [h0]; exact hg, h0, rfl, rfl, rfl, ?_⟩
        simp_all
    · cases h

theorem issue_none {i : Instr} {s : State} {body : Ctx → State → Out} (h : issueCtx s = none) : issue i s body = .next s := by
  unfold issue; rw [h]

/-- A failing issue check raises its trap, whatever the instruction would have done (R126). -/
theorem issue_trap {i : Instr} {s : State} {c : Ctx} {cause sub addr : Nat} {body : Ctx → State → Out}
    (h : issueCtx s = some c) (hw : inWaitHalf i c = false) (hq : inQueueHalf i c = false)
    (ht : issueTrap i c s = some (cause, sub, addr)) : issue i s body = raiseHere c cause sub addr s := by
  simp [issue, h, hw, hq, ht]

/-- An instruction that passes every check has its effect. -/
theorem issue_body {i : Instr} {s : State} {c : Ctx} {body : Ctx → State → Out} (h : issueCtx s = some c)
    (hw : inWaitHalf i c = false) (hq : inQueueHalf i c = false) (ht : issueTrap i c s = none) (hl : lateDue i c.g = none)
    (hm : (formIsMemory i.form && s.memHold c.g.gid) = false) (hd : (c.det && s.teamHold c.g (formClass i.form)) = false) :
    issue i s body = body c s := by
  simp only [issue, h, hw, hq, ht, hl, hm, hd]; simp

/-! ### Groups -/

theorem tmodify_comp {α : Type} (k : Nat) (f h : α → α) (t : Table α) : tmodify k h (tmodify k f t) = tmodify k (h ∘ f) t := by
  induction t with
  | nil => rfl
  | cons e t ih =>
    simp only [tmodify]
    split
    · simp [tmodify, *]
    · simp [tmodify, *]

@[simp] theorem State.modGroup_modGroup (s : State) (gid : Nat) (f h : Group → Group) :
    (s.modGroup gid f).modGroup gid h = s.modGroup gid (h ∘ f) := by
  simp [State.modGroup, tmodify_comp]

/-- The group that an update names is updated. -/
theorem State.tfind_modGroup {s : State} {gid : Nat} {g : Group} (f : Group → Group) (h : tfind gid s.groups = some g) :
    tfind gid (s.modGroup gid f).groups = some (f g) := by simp [State.modGroup, h]

/-- No other group is. -/
theorem State.tfind_modGroup_ne (s : State) {gid k : Nat} (f : Group → Group) (h : k ≠ gid) :
    tfind k (s.modGroup gid f).groups = tfind k s.groups := by simp [State.modGroup, tfind_tmodify_ne h]

/-! ### Strands -/

theorem Group.strand_modStrands (g : Group) (ts : List Nat) (f : Nat → Strand → Strand) (t : Nat) :
    (g.modStrands ts f).strand t = if t ∈ ts ∧ t < g.strands.length then f t (g.strand t) else g.strand t := by
  unfold Group.modStrands Group.strand
  by_cases h : t < g.strands.length
  · simp only [h, and_true, List.getD_eq_getElem?_getD, List.getElem?_mapIdx, List.getElem?_eq_getElem, Option.map_some,
      Option.getD_some, List.contains_iff_mem]
  · simp [h, List.getD_eq_getElem?_getD]

theorem Group.mem_gangOf {g : Group} {n t : Nat} (h : t ∈ g.gangOf n) : t < g.strands.length := by
  unfold Group.gangOf Group.live at h
  simp only [List.mem_filter, List.mem_range] at h
  exact h.1.1

/-- The strands of the issuing gang exist. -/
theorem issueCtx_strands {s : State} {c : Ctx} (h : issueCtx s = some c) {t : Nat} (ht : t ∈ c.strands) :
    t < c.g.strands.length := by
  rw [(issueCtx_spec h).2.2.1] at ht
  exact Group.mem_gangOf ht

/-! ### The end of an instruction -/

/-- The group as an instruction that ends leaves it. -/
def Ctx.stepped (c : Ctx) (i : Instr) (g : Group) : Group :=
  g.modStrands c.strands (fun _ st => { st with pc := c.pc + BitVec.ofNat 64 i.size, wait := .ready })

theorem finish_eq (c : Ctx) (i : Instr) (f : Group → Group) (s : State) :
    finish c i f s = .next (s.modGroup c.g.gid (fun g => c.stepped i (f g))) := by
  simp only [finish, Ctx.advance, State.modGroup_modGroup]; rfl

/-- The place of each strand once the gang has gone on, where the group's strands are as they were. -/
theorem Ctx.strand_stepped {s : State} {c : Ctx} (h : issueCtx s = some c) (i : Instr) {g : Group} (hg : g.strands = c.g.strands)
    (t : Nat) : (c.stepped i g).strand t =
      if t ∈ c.strands then { c.g.strand t with pc := c.pc + BitVec.ofNat 64 i.size, wait := .ready } else c.g.strand t := by
  have hs : g.strand t = c.g.strand t := by simp [Group.strand, hg]
  unfold Ctx.stepped
  rw [Group.strand_modStrands, hs, hg]
  by_cases ht : t ∈ c.strands
  · simp [ht, issueCtx_strands h ht]
  · simp [ht]

end Sys2Proof.Machine
end

