-- ==== Sys2Proof/Laws/PerInstr.lean ====
section
/-! SUPPORT. A fact about each instruction as syntax: its opcode fits the field of its word that holds it (R109, R110). -/

namespace Sys2Proof

/-- The opcode of a form, 0 for a form that has none. -/
def Form.opcode : Form → Nat
  | .vf op _ | .vi op _ | .sf op _ | .mem op _ | .ctl op _ | .eng op _ | .gfx op _ => op
  | .pair op _ _ => op.toCode
  | .lit | .event => 0

end Sys2Proof

namespace Sys2Proof.Laws.Opcode

/-- An opcode field has 8 bits, and a slot's has 6. -/
def Statement (i : Instr) : Prop := i.form.opcode < (match i.form with | .pair _ _ _ => 64 | _ => 256)

theorem fadd (x : VF) : Statement (.fadd x) := Nat.le_of_ble_eq_true rfl
theorem faddImm (x : VI) : Statement (.faddImm x) := Nat.le_of_ble_eq_true rfl
theorem fmul (x : VF) : Statement (.fmul x) := Nat.le_of_ble_eq_true rfl
theorem fmulImm (x : VI) : Statement (.fmulImm x) := Nat.le_of_ble_eq_true rfl
theorem ffma (x : VF) : Statement (.ffma x) := Nat.le_of_ble_eq_true rfl
theorem ffmaImm (x : VI) : Statement (.ffmaImm x) := Nat.le_of_ble_eq_true rfl
theorem fmin (x : VF) : Statement (.fmin x) := Nat.le_of_ble_eq_true rfl
theorem fminImm (x : VI) : Statement (.fminImm x) := Nat.le_of_ble_eq_true rfl
theorem fmax (x : VF) : Statement (.fmax x) := Nat.le_of_ble_eq_true rfl
theorem fmaxImm (x : VI) : Statement (.fmaxImm x) := Nat.le_of_ble_eq_true rfl
theorem frcp (x : VF) : Statement (.frcp x) := Nat.le_of_ble_eq_true rfl
theorem frcpImm (x : VI) : Statement (.frcpImm x) := Nat.le_of_ble_eq_true rfl
theorem fsqrt (x : VF) : Statement (.fsqrt x) := Nat.le_of_ble_eq_true rfl
theorem fsqrtImm (x : VI) : Statement (.fsqrtImm x) := Nat.le_of_ble_eq_true rfl
theorem frsq (x : VF) : Statement (.frsq x) := Nat.le_of_ble_eq_true rfl
theorem frsqImm (x : VI) : Statement (.frsqImm x) := Nat.le_of_ble_eq_true rfl
theorem fexp2 (x : VF) : Statement (.fexp2 x) := Nat.le_of_ble_eq_true rfl
theorem fexp2Imm (x : VI) : Statement (.fexp2Imm x) := Nat.le_of_ble_eq_true rfl
theorem flog2 (x : VF) : Statement (.flog2 x) := Nat.le_of_ble_eq_true rfl
theorem flog2Imm (x : VI) : Statement (.flog2Imm x) := Nat.le_of_ble_eq_true rfl
theorem fsinpi (x : VF) : Statement (.fsinpi x) := Nat.le_of_ble_eq_true rfl
theorem fsinpiImm (x : VI) : Statement (.fsinpiImm x) := Nat.le_of_ble_eq_true rfl
theorem fcospi (x : VF) : Statement (.fcospi x) := Nat.le_of_ble_eq_true rfl
theorem fcospiImm (x : VI) : Statement (.fcospiImm x) := Nat.le_of_ble_eq_true rfl
theorem ffloor (x : VF) : Statement (.ffloor x) := Nat.le_of_ble_eq_true rfl
theorem ffloorImm (x : VI) : Statement (.ffloorImm x) := Nat.le_of_ble_eq_true rfl
theorem ffract (x : VF) : Statement (.ffract x) := Nat.le_of_ble_eq_true rfl
theorem ffractImm (x : VI) : Statement (.ffractImm x) := Nat.le_of_ble_eq_true rfl
theorem fsetp (x : VF) : Statement (.fsetp x) := Nat.le_of_ble_eq_true rfl
theorem hadd2 (x : VF) : Statement (.hadd2 x) := Nat.le_of_ble_eq_true rfl
theorem hadd2Imm (x : VI) : Statement (.hadd2Imm x) := Nat.le_of_ble_eq_true rfl
theorem hmul2 (x : VF) : Statement (.hmul2 x) := Nat.le_of_ble_eq_true rfl
theorem hmul2Imm (x : VI) : Statement (.hmul2Imm x) := Nat.le_of_ble_eq_true rfl
theorem hfma2 (x : VF) : Statement (.hfma2 x) := Nat.le_of_ble_eq_true rfl
theorem hfma2Imm (x : VI) : Statement (.hfma2Imm x) := Nat.le_of_ble_eq_true rfl
theorem bfma2 (x : VF) : Statement (.bfma2 x) := Nat.le_of_ble_eq_true rfl
theorem bfma2Imm (x : VI) : Statement (.bfma2Imm x) := Nat.le_of_ble_eq_true rfl
theorem dot16e4 (x : VF) : Statement (.dot16e4 x) := Nat.le_of_ble_eq_true rfl
theorem dot16e5 (x : VF) : Statement (.dot16e5 x) := Nat.le_of_ble_eq_true rfl
theorem idp4 (x : VF) : Statement (.idp4 x) := Nat.le_of_ble_eq_true rfl
theorem idp4Imm (x : VI) : Statement (.idp4Imm x) := Nat.le_of_ble_eq_true rfl
theorem iadd (x : VF) : Statement (.iadd x) := Nat.le_of_ble_eq_true rfl
theorem iaddImm (x : VI) : Statement (.iaddImm x) := Nat.le_of_ble_eq_true rfl
theorem isub (x : VF) : Statement (.isub x) := Nat.le_of_ble_eq_true rfl
theorem isubImm (x : VI) : Statement (.isubImm x) := Nat.le_of_ble_eq_true rfl
theorem imul (x : VF) : Statement (.imul x) := Nat.le_of_ble_eq_true rfl
theorem imulImm (x : VI) : Statement (.imulImm x) := Nat.le_of_ble_eq_true rfl
theorem imulh (x : VF) : Statement (.imulh x) := Nat.le_of_ble_eq_true rfl
theorem imulhImm (x : VI) : Statement (.imulhImm x) := Nat.le_of_ble_eq_true rfl
theorem umulh (x : VF) : Statement (.umulh x) := Nat.le_of_ble_eq_true rfl
theorem umulhImm (x : VI) : Statement (.umulhImm x) := Nat.le_of_ble_eq_true rfl
theorem imad (x : VF) : Statement (.imad x) := Nat.le_of_ble_eq_true rfl
theorem imadImm (x : VI) : Statement (.imadImm x) := Nat.le_of_ble_eq_true rfl
theorem imin (x : VF) : Statement (.imin x) := Nat.le_of_ble_eq_true rfl
theorem iminImm (x : VI) : Statement (.iminImm x) := Nat.le_of_ble_eq_true rfl
theorem imax (x : VF) : Statement (.imax x) := Nat.le_of_ble_eq_true rfl
theorem imaxImm (x : VI) : Statement (.imaxImm x) := Nat.le_of_ble_eq_true rfl
theorem umin (x : VF) : Statement (.umin x) := Nat.le_of_ble_eq_true rfl
theorem uminImm (x : VI) : Statement (.uminImm x) := Nat.le_of_ble_eq_true rfl
theorem umax (x : VF) : Statement (.umax x) := Nat.le_of_ble_eq_true rfl
theorem umaxImm (x : VI) : Statement (.umaxImm x) := Nat.le_of_ble_eq_true rfl
theorem isetp (x : VF) : Statement (.isetp x) := Nat.le_of_ble_eq_true rfl
theorem usetp (x : VF) : Statement (.usetp x) := Nat.le_of_ble_eq_true rfl
theorem and (x : VF) : Statement (.and x) := Nat.le_of_ble_eq_true rfl
theorem andImm (x : VI) : Statement (.andImm x) := Nat.le_of_ble_eq_true rfl
theorem or (x : VF) : Statement (.or x) := Nat.le_of_ble_eq_true rfl
theorem orImm (x : VI) : Statement (.orImm x) := Nat.le_of_ble_eq_true rfl
theorem xor (x : VF) : Statement (.xor x) := Nat.le_of_ble_eq_true rfl
theorem xorImm (x : VI) : Statement (.xorImm x) := Nat.le_of_ble_eq_true rfl
theorem shl (x : VF) : Statement (.shl x) := Nat.le_of_ble_eq_true rfl
theorem shlImm (x : VI) : Statement (.shlImm x) := Nat.le_of_ble_eq_true rfl
theorem shr (x : VF) : Statement (.shr x) := Nat.le_of_ble_eq_true rfl
theorem shrImm (x : VI) : Statement (.shrImm x) := Nat.le_of_ble_eq_true rfl
theorem sar (x : VF) : Statement (.sar x) := Nat.le_of_ble_eq_true rfl
theorem sarImm (x : VI) : Statement (.sarImm x) := Nat.le_of_ble_eq_true rfl
theorem bfe (x : VF) : Statement (.bfe x) := Nat.le_of_ble_eq_true rfl
theorem bfeImm (x : VI) : Statement (.bfeImm x) := Nat.le_of_ble_eq_true rfl
theorem bfi (x : VF) : Statement (.bfi x) := Nat.le_of_ble_eq_true rfl
theorem bfiImm (x : VI) : Statement (.bfiImm x) := Nat.le_of_ble_eq_true rfl
theorem popc (x : VF) : Statement (.popc x) := Nat.le_of_ble_eq_true rfl
theorem popcImm (x : VI) : Statement (.popcImm x) := Nat.le_of_ble_eq_true rfl
theorem clz (x : VF) : Statement (.clz x) := Nat.le_of_ble_eq_true rfl
theorem clzImm (x : VI) : Statement (.clzImm x) := Nat.le_of_ble_eq_true rfl
theorem brev (x : VF) : Statement (.brev x) := Nat.le_of_ble_eq_true rfl
theorem brevImm (x : VI) : Statement (.brevImm x) := Nat.le_of_ble_eq_true rfl
theorem mov (x : VF) : Statement (.mov x) := Nat.le_of_ble_eq_true rfl
theorem movImm (x : VI) : Statement (.movImm x) := Nat.le_of_ble_eq_true rfl
theorem sel (x : VF) : Statement (.sel x) := Nat.le_of_ble_eq_true rfl
theorem vidx (x : VF) : Statement (.vidx x) := Nat.le_of_ble_eq_true rfl
theorem vidxw (x : VF) : Statement (.vidxw x) := Nat.le_of_ble_eq_true rfl
theorem cvt (x : VF) : Statement (.cvt x) := Nat.le_of_ble_eq_true rfl
theorem cvtef (x : VF) : Statement (.cvtef x) := Nat.le_of_ble_eq_true rfl
theorem cvtsr (x : VF) : Statement (.cvtsr x) := Nat.le_of_ble_eq_true rfl
theorem rng (x : VI) : Statement (.rng x) := Nat.le_of_ble_eq_true rfl
theorem shfl (x : VF) : Statement (.shfl x) := Nat.le_of_ble_eq_true rfl
theorem shflImm (x : VI) : Statement (.shflImm x) := Nat.le_of_ble_eq_true rfl
theorem putl (x : VF) : Statement (.putl x) := Nat.le_of_ble_eq_true rfl
theorem putlImm (x : VI) : Statement (.putlImm x) := Nat.le_of_ble_eq_true rfl
theorem vote (x : VF) : Statement (.vote x) := Nat.le_of_ble_eq_true rfl
theorem ballot (x : VF) : Statement (.ballot x) := Nat.le_of_ble_eq_true rfl
theorem ballotImm (x : VI) : Statement (.ballotImm x) := Nat.le_of_ble_eq_true rfl
theorem redux (x : VF) : Statement (.redux x) := Nat.le_of_ble_eq_true rfl
theorem faddSlot (x : SlotArgs) (y : PairSlot) : Statement (.faddSlot x y) := Nat.le_of_ble_eq_true rfl
theorem fmulSlot (x : SlotArgs) (y : PairSlot) : Statement (.fmulSlot x y) := Nat.le_of_ble_eq_true rfl
theorem fminSlot (x : SlotArgs) (y : PairSlot) : Statement (.fminSlot x y) := Nat.le_of_ble_eq_true rfl
theorem fmaxSlot (x : SlotArgs) (y : PairSlot) : Statement (.fmaxSlot x y) := Nat.le_of_ble_eq_true rfl
theorem iaddSlot (x : SlotArgs) (y : PairSlot) : Statement (.iaddSlot x y) := Nat.le_of_ble_eq_true rfl
theorem isubSlot (x : SlotArgs) (y : PairSlot) : Statement (.isubSlot x y) := Nat.le_of_ble_eq_true rfl
theorem imulSlot (x : SlotArgs) (y : PairSlot) : Statement (.imulSlot x y) := Nat.le_of_ble_eq_true rfl
theorem andSlot (x : SlotArgs) (y : PairSlot) : Statement (.andSlot x y) := Nat.le_of_ble_eq_true rfl
theorem orSlot (x : SlotArgs) (y : PairSlot) : Statement (.orSlot x y) := Nat.le_of_ble_eq_true rfl
theorem xorSlot (x : SlotArgs) (y : PairSlot) : Statement (.xorSlot x y) := Nat.le_of_ble_eq_true rfl
theorem shlSlot (x : SlotArgs) (y : PairSlot) : Statement (.shlSlot x y) := Nat.le_of_ble_eq_true rfl
theorem shrSlot (x : SlotArgs) (y : PairSlot) : Statement (.shrSlot x y) := Nat.le_of_ble_eq_true rfl
theorem sarSlot (x : SlotArgs) (y : PairSlot) : Statement (.sarSlot x y) := Nat.le_of_ble_eq_true rfl
theorem movSlot (x : SlotArgs) (y : PairSlot) : Statement (.movSlot x y) := Nat.le_of_ble_eq_true rfl
theorem iminSlot (x : SlotArgs) (y : PairSlot) : Statement (.iminSlot x y) := Nat.le_of_ble_eq_true rfl
theorem imaxSlot (x : SlotArgs) (y : PairSlot) : Statement (.imaxSlot x y) := Nat.le_of_ble_eq_true rfl
theorem hadd2Slot (x : SlotArgs) (y : PairSlot) : Statement (.hadd2Slot x y) := Nat.le_of_ble_eq_true rfl
theorem hmul2Slot (x : SlotArgs) (y : PairSlot) : Statement (.hmul2Slot x y) := Nat.le_of_ble_eq_true rfl
theorem slotNop (y : PairSlot) : Statement (.slotNop y) := Nat.le_of_ble_eq_true rfl
theorem sadd (x : SF) : Statement (.sadd x) := Nat.le_of_ble_eq_true rfl
theorem ssub (x : SF) : Statement (.ssub x) := Nat.le_of_ble_eq_true rfl
theorem smul (x : SF) : Statement (.smul x) := Nat.le_of_ble_eq_true rfl
theorem smulh (x : SF) : Statement (.smulh x) := Nat.le_of_ble_eq_true rfl
theorem sand (x : SF) : Statement (.sand x) := Nat.le_of_ble_eq_true rfl
theorem sor (x : SF) : Statement (.sor x) := Nat.le_of_ble_eq_true rfl
theorem sxor (x : SF) : Statement (.sxor x) := Nat.le_of_ble_eq_true rfl
theorem sshl (x : SF) : Statement (.sshl x) := Nat.le_of_ble_eq_true rfl
theorem sshr (x : SF) : Statement (.sshr x) := Nat.le_of_ble_eq_true rfl
theorem ssar (x : SF) : Statement (.ssar x) := Nat.le_of_ble_eq_true rfl
theorem smin (x : SF) : Statement (.smin x) := Nat.le_of_ble_eq_true rfl
theorem smax (x : SF) : Statement (.smax x) := Nat.le_of_ble_eq_true rfl
theorem smov (x : SF) : Statement (.smov x) := Nat.le_of_ble_eq_true rfl
theorem ssetp (x : SF) : Statement (.ssetp x) := Nat.le_of_ble_eq_true rfl
theorem ssel (x : SF) : Statement (.ssel x) := Nat.le_of_ble_eq_true rfl
theorem sfadd (x : SF) : Statement (.sfadd x) := Nat.le_of_ble_eq_true rfl
theorem sfmul (x : SF) : Statement (.sfmul x) := Nat.le_of_ble_eq_true rfl
theorem sffma (x : SF) : Statement (.sffma x) := Nat.le_of_ble_eq_true rfl
theorem sbfe (x : SF) : Statement (.sbfe x) := Nat.le_of_ble_eq_true rfl
theorem spopc (x : SF) : Statement (.spopc x) := Nat.le_of_ble_eq_true rfl
theorem sread (x : SF) : Statement (.sread x) := Nat.le_of_ble_eq_true rfl
theorem swrite (x : SF) : Statement (.swrite x) := Nat.le_of_ble_eq_true rfl
theorem sfromv (x : SF) : Statement (.sfromv x) := Nat.le_of_ble_eq_true rfl
theorem ldB (x : MEM) : Statement (.ldB x) := Nat.le_of_ble_eq_true rfl
theorem ldH (x : MEM) : Statement (.ldH x) := Nat.le_of_ble_eq_true rfl
theorem ldW (x : MEM) : Statement (.ldW x) := Nat.le_of_ble_eq_true rfl
theorem ldD (x : MEM) : Statement (.ldD x) := Nat.le_of_ble_eq_true rfl
theorem ldQ (x : MEM) : Statement (.ldQ x) := Nat.le_of_ble_eq_true rfl
theorem ldBs (x : MEM) : Statement (.ldBs x) := Nat.le_of_ble_eq_true rfl
theorem ldHs (x : MEM) : Statement (.ldHs x) := Nat.le_of_ble_eq_true rfl
theorem stB (x : MEM) : Statement (.stB x) := Nat.le_of_ble_eq_true rfl
theorem stH (x : MEM) : Statement (.stH x) := Nat.le_of_ble_eq_true rfl
theorem stW (x : MEM) : Statement (.stW x) := Nat.le_of_ble_eq_true rfl
theorem stD (x : MEM) : Statement (.stD x) := Nat.le_of_ble_eq_true rfl
theorem stQ (x : MEM) : Statement (.stQ x) := Nat.le_of_ble_eq_true rfl
theorem lduW (x : MEM) : Statement (.lduW x) := Nat.le_of_ble_eq_true rfl
theorem lduD (x : MEM) : Statement (.lduD x) := Nat.le_of_ble_eq_true rfl
theorem ldc (x : MEM) : Statement (.ldc x) := Nat.le_of_ble_eq_true rfl
theorem ldsW (x : MEM) : Statement (.ldsW x) := Nat.le_of_ble_eq_true rfl
theorem ldsD (x : MEM) : Statement (.ldsD x) := Nat.le_of_ble_eq_true rfl
theorem ldsQ (x : MEM) : Statement (.ldsQ x) := Nat.le_of_ble_eq_true rfl
theorem stsW (x : MEM) : Statement (.stsW x) := Nat.le_of_ble_eq_true rfl
theorem stsD (x : MEM) : Statement (.stsD x) := Nat.le_of_ble_eq_true rfl
theorem stsQ (x : MEM) : Statement (.stsQ x) := Nat.le_of_ble_eq_true rfl
theorem atomAdd (x : MEM) : Statement (.atomAdd x) := Nat.le_of_ble_eq_true rfl
theorem atomMin (x : MEM) : Statement (.atomMin x) := Nat.le_of_ble_eq_true rfl
theorem atomMax (x : MEM) : Statement (.atomMax x) := Nat.le_of_ble_eq_true rfl
theorem atomUmin (x : MEM) : Statement (.atomUmin x) := Nat.le_of_ble_eq_true rfl
theorem atomUmax (x : MEM) : Statement (.atomUmax x) := Nat.le_of_ble_eq_true rfl
theorem atomAnd (x : MEM) : Statement (.atomAnd x) := Nat.le_of_ble_eq_true rfl
theorem atomOr (x : MEM) : Statement (.atomOr x) := Nat.le_of_ble_eq_true rfl
theorem atomXor (x : MEM) : Statement (.atomXor x) := Nat.le_of_ble_eq_true rfl
theorem atomXchg (x : MEM) : Statement (.atomXchg x) := Nat.le_of_ble_eq_true rfl
theorem atomCas (x : MEM) : Statement (.atomCas x) := Nat.le_of_ble_eq_true rfl
theorem atomFadd (x : MEM) : Statement (.atomFadd x) := Nat.le_of_ble_eq_true rfl
theorem atomFmin (x : MEM) : Statement (.atomFmin x) := Nat.le_of_ble_eq_true rfl
theorem atomFmax (x : MEM) : Statement (.atomFmax x) := Nat.le_of_ble_eq_true rfl
theorem redAdd (x : MEM) : Statement (.redAdd x) := Nat.le_of_ble_eq_true rfl
theorem redMin (x : MEM) : Statement (.redMin x) := Nat.le_of_ble_eq_true rfl
theorem redMax (x : MEM) : Statement (.redMax x) := Nat.le_of_ble_eq_true rfl
theorem redUmin (x : MEM) : Statement (.redUmin x) := Nat.le_of_ble_eq_true rfl
theorem redUmax (x : MEM) : Statement (.redUmax x) := Nat.le_of_ble_eq_true rfl
theorem redAnd (x : MEM) : Statement (.redAnd x) := Nat.le_of_ble_eq_true rfl
theorem redOr (x : MEM) : Statement (.redOr x) := Nat.le_of_ble_eq_true rfl
theorem redXor (x : MEM) : Statement (.redXor x) := Nat.le_of_ble_eq_true rfl
theorem redXchg (x : MEM) : Statement (.redXchg x) := Nat.le_of_ble_eq_true rfl
theorem redCas (x : MEM) : Statement (.redCas x) := Nat.le_of_ble_eq_true rfl
theorem redFadd (x : MEM) : Statement (.redFadd x) := Nat.le_of_ble_eq_true rfl
theorem redFmin (x : MEM) : Statement (.redFmin x) := Nat.le_of_ble_eq_true rfl
theorem redFmax (x : MEM) : Statement (.redFmax x) := Nat.le_of_ble_eq_true rfl
theorem phase (x : MEM) : Statement (.phase x) := Nat.le_of_ble_eq_true rfl
theorem pref (x : MEM) : Statement (.pref x) := Nat.le_of_ble_eq_true rfl
theorem cpyIn (x : MEM) : Statement (.cpyIn x) := Nat.le_of_ble_eq_true rfl
theorem cpyOut (x : MEM) : Statement (.cpyOut x) := Nat.le_of_ble_eq_true rfl
theorem cbank (x : MEM) : Statement (.cbank x) := Nat.le_of_ble_eq_true rfl
theorem qbind (x : MEM) : Statement (.qbind x) := Nat.le_of_ble_eq_true rfl
theorem wakeToken (x : MEM) : Statement (.wakeToken x) := Nat.le_of_ble_eq_true rfl
theorem wakePage (x : MEM) : Statement (.wakePage x) := Nat.le_of_ble_eq_true rfl
theorem bra (x : CTL) : Statement (.bra x) := Nat.le_of_ble_eq_true rfl
theorem brx (x : CTL) : Statement (.brx x) := Nat.le_of_ble_eq_true rfl
theorem call (x : CTL) : Statement (.call x) := Nat.le_of_ble_eq_true rfl
theorem ret (x : CTL) : Statement (.ret x) := Nat.le_of_ble_eq_true rfl
theorem ppush (x : CTL) : Statement (.ppush x) := Nat.le_of_ble_eq_true rfl
theorem pinv : Statement .pinv := Nat.le_of_ble_eq_true rfl
theorem ppop : Statement .ppop := Nat.le_of_ble_eq_true rfl
theorem regang : Statement .regang := Nat.le_of_ble_eq_true rfl
theorem waitf (x : CTL) : Statement (.waitf x) := Nat.le_of_ble_eq_true rfl
theorem yield : Statement .yield := Nat.le_of_ble_eq_true rfl
theorem exit : Statement .exit := Nat.le_of_ble_eq_true rfl
theorem trap (x : CTL) : Statement (.trap x) := Nat.le_of_ble_eq_true rfl
theorem nop : Statement .nop := Nat.le_of_ble_eq_true rfl
theorem barInit (x : CTL) : Statement (.barInit x) := Nat.le_of_ble_eq_true rfl
theorem barArv (x : CTL) : Statement (.barArv x) := Nat.le_of_ble_eq_true rfl
theorem barWait (x : CTL) : Statement (.barWait x) := Nat.le_of_ble_eq_true rfl
theorem barSync (x : CTL) : Statement (.barSync x) := Nat.le_of_ble_eq_true rfl
theorem barDrop (x : CTL) : Statement (.barDrop x) := Nat.le_of_ble_eq_true rfl
theorem sloop (x : CTL) : Statement (.sloop x) := Nat.le_of_ble_eq_true rfl
theorem trapret : Statement .trapret := Nat.le_of_ble_eq_true rfl
theorem syscall (x : CTL) : Statement (.syscall x) := Nat.le_of_ble_eq_true rfl
theorem litexec : Statement .litexec := Nat.le_of_ble_eq_true rfl
theorem mmload (x : ENG) : Statement (.mmload x) := Nat.le_of_ble_eq_true rfl
theorem mmrun (x : ENG) : Statement (.mmrun x) := Nat.le_of_ble_eq_true rfl
theorem mmdrainMem (x : ENG) : Statement (.mmdrainMem x) := Nat.le_of_ble_eq_true rfl
theorem mmdrainLoc (x : ENG) : Statement (.mmdrainLoc x) := Nat.le_of_ble_eq_true rfl
theorem mmdrainRing (x : ENG) : Statement (.mmdrainRing x) := Nat.le_of_ble_eq_true rfl
theorem mmdrainQ8 (x : ENG) : Statement (.mmdrainQ8 x) := Nat.le_of_ble_eq_true rfl
theorem mmdrainStat (x : ENG) : Statement (.mmdrainStat x) := Nat.le_of_ble_eq_true rfl
theorem spawn (x : ENG) : Statement (.spawn x) := Nat.le_of_ble_eq_true rfl
theorem task (x : ENG) : Statement (.task x) := Nat.le_of_ble_eq_true rfl
theorem tabortRetry : Statement .tabortRetry := Nat.le_of_ble_eq_true rfl
theorem tabortDrop : Statement .tabortDrop := Nat.le_of_ble_eq_true rfl
theorem twait (x : ENG) : Statement (.twait x) := Nat.le_of_ble_eq_true rfl
theorem texS (x : GFX) : Statement (.texS x) := Nat.le_of_ble_eq_true rfl
theorem texL (x : GFX) : Statement (.texL x) := Nat.le_of_ble_eq_true rfl
theorem texQ (x : GFX) : Statement (.texQ x) := Nat.le_of_ble_eq_true rfl
theorem rayT (x : GFX) : Statement (.rayT x) := Nat.le_of_ble_eq_true rfl
theorem rayO (x : GFX) : Statement (.rayO x) := Nat.le_of_ble_eq_true rfl
theorem rayA (x : GFX) : Statement (.rayA x) := Nat.le_of_ble_eq_true rfl
theorem kclr (x : GFX) : Statement (.kclr x) := Nat.le_of_ble_eq_true rfl
theorem klobe (x : GFX) : Statement (.klobe x) := Nat.le_of_ble_eq_true rfl
theorem kmix (x : GFX) : Statement (.kmix x) := Nat.le_of_ble_eq_true rfl
theorem klayer (x : GFX) : Statement (.klayer x) := Nat.le_of_ble_eq_true rfl
theorem kscale (x : GFX) : Statement (.kscale x) := Nat.le_of_ble_eq_true rfl
theorem ksample (x : GFX) : Statement (.ksample x) := Nat.le_of_ble_eq_true rfl
theorem keval (x : GFX) : Statement (.keval x) := Nat.le_of_ble_eq_true rfl
theorem kdens (x : GFX) : Statement (.kdens x) := Nat.le_of_ble_eq_true rfl
theorem kspill (x : GFX) : Statement (.kspill x) := Nat.le_of_ble_eq_true rfl
theorem kfill (x : GFX) : Statement (.kfill x) := Nat.le_of_ble_eq_true rfl
theorem kinfo (x : GFX) : Statement (.kinfo x) := Nat.le_of_ble_eq_true rfl
theorem kmov (x : GFX) : Statement (.kmov x) := Nat.le_of_ble_eq_true rfl
theorem tcInv : Statement .tcInv := Nat.le_of_ble_eq_true rfl
theorem tcInvFlush : Statement .tcInvFlush := Nat.le_of_ble_eq_true rfl
theorem tcInvAll : Statement .tcInvAll := Nat.le_of_ble_eq_true rfl
theorem tcPcopy : Statement .tcPcopy := Nat.le_of_ble_eq_true rfl
theorem tccmdInvalid : Statement .tccmdInvalid := Nat.le_of_ble_eq_true rfl
theorem tcCommandDone : Statement .tcCommandDone := Nat.le_of_ble_eq_true rfl
theorem tcstatRead : Statement .tcstatRead := Nat.le_of_ble_eq_true rfl
theorem registerWrite : Statement .registerWrite := Nat.le_of_ble_eq_true rfl
theorem translationAnswer : Statement .translationAnswer := Nat.le_of_ble_eq_true rfl
theorem releaseBoundary : Statement .releaseBoundary := Nat.le_of_ble_eq_true rfl
theorem acquireBoundary : Statement .acquireBoundary := Nat.le_of_ble_eq_true rfl
theorem implicitBoundary : Statement .implicitBoundary := Nat.le_of_ble_eq_true rfl
theorem immediateAtHome : Statement .immediateAtHome := Nat.le_of_ble_eq_true rfl
theorem atomicAtHome : Statement .atomicAtHome := Nat.le_of_ble_eq_true rfl
theorem longLatencyComplete : Statement .longLatencyComplete := Nat.le_of_ble_eq_true rfl
theorem clbmodeWrite : Statement .clbmodeWrite := Nat.le_of_ble_eq_true rfl
theorem bankModeChange : Statement .bankModeChange := Nat.le_of_ble_eq_true rfl
theorem granuleServe : Statement .granuleServe := Nat.le_of_ble_eq_true rfl
theorem queueElementServe : Statement .queueElementServe := Nat.le_of_ble_eq_true rfl
theorem teamPlacement : Statement .teamPlacement := Nat.le_of_ble_eq_true rfl
theorem groupRetire : Statement .groupRetire := Nat.le_of_ble_eq_true rfl
theorem activeSetExchange : Statement .activeSetExchange := Nat.le_of_ble_eq_true rfl
theorem istabWrite : Statement .istabWrite := Nat.le_of_ble_eq_true rfl
theorem regangMeet : Statement .regangMeet := Nat.le_of_ble_eq_true rfl
theorem yieldEnd : Statement .yieldEnd := Nat.le_of_ble_eq_true rfl
theorem qdoor : Statement .qdoor := Nat.le_of_ble_eq_true rfl
theorem nopPacket : Statement .nopPacket := Nat.le_of_ble_eq_true rfl
theorem launchPacket : Statement .launchPacket := Nat.le_of_ble_eq_true rfl
theorem launchIndPacket : Statement .launchIndPacket := Nat.le_of_ble_eq_true rfl
theorem waitPacket : Statement .waitPacket := Nat.le_of_ble_eq_true rfl
theorem waitRecheck : Statement .waitRecheck := Nat.le_of_ble_eq_true rfl
theorem signalPacket : Statement .signalPacket := Nat.le_of_ble_eq_true rfl
theorem copyPacket : Statement .copyPacket := Nat.le_of_ble_eq_true rfl
theorem loopPacket : Statement .loopPacket := Nat.le_of_ble_eq_true rfl
theorem endLoopPacket : Statement .endLoopPacket := Nat.le_of_ble_eq_true rfl
theorem ifPacket : Statement .ifPacket := Nat.le_of_ble_eq_true rfl
theorem orderPacket : Statement .orderPacket := Nat.le_of_ble_eq_true rfl
theorem queueTimeslice : Statement .queueTimeslice := Nat.le_of_ble_eq_true rfl
theorem deadlineMiss : Statement .deadlineMiss := Nat.le_of_ble_eq_true rfl
theorem queueRegister : Statement .queueRegister := Nat.le_of_ble_eq_true rfl
theorem queueUnregister : Statement .queueUnregister := Nat.le_of_ble_eq_true rfl
theorem syscallAnswer : Statement .syscallAnswer := Nat.le_of_ble_eq_true rfl
theorem ringPosting : Statement .ringPosting := Nat.le_of_ble_eq_true rfl
theorem ringRegWrite : Statement .ringRegWrite := Nat.le_of_ble_eq_true rfl
theorem eventPost : Statement .eventPost := Nat.le_of_ble_eq_true rfl
theorem evqRegWrite : Statement .evqRegWrite := Nat.le_of_ble_eq_true rfl
theorem gkill : Statement .gkill := Nat.le_of_ble_eq_true rfl
theorem acmd : Statement .acmd := Nat.le_of_ble_eq_true rfl
theorem attestReportReady : Statement .attestReportReady := Nat.le_of_ble_eq_true rfl
theorem careClear : Statement .careClear := Nat.le_of_ble_eq_true rfl
theorem hostIpaAccess : Statement .hostIpaAccess := Nat.le_of_ble_eq_true rfl
theorem flitReceive : Statement .flitReceive := Nat.le_of_ble_eq_true rfl
theorem flitReplay : Statement .flitReplay := Nat.le_of_ble_eq_true rfl
theorem laneFailure : Statement .laneFailure := Nat.le_of_ble_eq_true rfl
theorem timebSync : Statement .timebSync := Nat.le_of_ble_eq_true rfl
theorem bootRom : Statement .bootRom := Nat.le_of_ble_eq_true rfl
theorem imageVerify : Statement .imageVerify := Nat.le_of_ble_eq_true rfl
theorem fullServiceStart : Statement .fullServiceStart := Nat.le_of_ble_eq_true rfl
theorem clockStretch : Statement .clockStretch := Nat.le_of_ble_eq_true rfl
theorem coreFailure : Statement .coreFailure := Nat.le_of_ble_eq_true rfl
theorem l2SliceFailure : Statement .l2SliceFailure := Nat.le_of_ble_eq_true rfl
theorem softError : Statement .softError := Nat.le_of_ble_eq_true rfl
theorem uncorrectableGroupError : Statement .uncorrectableGroupError := Nat.le_of_ble_eq_true rfl
theorem preemptTeam : Statement .preemptTeam := Nat.le_of_ble_eq_true rfl
theorem resumeTeam : Statement .resumeTeam := Nat.le_of_ble_eq_true rfl
theorem taskDispatch : Statement .taskDispatch := Nat.le_of_ble_eq_true rfl
theorem taskFinish : Statement .taskFinish := Nat.le_of_ble_eq_true rfl
theorem taskCommit : Statement .taskCommit := Nat.le_of_ble_eq_true rfl
theorem tokenPass : Statement .tokenPass := Nat.le_of_ble_eq_true rfl
theorem foreignAtomicApply : Statement .foreignAtomicApply := Nat.le_of_ble_eq_true rfl
theorem prismCommandStart : Statement .prismCommandStart := Nat.le_of_ble_eq_true rfl
theorem rayLaneFinish : Statement .rayLaneFinish := Nat.le_of_ble_eq_true rfl
theorem illegalInstruction : Statement .illegalInstruction := Nat.le_of_ble_eq_true rfl
theorem fetchFault : Statement .fetchFault := Nat.le_of_ble_eq_true rfl
theorem hbmSymbolError : Statement .hbmSymbolError := Nat.le_of_ble_eq_true rfl
theorem pageTableWrite : Statement .pageTableWrite := Nat.le_of_ble_eq_true rfl

end Sys2Proof.Laws.Opcode
end

