-- ==== Sys2Proof/Tests/Slice0.lean ====
section
/-! SUPPORT. Tests of the model's own: ill-formed terms that the checks refuse, words written out from the spec's encoding, single
steps with results worked out from the spec, and a state that meets the hypotheses of each statement. -/

open Sys2Proof Sys2Proof.Machine Sys2Proof.Claim

namespace Sys2Proof.Tests

set_option Elab.async false

/-! ### Ill-formed terms, one for each check -/

def gVF : VF := ⟨.v 1, .v 2, .v 3, .unused, 0, 0, false, 0, 0, 7, false⟩
def gVI : VI := ⟨.v 1, .v 2, .unused, 0, 0, 7, false, 5⟩
def gSF : SF := ⟨.s 1, .s 2, .s 3, .unused, 0⟩
def gMEM : MEM := ⟨.v 4, .s 2, .unused, 8, 0, 0, false, false, false, false, 3⟩
def gENG : ENG := ⟨.s 2, .s 4, .unused, 0x82, 0, false, false, 0, 3⟩
def gGFX : GFX := ⟨.v 8, .v 0, .unused, .v 30, 0, 0, 0, 3⟩
def ctl (cond : Src) (f12 : BitVec 12) (off : BitVec 32) : CTL := ⟨cond, f12, off⟩
def refusedAll (is : List Instr) : Bool := is.all (fun i => !i.wf)

theorem test_wf_accepts : [Instr.iadd gVF, .iaddImm gVI, .sadd gSF, .ldW gMEM, .mmrun gENG, .texS gGFX].all Instr.wf = true := by decide +kernel
theorem test_wf_vf_destination : refusedAll [.iadd { gVF with dst := .s 1 }, .iadd { gVF with dst := .none }, .fsetp { gVF with dst := .v 1, c := .code 0 },
  .vidxw { gVF with dst := .q 1 }] = true := by decide +kernel
theorem test_wf_vf_sources : refusedAll [.iadd { gVF with c := .v 1 }, .iadd { gVF with a := .imm }, .iadd { gVF with a := .code 3 },
  .idp4 { gVF with a := .s 1, c := .v 4 }, .dot16e4 { gVF with a := .v 2, b := .v 4, c := .v 9 }] = true := by decide +kernel
theorem test_wf_vf_codes : refusedAll [.fsetp { gVF with dst := .p 1, c := .code 8 }, .isetp { gVF with dst := .p 1, c := .code 6 },
  .sel { gVF with c := .code 8 }, .vote { gVF with dst := .p 1, b := .unused, c := .code 3 }, .redux { gVF with b := .unused, c := .code 11 },
  .cvt { gVF with b := .unused, c := .code 0x0C }, .cvt { gVF with b := .unused, c := .code 0x41 }, .cvt { gVF with b := .unused, c := .code 0xD0 },
  .cvtef { gVF with b := .code 0, c := .code 0x40 }, .cvtef { gVF with b := .code 8, c := .code 0 }, .cvtsr { gVF with c := .code 0x20 }] = true := by
  decide +kernel
theorem test_wf_vf_modifiers : refusedAll [.and { gVF with neg := 4 }, .fsetp { gVF with dst := .p 1, c := .code 0, abs := 1 }, .iadd { gVF with neg := 1 },
  .and { gVF with clamp := true }, .fadd { gVF with scale := 4 }, .iadd { gVF with scale := 1 }, .iadd { gVF with pinv := true }] = true := by decide +kernel
theorem test_wf_literals_agree : refusedAll [.iadd { gVF with a := .lit 1, b := .lit 2 }, .sadd { gSF with a := .lit 1, b := .lit 2 }] = true := by
  decide +kernel
theorem test_wf_vi : refusedAll [.popcImm gVI, .iaddImm { gVI with b := .v 3 }, .iaddImm { gVI with neg := 1 }, .iaddImm { gVI with pinv := true },
  .andImm { gVI with neg := 2 }, .idp4Imm { gVI with a := .s 1, b := .v 3 }] = true := by decide +kernel
theorem test_wf_sf : refusedAll [.sadd { gSF with imm := 1 }, .sadd { gSF with a := .v 1 }, .sadd { gSF with dst := .v 1 }, .sadd { gSF with a := .q 1 },
  .sread ⟨.s 1, .imm, .unused, .unused, 0x004⟩, .sread ⟨.s 2, .imm, .unused, .unused, 0x006⟩, .swrite ⟨.none, .imm, .s 2, .unused, 0x000⟩,
  .swrite ⟨.none, .imm, .s 3, .unused, 0x019⟩, .ssetp ⟨.p 1, .s 1, .s 2, .code 6, 0⟩] = true := by decide +kernel
theorem test_wf_mem : refusedAll [.ldQ { gMEM with data := .v 6 }, .ldQ { gMEM with data := .s 4 }, .ldW { gMEM with base := .s 3 }, .ldW { gMEM with sb := .v 1 },
  .ldW { gMEM with fe := 1 }, .ldW { gMEM with acq := true }, .ldW { gMEM with scope := 3 }, .ldW { gMEM with flag := 12 }, .ldW { gMEM with flag := 14 },
  .ldsW { gMEM with fe := 3 }, .stsW { gMEM with fe := 1 }, .ldsW { gMEM with scope := 1 }, .atomAdd { gMEM with sb := .lane }, .redAdd { gMEM with sb := .v 1 },
  .phase { gMEM with data := .unused, base := .unused, offset := 0 }, .cbank { gMEM with data := .unused, base := .unused, fe := 3 }] = true := by decide +kernel
theorem test_wf_ctl : refusedAll [.bra (ctl (.code 16) 0 0), .bra (ctl (.code 1) 2 0), .brx (ctl (.s 3) 0 0), .brx (ctl (.s 2) 0 1), .ppush (ctl (.code 1) 1 0),
  .barInit (ctl .unused 0 65), .barInit (ctl .unused 0 0), .barArv (ctl .unused 16 1), .waitf (ctl .unused 1 1), .sloop (ctl (.v 1) 0 0)] = true := by
  decide +kernel
theorem test_wf_eng : refusedAll [.mmrun { gENG with imm := 0x81 }, .mmrun { gENG with imm := 0x89 }, .mmrun { gENG with a := .v 2 }, .mmrun { gENG with rel := true },
  .mmdrainQ8 { gENG with a := .unused, imm := 6, sub := 3 }, .mmdrainQ8 { gENG with a := .unused, imm := 8, sub := 3 },
  .mmdrainQ8 { gENG with a := .unused, imm := 0, sub := 2 }, .task { gENG with a := .s 2, b := .s 60, c := .s 0, imm := 0 },
  .twait { gENG with b := .unused, imm := 0 }] = true := by decide +kernel
theorem test_wf_gfx : refusedAll [.texS { gGFX with dst := .v 124 }, .texS { gGFX with imm := 3 }, .texQ { gGFX with imm := 8 }, .texS { gGFX with kreg := 1 },
  .kmix { gGFX with dst := .v 0, a := .unused, c := .unused, kreg := 8 }, .klobe { gGFX with dst := .v 0, c := .unused, kreg := 5 },
  .kspill { gGFX with dst := .v 0, a := .v 3, c := .unused }, .kmix { gGFX with dst := .v 1, a := .unused, c := .unused }] = true := by decide +kernel
theorem test_wf_pair : refusedAll [.faddSlot ⟨1, .v 2, .v 3⟩ ⟨.fadd, ⟨1, .v 4, .v 5⟩⟩, .faddSlot ⟨1, .lane, .v 3⟩ ⟨.fadd, ⟨2, .v 4, .v 5⟩⟩,
  .movSlot ⟨1, .v 2, .v 3⟩ ⟨.fadd, ⟨2, .v 4, .v 5⟩⟩, .faddSlot ⟨1, .v 2, .v 3⟩ ⟨.nop, ⟨2, .unused, .unused⟩⟩] = true := by decide +kernel
theorem test_wf_event : Instr.tcInv.wf = false := by decide +kernel

/-! ### Words -/

/-- A word, its literal word where it takes one, and the instruction both stand for. -/
def reads (e : Nat × Nat × Instr) : Bool :=
  (match decode (BitVec.ofNat 64 e.1) (BitVec.ofNat 64 e.2.1) with | .ok i => i == e.2.2 | .error _ => false) && e.2.2.wf &&
    encode e.2.2 == BitVec.ofNat 64 e.1 :: (if e.2.1 = 0 then [] else [BitVec.ofNat 64 e.2.1])

/-! One word for every constructor that has one, put together field by field from the maps of R109 and the opcode map of R127. -/

def vfWords1 : List (Nat × Nat × Instr) := [
  (0x000140183E092608, 0, .fadd ⟨.v 20, .v 1, .s 3, .const 0, 4, 2, true, 1, 4, 0, true⟩),
  (0x001150183E092A18, 0, .fmul ⟨.v 21, .v 1, .s 3, .const 0, 4, 2, true, 2, 4, 1, true⟩),
  (0x003160183E092E28, 0, .fmin ⟨.v 22, .v 1, .s 3, .const 0, 4, 2, true, 3, 4, 2, true⟩),
  (0x004170183E093638, 0, .fmax ⟨.v 23, .v 1, .s 3, .const 0, 4, 2, true, 5, 4, 3, true⟩),
  (0x002F77FDFE82DCF0, 0, .ffma ⟨.q 7, .v 127, .c 31, .lane, 3, 1, false, 7, 1, 7, false⟩),
  (0x005005AE0E040000, 0, .frcp ⟨.v 0, .v 90, .const 0, .const 0, 0, 4, false, 0, 0, 0, false⟩),
  (0x006035BE0E0C0410, 0, .fsqrt ⟨.v 3, .v 91, .const 0, .const 0, 4, 4, false, 1, 0, 1, false⟩),
  (0x007065CE0E040820, 0, .frsq ⟨.v 6, .v 92, .const 0, .const 0, 0, 4, false, 2, 0, 2, false⟩),
  (0x008095DE0E0C0C30, 0, .fexp2 ⟨.v 9, .v 93, .const 0, .const 0, 4, 4, false, 3, 0, 3, false⟩),
  (0x0090C5EE0E041440, 0, .flog2 ⟨.v 12, .v 94, .const 0, .const 0, 0, 4, false, 5, 0, 4, false⟩),
  (0x00A0F5FE0E0C1850, 0, .fsinpi ⟨.v 15, .v 95, .const 0, .const 0, 4, 4, false, 6, 0, 5, false⟩),
  (0x00B1260E0E041C60, 0, .fcospi ⟨.v 18, .v 96, .const 0, .const 0, 0, 4, false, 7, 0, 6, false⟩),
  (0x00C1561E0E0C0000, 0, .ffloor ⟨.v 21, .v 97, .const 0, .const 0, 4, 4, false, 0, 0, 0, false⟩),
  (0x00D1862E0E040410, 0, .ffract ⟨.v 24, .v 98, .const 0, .const 0, 0, 4, false, 1, 0, 1, false⟩),
  (0x00E0604BF0790010, 0, .fsetp ⟨.p 6, .v 4, .s 63, .code 7, 4, 2, false, 0, 0, 1, false⟩),
  (0x0100203E7E063870, 0, .hadd2 ⟨.v 2, .v 3, .const 7, .const 0, 2, 4, true, 6, 0, 7, false⟩),
  (0x01102C003E000C70, 0, .hmul2 ⟨.v 2, .c 0, .v 3, .const 0, 0, 0, false, 3, 0, 7, false⟩),
  (0x0120203040508070, 0, .hfma2 ⟨.v 2, .v 3, .v 4, .v 5, 1, 0, false, 0, 0, 7, false⟩),
  (0x01309E9EAEB84070, 0, .bfma2 ⟨.v 9, .strand, .group, .team, 4, 1, false, 0, 0, 7, false⟩),
  (0x01802047C8008870, 0, .dot16e4 ⟨.v 2, .v 4, .v 124, .s 0, 1, 0, false, 2, 0, 7, false⟩),
  (0x019F000080106070, 0, .dot16e5 ⟨.q 0, .v 0, .v 8, .v 1, 0, 1, true, 0, 0, 7, false⟩),
  (0x01A030506C20A070, 0, .idp4 ⟨.v 3, .v 5, .v 6, .c 2, 1, 0, true, 0, 0, 7, false⟩),
  (0x0203C00FEE040170, 0xF0000000000003E8, .iadd ⟨.v 60, .v 0, .lit 1000, .const 0, 0, 4, false, 0, 2, 7, false⟩),
  (0x0213D01FEE062170, 0xF0000000000003E9, .isub ⟨.v 61, .v 1, .lit 1001, .const 0, 2, 4, true, 0, 2, 7, false⟩),
  (0x0223E02FEE040170, 0xF0000000000003EA, .imul ⟨.v 62, .v 2, .lit 1002, .const 0, 0, 4, false, 0, 2, 7, false⟩),
  (0x0233F03FEE062170, 0xF0000000000003EB, .imulh ⟨.v 63, .v 3, .lit 1003, .const 0, 2, 4, true, 0, 2, 7, false⟩),
  (0x0244004FEE040170, 0xF0000000000003EC, .umulh ⟨.v 64, .v 4, .lit 1004, .const 0, 0, 4, false, 0, 2, 7, false⟩),
  (0x0254105FE8562170, 0xF0000000000003ED, .imad ⟨.v 65, .v 5, .lit 1005, .s 5, 2, 4, true, 0, 2, 7, false⟩),
  (0x0264206FEE040170, 0xF0000000000003EE, .imin ⟨.v 66, .v 6, .lit 1006, .const 0, 0, 4, false, 0, 2, 7, false⟩),
  (0x0274307FEE062170, 0xF0000000000003EF, .imax ⟨.v 67, .v 7, .lit 1007, .const 0, 2, 4, true, 0, 2, 7, false⟩)]
theorem test_words_vfWords1 : vfWords1.all reads = true := by decide +kernel
def vfWords2 : List (Nat × Nat × Instr) := [
  (0x0284408FEE040170, 0xF0000000000003F0, .umin ⟨.v 68, .v 8, .lit 1008, .const 0, 0, 4, false, 0, 2, 7, false⟩),
  (0x0294509FEE062170, 0xF0000000000003F1, .umax ⟨.v 69, .v 9, .lit 1009, .const 0, 2, 4, true, 0, 2, 7, false⟩),
  (0x02A0004EC0520070, 0, .isetp ⟨.p 0, .v 4, .active, .code 5, 2, 0, false, 0, 0, 7, false⟩),
  (0x02B03F3050000068, 0, .usetp ⟨.p 3, .q 3, .v 5, .code 0, 0, 0, false, 0, 0, 6, true⟩),
  (0x030F0F8F9E000000, 0, .and ⟨.q 0, .q 8, .q 9, .const 0, 0, 0, false, 0, 0, 0, false⟩),
  (0x031F1F8F8E000010, 0, .or ⟨.q 1, .q 8, .q 8, .const 0, 0, 0, false, 0, 0, 1, false⟩),
  (0x032F2F8F7E000020, 0, .xor ⟨.q 2, .q 8, .q 7, .const 0, 0, 0, false, 0, 0, 2, false⟩),
  (0x033F3F8F6E000030, 0, .shl ⟨.q 3, .q 8, .q 6, .const 0, 0, 0, false, 0, 0, 3, false⟩),
  (0x034F4F8F5E000040, 0, .shr ⟨.q 4, .q 8, .q 5, .const 0, 0, 0, false, 0, 0, 4, false⟩),
  (0x035F5F8F4E000050, 0, .sar ⟨.q 5, .q 8, .q 4, .const 0, 0, 0, false, 0, 0, 5, false⟩),
  (0x036F6F8F3E000060, 0, .bfe ⟨.q 6, .q 8, .q 3, .const 0, 0, 0, false, 0, 0, 6, false⟩),
  (0x03701020304003F0, 0, .bfi ⟨.v 1, .v 2, .v 3, .v 4, 0, 0, false, 0, 7, 7, false⟩),
  (0x0380708E0E000028, 0, .popc ⟨.v 7, .v 8, .const 0, .const 0, 0, 0, false, 0, 0, 2, true⟩),
  (0x0390709E0E000028, 0, .clz ⟨.v 7, .v 9, .const 0, .const 0, 0, 0, false, 0, 0, 2, true⟩),
  (0x03A070AE0E000028, 0, .brev ⟨.v 7, .v 10, .const 0, .const 0, 0, 0, false, 0, 0, 2, true⟩),
  (0x0400094E0E000070, 0, .mov ⟨.v 0, .s 20, .const 0, .const 0, 0, 0, false, 0, 0, 7, false⟩),
  (0x0410506C70700070, 0, .sel ⟨.v 5, .v 6, .c 7, .code 7, 0, 0, false, 0, 0, 7, false⟩),
  (0x042050607E000070, 0, .vidx ⟨.v 5, .v 6, .v 7, .const 0, 0, 0, false, 0, 0, 7, false⟩),
  (0x043088109E000070, 0, .vidxw ⟨.v 8, .s 1, .v 9, .const 0, 0, 0, false, 0, 0, 7, false⟩),
  (0x0480903E03700070, 0, .cvt ⟨.v 9, .v 3, .const 0, .code 55, 0, 0, false, 0, 0, 7, false⟩),
  (0x0490903073C00070, 0, .cvtef ⟨.v 9, .v 3, .code 7, .code 60, 0, 0, false, 0, 0, 7, false⟩),
  (0x04A0903041400070, 0, .cvtsr ⟨.v 9, .v 3, .v 4, .code 20, 0, 0, false, 0, 0, 7, false⟩),
  (0x050010203E200070, 0, .shfl ⟨.v 1, .v 2, .v 3, .const 2, 0, 0, false, 0, 0, 7, false⟩),
  (0x0510102E8E000070, 0, .putl ⟨.v 1, .v 2, .lane, .const 0, 0, 0, false, 0, 0, 7, false⟩),
  (0x0520201E00200070, 0, .vote ⟨.p 2, .v 1, .const 0, .code 2, 0, 0, false, 0, 0, 7, false⟩),
  (0x0530102E0E000070, 0, .ballot ⟨.v 1, .v 2, .const 0, .const 0, 0, 0, false, 0, 0, 7, false⟩),
  (0x0540102E00A00070, 0, .redux ⟨.v 1, .v 2, .const 0, .code 10, 0, 0, false, 0, 0, 7, false⟩)]
theorem test_words_vfWords2 : vfWords2.all reads = true := by decide +kernel
def viWords1 : List (Nat × Nat × Instr) := [
  (0x100F001E080FFFFF, 0, .faddImm ⟨.q 0, .v 1, .const 0, 2, 0, 0, false, 0xFFFFF⟩),
  (0x1010102E003FFFFE, 0, .fmulImm ⟨.v 1, .v 2, .const 0, 0, 0, 1, true, 0xFFFFE⟩),
  (0x102020304B4FFFFD, 0, .ffmaImm ⟨.v 2, .v 3, .v 4, 3, 1, 2, false, 0xFFFFD⟩),
  (0x103F304E007FFFFC, 0, .fminImm ⟨.q 3, .v 4, .const 0, 0, 0, 3, true, 0xFFFFC⟩),
  (0x1040405E008FFFFB, 0, .fmaxImm ⟨.v 4, .v 5, .const 0, 0, 0, 4, false, 0xFFFFB⟩),
  (0x10505E0E00BFFFFA, 0, .frcpImm ⟨.v 5, .const 0, .const 0, 0, 0, 5, true, 0xFFFFA⟩),
  (0x106F6E0E00CFFFF9, 0, .fsqrtImm ⟨.q 6, .const 0, .const 0, 0, 0, 6, false, 0xFFFF9⟩),
  (0x10707E0E00EFFFF8, 0, .frsqImm ⟨.v 7, .const 0, .const 0, 0, 0, 7, false, 0xFFFF8⟩),
  (0x10808E0E000FFFF7, 0, .fexp2Imm ⟨.v 8, .const 0, .const 0, 0, 0, 0, false, 0xFFFF7⟩),
  (0x109F1E0E003FFFF6, 0, .flog2Imm ⟨.q 1, .const 0, .const 0, 0, 0, 1, true, 0xFFFF6⟩),
  (0x10A0AE0E004FFFF5, 0, .fsinpiImm ⟨.v 10, .const 0, .const 0, 0, 0, 2, false, 0xFFFF5⟩),
  (0x10B0BE0E007FFFF4, 0, .fcospiImm ⟨.v 11, .const 0, .const 0, 0, 0, 3, true, 0xFFFF4⟩),
  (0x10CF4E0E008FFFF3, 0, .ffloorImm ⟨.q 4, .const 0, .const 0, 0, 0, 4, false, 0xFFFF3⟩),
  (0x10D0DE0E00BFFFF2, 0, .ffractImm ⟨.v 13, .const 0, .const 0, 0, 0, 5, true, 0xFFFF2⟩),
  (0x1100E0FE08CFFFF1, 0, .hadd2Imm ⟨.v 14, .v 15, .const 0, 2, 0, 6, false, 0xFFFF1⟩),
  (0x111F710E00EFFFF0, 0, .hmul2Imm ⟨.q 7, .v 16, .const 0, 0, 0, 7, false, 0xFFFF0⟩),
  (0x11210111230FFFEF, 0, .hfma2Imm ⟨.v 16, .v 17, .v 18, 1, 1, 0, false, 0xFFFEF⟩),
  (0x113111213C3FFFEE, 0, .bfma2Imm ⟨.v 17, .v 18, .v 19, 2, 2, 1, true, 0xFFFEE⟩),
  (0x11AF2131404FFFED, 0, .idp4Imm ⟨.q 2, .v 19, .v 20, 0, 0, 2, false, 0xFFFED⟩),
  (0x1201314E0C7FFFEC, 0, .iaddImm ⟨.v 19, .v 20, .const 0, 2, 2, 3, true, 0xFFFEC⟩),
  (0x1211415E008FFFEB, 0, .isubImm ⟨.v 20, .v 21, .const 0, 0, 0, 4, false, 0xFFFEB⟩),
  (0x122F516E00BFFFEA, 0, .imulImm ⟨.q 5, .v 22, .const 0, 0, 0, 5, true, 0xFFFEA⟩),
  (0x1231617E00CFFFE9, 0, .imulhImm ⟨.v 22, .v 23, .const 0, 0, 0, 6, false, 0xFFFE9⟩),
  (0x1241718E00EFFFE8, 0, .umulhImm ⟨.v 23, .v 24, .const 0, 0, 0, 7, false, 0xFFFE8⟩),
  (0x125F0191AB0FFFE7, 0, .imadImm ⟨.q 0, .v 25, .v 26, 3, 1, 0, false, 0xFFFE7⟩),
  (0x126191AE003FFFE6, 0, .iminImm ⟨.v 25, .v 26, .const 0, 0, 0, 1, true, 0xFFFE6⟩),
  (0x1271A1BE004FFFE5, 0, .imaxImm ⟨.v 26, .v 27, .const 0, 0, 0, 2, false, 0xFFFE5⟩),
  (0x128F31CE007FFFE4, 0, .uminImm ⟨.q 3, .v 28, .const 0, 0, 0, 3, true, 0xFFFE4⟩),
  (0x1291C1DE008FFFE3, 0, .umaxImm ⟨.v 28, .v 29, .const 0, 0, 0, 4, false, 0xFFFE3⟩),
  (0x1301D1EE00BFFFE2, 0, .andImm ⟨.v 29, .v 30, .const 0, 0, 0, 5, true, 0xFFFE2⟩)]
theorem test_words_viWords1 : viWords1.all reads = true := by decide +kernel
def viWords2 : List (Nat × Nat × Instr) := [
  (0x131F61FE00CFFFE1, 0, .orImm ⟨.q 6, .v 31, .const 0, 0, 0, 6, false, 0xFFFE1⟩),
  (0x1321F20E00EFFFE0, 0, .xorImm ⟨.v 31, .v 32, .const 0, 0, 0, 7, false, 0xFFFE0⟩),
  (0x1332021E000FFFDF, 0, .shlImm ⟨.v 32, .v 33, .const 0, 0, 0, 0, false, 0xFFFDF⟩),
  (0x134F122E003FFFDE, 0, .shrImm ⟨.q 1, .v 34, .const 0, 0, 0, 1, true, 0xFFFDE⟩),
  (0x1352223E004FFFDD, 0, .sarImm ⟨.v 34, .v 35, .const 0, 0, 0, 2, false, 0xFFFDD⟩),
  (0x1362324E007FFFDC, 0, .bfeImm ⟨.v 35, .v 36, .const 0, 0, 0, 3, true, 0xFFFDC⟩),
  (0x137F4252608FFFDB, 0, .bfiImm ⟨.q 4, .v 37, .v 38, 0, 0, 4, false, 0xFFFDB⟩),
  (0x13825E0E00BFFFDA, 0, .popcImm ⟨.v 37, .const 0, .const 0, 0, 0, 5, true, 0xFFFDA⟩),
  (0x13926E0E00CFFFD9, 0, .clzImm ⟨.v 38, .const 0, .const 0, 0, 0, 6, false, 0xFFFD9⟩),
  (0x13AF7E0E00EFFFD8, 0, .brevImm ⟨.q 7, .const 0, .const 0, 0, 0, 7, false, 0xFFFD8⟩),
  (0x14028E0E000FFFD7, 0, .movImm ⟨.v 40, .const 0, .const 0, 0, 0, 0, false, 0xFFFD7⟩),
  (0x150292A2B03FFFD6, 0, .shflImm ⟨.v 41, .v 42, .v 43, 0, 0, 1, true, 0xFFFD6⟩),
  (0x1512A2BE004FFFD5, 0, .putlImm ⟨.v 42, .v 43, .const 0, 0, 0, 2, false, 0xFFFD5⟩),
  (0x1532BE0E007FFFD4, 0, .ballotImm ⟨.v 43, .const 0, .const 0, 0, 0, 3, true, 0xFFFD4⟩),
  (0x14B0405860E12345, 0, .rng ⟨.v 4, .v 5, .s 6, 0, 0, 7, false, 0x12345⟩)]
theorem test_words_viWords2 : viWords2.all reads = true := by decide +kernel
def sfWords : List (Nat × Nat × Instr) := [
  (0x200BF80FEE000000, 0xF000000000000000, .sadd ⟨.s 63, .s 0, .lit 0, .const 0, 0x0⟩),
  (0x201BE81FFE0F0001, 0, .ssub ⟨.s 62, .s 1, .imm, .const 0, 0xF0001⟩),
  (0x202BD82FEE000000, 0xF00000000000009A, .smul ⟨.s 61, .s 2, .lit 154, .const 0, 0x0⟩),
  (0x203BC83FFE0F0003, 0, .smulh ⟨.s 60, .s 3, .imm, .const 0, 0xF0003⟩),
  (0x204BB84FEE000000, 0xF000000000000134, .sand ⟨.s 59, .s 4, .lit 308, .const 0, 0x0⟩),
  (0x205BA85FFE0F0005, 0, .sor ⟨.s 58, .s 5, .imm, .const 0, 0xF0005⟩),
  (0x206B986FEE000000, 0xF0000000000001CE, .sxor ⟨.s 57, .s 6, .lit 462, .const 0, 0x0⟩),
  (0x207B887FFE0F0007, 0, .sshl ⟨.s 56, .s 7, .imm, .const 0, 0xF0007⟩),
  (0x208B788FEE000000, 0xF000000000000268, .sshr ⟨.s 55, .s 8, .lit 616, .const 0, 0x0⟩),
  (0x209B689FFE0F0009, 0, .ssar ⟨.s 54, .s 9, .imm, .const 0, 0xF0009⟩),
  (0x20AB58AFEE000000, 0xF000000000000302, .smin ⟨.s 53, .s 10, .lit 770, .const 0, 0x0⟩),
  (0x20BB48BFFE0F000B, 0, .smax ⟨.s 52, .s 11, .imm, .const 0, 0xF000B⟩),
  (0x20C81ECE0E000000, 0, .smov ⟨.s 1, .active, .const 0, .const 0, 0x0⟩),
  (0x20D0581E80400000, 0, .ssetp ⟨.p 5, .s 1, .lane, .code 4, 0x0⟩),
  (0x20E82C1E60300000, 0, .ssel ⟨.s 2, .c 1, .const 6, .code 3, 0x0⟩),
  (0x20F8384EAE000000, 0, .sfadd ⟨.s 3, .s 4, .group, .const 0, 0x0⟩),
  (0x21083EBFFE03F800, 0, .sfmul ⟨.s 3, .team, .imm, .const 0, 0x3F800⟩),
  (0x21183E9858600000, 0, .sffma ⟨.s 3, .strand, .s 5, .s 6, 0x0⟩),
  (0x212878889E000000, 0, .sbfe ⟨.s 7, .s 8, .s 9, .const 0, 0x0⟩),
  (0x2138788E0E000000, 0, .spopc ⟨.s 7, .s 8, .const 0, .const 0, 0x0⟩),
  (0x214BEFFE0E00012F, 0, .sread ⟨.s 62, .imm, .const 0, .const 0, 0x12F⟩),
  (0x21500FF82E00001A, 0, .swrite ⟨.none, .imm, .s 2, .const 0, 0x1A⟩),
  (0x2168063BFE000000, 0, .sfromv ⟨.s 0, .v 99, .s 63, .const 0, 0x0⟩)]
theorem test_words_sfWords : sfWords.all reads = true := by decide +kernel
def memWords1 : List (Nat × Nat × Instr) := [
  (0x4000040E08000000, 0, .ldB ⟨.v 0, .v 64, .const 0, 0x8000, 0, 0, false, false, false, false, 0⟩),
  (0x4010882E080011A1, 0, .ldH ⟨.v 8, .s 2, .const 0, 0x8001, 0, 1, true, false, true, false, 1⟩),
  (0x4021044E08002212, 0, .ldW ⟨.v 16, .v 68, .const 0, 0x8002, 0, 2, false, false, false, true, 2⟩),
  (0x4031886E080030B3, 0, .ldD ⟨.v 24, .s 6, .const 0, 0x8003, 0, 0, true, false, true, true, 3⟩),
  (0x4042048E08004104, 0, .ldQ ⟨.v 32, .v 72, .const 0, 0x8004, 0, 1, false, false, false, false, 4⟩),
  (0x405288AE080052A5, 0, .ldBs ⟨.v 40, .s 10, .const 0, 0x8005, 0, 2, true, false, true, false, 5⟩),
  (0x406304CE08006016, 0, .ldHs ⟨.v 48, .v 76, .const 0, 0x8006, 0, 0, false, false, false, true, 6⟩),
  (0x4080000E0000022B, 0, .stB ⟨.v 0, .v 0, .const 0, 0x0, 0, 2, false, false, true, false, 11⟩),
  (0x4090402E0001026B, 0, .stH ⟨.v 4, .v 2, .const 0, 0x10, 0, 2, false, true, true, false, 11⟩),
  (0x40A0804E0002022B, 0, .stW ⟨.v 8, .v 4, .const 0, 0x20, 0, 2, false, false, true, false, 11⟩),
  (0x40B0C06E0003026B, 0, .stD ⟨.v 12, .v 6, .const 0, 0x30, 0, 2, false, true, true, false, 11⟩),
  (0x40C1008E0004022B, 0, .stQ ⟨.v 16, .v 8, .const 0, 0x40, 0, 2, false, false, true, false, 11⟩),
  (0x41083BEE00004010, 0, .lduW ⟨.s 3, .s 62, .const 0, 0x4, 0, 0, false, false, false, true, 0⟩),
  (0x4118486E000000E1, 0, .lduD ⟨.s 4, .s 6, .const 0, 0x0, 0, 0, true, true, true, false, 1⟩),
  (0x4128487E00009202, 0, .ldc ⟨.s 4, .s 7, .const 0, 0x9, 0, 2, false, false, false, false, 2⟩),
  (0x418000BE00000003, 0, .ldsW ⟨.v 0, .v 11, .const 0, 0x0, 0, 0, false, false, false, false, 3⟩),
  (0x419040CE00008403, 0, .ldsD ⟨.v 4, .v 12, .const 0, 0x8, 1, 0, false, false, false, false, 3⟩),
  (0x41A080DE00010803, 0, .ldsQ ⟨.v 8, .v 13, .const 0, 0x10, 2, 0, false, false, false, false, 3⟩),
  (0x41C048BE0000000F, 0, .stsW ⟨.v 4, .s 11, .const 0, 0x0, 0, 0, false, false, false, false, 15⟩),
  (0x41D088CE00008C0F, 0, .stsD ⟨.v 8, .s 12, .const 0, 0x8, 3, 0, false, false, false, false, 15⟩),
  (0x41E0C8DE0001000F, 0, .stsQ ⟨.v 12, .s 13, .const 0, 0x10, 0, 0, false, false, false, false, 15⟩),
  (0x4201E80010000000, 0, .atomAdd ⟨.v 30, .s 0, .v 1, 0x0, 0, 0, false, false, false, false, 0⟩),
  (0x4211F82810004181, 0, .atomMin ⟨.v 31, .s 2, .s 1, 0x4, 0, 1, true, false, false, false, 1⟩),
  (0x4222084C10008242, 0, .atomMax ⟨.v 32, .s 4, .c 1, 0x8, 0, 2, false, true, false, false, 2⟩),
  (0x4232186E1000C0C3, 0, .atomUmin ⟨.v 33, .s 6, .const 1, 0xC, 0, 0, true, true, false, false, 3⟩),
  (0x4242288FE0010104, 0xF000000000000005, .atomUmax ⟨.v 34, .s 8, .lit 5, 0x10, 0, 1, false, false, false, false, 4⟩),
  (0x425238A010014285, 0, .atomAnd ⟨.v 35, .s 10, .v 1, 0x14, 0, 2, true, false, false, false, 5⟩),
  (0x426248C810018046, 0, .atomOr ⟨.v 36, .s 12, .s 1, 0x18, 0, 0, false, true, false, false, 6⟩),
  (0x427258EC1001C1C7, 0, .atomXor ⟨.v 37, .s 14, .c 1, 0x1C, 0, 1, true, true, false, false, 7⟩),
  (0x4282690E10020208, 0, .atomXchg ⟨.v 38, .s 16, .const 1, 0x20, 0, 2, false, false, false, false, 8⟩)]
theorem test_words_memWords1 : memWords1.all reads = true := by decide +kernel
def memWords2 : List (Nat × Nat × Instr) := [
  (0x4292792FE0024089, 0xF000000000000005, .atomCas ⟨.v 39, .s 18, .lit 5, 0x24, 0, 0, true, false, false, false, 9⟩),
  (0x42A289401002814A, 0, .atomFadd ⟨.v 40, .s 20, .v 1, 0x28, 0, 1, false, true, false, false, 10⟩),
  (0x42B299681002C2CB, 0, .atomFmin ⟨.v 41, .s 22, .s 1, 0x2C, 0, 2, true, true, false, false, 11⟩),
  (0x42C2A98C10030000, 0, .atomFmax ⟨.v 42, .s 24, .c 1, 0x30, 0, 0, false, false, false, false, 0⟩),
  (0x430E00001000000F, 0, .redAdd ⟨.const 0, .v 0, .v 1, 0x0, 0, 0, false, false, false, false, 15⟩),
  (0x431E00281000418F, 0, .redMin ⟨.const 0, .v 2, .s 1, 0x4, 0, 1, true, false, false, false, 15⟩),
  (0x432E004C1000824F, 0, .redMax ⟨.const 0, .v 4, .c 1, 0x8, 0, 2, false, true, false, false, 15⟩),
  (0x433E006E1000C0CF, 0, .redUmin ⟨.const 0, .v 6, .const 1, 0xC, 0, 0, true, true, false, false, 15⟩),
  (0x434E008FE001010F, 0xF000000000000005, .redUmax ⟨.const 0, .v 8, .lit 5, 0x10, 0, 1, false, false, false, false, 15⟩),
  (0x435E00A01001428F, 0, .redAnd ⟨.const 0, .v 10, .v 1, 0x14, 0, 2, true, false, false, false, 15⟩),
  (0x436E00C81001804F, 0, .redOr ⟨.const 0, .v 12, .s 1, 0x18, 0, 0, false, true, false, false, 15⟩),
  (0x437E00EC1001C1CF, 0, .redXor ⟨.const 0, .v 14, .c 1, 0x1C, 0, 1, true, true, false, false, 15⟩),
  (0x438E010E1002020F, 0, .redXchg ⟨.const 0, .v 16, .const 1, 0x20, 0, 2, false, false, false, false, 15⟩),
  (0x4390912FE002408F, 0xF000000000000005, .redCas ⟨.v 9, .v 18, .lit 5, 0x24, 0, 0, true, false, false, false, 15⟩),
  (0x43AE01401002814F, 0, .redFadd ⟨.const 0, .v 20, .v 1, 0x28, 0, 1, false, true, false, false, 15⟩),
  (0x43BE01681002C2CF, 0, .redFmin ⟨.const 0, .v 22, .s 1, 0x2C, 0, 2, true, true, false, false, 15⟩),
  (0x43CE018C1003000F, 0, .redFmax ⟨.const 0, .v 24, .c 1, 0x30, 0, 0, false, false, false, false, 15⟩),
  (0x440E0E0E0000028F, 0, .phase ⟨.const 0, .const 0, .const 0, 0x0, 0, 2, true, false, false, false, 15⟩),
  (0x441E006E07FFF01F, 0, .pref ⟨.const 0, .v 6, .const 0, 0x7FFF, 0, 0, false, false, false, true, 15⟩),
  (0x4488182830002145, 0, .cpyIn ⟨.s 1, .s 2, .s 3, 0x2, 0, 1, false, true, false, false, 5⟩),
  (0x4488182830001095, 0, .cpyOut ⟨.s 1, .s 2, .s 3, 0x1, 0, 0, true, false, false, true, 5⟩),
  (0x449E0E0E0FFFFA00, 0, .cbank ⟨.const 0, .const 0, .const 0, 0xFFFF, 2, 2, false, false, false, false, 0⟩),
  (0x44AF789FE000000F, 0xF000000000001000, .qbind ⟨.q 7, .s 9, .lit 4096, 0x0, 0, 0, false, false, false, false, 15⟩),
  (0x44BE085E0000000F, 0, .wakeToken ⟨.const 0, .s 5, .const 0, 0x0, 0, 0, false, false, false, false, 15⟩),
  (0x44BE086E00001007, 0, .wakePage ⟨.const 0, .s 6, .const 0, 0x1, 0, 0, false, false, false, false, 7⟩)]
theorem test_words_memWords2 : memWords2.all reads = true := by decide +kernel
def ctlWords : List (Nat × Nat × Instr) := [
  (0x5000F001FFFFFFFD, 0, .bra ⟨.code 15, 0x1, 0xFFFFFFFD⟩),
  (0x5018A00000000000, 0, .brx ⟨.s 10, 0x0, 0x0⟩),
  (0x502A800000000010, 0, .call ⟨.s 40, 0x0, 0x10⟩),
  (0x503A800000000000, 0, .ret ⟨.s 40, 0x0, 0x0⟩),
  (0x5040300000000000, 0, .ppush ⟨.code 3, 0x0, 0x0⟩),
  (0x505E000000000000, 0, .pinv),
  (0x506E000000000000, 0, .ppop),
  (0x507E000000000000, 0, .regang),
  (0x508E0FFF00000000, 0, .waitf ⟨.const 0, 0xFFF, 0x0⟩),
  (0x509E000000000000, 0, .yield),
  (0x50AE000000000000, 0, .exit),
  (0x50BE012300000000, 0, .trap ⟨.const 0, 0x123, 0x0⟩),
  (0x50CE000000000000, 0, .nop),
  (0x50DE000F00000040, 0, .barInit ⟨.const 0, 0xF, 0x40⟩),
  (0x50EE000100000000, 0, .barArv ⟨.const 0, 0x1, 0x0⟩),
  (0x50FE000200000000, 0, .barWait ⟨.const 0, 0x2, 0x0⟩),
  (0x510E000300000000, 0, .barSync ⟨.const 0, 0x3, 0x0⟩),
  (0x511E000400000000, 0, .barDrop ⟨.const 0, 0x4, 0x0⟩),
  (0x51285000FFFFFFFA, 0, .sloop ⟨.s 5, 0x0, 0xFFFFFFFA⟩),
  (0x513E000000000000, 0, .trapret),
  (0x514E0FFF00000000, 0, .syscall ⟨.const 0, 0xFFF, 0x0⟩)]
theorem test_words_ctlWords : ctlWords.all reads = true := by decide +kernel
def engWords : List (Nat × Nat × Instr) := [
  (0x6008AE0E00008604, 0, .mmload ⟨.s 10, .const 0, .const 0, 0x8, 1, true, false, 0, 4⟩),
  (0x6018C8DE000F2A06, 0, .mmrun ⟨.s 12, .s 13, .const 0, 0xF2, 2, true, false, 0, 6⟩),
  (0x60294989A0105505, 0, .mmdrainMem ⟨.s 20, .s 24, .s 26, 0x105, 1, false, true, 0, 5⟩),
  (0x6028384860429010, 0, .mmdrainLoc ⟨.s 3, .s 4, .s 6, 0x429, 0, false, false, 1, 0⟩),
  (0x602E084E03802021, 0, .mmdrainRing ⟨.const 0, .s 4, .const 0, 0x3802, 0, false, false, 2, 1⟩),
  (0x602E085E0001B032, 0, .mmdrainQ8 ⟨.const 0, .s 5, .const 0, 0x1B, 0, false, false, 3, 2⟩),
  (0x602E0E0E00001043, 0, .mmdrainStat ⟨.const 0, .const 0, .const 0, 0x1, 0, false, false, 4, 3⟩),
  (0x6089488820000001, 0, .spawn ⟨.s 20, .s 8, .s 2, 0x0, 0, false, false, 0, 1⟩),
  (0x609BEB8800000000, 0, .task ⟨.s 62, .s 56, .s 0, 0x0, 0, false, false, 0, 0⟩),
  (0x60AE0E0E0000000F, 0, .tabortRetry),
  (0x60AE0E0E0000001F, 0, .tabortDrop),
  (0x60B8AE0E0000000F, 0, .twait ⟨.s 10, .const 0, .const 0, 0x0, 0, false, false, 0, 15⟩)]
theorem test_words_engWords : engWords.all reads = true := by decide +kernel
def gfxWords : List (Nat × Nat × Instr) := [
  (0x7007B7CE01E00E01, 0, .texS ⟨.v 123, .v 124, .const 0, .v 30, 0, 0xE, 0, 1⟩),
  (0x7011804E08C00102, 0, .texL ⟨.v 24, .v 4, .const 0, .s 12, 0, 0x1, 0, 2⟩),
  (0x7021C00E01E00503, 0, .texQ ⟨.v 28, .v 0, .const 0, .v 30, 0, 0x5, 0, 3⟩),
  (0x7081476E01E00002, 0, .rayT ⟨.v 20, .v 118, .const 0, .v 30, 0, 0x0, 0, 2⟩),
  (0x7097F00E08C00603, 0, .rayO ⟨.v 127, .v 0, .const 0, .s 12, 0, 0x6, 0, 3⟩),
  (0x70A7800E01E00004, 0, .rayA ⟨.v 120, .v 0, .const 0, .v 30, 0, 0x0, 0, 4⟩),
  (0x710007AE0E070000, 0, .kclr ⟨.v 0, .v 122, .const 0, .const 0, 7, 0x0, 0, 0⟩),
  (0x711000CE0E040771, 0, .klobe ⟨.v 0, .v 12, .const 0, .const 0, 4, 0x7, 7, 1⟩),
  (0x71200E0E0E01020F, 0, .kmix ⟨.v 0, .const 0, .const 0, .const 0, 1, 0x2, 0, 15⟩),
  (0x7130014E0E02010F, 0, .klayer ⟨.v 0, .v 20, .const 0, .const 0, 2, 0x1, 0, 15⟩),
  (0x714007DE0E03000F, 0, .kscale ⟨.v 0, .v 125, .const 0, .const 0, 3, 0x0, 0, 15⟩),
  (0x7151E00E0E000602, 0, .ksample ⟨.v 30, .v 0, .const 0, .const 0, 0, 0x6, 0, 2⟩),
  (0x7161E07E0E040102, 0, .keval ⟨.v 30, .v 7, .const 0, .const 0, 4, 0x1, 0, 2⟩),
  (0x7171E07E0E050002, 0, .kdens ⟨.v 30, .v 7, .const 0, .const 0, 5, 0x0, 0, 2⟩),
  (0x7180028E0E000004, 0, .kspill ⟨.v 0, .v 40, .const 0, .const 0, 0, 0x0, 0, 4⟩),
  (0x719007EE0E060004, 0, .kfill ⟨.v 0, .v 126, .const 0, .const 0, 6, 0x0, 0, 4⟩),
  (0x71A05E0E0E003F01, 0, .kinfo ⟨.v 5, .const 0, .const 0, .const 0, 0, 0x3F, 0, 1⟩),
  (0x71B00E0E0E010071, 0, .kmov ⟨.v 0, .const 0, .const 0, .const 0, 1, 0x0, 7, 1⟩)]
theorem test_words_gfxWords : gfxWords.all reads = true := by decide +kernel
def pairWords : List (Nat × Nat × Instr) := [
  (0x80000020D12801E0, 0, .faddSlot ⟨0, .v 0, .s 3⟩ ⟨.hmul2, ⟨40, .v 1, .const 0⟩⟩),
  (0x80404131102905E1, 0, .fmulSlot ⟨1, .v 4, .c 4⟩ ⟨.hadd2, ⟨41, .v 5, .const 1⟩⟩),
  (0x808082394F2A09E2, 0, .fminSlot ⟨2, .v 8, .const 5⟩ ⟨.imax, ⟨42, .v 9, .const 2⟩⟩),
  (0x80C0C320CE2B0DE3, 0, .fmaxSlot ⟨3, .v 12, .s 3⟩ ⟨.imin, ⟨43, .v 13, .const 3⟩⟩),
  (0x810104310D2C11E0, 0, .iaddSlot ⟨4, .v 16, .c 4⟩ ⟨.mov, ⟨44, .v 17, .const 0⟩⟩),
  (0x814145394C2D15E5, 0, .isubSlot ⟨5, .v 20, .const 5⟩ ⟨.sar, ⟨45, .v 21, .const 5⟩⟩),
  (0x81818620CB2E19E6, 0, .imulSlot ⟨6, .v 24, .s 3⟩ ⟨.shr, ⟨46, .v 25, .const 6⟩⟩),
  (0x81C1C7310A2F1DE7, 0, .andSlot ⟨7, .v 28, .c 4⟩ ⟨.shl, ⟨47, .v 29, .const 7⟩⟩),
  (0x82020839493021E0, 0, .orSlot ⟨8, .v 32, .const 5⟩ ⟨.xor, ⟨48, .v 33, .const 0⟩⟩),
  (0x82424920C83125E1, 0, .xorSlot ⟨9, .v 36, .s 3⟩ ⟨.or, ⟨49, .v 37, .const 1⟩⟩),
  (0x82828A31073229E2, 0, .shlSlot ⟨10, .v 40, .c 4⟩ ⟨.and, ⟨50, .v 41, .const 2⟩⟩),
  (0x82C2CB3946332DE3, 0, .shrSlot ⟨11, .v 44, .const 5⟩ ⟨.imul, ⟨51, .v 45, .const 3⟩⟩),
  (0x83030C20C53431E4, 0, .sarSlot ⟨12, .v 48, .s 3⟩ ⟨.isub, ⟨52, .v 49, .const 4⟩⟩),
  (0x83434D38043535E5, 0, .movSlot ⟨13, .v 52, .const 0⟩ ⟨.iadd, ⟨53, .v 53, .const 5⟩⟩),
  (0x83838E39433639E6, 0, .iminSlot ⟨14, .v 56, .const 5⟩ ⟨.fmax, ⟨54, .v 57, .const 6⟩⟩),
  (0x83C3CF20C2373DE7, 0, .imaxSlot ⟨15, .v 60, .s 3⟩ ⟨.fmin, ⟨55, .v 61, .const 7⟩⟩),
  (0x84041031013841E0, 0, .hadd2Slot ⟨16, .v 64, .c 4⟩ ⟨.fmul, ⟨56, .v 65, .const 0⟩⟩),
  (0x84445139403945E1, 0, .hmul2Slot ⟨17, .v 68, .const 5⟩ ⟨.fadd, ⟨57, .v 69, .const 1⟩⟩),
  (0x8FC03838047FBFDF, 0, .slotNop ⟨.iadd, ⟨127, .s 63, .c 31⟩⟩)]
theorem test_words_pairWords : pairWords.all reads = true := by decide +kernel
def litWords : List (Nat × Nat × Instr) := [
  (0xF000000000000000, 0, .litexec)]
theorem test_words_litWords : litWords.all reads = true := by decide +kernel

/-- Words of R108, R110, R111, R114 and R131 that are no instruction: format codes 3 and 9, an unlisted opcode, operand codes 0xED and
0xFA, an unused field that is not 0xE0, scope 3, RSVD not zero, a second word that is no literal word, and a literal word. -/
def rejected (w lit : Nat) : Bool := match decode (BitVec.ofNat 64 w) (BitVec.ofNat 64 lit) with | .ok _ => false | .error _ => true
theorem test_words_rejected : [(0x3000000000000000, 0), (0x9000000000000000, 0), (0x00F0000000000000, 0), (0x0200202EDE000070, 0),
  (0x0200202FAE000070, 0), (0x0200202030100070, 0), (0x4020882E00000303, 0), (0x0200202030E00071, 0), (0x0010605FEE000070, 0x00000000000000AB),
  (0x0010605FEE000070, 0xF00000013E2AAAAB)].all (fun e => rejected e.1 e.2) = true := by decide +kernel
theorem test_table_word : decodeTableWord 64 0x50CE000000000000 = some .nop ∧
    decodeTableWord 128 0xF00000003E2AAAAB0010605FEE000070 = some (.fmul ⟨.v 6, .v 5, .lit 0x3E2AAAAB, .unused, 0, 0, false, 0, 0, 7, false⟩) := by
  decide +kernel

/-! ### States that meet the statements' hypotheses -/

/-- The placed machine of the fetch interface, with nothing on the agenda. -/
def placed : State := { State.reset.withFetchWord 64 0 with agenda := [] }

/-- The same with its group changed. -/
def placedWith (f : Group → Group) : State := { placed with groups := [(0, f placedGroup)] }

/-- The gang that issues, with a stand-in where none does. -/
def ctxOf (s : State) : Ctx :=
  match issueCtx s with
  | some c => c
  | none => ⟨placedGroup, [], 0, 0, 0, 0, 0, 0, [], false, false, 0⟩

/-- The decidable form of `Issues`, with well-formedness. -/
def ready (i : Instr) (s : State) : Bool :=
  i.wf && (issueCtx s).isSome && !inWaitHalf i (ctxOf s) && !inQueueHalf i (ctxOf s) && (issueTrap i (ctxOf s) s).isNone &&
    (lateDue i (ctxOf s).g).isNone && !(formIsMemory i.form && s.memHold (ctxOf s).g.gid) &&
    !((ctxOf s).det && s.teamHold (ctxOf s).g (formClass i.form))

theorem ready_spec {i : Instr} {s : State} (h : ready i s = true) : i.wf = true ∧ Issues i s (ctxOf s) := by
  simp only [ready, Bool.and_eq_true, Bool.not_eq_true', Option.isNone_iff_eq_none, Option.isSome_iff_exists] at h
  obtain ⟨⟨⟨⟨⟨⟨⟨h0, c, h1⟩, h2⟩, h3⟩, h4⟩, h5⟩, h6⟩, h7⟩ := h
  exact ⟨h0, by simp [ctxOf, h1], h2, h3, h4, h5, h6, h7⟩

/-- The hypotheses of most instructions' statements, met in the placed machine. -/
def MayIssue (i : Instr) : Prop := i.wf = true ∧ Issues i placed (ctxOf placed)

/-- The hypotheses of `Completes`, met in the placed machine. -/
def Fills (i : Instr) : Prop := i.wf = true ∧ Reaches i placed (ctxOf placed) ∧ ∀ ls, Fed i ls (ctxOf placed) []

theorem all_issue {is : List Instr} (h : is.all (fun i => ready i placed) = true) : ∀ i ∈ is, MayIssue i := fun i hi => ready_spec (List.all_eq_true.mp h i hi)

theorem placed_pending : tfind (ctxOf placed).lowest (ctxOf placed).g.pending = none := by decide +kernel

theorem all_fed {is : List Instr} (h : is.all (fun i => ready i placed && (formPops i.form).isEmpty) = true) :
    ∀ i ∈ is, Fills i := by
  intro i hi
  have := List.all_eq_true.mp h i hi
  simp only [Bool.and_eq_true, List.isEmpty_iff] at this
  refine ⟨(ready_spec this.1).1, .inl (ready_spec this.1).2, fun ls => ?_⟩
  simp [Fed, this.2, placed_pending]

theorem placed_keyed : Keyed placed := by unfold Keyed; decide +kernel

theorem placed_shaped : Shaped placed := by
  refine ⟨by decide +kernel, ?_⟩
  intro e he
  have : placed.groups = [(0, placedGroup)] := by decide +kernel
  rw [this, List.mem_singleton] at he
  subst he
  exact ⟨by decide +kernel, by decide +kernel, fun h hh => by
    have : placedGroup.inHandler = none := by decide +kernel
    rw [show placedGroup.inHandler = some h from hh] at this
    cases this⟩

/-- Fields of one, two and three sources, with a predicate or without. -/
def f1 : VF := ⟨.v 1, .v 2, .unused, .unused, 0, 0, false, 0, 0, 7, false⟩
def f2 : VF := ⟨.v 1, .v 2, .v 3, .unused, 0, 0, false, 0, 0, 0, true⟩
def f3 : VF := ⟨.v 1, .v 2, .v 3, .s 4, 0, 0, false, 0, 0, 7, false⟩
def fcode (d : Dst) (b : Src) (code : BitVec 8) : VF := ⟨d, .v 2, b, .code code, 0, 0, false, 0, 0, 7, false⟩
def i1 : VI := ⟨.v 1, .unused, .unused, 0, 0, 7, false, 0xFFFFF⟩
def i2 : VI := ⟨.v 1, .v 2, .unused, 0, 0, 1, true, 0xFFFFF⟩
def i3 : VI := ⟨.v 1, .v 2, .v 3, 0, 0, 7, false, 0xFFFFF⟩
def sf (d : Dst) (a b c : Src) (imm : BitVec 20) : SF := ⟨d, a, b, c, imm⟩
def s2 : SF := ⟨.s 1, .s 2, .imm, .unused, 0xFFFFF⟩
def s1 : SF := ⟨.s 1, .s 2, .unused, .unused, 0⟩
def s3 : SF := ⟨.s 1, .s 2, .s 3, .s 4, 0⟩

theorem witness_IntegerOpcodesCompute : ∀ i ∈ ([.iadd f2, .iaddImm i2, .isub f2, .isubImm i2, .imul f2, .imulImm i2,
  .imulh f2, .imulhImm i2, .umulh f2, .umulhImm i2, .imad f3, .imadImm i3, .imin f2, .iminImm i2, .imax f2, .imaxImm i2, .umin f2,
  .uminImm i2, .umax f2, .umaxImm i2, .idp4 f3, .idp4Imm i3] : List Instr),
    Fills i := all_fed (by decide +kernel)
theorem witness_BitOpcodesCompute : ∀ i ∈ ([.and f2, .andImm i2, .or f2, .orImm i2, .xor f2, .xorImm i2, .shl f2, .shlImm i2,
  .shr f2, .shrImm i2, .sar f2, .sarImm i2, .popc f1, .popcImm i1, .clz f1, .clzImm i1, .brev f1, .brevImm i1] : List Instr),
    Fills i := all_fed (by decide +kernel)
theorem witness_MoveOpcodesCompute : ∀ i ∈ ([.bfe f2, .bfeImm i2, .bfi f3, .bfiImm i3, .mov f1, .movImm i1,
  .sel (fcode (.v 1) (.v 3) 7), .rng i3] : List Instr),
    Fills i := all_fed (by decide +kernel)
theorem witness_FloatOpcodesCompute : ∀ i ∈ ([.fadd f2, .faddImm i2, .fmul f2, .fmulImm i2, .ffma f3, .ffmaImm i3, .fmin f2,
  .fminImm i2, .fmax f2, .fmaxImm i2] : List Instr),
    Fills i := all_fed (by decide +kernel)
theorem witness_FunctionOpcodesCompute : ∀ i ∈ ([.frcp f1, .frcpImm i1, .fsqrt f1, .fsqrtImm i1, .frsq f1, .frsqImm i1,
  .fexp2 f1, .fexp2Imm i1, .flog2 f1, .flog2Imm i1, .fsinpi f1, .fsinpiImm i1, .fcospi f1, .fcospiImm i1, .ffloor f1, .ffloorImm i1,
  .ffract f1, .ffractImm i1] : List Instr),
    Fills i := all_fed (by decide +kernel)
theorem witness_HalfOpcodesCompute : ∀ i ∈ ([.hadd2 f2, .hadd2Imm i2, .hmul2 f2, .hmul2Imm i2, .hfma2 f3, .hfma2Imm i3,
  .bfma2 f3, .bfma2Imm i3] : List Instr),
    Fills i := all_fed (by decide +kernel)
theorem witness_DotAndConvertOpcodesCompute : ∀ i ∈ ([.dot16e4 { f3 with a := .v 124, b := .v 8 },
  .dot16e5 { f3 with a := .v 0, b := .v 0 }, .cvt (fcode (.v 1) .unused 0x15), .cvtsr (fcode (.v 1) (.v 3) 0x14)] : List Instr),
    Fills i := all_fed (by decide +kernel)
theorem witness_CompareOpcodesCompute : ∀ i ∈ ([.fsetp (fcode (.p 0) (.v 3) 7), .isetp (fcode (.p 6) (.v 3) 5),
  .usetp (fcode (.p 3) (.v 3) 0)] : List Instr),
    Fills i := all_fed (by decide +kernel)
theorem witness_CrossLaneOpcodesCompute : ∀ i ∈ ([.shfl f3, .shflImm i3, .vote (fcode (.p 1) .unused 2),
  .ballot f1, .ballotImm i1, .redux (fcode (.v 1) .unused 10)] : List Instr),
    Fills i := all_fed (by decide +kernel)

/-- A gang whose pop of q3 has been served goes on with the elements it took. -/
def popped : State := placedWith (fun g => { g with
  qbinds := [(3, ⟨0, 64, 0, 0⟩)], pending := [(0, ⟨0, .iadd { f2 with a := .q 3, pred := 7, pinv := false }, [], [(0, 5)], [], false, 0x20008, 0⟩)] })
def poppedOn : State := { popped with bankModes := [(0, 2)] }
theorem witness_Fed_queue : Reaches (.iadd { f2 with a := .q 3, pred := 7, pinv := false }) poppedOn (ctxOf poppedOn) ∧
    Fed (.iadd { f2 with a := .q 3, pred := 7, pinv := false }) ((ctxOf poppedOn).acting 7 false) (ctxOf poppedOn) [(0, 5)] := by
  refine ⟨.inr ⟨by decide +kernel, by decide +kernel⟩, ?_⟩
  unfold Fed
  rw [if_neg (by decide +kernel), if_neg (by decide +kernel)]
  exact ⟨⟨0, .iadd { f2 with a := .q 3, pred := 7, pinv := false }, [], [(0, 5)], [], false, 0x20008, 0⟩, by decide +kernel, rfl, rfl, rfl⟩

theorem witness_ChosenRegisterOpcodesComplete :
    (∀ i ∈ [Instr.vidx f2, .vidxw f2, .cvtef (fcode (.v 1) (.code 7) 0x30), .putl f2, .putlImm i2],
      Fills i) ∧ Shaped placed ∧
    (∀ l ∈ (ctxOf placed).acting f2.pred f2.pinv, mayChoose (ctxOf placed) (chosen 2 (vfSrc (ctxOf placed) 0x42 f2 [] 1) l)) ∧
    ∀ l ∈ (ctxOf placed).acting f2.pred f2.pinv, mayChoose (ctxOf placed) (chosen 1 (vfSrc (ctxOf placed) 0x43 f2 [] 0) l) :=
  ⟨all_fed (by decide +kernel), placed_shaped, by unfold mayChoose; decide +kernel, by unfold mayChoose; decide +kernel⟩

/-- v127 is declared, v2 tracked; the indices in v3 and v2 of lane 31 lead there from v2 and v1. -/
def indexed (n : Nat) (w : Word) : State := placedWith (fun g => { g with v := tset 0 g.v (32 * n + 31) w })
def trackedReg (n : Nat) : State := { indexed 3 1 with groups := (indexed 3 1).groups.map (fun e => (e.1, { e.2 with flags := [(0, ⟨false, true, [n], none⟩)] })) }
def wide : VF := { f2 with pred := 7, pinv := false }
theorem witness_ChosenRegisterOpcodesTrap :
    ((Instr.vidx wide).wf = true ∧ Issues (.vidx wide) (indexed 3 200) (ctxOf (indexed 3 200)) ∧ Fed (.vidx wide) ((ctxOf (indexed 3 200)).acting 7 false) (ctxOf (indexed 3 200)) [] ∧
      FirstChosen (ctxOf (indexed 3 200)) ((ctxOf (indexed 3 200)).acting 7 false) (chosen 2 (vfSrc (ctxOf (indexed 3 200)) 0x42 wide [] 1))
        (fun m => (ctxOf (indexed 3 200)).nregs ≤ m) 31) ∧
    (Issues (.vidxw wide) (indexed 2 200) (ctxOf (indexed 2 200)) ∧ Fed (.vidxw wide) ((ctxOf (indexed 2 200)).acting 7 false) (ctxOf (indexed 2 200)) [] ∧
      FirstChosen (ctxOf (indexed 2 200)) ((ctxOf (indexed 2 200)).acting 7 false) (chosen 1 (vfSrc (ctxOf (indexed 2 200)) 0x43 wide [] 0))
        (fun m => (ctxOf (indexed 2 200)).nregs ≤ m) 31) ∧
    (Issues (.vidx { wide with a := .v 4 }) (trackedReg 5) (ctxOf (trackedReg 5)) ∧
      (∀ k ∈ (ctxOf (trackedReg 5)).acting 7 false, chosen 4 (vfSrc (ctxOf (trackedReg 5)) 0x42 { wide with a := .v 4 } [] 1) k < (ctxOf (trackedReg 5)).nregs) ∧
      FirstChosen (ctxOf (trackedReg 5)) ((ctxOf (trackedReg 5)).acting 7 false) (chosen 4 (vfSrc (ctxOf (trackedReg 5)) 0x42 { wide with a := .v 4 } [] 1))
        (fun m => m ∈ ((ctxOf (trackedReg 5)).g.flags.map (·.2.tracked)).flatten) 31) := by
  unfold FirstChosen Fed
  exact ⟨⟨by decide +kernel, (ready_spec (by decide +kernel)).2, by decide +kernel, by decide +kernel⟩,
    ⟨(ready_spec (by decide +kernel)).2, by decide +kernel, by decide +kernel⟩,
    (ready_spec (by decide +kernel)).2, by decide +kernel, by decide +kernel⟩

def slotOps : List SlotOp := [.fadd, .fmul, .fmin, .fmax, .iadd, .isub, .imul, .and, .or, .xor, .shl, .shr, .sar, .mov, .imin, .imax,
  .hadd2, .hmul2]
theorem witness_PairOpcodesCompute : Shaped placed ∧
    (∀ i ∈ [Instr.slotNop ⟨.iadd, ⟨6, .v 1, .s 2⟩⟩, .movSlot ⟨4, .v 1, .unused⟩ ⟨.nop, .unused⟩] ++
      (slotOps.filter (· != .mov)).map (fun op => slotInstr op ⟨127, .v 4, .v 4⟩ ⟨op, ⟨6, .v 1, .s 2⟩⟩),
      MayIssue i) := ⟨placed_shaped, all_issue (by decide +kernel)⟩
theorem witness_ScalarOpcodesCompute : ∀ i ∈ ([.sadd s2, .ssub s2, .smul s2, .smulh s2, .sand s2, .sor s2, .sxor s2, .sshl s2,
  .sshr s2, .ssar s2, .smin s2, .smax s2, .smov s1, .sfadd s2, .sfmul s2, .sffma s3, .sbfe s2, .spopc s1] : List Instr),
    MayIssue i := all_issue (by decide +kernel)
theorem witness_ScalarSelectsComplete : ∀ i ∈ ([.ssetp (sf (.p 6) (.s 1) (.s 2) (.code 5) 0),
  .ssel (sf (.s 63) (.s 1) (.s 2) (.code 7) 0), .sfromv (sf (.s 0) (.v 127) .lane .unused 0)] : List Instr),
    MayIssue i := all_issue (by decide +kernel)
theorem witness_SystemRegistersRead : ∀ i ∈ ([.sread (sf (.s 62) .imm .unused .unused 0x12F),
  .sread (sf (.s 63) .imm .unused .unused 0x00A)] : List Instr),
    MayIssue i := all_issue (by decide +kernel)
theorem witness_SystemRegistersWritten : ∀ i ∈ ([.swrite (sf .none .imm (.s 62) .unused 0x100),
  .swrite (sf .none .imm (.s 63) .unused 0x01B)] : List Instr),
    MayIssue i := all_issue (by decide +kernel)

/-- The placed machine with its strand 0 in a gang of its own. -/
def split : State := placedWith (fun g => g.modStrands [1, 2, 3, 4, 5, 6, 7] (fun _ st => { st with gang := 1 }))
/-- The placed group with all strands' stacks as given. -/
def stacked (n : Nat) : State := placedWith (fun g => g.modStrands (List.range 8) (fun _ st => { st with stack := List.replicate n 0xF }))
/-- The same with an empty address pair in s10 that ends at an aligned address. -/
def aimed : State := placedWith (fun g => { g with s := tset 0 g.s 10 0xFFFFFFF8 })
/-- Strand u's address in s10 is misaligned. -/
def askew (u : Nat) : State := placedWith (fun g => g.sset 10 u 4)

theorem witness_BranchesComplete : MayIssue (.bra ⟨.code 15, 1, 0x80000000⟩) ∧ MayIssue (.call ⟨.s 62, 0, 0xFFFFFFFF⟩) ∧
    MayIssue (.sloop ⟨.s 63, 0, 0x7FFFFFFF⟩) ∧ MayIssue (.brx ⟨.s 10, 0, 0⟩) ∧
    (∀ u ∈ (ctxOf placed).strands, (ctxOf placed).g.spair 10 u % 8 = 0) ∧ MayIssue (.ret ⟨.s 10, 0, 0⟩) ∧
    (Issues (.ret ⟨.s 10, 0, 0⟩) aimed (ctxOf aimed) ∧ (ctxOf aimed).g.spair 10 (ctxOf aimed).lowest = 0xFFFFFFF8) ∧
    (Issues (.brx ⟨.s 10, 0, 0⟩) (askew 7) (ctxOf (askew 7)) ∧ 7 ∈ (ctxOf (askew 7)).strands ∧ (ctxOf (askew 7)).g.spair 10 7 % 8 ≠ 0 ∧
      ∀ w ∈ (ctxOf (askew 7)).strands, w < 7 → (ctxOf (askew 7)).g.spair 10 w % 8 = 0) ∧
    Issues (.ret ⟨.s 10, 0, 0⟩) (askew 0) (ctxOf (askew 0)) ∧ (ctxOf (askew 0)).g.spair 10 (ctxOf (askew 0)).lowest % 8 ≠ 0 :=
  ⟨ready_spec (by decide +kernel), ready_spec (by decide +kernel), ready_spec (by decide +kernel), ready_spec (by decide +kernel),
    by decide +kernel, ready_spec (by decide +kernel), ⟨(ready_spec (by decide +kernel)).2, by decide +kernel⟩,
    ⟨(ready_spec (by decide +kernel)).2, by decide +kernel⟩, (ready_spec (by decide +kernel)).2, by decide +kernel⟩

theorem witness_PredicateStackWorks :
    (Issues (.ppush ⟨.code 15, 0, 0⟩) (stacked 15) (ctxOf (stacked 15)) ∧
      ∀ u ∈ (ctxOf (stacked 15)).strands, ((ctxOf (stacked 15)).g.strand u).stack.length < 16) ∧
    (Issues .pinv (stacked 2) (ctxOf (stacked 2)) ∧ Issues .ppop (stacked 2) (ctxOf (stacked 2)) ∧
      ∀ u ∈ (ctxOf (stacked 2)).strands, 2 ≤ ((ctxOf (stacked 2)).g.strand u).stack.length) ∧
    (Issues (.ppush ⟨.code 15, 0, 0⟩) (stacked 16) (ctxOf (stacked 16)) ∧ 0 ∈ (ctxOf (stacked 16)).strands ∧
      16 ≤ ((ctxOf (stacked 16)).g.strand 0).stack.length ∧ ∀ w ∈ (ctxOf (stacked 16)).strands, ¬w < 0) ∧
    (Issues .pinv (stacked 1) (ctxOf (stacked 1)) ∧ Issues .ppop (stacked 1) (ctxOf (stacked 1)) ∧
      0 ∈ (ctxOf (stacked 1)).strands ∧ ((ctxOf (stacked 1)).g.strand 0).stack.length ≤ 1 ∧
      ∀ w ∈ (ctxOf (stacked 1)).strands, ¬w < 0) :=
  ⟨⟨(ready_spec (by decide +kernel)).2, by decide +kernel⟩,
    ⟨(ready_spec (by decide +kernel)).2, (ready_spec (by decide +kernel)).2, by decide +kernel⟩,
    ⟨(ready_spec (by decide +kernel)).2, by decide +kernel, by decide +kernel, by decide +kernel⟩,
    ⟨(ready_spec (by decide +kernel)).2, (ready_spec (by decide +kernel)).2, by decide +kernel, by decide +kernel, by decide +kernel⟩⟩

/-- The group in its handler, parted as it trapped; and a worker on the task of slot 0. -/
def trapped : State := placedWith (fun g => { g with inHandler := some ⟨startStrands 8 0x30000, [], 0, 0, []⟩ })
def worker : State := placedWith (fun g => { g with task := some 0 })
def busyFlag : State := placedWith (fun g => { g with flags := [(11, ⟨true, true, [], none⟩)] })
theorem witness_GangsGoOn :
    (MayIssue .regang ∧ (ctxOf placed).strands.length = (ctxOf placed).g.live.length) ∧
    (Issues .regang split (ctxOf split) ∧ (ctxOf split).strands.length ≠ (ctxOf split).g.live.length) ∧
    (MayIssue (.waitf ⟨.unused, 0xFFF, 0⟩) ∧ ∀ n < 12, (0xFFF : BitVec 12).getLsbD n = true → ((ctxOf placed).g.flag n).busy = false) ∧
    (Issues (.waitf ⟨.unused, 0x800, 0⟩) busyFlag (ctxOf busyFlag) ∧ (ctxOf busyFlag).det = false ∧
      (0x800 : BitVec 12).getLsbD 11 = true ∧ ((ctxOf busyFlag).g.flag 11).busy = true) ∧
    MayIssue .nop ∧ MayIssue .yield ∧ (ctxOf placed).det = false ∧
    (Issues .exit split (ctxOf split) ∧ (ctxOf split).g.task = none ∧ (ctxOf split).g.inHandler = none ∧
      (ctxOf split).strands.length ≠ (ctxOf split).g.live.length) ∧
    (MayIssue .exit ∧ (ctxOf placed).g.task = none ∧ (ctxOf placed).strands.length = (ctxOf placed).g.live.length) ∧
    (Issues .exit trapped (ctxOf trapped) ∧ (ctxOf trapped).g.inHandler ≠ none ∧ (ctxOf trapped).g.task = none) ∧
    Issues .exit worker (ctxOf worker) ∧ (ctxOf worker).g.task = some 0 ∧ worker.ops = [] ∧ (ctxOf worker).g.flags = [] ∧ (ctxOf worker).g.late = [] :=
  ⟨⟨ready_spec (by decide +kernel), by decide +kernel⟩, ⟨(ready_spec (by decide +kernel)).2, by decide +kernel⟩,
    ⟨ready_spec (by decide +kernel), by decide +kernel⟩,
    ⟨(ready_spec (by decide +kernel)).2, by decide +kernel, by decide +kernel, by decide +kernel⟩,
    ready_spec (by decide +kernel), ready_spec (by decide +kernel), by decide +kernel,
    ⟨(ready_spec (by decide +kernel)).2, by decide +kernel, by decide +kernel, by decide +kernel⟩,
    ⟨ready_spec (by decide +kernel), by decide +kernel, by decide +kernel⟩,
    ⟨(ready_spec (by decide +kernel)).2, by decide +kernel, by decide +kernel⟩,
    (ready_spec (by decide +kernel)).2, by decide +kernel, by decide +kernel, by decide +kernel, by decide +kernel⟩

def meeting : Group := placedGroup.modStrands (List.range 8) (fun u st => { st with wait := .regang, gang := u })
def met : State := { placed with groups := [(0, meeting)] }
/-- Strand 7 at another REGANG. -/
def unmeeting : Group := meeting.modStrands [7] (fun _ st => { st with pc := 0x20008 })
def unmet : State := { placed with groups := [(0, unmeeting)] }
def yieldedGroup : Group := { placedGroup with yielded := some 0, offers := [3] }
def yieldedAt : State := { placed with groups := [(0, yieldedGroup)], clock := 64 }
theorem witness_WaitingGangsMeet :
    (tfind met.ev.a met.groups = some meeting ∧ meeting.gid = met.ev.a ∧ meeting.live ≠ [] ∧ met.groupRuns meeting = true ∧
      ∀ u ∈ meeting.live, (meeting.strand u).wait = .regang ∧ (meeting.strand u).pc = (meeting.strand (lowestOf meeting.live)).pc) ∧
    (tfind unmet.ev.a unmet.groups = some unmeeting ∧ unmeeting.gid = unmet.ev.a ∧ unmet.groupRuns unmeeting = true ∧
      unmet.speculative unmeeting = false ∧ (∀ u ∈ unmeeting.live, (unmeeting.strand u).wait = .regang) ∧ 7 ∈ unmeeting.live ∧
      (unmeeting.strand 7).pc ≠ (unmeeting.strand (lowestOf unmeeting.live)).pc ∧
      ∀ u ∈ unmeeting.live, u < 7 → (unmeeting.strand u).pc = (unmeeting.strand (lowestOf unmeeting.live)).pc) ∧
    tfind yieldedAt.ev.a yieldedAt.groups = some yieldedGroup ∧ yieldedGroup.gid = yieldedAt.ev.a ∧ yieldedGroup.yielded = some 0 ∧
      0 + 64 ≤ yieldedAt.clock := by decide +kernel

/-- The placed team with barrier `n` as given. -/
def barred (n : Nat) (b : Barrier) : State :=
  { placed with teams := [(0, { Team.start 0 0 0 0 0 0 1 with barriers := [(n, b)] })] }
def bar (n : BitVec 12) (off : BitVec 32) : CTL := ⟨.unused, n, off⟩
/-- The same, with every strand in a wait at it. -/
def standing (w : Nat) (b : Barrier) : State :=
  { barred (w % 16) b with groups := [(0, placedGroup.modStrands (List.range 8) (fun _ st => { st with wait := .bar w }))] }
/-- The gang stands in the wait of a barrier instruction, the barrier as given. -/
def stands (i : Instr) (n : BitVec 12) (w : Nat) (b : Barrier) : Bool :=
  (issueCtx (standing w b)).isSome && inWaitHalf i (ctxOf (standing w b)) && decide (barAt (standing w b) (ctxOf (standing w b)) (bar n 0) = b) &&
    !(ctxOf (standing w b)).det
theorem nothing_flies (c : Ctx) (s : State) (h : s.ops = []) : AccessesDone s c := by
  intro o ho; rw [h] at ho; cases ho
theorem witness_BarriersComplete :
    (MayIssue (.barInit (bar 15 64)) ∧ (barAt placed (ctxOf placed) (bar 15 64)).count = 0) ∧
    (Issues (.barArv (bar 15 0)) (barred 15 ⟨64, 63, 1, 0, 0⟩) (ctxOf (barred 15 ⟨64, 63, 1, 0, 0⟩)) ∧
      AccessesDone (barred 15 ⟨64, 63, 1, 0, 0⟩) (ctxOf (barred 15 ⟨64, 63, 1, 0, 0⟩)) ∧
      (barAt (barred 15 ⟨64, 63, 1, 0, 0⟩) (ctxOf (barred 15 ⟨64, 63, 1, 0, 0⟩)) (bar 15 0)) = ⟨64, 63, 1, 0, 0⟩) ∧
    (Issues (.barWait (bar 0 0)) (barred 0 ⟨1, 0, 1, 1, 0⟩) (ctxOf (barred 0 ⟨1, 0, 1, 1, 0⟩)) ∧
      (barAt (barred 0 ⟨1, 0, 1, 1, 0⟩) (ctxOf (barred 0 ⟨1, 0, 1, 1, 0⟩)) (bar 0 0)) = ⟨1, 0, 1, 1, 0⟩) ∧
    (MayIssue (.barSync (bar 0 0)) ∧ AccessesDone placed (ctxOf placed) ∧
      (barAt placed (ctxOf placed) (bar 0 0)) = ⟨1, 0, 1, 0, 0⟩) ∧
    (MayIssue (.barDrop (bar 0 0)) ∧ (ctxOf placed).g.pos = 0) ∧
    (Issues (.barWait (bar 15 0)) (barred 15 ⟨2, 1, 3, 1, 1⟩) (ctxOf (barred 15 ⟨2, 1, 3, 1, 1⟩)) ∧
      barAt (barred 15 ⟨2, 1, 3, 1, 1⟩) (ctxOf (barred 15 ⟨2, 1, 3, 1, 1⟩)) (bar 15 0) = ⟨2, 1, 3, 1, 1⟩) ∧
    (Issues (.barSync (bar 15 0)) (barred 15 ⟨2, 0, 3, 0, 0⟩) (ctxOf (barred 15 ⟨2, 0, 3, 0, 0⟩)) ∧
      AccessesDone (barred 15 ⟨2, 0, 3, 0, 0⟩) (ctxOf (barred 15 ⟨2, 0, 3, 0, 0⟩)) ∧
      barAt (barred 15 ⟨2, 0, 3, 0, 0⟩) (ctxOf (barred 15 ⟨2, 0, 3, 0, 0⟩)) (bar 15 0) = ⟨2, 0, 3, 0, 0⟩) ∧
    stands (.barWait (bar 15 0)) 15 31 ⟨2, 0, 3, 1, 0⟩ = true ∧ stands (.barSync (bar 15 0)) 15 15 ⟨2, 1, 3, 1, 1⟩ = true :=
  ⟨⟨ready_spec (by decide +kernel), by decide +kernel⟩,
    ⟨(ready_spec (by decide +kernel)).2, nothing_flies _ _ (by decide +kernel), by decide +kernel⟩,
    ⟨(ready_spec (by decide +kernel)).2, by decide +kernel⟩,
    ⟨ready_spec (by decide +kernel), nothing_flies _ _ (by decide +kernel), by decide +kernel⟩,
    ⟨ready_spec (by decide +kernel), by decide +kernel⟩, ⟨(ready_spec (by decide +kernel)).2, by decide +kernel⟩,
    ⟨(ready_spec (by decide +kernel)).2, nothing_flies _ _ (by decide +kernel), by decide +kernel⟩, by decide +kernel, by decide +kernel⟩

/-- One barrier state for each clause of a statement. -/
def trapping (i : Instr) (n : BitVec 12) (b : Barrier) : Prop :=
  Issues i (barred n.toNat b) (ctxOf (barred n.toNat b)) ∧ AccessesDone (barred n.toNat b) (ctxOf (barred n.toNat b)) ∧
    barAt (barred n.toNat b) (ctxOf (barred n.toNat b)) (bar n 0) = b
theorem witness_BarriersTrap : trapping (.barInit (bar 3 1)) 3 ⟨2, 1, 3, 2, 2⟩ ∧ trapping (.barArv (bar 3 0)) 3 ⟨0, 0, 1, 0, 0⟩ ∧
    trapping (.barSync (bar 3 0)) 3 ⟨1, 0, 2, 0, 0⟩ ∧ trapping (.barArv (bar 3 0)) 3 ⟨1, 0, 1, 1, 0⟩ ∧
    trapping (.barWait (bar 3 0)) 3 ⟨1, 0, 1, 0, 0⟩ ∧ trapping (.barDrop (bar 3 0)) 3 ⟨1, 0, 2, 0, 0⟩ ∧
    trapping (.barDrop (bar 3 0)) 3 ⟨1, 0, 1, 1, 0⟩ := by
  refine ⟨?_, ?_, ?_, ?_, ?_, ?_, ?_⟩ <;>
    exact ⟨(ready_spec (by decide +kernel)).2, nothing_flies _ _ (by decide +kernel), by decide +kernel⟩

def hazard : State := placedWith (fun g => { g with flags := [(0, ⟨false, true, [2], none⟩)] })
def lateAt : State := placedWith (fun g => { g with flags := [(11, ⟨false, true, [], some ⟨0x10, 2, 0x30000, false, 0⟩⟩)] })
def held : State := { placed with acqs := [⟨9, 0, 1, .group 0⟩] }
def ldPlain : MEM := ⟨.v 4, .v 2, .unused, 0x100, 0, 0, false, false, false, false, 0⟩
/-- The same in a speculative task, whose late trap waits; and a deterministic launch whose team has a load of its turn before in flight. -/
def specAt : State := { placedWith (fun g => { g with task := some 1, flags := [(11, ⟨false, true, [], some ⟨0x10, 2, 0x30000, false, 0⟩⟩)] }) with
  domains := [(0, ⟨0, 0x100000, 0x200000, 64, 100, 0, 0, 0, [(0, ⟨0, [], 0, 0, 0, 0, 1, none, none, none, true⟩),
    (1, ⟨0, [], 9, 1, 0, 0, 2, some 0, none, none, true⟩)], 0, none, false, []⟩)] }
def turned : State := { placed with
  groups := [(0, placedGroup), (1, { placedGroup with gid := 1, pos := 1 })],
  launches := [(0, { Launch.start 0 { placedRecord with mode := 1 } 0 0 0 0 0 placedRanges placedRanges 1 with placed := [0], live := 2 })],
  teams := [(0, Team.start 0 0 0 0 0 0 2)],
  ops := [⟨7, 1, 0, 11, 0x20000, 0, .ldW ldPlain, .load 4 1 4 false false, 0, false, none, false, none, true, [], [], [], [], 0, [], [], none, false, none, 0, false, false⟩] }
theorem witness_IssueComesFirst : issueCtx State.reset = none ∧
    (issueCtx hazard = some (ctxOf hazard) ∧ inWaitHalf (.iadd f2) (ctxOf hazard) = false ∧
      issueTrap (.iadd f2) (ctxOf hazard) hazard = some (0x05, 0, 2)) ∧
    (issueCtx lateAt = some (ctxOf lateAt) ∧ inWaitHalf (.waitf ⟨.unused, 0x800, 0⟩) (ctxOf lateAt) = false ∧
      issueTrap (.waitf ⟨.unused, 0x800, 0⟩) (ctxOf lateAt) lateAt = none ∧
      (lateDue (.waitf ⟨.unused, 0x800, 0⟩) (ctxOf lateAt).g).isSome = true ∧ lateAt.speculative (ctxOf lateAt).g = false) ∧
    (issueCtx held = some (ctxOf held) ∧ inWaitHalf (.ldW ldPlain) (ctxOf held) = false ∧
      issueTrap (.ldW ldPlain) (ctxOf held) held = none ∧ lateDue (.ldW ldPlain) (ctxOf held).g = none ∧
      formIsMemory (Instr.ldW ldPlain).form = true ∧ held.memHold (ctxOf held).g.gid = true) ∧
    (issueCtx specAt = some (ctxOf specAt) ∧ inQueueHalf (.waitf ⟨.unused, 0x800, 0⟩) (ctxOf specAt) = false ∧
      issueTrap (.waitf ⟨.unused, 0x800, 0⟩) (ctxOf specAt) specAt = none ∧
      (lateDue (.waitf ⟨.unused, 0x800, 0⟩) (ctxOf specAt).g).isSome = true ∧ specAt.speculative (ctxOf specAt).g = true) ∧
    (issueCtx turned = some (ctxOf turned) ∧ issueTrap (.ldW ldPlain) (ctxOf turned) turned = none ∧
      lateDue (.ldW ldPlain) (ctxOf turned).g = none ∧ turned.memHold (ctxOf turned).g.gid = false ∧ (ctxOf turned).det = true ∧
      turned.teamHold (ctxOf turned).g (formClass (Instr.ldW ldPlain).form) = true) := by decide +kernel

def handled : State := placedWith (fun g => { g with handler := 0x40000, hdata := 0x123456789 })
theorem witness_TrapsAreTaken : tfind 0 handled.groups = some { placedGroup with handler := 0x40000, hdata := 0x123456789 } ∧
    ({ placedGroup with handler := 0x40000, hdata := 0x123456789 } : Group).gid = 0 ∧ placedGroup.inHandler = none ∧
    (0x40000 : Addr) ≠ 0 := by decide +kernel
theorem witness_TrapsHalt : tfind placedGroup.gid placed.groups = some placedGroup ∧ placedGroup.handler = 0 := by decide +kernel
def saved : HandlerSave := ⟨startStrands 8 0x30000, [(1, 7)], 5, 0, []⟩
def handling (pc : Addr) : State := placedWith (fun g => { g with inHandler := some saved, trapPc := pc })
theorem witness_TrapsReturn :
    (Issues .trapret (handling 0x30008) (ctxOf (handling 0x30008)) ∧ (ctxOf (handling 0x30008)).g.inHandler = some saved ∧
      (ctxOf (handling 0x30008)).g.trapPc.toNat % 8 = 0) ∧
    (Issues .trapret (handling 0x30004) (ctxOf (handling 0x30004)) ∧ (ctxOf (handling 0x30004)).g.trapPc.toNat % 8 ≠ 0) :=
  ⟨⟨(ready_spec (by decide +kernel)).2, by decide +kernel, by decide +kernel⟩, (ready_spec (by decide +kernel)).2, by decide +kernel⟩
theorem witness_TrapWordsTrap : MayIssue (.trap ⟨.unused, 0xFFF, 0⟩) ∧ MayIssue (.syscall ⟨.unused, 0xFFF, 0⟩) ∧
    issueCtx placed = some (ctxOf placed) ∧ placed.speculative (ctxOf placed).g = false ∧ ¬(placed.ev.a = 0x10 ∧ placed.ev.b = 1) :=
  ⟨ready_spec (by decide +kernel), ready_spec (by decide +kernel), by decide +kernel, by decide +kernel, by decide +kernel⟩

def bound : State := { placedWith (fun g => { g with qbinds := [(3, ⟨0, 64, 0, 0⟩)] }) with bankModes := [(0, 2)] }
theorem witness_QueueSourcesPopFirst : Issues (.iadd { f2 with a := .q 3, b := .q 3 }) bound (ctxOf bound) ∧
    (Instr.iadd { f2 with a := .q 3, b := .q 3 }).wf = true ∧ formPops (Instr.iadd { f2 with a := .q 3, b := .q 3 }).form ≠ [] ∧
    formActing (Instr.iadd { f2 with a := .q 3, b := .q 3, pred := 7, pinv := false }).form (ctxOf bound) ≠ [] ∧
    Issues (.iadd { f2 with a := .q 3, b := .q 3, pred := 7, pinv := false }) bound (ctxOf bound) ∧
    tfind (ctxOf bound).lowest (ctxOf bound).g.pending = none :=
  ⟨(ready_spec (by decide +kernel)).2, by decide +kernel, by decide +kernel, by decide +kernel, (ready_spec (by decide +kernel)).2,
    by decide +kernel⟩

/-! Memory: every lane at one location of the identity mapping, or each at its own. -/

/-- Lane l's address is 32 l in the pair v2, v3. -/
def fanned : State := placedWith (fun g => { g with v := (List.range 32).foldl (fun t l => tset 0 t (64 + l) (BitVec.ofNat 32 (32 * l))) g.v })
def fanLoc (off l : Nat) : Loc := ⟨homeOf (32 * l + off) false, 32 * l + off, none⟩
def mem (data base sb : Src) (off : BitVec 16) (sync : Bool) : MEM := ⟨data, base, sb, off, 0, 0, false, false, sync, false, 11⟩
def LandsFanned (i : Instr) (x : MEM) (size : Nat) (rd wr : Bool) : Prop :=
  Issues i fanned (ctxOf fanned) ∧ Lands (ctxOf fanned) x size rd wr (fanLoc x.offset.toNat) (ctxOf fanned).active
theorem fanned_shaped : Shaped fanned := by
  refine ⟨by decide +kernel, ?_⟩
  intro e he
  have : fanned.groups = [(0, { placedGroup with v := (List.range 32).foldl (fun t l => tset 0 t (64 + l) (BitVec.ofNat 32 (32 * l))) placedGroup.v })] := by
    decide +kernel
  rw [this, List.mem_singleton] at he
  subst he
  exact ⟨by decide +kernel, by decide +kernel, fun h hh => by
    have : placedGroup.inHandler = none := by decide +kernel
    rw [show placedGroup.inHandler = some h from hh] at this
    cases this⟩
theorem witness_LoadsStart :
    LandsFanned (.ldB (mem (.v 127) (.v 2) .unused 7 false)) (mem (.v 127) (.v 2) .unused 7 false) 1 true false ∧
    LandsFanned (.ldH (mem (.v 127) (.v 2) .unused 6 true)) (mem (.v 127) (.v 2) .unused 6 true) 2 true false ∧
    LandsFanned (.ldW (mem (.v 1) (.v 2) .unused 4 true)) (mem (.v 1) (.v 2) .unused 4 true) 4 true false ∧
    LandsFanned (.ldD (mem (.v 2) (.v 2) .unused 8 false)) (mem (.v 2) (.v 2) .unused 8 false) 8 true false ∧
    LandsFanned (.ldQ (mem (.v 124) (.v 2) .unused 16 true)) (mem (.v 124) (.v 2) .unused 16 true) 16 true false ∧
    LandsFanned (.ldBs (mem (.v 1) (.v 2) .unused 0 false)) (mem (.v 1) (.v 2) .unused 0 false) 1 true false ∧
    LandsFanned (.ldHs (mem (.v 1) (.v 2) .unused 2 false)) (mem (.v 1) (.v 2) .unused 2 false) 2 true false ∧
    (MayIssue (.lduW (mem (.s 1) (.s 2) .unused 4 false)) ∧
      Lands (ctxOf placed) (mem (.s 1) (.s 2) .unused 4 false) 4 true false (fun _ => fanLoc 4 0) [4 * (ctxOf placed).lowest]) ∧
    (MayIssue (.lduD (mem (.s 4) (.s 2) .unused 8 true)) ∧
      Lands (ctxOf placed) (mem (.s 4) (.s 2) .unused 8 true) 8 true false (fun _ => fanLoc 8 0) [4 * (ctxOf placed).lowest]) := by
  unfold LandsFanned Lands
  exact ⟨⟨(ready_spec (by decide +kernel)).2, by decide +kernel⟩, ⟨(ready_spec (by decide +kernel)).2, by decide +kernel⟩,
    ⟨(ready_spec (by decide +kernel)).2, by decide +kernel⟩, ⟨(ready_spec (by decide +kernel)).2, by decide +kernel⟩,
    ⟨(ready_spec (by decide +kernel)).2, by decide +kernel⟩, ⟨(ready_spec (by decide +kernel)).2, by decide +kernel⟩,
    ⟨(ready_spec (by decide +kernel)).2, by decide +kernel⟩, ⟨ready_spec (by decide +kernel), by decide +kernel⟩,
    ready_spec (by decide +kernel), by decide +kernel⟩
theorem witness_StoresStart :
    LandsFanned (.stB (mem (.v 127) (.v 2) .unused 7 false)) (mem (.v 127) (.v 2) .unused 7 false) 1 false true ∧
    LandsFanned (.stH (mem (.v 127) (.v 2) .unused 6 true)) (mem (.v 127) (.v 2) .unused 6 true) 2 false true ∧
    LandsFanned (.stW (mem (.v 1) (.v 2) .unused 4 false)) (mem (.v 1) (.v 2) .unused 4 false) 4 false true ∧
    LandsFanned (.stD (mem (.v 2) (.v 2) .unused 8 true)) (mem (.v 2) (.v 2) .unused 8 true) 8 false true ∧
    LandsFanned (.stQ (mem (.v 124) (.v 2) .unused 16 false)) (mem (.v 124) (.v 2) .unused 16 false) 16 false true ∧
    (ctxOf fanned).g.task = none ∧ fanned.ops = [] ∧ Filed fanned ∧ (∀ l ∈ (ctxOf fanned).active, Claim.Real (fanLoc 7 l)) ∧
    L1Takes fanned (ctxOf fanned).core ((ctxOf fanned).active.map (fanLoc 7)) := by
  unfold LandsFanned Lands Filed Claim.Real L1Takes
  exact ⟨⟨(ready_spec (by decide +kernel)).2, by decide +kernel⟩, ⟨(ready_spec (by decide +kernel)).2, by decide +kernel⟩,
    ⟨(ready_spec (by decide +kernel)).2, by decide +kernel⟩, ⟨(ready_spec (by decide +kernel)).2, by decide +kernel⟩,
    ⟨(ready_spec (by decide +kernel)).2, by decide +kernel⟩, by decide +kernel, by decide +kernel,
    (fun e he => absurd (show e ∈ ([] : Table CoreSector) from (show fanned.sectors = [] by decide +kernel) ▸ he) (by simp)), by decide +kernel,
    .inr (by decide +kernel)⟩
/-- ATOM words, with a swap value for CAS, and RED words. -/
def atomWords (x : MEM) : List Instr := [.atomAdd x, .atomMin x, .atomMax x, .atomUmin x, .atomUmax x, .atomAnd x, .atomOr x, .atomXor x,
  .atomXchg x, .atomCas x, .atomFadd x, .atomFmin x, .atomFmax x]
def redWords (x : MEM) : List Instr := [.redAdd x, .redMin x, .redMax x, .redUmin x, .redUmax x, .redAnd x, .redOr x, .redXor x, .redXchg x,
  .redFadd x, .redFmin x, .redFmax x]
def allIn (s : State) (is : List Instr) : Prop := ∀ i ∈ is, i.wf = true ∧ Issues i s (ctxOf s)
theorem all_in {s : State} {is : List Instr} (h : is.all (fun i => ready i s) = true) : allIn s is :=
  fun i hi => ready_spec (List.all_eq_true.mp h i hi)
theorem witness_AtomicsStart :
    allIn fanned (atomWords (mem (.v 9) (.v 2) (.v 5) 4 false)) ∧ allIn fanned (redWords (mem .unused (.v 2) (.v 5) 4 false)) ∧
    allIn fanned [.redCas (mem (.v 9) (.v 2) (.v 5) 4 false)] ∧
    Lands (ctxOf fanned) (mem (.v 9) (.v 2) (.v 5) 4 false) 4 true true (fanLoc 4) (ctxOf fanned).active ∧
    NotHeldBack fanned (ctxOf fanned) (fanLoc 4) :=
  ⟨all_in (by decide +kernel), all_in (by decide +kernel), all_in (by decide +kernel), by unfold Lands; decide +kernel,
    .inl (by decide +kernel)⟩

def scratch : State := { fanned with bankModes := [(0, 1)] }
def loc (data base : Src) (off : BitVec 16) (fe : BitVec 2) : MEM := ⟨data, base, .unused, off, fe, 0, false, false, false, false, 3⟩
theorem scratch_shaped : Shaped scratch := fanned_shaped
theorem witness_LocalAccessesStart :
    (allIn scratch [.ldsW (loc (.v 5) (.v 2) 4 2), .ldsD (loc (.v 6) (.v 2) 8 0), .ldsQ (loc (.v 8) (.v 2) 16 1),
      .stsW (loc (.v 5) (.v 2) 4 3), .stsD (loc (.v 6) (.v 2) 8 0), .stsQ (loc (.v 8) (.v 2) 16 3)] ∧ Shaped scratch) ∧
    (MayIssue (.ldc (loc (.v 1) (.v 2) 31 0)) ∧ (∀ l ∈ (ctxOf placed).active, (ctxOf placed).la (loc (.v 1) (.v 2) 31 0) l < 32)) ∧
    (MayIssue (.ldc (loc (.s 1) (.s 2) 31 0)) ∧ (ctxOf placed).la (loc (.s 1) (.s 2) 31 0) (4 * (ctxOf placed).lowest) < 32) := by
  exact ⟨⟨all_in (by decide +kernel), scratch_shaped⟩,
    ⟨ready_spec (by decide +kernel), by decide +kernel⟩, ready_spec (by decide +kernel), by decide +kernel⟩

/-- Offset 0x1001 is misaligned; and without range registers no address is mapped. -/
def unmapped : State := placedWith (fun g => { g with ranges := [] })
def first (s : State) (x : MEM) (size : Nat) (rd wr : Bool) (cause sub : Nat) : Prop :=
  FirstFault (ctxOf s) x size rd wr (ctxOf s).active cause sub ((ctxOf s).va x 0)
/-- The checks that come before the address checks pass. -/
def judged (s : State) (is : List Instr) : Prop :=
  ∀ i ∈ is, issueCtx s = some (ctxOf s) ∧ inQueueHalf i (ctxOf s) = false ∧ decodeTrap i (ctxOf s) s = none
theorem witness_AccessesFaultAtIssue :
    (judged placed ([.ldH (mem (.v 4) (.v 2) .unused 1 false), .ldW (mem (.v 4) (.v 2) .unused 1 false), .ldD (mem (.v 4) (.v 2) .unused 1 false),
        .ldQ (mem (.v 4) (.v 2) .unused 1 false), .ldHs (mem (.v 4) (.v 2) .unused 1 false), .stH (mem (.v 4) (.v 2) .unused 1 false),
        .stW (mem (.v 4) (.v 2) .unused 1 false), .stD (mem (.v 4) (.v 2) .unused 1 false), .stQ (mem (.v 4) (.v 2) .unused 1 false),
        .lduW (mem (.s 4) (.s 2) .unused 1 false), .lduD (mem (.s 4) (.s 2) .unused 1 false), .redCas (mem (.v 4) (.v 2) (.v 6) 1 false)] ++
        atomWords (mem (.v 4) (.v 2) (.v 6) 1 false) ++ redWords (mem .unused (.v 2) (.v 6) 1 false)) ∧
      first placed (mem (.v 4) (.v 2) .unused 1 false) 2 true false 0x08 0) ∧
    (judged unmapped [.ldB (mem (.v 4) (.v 2) .unused 0 false), .ldBs (mem (.v 4) (.v 2) .unused 0 false), .stB (mem (.v 4) (.v 2) .unused 0 false)] ∧
      ∃ cause sub, first unmapped (mem (.v 4) (.v 2) .unused 0 false) 1 true false cause sub) := by
  refine ⟨⟨by unfold judged; decide +kernel, ?_⟩, by unfold judged; decide +kernel, ?_⟩
  · refine ⟨[], 0, (ctxOf placed).active.tail, by decide +kernel, rfl, ⟨fun _ => ⟨0, 0, none⟩, by intro l hl; cases hl⟩, ?_⟩
    rw [if_neg (by decide +kernel)]
    exact ⟨rfl, rfl⟩
  · refine ⟨0x12, 0, [], 0, (ctxOf unmapped).active.tail, by decide +kernel, rfl, ⟨fun _ => ⟨0, 0, none⟩, by intro l hl; cases hl⟩, ?_⟩
    rw [if_pos (by decide +kernel)]
    decide +kernel

theorem witness_BoundariesStart : MayIssue (.phase ⟨.unused, .unused, .unused, 0, 0, 0, true, false, false, false, 15⟩) ∧
    MayIssue (.phase ⟨.unused, .unused, .unused, 0, 0, 2, false, true, false, false, 11⟩) ∧
    MayIssue (.pref ⟨.unused, .v 2, .unused, 0x8000, 0, 0, false, false, false, true, 0⟩) :=
  ⟨ready_spec (by decide +kernel), ready_spec (by decide +kernel), ready_spec (by decide +kernel)⟩

/-- s4 holds a length of 32, bank 0 is SCRATCH, bank 1 FIFO. -/
def copying : State := { placedWith (fun g => { g with s := tset 0 (tset 0 g.s 4 32) 5 (0x40000 : Word) }) with bankModes := [(0, 1), (1, 2)] }
def cpy (off : BitVec 16) : MEM := ⟨.s 1, .s 2, .s 4, off, 0, 0, false, false, false, false, 5⟩
def parkedPage : State := { placed with waits := [⟨0, 0, 0, 0, []⟩] }
theorem witness_CopiesAndBanksStart :
    (allIn copying [.cpyIn (cpy 2), .cpyOut (cpy 1)] ∧ (ctxOf copying).pair (.s 2) = 0 ∧ ((ctxOf copying).scalar (.s 1)).toNat = 0 ∧
      ((ctxOf copying).scalar (.s 4)).toNat = 32 ∧ (∀ b ∈ spanOf 0 32, copying.bankChanging (clusterOf (ctxOf copying).core) b = false) ∧
      (ctxOf copying).g.q9.length + (ctxOf copying).g.q9Promised < 16) ∧
    (allIn placed [.cpyIn (cpy 2), .cpyOut (cpy 1)] ∧ ((ctxOf placed).scalar (.s 4)).toNat = 0) ∧
    allIn placed [.cbank ⟨.unused, .unused, .unused, 0xFFFF, 2, 0, false, false, false, false, 0⟩] ∧
    (allIn copying [.qbind ⟨.q 7, .s 5, .s 4, 0, 0, 0, false, false, false, false, 11⟩] ∧ ((ctxOf copying).scalar (.s 5)).toNat = 2 ^ 18 ∧
      ((ctxOf copying).scalar (.s 4)).toNat = 32 ∧ copying.bankMode (clusterOf (ctxOf copying).core) (2 ^ 18 / 2 ^ 18) = 2) ∧
    (allIn placed [.qbind ⟨.q 7, .s 5, .s 4, 0, 0, 0, false, false, false, false, 15⟩] ∧ ((ctxOf placed).scalar (.s 4)).toNat = 0) ∧
    allIn parkedPage [.wakeToken ⟨.unused, .s 5, .unused, 0, 0, 0, false, false, false, false, 15⟩,
      .wakePage ⟨.unused, .s 6, .unused, 1, 0, 0, false, false, false, false, 15⟩] ∧
    parkedPage.waits.find? (fun w => w.token == ((ctxOf parkedPage).scalar (.s 5)).toNat) = some ⟨0, 0, 0, 0, []⟩ ∧
    parkedPage.waits.find? (fun w => w.page == (ctxOf parkedPage).pair (.s 6) / 2 ^ 16 * 2 ^ 16 &&
      w.die == unitDie (unitOf ((ctxOf parkedPage).pair (.s 6)))) = some ⟨0, 0, 0, 0, []⟩ :=
  ⟨⟨all_in (by decide +kernel), by decide +kernel, by decide +kernel, by decide +kernel, by decide +kernel, by decide +kernel⟩,
    ⟨all_in (by decide +kernel), by decide +kernel⟩, all_in (by decide +kernel),
    ⟨all_in (by decide +kernel), by decide +kernel, by decide +kernel, by decide +kernel⟩, ⟨all_in (by decide +kernel), by decide +kernel⟩,
    all_in (by decide +kernel), by decide +kernel, by decide +kernel⟩

/-! Instructions in flight and the memory side. -/

/-- A read or write of the memory side that succeeds, and the state after it. -/
def works {α : Type} (m : Mem α) (s : State) : Bool := match m.run s with | (.ok _, _) => true | (.error _, _) => false
def afterIt {α : Type} (m : Mem α) (s : State) : State := (m.run s).2
theorem works_spec {α : Type} {m : Mem α} {s : State} (h : works m s = true) : ∃ a, m.run s = (.ok a, afterIt m s) := by
  unfold works at h; unfold afterIt
  rcases hm : m.run s with ⟨a | a, t⟩
  · rw [hm] at h; cases h
  · exact ⟨a, rfl⟩

/-- An instruction of the placed group in flight. -/
def flying (i : Instr) (kind : OpKind) (reqs : List Req) (results : List (RegElem × Word)) (performed : Bool) : Op :=
  ⟨7, 0, 0, 11, 0x20000, 0, i, kind, 0, false, none, false, none, true, [], [], [(0, 5), (1, 6)], placedRanges, 0, reqs, results, none, performed, none, 0, false, false⟩
/-- The placed machine with an instruction in flight, an event naming its request 0. -/
def inFlight (o : Op) : State := { placed with ops := [o], ev := { EvArgs.zero with a := 7 } }
def req (st : ReqState) (args : List (Nat × Word × Word)) : Req := ⟨0, 0x100, ⟨homeOf 0x100 false, 0x100, none⟩, 4, 1, args, st⟩

def ended : Op := flying (.ldW ldPlain) (.load 4 1 4 false false) [] [(.v 4 31, 0xFFFFFFFF), (.s 63 7, 1), (.p 6 31, 1), (.k 7 31 255, 0xAB)] true
/-- A copy that gives a token, and an instruction without a flag that has trapped late. -/
def tokenCopy : Op := flying (.cpyIn (cpy 2)) (.cpy false 0x40 0x100 16 true) [] [] true
def flagless : Op := { flying (.stW ldPlain) (.store 4) [] [] true with flag := 15, lateTrap := some ⟨0x11, 2, 0x100, false, 0⟩ }
theorem witness_LongLatencyCompletes : (inFlight ended).op? (inFlight ended).ev.a = some ended ∧ ended.performed = true ∧
    tfind ended.gid (inFlight ended).groups = some placedGroup ∧
    placedGroup.retiring = false ∧ (ended.results.map (·.1)).Nodup ∧
    ((inFlight tokenCopy).op? 7 = some tokenCopy ∧ tokenCopy.performed = true ∧ tokenOf tokenCopy.kind = some 0x40) ∧
    ((inFlight flagless).op? 7 = some flagless ∧ flagless.performed = true ∧ ¬flagless.flag < 12 ∧ flagless.lateTrap.isSome = true) ∧
    ∀ e ∈ ended.results, Proper e.1 := by
  refine ⟨by decide +kernel, rfl, by decide +kernel, by decide +kernel, by decide, by decide +kernel, by decide +kernel, ?_⟩
  intro e he
  fin_cases he <;> simp [Proper]

def immediate (st : ReqState) : Op := flying (.ldW { ldPlain with sync := true }) (.immLoad 4 1 4 false false) [req st []] [] false
/-- No page is mapped: the level-1 entry is empty. -/
def absent : State := { inFlight (immediate .waiting) with hbm := [] }
theorem witness_AccessesAreAnswered :
    ((inFlight (immediate .waiting)).op? 7 = some (immediate .waiting) ∧ (immediate .waiting).reqs[0]? = some (req .waiting []) ∧
      actsAtHome (immediate .waiting).kind = true ∧ (inFlight (immediate .waiting)).boot.phase = 4 ∧
      works (answer (immediate .waiting) (req .waiting [])) (inFlight (immediate .waiting)) = true ∧
      (afterIt (answer (immediate .waiting) (req .waiting [])) (inFlight (immediate .waiting))).op? 7 = some (immediate .waiting)) ∧
    (absent.op? 7 = some (immediate .waiting) ∧
      (match (answer (immediate .waiting) (req .waiting [])).run absent with
        | (.error f, u) => decide (f.1 = 0x10 ∧ f.2.1 = 1) && (match u.enterWait f.2.2 (kindCode (immediate .waiting).kind) [(7, 0)] with
          | some (_, v) => decide (v.op? 7 = some (immediate .waiting)) | none => false)
        | (.ok _, _) => false) = true) := by decide +kernel

/-- A store of a whole line of a compressed range, sixteen bytes a lane, the count nibble of the line at 0x200. -/
def wholeReq (k : Nat) : Req := ⟨k, 0x100 + 16 * k, ⟨homeOf 0x100 false, 0x100 + 16 * k, some 0x400⟩, 16, k, [], .confirmed⟩
def whole : Op := flying (.stQ { ldPlain with sync := true }) (.immStore 16) ((List.range 8).map wholeReq) [] false
def atomic (st : ReqState) : Op := flying (.atomAdd ldPlain) (.atomic .add (some 4)) [req st [(0, 1, 0), (31, 0xFFFFFFFF, 0)]] [] false
theorem witness_HomesPerform :
    ((inFlight (immediate .confirmed)).op? 7 = some (immediate .confirmed) ∧
      (inFlight (immediate .confirmed)).homeReady (immediate .confirmed) (req .confirmed []) = true ∧
      wholeImmediate (immediate .confirmed) (req .confirmed []) = [] ∧
      works (immPerform (immediate .confirmed) (req .confirmed [])) (inFlight (immediate .confirmed)) = true ∧
      (afterIt (immPerform (immediate .confirmed) (req .confirmed [])) (inFlight (immediate .confirmed))).op? 7 = some (immediate .confirmed)) ∧
    ((inFlight whole).op? 7 = some whole ∧ (inFlight whole).homeReady whole (wholeReq 0) = true ∧ wholeImmediate whole (wholeReq 0) ≠ [] ∧
      (∀ e ∈ wholeImmediate whole (wholeReq 0), (inFlight whole).homeReady whole e.2 = true) ∧
      works (immLine (wholeReq 0).loc (lineOf (wholeImmediate whole (wholeReq 0)))) (inFlight whole) = true ∧
      (afterIt (immLine (wholeReq 0).loc (lineOf (wholeImmediate whole (wholeReq 0)))) (inFlight whole)).op? 7 = some whole) ∧
    ((inFlight (atomic .confirmed)).op? 7 = some (atomic .confirmed) ∧
      (inFlight (atomic .confirmed)).homeReady (atomic .confirmed) (req .confirmed [(0, 1, 0), (31, 0xFFFFFFFF, 0)]) = true ∧
      (inFlight (atomic .confirmed)).buffers (atomic .confirmed) .add true = false ∧
      (inFlight (atomic .confirmed)).ownOrdered (atomic .confirmed) (req .confirmed []).loc = false ∧
      works (atomPerform (atomic .confirmed) .add (some 4) (req .confirmed [(0, 1, 0), (31, 0xFFFFFFFF, 0)])) (inFlight (atomic .confirmed)) = true ∧
      (afterIt (atomPerform (atomic .confirmed) .add (some 4) (req .confirmed [(0, 1, 0), (31, 0xFFFFFFFF, 0)])) (inFlight (atomic .confirmed))).op? 7 =
        some (atomic .confirmed)) ∧
    ((inFlight (atomic (.held [0]))).op? 7 = some (atomic (.held [0])) ∧
      (inFlight (atomic (.held [0]))).openFor (atomic (.held [0])) (req (.held [0]) []).loc = [] ∧
      works (atomPerform (atomic (.held [0])) .add (some 4) (req (.held [0]) [(0, 1, 0), (31, 0xFFFFFFFF, 0)])) (inFlight (atomic (.held [0]))) = true) := by
  decide +kernel

def place : Loc := ⟨homeOf 0x100 false, 0x100, none⟩
theorem witness_CommittedKeepsWrites : place.md = none ∧ works (committed place) placed = true ∧
    works (commitBytes place 0xFFFF 0x0123456789) placed = true ∧
    (works (committed place) (afterIt (committed place) placed) = true ∧
      works (commitBytes place 0xFFFF 0x0123456789) (afterIt (committed place) placed) = true ∧
      (afterIt (committed place) placed).lineSectors place.home place.line ≠ []) := by decide +kernel
theorem placed_filed : Filed placed := fun e he => by
  rw [show placed.sectors = [] by decide +kernel] at he
  cases he
theorem witness_OwnStoresAreSeen : Filed placed ∧ Claim.Real place ∧ 0 < 8 ∧ place.ipa % 16 + 8 ≤ 16 ∧
    works (plainLoad 0 place 8) (placed.plainStore 0 place 8 0x1122334455667788) = true :=
  ⟨placed_filed, by unfold Claim.Real; decide +kernel, by decide, by decide +kernel, by decide +kernel⟩

def phasing : Op := { flying (.phase ⟨.unused, .unused, .unused, 0, 0, 1, false, true, false, false, 11⟩) .phase [] [] false with relId := some 8 }
def done8 : Rel := ⟨8, 0, 1, .op 7, .pending 0, true, [], [], [], none⟩
def releasing : State := { inFlight phasing with rels := [done8], ev := { EvArgs.zero with a := 8 } }
def acquiring : State := { placed with
  acqs := [⟨8, 0, 1, .group 0⟩], ev := { EvArgs.zero with a := 8 },
  sectors := [(0, ⟨⟨0, 0, none⟩, 1, 5, some 3, false, none, none⟩)], versions := [⟨.snapshot 0, 0, 0, none, 0xFFFF, 0, false, none, .set⟩] }
def stored : State := placed.plainStore 0 place 8 0x1122334455667788
def storedKey : Nat := match stored.sectors with | (k, _) :: _ => k | [] => 0
/-- The same, its sector sent home. -/
def sentHome : State := afterIt (sendSector { done8 with todo := [storedKey] } storedKey) stored
/-- `n` snapshot blocks of core 3, one at each eighth sector, and a line that the core has pinned and has no block for. -/
def crowd (n : Nat) : State := { placed with
  ev := ⟨3, 1, 0, 0, true, [], [], []⟩, sectors := [(coreKey 3 1 0, ⟨⟨1, 0, none⟩, 0, 0, some 5, false, none, none⟩)],
  versions := (List.range n).map (fun k => ⟨.snapshot 3, 0, 8 * k, none, 0xFFFF, 0, false, none, .set⟩) }
theorem crowd_blocks (n : Nat) : (crowd n).blockCount (.snapshot 3) = n := by
  have h1 : (crowd n).versions.filter (fun v => v.kind.owner == (VKind.snapshot 3).owner) = (crowd n).versions := by
    rw [List.filter_eq_self]; intro v hv
    obtain ⟨k, -, rfl⟩ := List.mem_map.mp (show v ∈ (List.range n).map _ from hv)
    exact beq_self_eq_true _
  have h2 : (crowd n).versions.map (fun v => (v.home, v.sector / 8)) = (List.range n).map (fun k => (0, k)) := by
    show ((List.range n).map _).map _ = _
    rw [List.map_map]
    refine List.map_congr_left (fun k _ => ?_)
    simp [Function.comp]
  rw [State.blockCount, h1, h2, List.Nodup.dedup]
  · simp
  · exact List.nodup_range.map (fun _ _ h => by simpa using h)
theorem crowd_wants (n : Nat) : (crowd n).wantsBlock 3 1 0 (.snapshot 3) = true := by
  have h : (crowd n).hasBlock 1 0 (.snapshot 3) = false := by
    unfold State.hasBlock
    rw [show (crowd n).marks = [] from rfl, Bool.or_eq_false_iff, List.any_eq_false]
    refine ⟨fun v hv => ?_, rfl⟩
    obtain ⟨k, -, rfl⟩ := List.mem_map.mp (show v ∈ (List.range n).map _ from hv)
    simp
  rw [State.wantsBlock, h, State.heldLine]
  rfl
theorem stored_filed : Filed stored := fun e he => by
  have h : stored.sectors.all (fun e => e.1 == coreKey 0 e.2.loc.home e.2.loc.sec && decide (e.2.loc.home < 256 ∧ e.2.loc.ipa < 2 ^ 52)) = true := by
    decide +kernel
  have := List.all_eq_true.mp h e he
  simp only [Bool.and_eq_true, beq_iff_eq, decide_eq_true_eq] at this
  exact ⟨0, this.1, this.2.1, this.2.2⟩
theorem witness_BoundariesWork :
    (releasing.rels.find? (fun q => q.id == 8) = some done8 ∧ releasing.op? 7 = some phasing ∧ phasing.kind = .phase ∧ phasing.acq = false) ∧
    (Filed stored ∧ storedKey / 2 ^ 48 < 256 ∧
      works (sendSector { done8 with todo := [storedKey] } storedKey) stored = true ∧ done8.of_ = .pending done8.core ∧
      (stored.held? 0 (stored.pendingLoc 0 storedKey)).pmask ≠ 0) ∧
    ((sentHome.version? (.pending 0) (storedKey / 2 ^ 48) (storedKey % 2 ^ 48)).isSome = true ∧ works (publishSector done8 storedKey) sentHome = true) ∧
    (acquiring.acqs.find? (fun b => b.id == 8) = some ⟨8, 0, 1, .group 0⟩ ∧ (⟨8, 0, 1, .group 0⟩ : Acq).scope ≠ 0) ∧
    ((crowd 16384).ev.on = true ∧ 16384 ≤ (crowd 16384).blockCount (.snapshot (crowd 16384).ev.a) ∧
      (crowd 16384).wantsBlock (crowd 16384).ev.a (crowd 16384).ev.b (crowd 16384).ev.c (.snapshot (crowd 16384).ev.a) = true) :=
  ⟨by decide +kernel, ⟨stored_filed, by decide +kernel, by decide +kernel, by decide +kernel, by decide +kernel⟩, by decide +kernel, by decide +kernel,
    rfl, le_of_eq (crowd_blocks 16384).symm, crowd_wants 16384⟩

def booting (phase tries : Nat) : State := { State.reset with boot := { State.reset.boot with phase := phase, tries := tries } }
def locReq : Req := ⟨0, 0x20, ⟨0, 0, none⟩, 4, 0, [(0, 0x20, 0), (1, 0x24, 0)], .confirmed⟩
def locOp (store : Bool) (fe : Nat) : Op := flying (.stsW (loc (.v 5) (.v 2) 4 0)) (.local store fe 4 5) [locReq] [] false
def scratched (store : Bool) (fe : Nat) : State := { inFlight (locOp store fe) with bankModes := [(0, 1)], full := if store then [] else [(2, true)] }
def popper : Pending := ⟨0, .iadd { f2 with a := .q 3 }, [(0, 3, 0), (0, 3, 1)], [], [], false, 0x20008, 0⟩
def pusher : Pending := ⟨0, .iadd { f2 with dst := .q 3 }, [], [], [(3, 0, 9)], true, 0x20008, 0⟩
def queued (p : Pending) (full : Bool) : State :=
  { placedWith (fun g => { g with qbinds := [(3, ⟨0, 64, 16, 16⟩)], pending := [(0, p)] }) with bankModes := [(0, 2)], full := if full then [(1, true)] else [] }
def queuedGroup (p : Pending) : Group := { placedGroup with qbinds := [(3, ⟨0, 64, 16, 16⟩)], pending := [(0, p)] }
def changing : State := { placed with ev := { EvArgs.zero with a := 47, b := 15 }, bankModes := [(16 * 47 + 15, 2)], changes := [⟨47, 15, 0, none⟩] }
theorem witness_LocalSpaceServes :
    ((scratched true 3).op? 7 = some (locOp true 3) ∧ (scratched true 3).mayServe (locOp true 3) = true ∧
      (scratched true 3).granuleReady (locOp true 3) true 3 locReq = true ∧ (scratched true 3).bankMode 0 (0x20 / 2 ^ 18) ≠ 0) ∧
    ((scratched false 2).op? 7 = some (locOp false 2) ∧ (scratched false 2).mayServe (locOp false 2) = true ∧
      (scratched false 2).granuleReady (locOp false 2) false 2 locReq = true ∧ (scratched false 2).bankMode 0 (0x20 / 2 ^ 18) ≠ 0) ∧
    (tfind 0 (queued popper true).groups = some (queuedGroup popper) ∧ tfind 0 (queuedGroup popper).pending = some popper ∧
      (queued popper true).binding (queuedGroup popper) 3 = some (0, ⟨0, 64, 16, 16⟩) ∧
      (queued popper true).bankChanging 0 ((0 + 16) / 2 ^ 18) = false ∧ fullAt (queued popper true) 0 ((0 + 16) / 16) = true ∧
      (queued popper true).firstAt 0 (0 + 16) true popper.since 0 = true) ∧
    (tfind 0 (queued pusher false).groups = some (queuedGroup pusher) ∧ tfind 0 (queuedGroup pusher).pending = some pusher ∧
      (queued pusher false).binding (queuedGroup pusher) 3 = some (0, ⟨0, 64, 16, 16⟩) ∧
      (queued pusher false).bankChanging 0 ((0 + 16) / 2 ^ 18) = false ∧ fullAt (queued pusher false) 0 ((0 + 16) / 16) = false ∧
      (queued pusher false).firstAt 0 (0 + 16) false pusher.since 0 = true) ∧
    ((queued popper true).resumes (queuedGroup popper) 0 = false ∧ (queued pusher false).resumes (queuedGroup pusher) 0 = false) ∧
    changing.ev.a < 48 ∧ ((booting 3 0).boot.phase < 4 ∧ (booting 3 0).ev.a < 8) ∧ changing.boot.phase = 4 ∧
    (changing.changes.find? (fun c => c.cluster == 47 && c.bank == 15) = some ⟨47, 15, 0, none⟩ ∧ changing.ops = [] ∧
      changing.bankMode 47 15 ≠ 0 ∧ changing.bankedIn 47 15 = []) := by decide +kernel

/-! Engines and tasks. -/

/-- s2 holds the row descriptor AROW 508, COUNT 4; s6 is 1 step; s8, s9 a stride of 512. Bank 0 is FIFO with the rings of q0 and q1. -/
def arrayed : State := { placedWith (fun g => { g with
  s := tset 0 (tset 0 (tset 0 g.s 2 0x000401FC) 6 1) 8 512, qbinds := [(0, ⟨0, 4096, 16, 16⟩), (1, ⟨4096, 4096, 0, 4080⟩)] }) with
  bankModes := [(0, 2), (1, 1)] }
def eng (a b d : Src) (imm : BitVec 16) (sub : BitVec 4) : ENG := ⟨a, b, d, imm, 0, false, false, sub, 11⟩
theorem arrayed_rows : RowsAre ((ctxOf arrayed).scalar (.s 2)) 508 4 := by unfold RowsAre; decide +kernel
theorem arrayed_free : ArrayFree arrayed (ctxOf arrayed) := by unfold ArrayFree; decide +kernel
theorem witness_PrismCommandsIssue :
    allIn arrayed [.mmload (eng (.s 10) .unused .unused 8 0), .mmrun (eng (.s 2) (.s 6) .unused 0x94 0),
      .mmdrainMem (eng (.s 12) (.s 2) (.s 8) 5 0 |> fun x => { x with imm := 0 }), .mmdrainLoc (eng (.s 12) (.s 2) .unused 0 1),
      .mmdrainRing (eng .unused (.s 2) .unused 0x0802 2), .mmdrainQ8 (eng .unused (.s 2) .unused 3 3), .mmdrainStat (eng .unused .unused .unused 1 4)] ∧
    ArrayFree arrayed (ctxOf arrayed) ∧ RowsAre ((ctxOf arrayed).scalar (.s 2)) 508 4 ∧ arrayed.boot.phase = 4 ∧
    ((ctxOf arrayed).pair (.s 10) % 128 = 0 ∧
      translate (ctxOf arrayed).g.ranges ((ctxOf arrayed).pair (.s 10)) (2048 * 8 + 1024) true false false = .ok ⟨homeOf 0 false, 0, none⟩) ∧
    (((ctxOf arrayed).scalar (.s 6)).toNat = 1 ∧ arrayed.ring? (ctxOf arrayed) 1 = some ⟨4096, 4096, 0, 4080⟩ ∧
      ∀ k ∈ (⟨4096, 4096, 0, 4080⟩ : QBind).banks, arrayed.bankChanging (clusterOf (ctxOf arrayed).core) k = false) ∧
    ((ctxOf arrayed).pair (.s 8) % 2 ^ 32 = 512 ∧ rowBytes (eng (.s 12) (.s 2) (.s 8) 0 0) ≤ 512 ∧
      translate (ctxOf arrayed).g.ranges ((ctxOf arrayed).pair (.s 12)) (512 + 3 * 512) false true false = .ok ⟨homeOf 0 false, 0, none⟩) ∧
    (((ctxOf arrayed).scalar (.s 12)).toNat = 0 ∧ 4 * rowBytes (eng (.s 12) (.s 2) .unused 0 1) ≤ 2 ^ 22 ∧
      ∀ b ∈ spanBanks 0 (4 * rowBytes (eng (.s 12) (.s 2) .unused 0 1)), arrayed.bankMode (clusterOf (ctxOf arrayed).core) b ≠ 0 ∧
        arrayed.bankChanging (clusterOf (ctxOf arrayed).core) b = false) ∧
    drainQn (eng .unused (.s 2) .unused 0x0802 2) = 1 :=
  ⟨all_in (by decide +kernel), arrayed_free, arrayed_rows, by decide +kernel, by decide +kernel, by decide +kernel, by decide +kernel,
    by decide +kernel, by decide +kernel⟩

def command (i : Instr) (p : PrismCmd) : Op := flying i (.prism i p) [] [] false
def loadX : ENG := eng (.s 10) .unused .unused 2 0
def runX : ENG := eng (.s 2) (.s 6) .unused 0x82 0
def statX : ENG := eng .unused .unused .unused 1 4
/-- Core 0's array with a command at its head, a tile of width 2 latched. -/
def running (o : Op) : State := { inFlight o with ev := EvArgs.zero, cores := [(0, { CoreState.reset with
  prism := { Prism.reset with team := some 0, mw := 2, cmds := [7], nanblk := true } })] }
def tileRead (o : Op) (s : State) : Bool := match (readTile o 0 2).run s with | (.ok _, _) => true | (.error _, _) => false
theorem witness_PrismArrayWorks :
    ((running (command (.mmload loadX) PrismCmd.empty)).headCmd 0 = some (command (.mmload loadX) PrismCmd.empty) ∧
      tileRead (command (.mmload loadX) PrismCmd.empty) (running (command (.mmload loadX) PrismCmd.empty)) = true) ∧
    ((running (command (.mmrun runX) { PrismCmd.empty with row := 508, count := 4, steps := 1 })).headCmd 0 =
        some (command (.mmrun runX) { PrismCmd.empty with row := 508, count := 4, steps := 1 }) ∧
      ((running (command (.mmrun runX) { PrismCmd.empty with row := 508, count := 4, steps := 1 })).coreState 0).prism.mw ≠ 0) ∧
    ((running (command (.mmdrainStat statX) PrismCmd.empty)).headCmd 0 = some (command (.mmdrainStat statX) PrismCmd.empty) ∧
      tfind 0 (running (command (.mmdrainStat statX) PrismCmd.empty)).groups = some placedGroup ∧
      (tget [] ((running (command (.mmdrainStat statX) PrismCmd.empty)).coreState 0).prism.q8 placedGroup.pos).length < 1024) := by decide +kernel

def gfx (d a d2 : Src) (kreg : BitVec 4) (imm : BitVec 8) (sub : BitVec 4) : GFX := ⟨d, a, .unused, d2, kreg, imm, sub, 11⟩
/-- 32 ray instructions of 32 lanes are in flight. -/
def crowded : State := { placed with ops := (List.range 32).map (fun k =>
  { flying (.rayT (gfx (.v 123) (.v 4) (.v 30) 0 4 0)) (.ray (.rayT (gfx (.v 123) (.v 4) (.v 30) 0 4 0))) ((List.range 32).map laneSlot) [] false with id := 100 + k }) }
theorem witness_GraphicsInstructionsStart :
    allIn placed [.texS (gfx (.v 123) (.v 4) (.v 30) 0 0x0E 0), .texL (gfx (.v 123) (.v 4) (.s 12) 0 0 0), .texQ (gfx (.v 124) (.v 4) (.v 30) 0 6 0),
      .rayT (gfx (.v 123) (.v 4) (.v 30) 0 4 0), .rayO (gfx (.v 127) (.v 4) (.s 12) 0 0 0), .rayA (gfx (.v 120) (.v 4) (.v 30) 0 0 0),
      .kclr (gfx (.v 0) (.v 122) .unused 7 0 0), .klobe (gfx (.v 0) (.v 12) .unused 4 7 7), .kmix (gfx (.v 0) .unused .unused 1 2 0),
      .klayer (gfx (.v 0) (.v 20) .unused 2 1 0), .kscale (gfx (.v 0) (.v 125) .unused 3 0 0), .ksample (gfx (.v 30) (.v 0) .unused 0 6 0),
      .keval (gfx (.v 30) (.v 7) .unused 4 1 0), .kdens (gfx (.v 30) (.v 7) .unused 5 0 0), .kinfo (gfx (.v 5) .unused .unused 0 63 0),
      .kmov (gfx (.v 0) .unused .unused 1 0 7), .kspill (gfx (.v 0) (.v 40) .unused 0 0 0), .kfill (gfx (.v 0) (.v 126) .unused 6 0 0)] ∧
    Shaped placed ∧ placed.raysInFlight (ctxOf placed).core + (ctxOf placed).active.length ≤ 1024 ∧
    (allIn crowded [.rayT (gfx (.v 123) (.v 4) (.v 30) 0 4 0)] ∧ (ctxOf crowded).active ≠ [] ∧
      1024 < crowded.raysInFlight (ctxOf crowded).core + (ctxOf crowded).active.length) ∧
    ∀ l ∈ (ctxOf placed).active, (ctxOf placed).base64 (.v 40) l % 256 = 0 ∧
      translate (ctxOf placed).g.ranges ((ctxOf placed).base64 (.v 40) l) 256 true false false = .ok ⟨homeOf 0 false, 0, none⟩ ∧
      translate (ctxOf placed).g.ranges ((ctxOf placed).base64 (.v 40) l) 256 false true false = .ok ⟨homeOf 0 false, 0, none⟩ :=
  ⟨all_in (by decide +kernel), placed_shaped, by decide +kernel, ⟨all_in (by decide +kernel), by decide +kernel, by decide +kernel⟩, by decide +kernel⟩

/-- A ray whose direction is zero, which is rejected. -/
def rayOp : Op := { flying (.rayO (gfx (.v 127) (.v 4) (.s 12) 0 0 0)) (.ray (.rayO (gfx (.v 127) (.v 4) (.s 12) 0 0 0))) [laneSlot 31] [] false with src := [] }
def rayed (m : Eng (List Word)) (s : State) : Bool := match m.run s with | (.ok _, u) => decide (tfind 0 u.groups = some placedGroup ∧ u.op? 7 = some rayOp) | (.error _, _) => false
theorem witness_RayLanesFinish : (inFlight rayOp).op? 7 = some rayOp ∧ (laneSlot 31).state = .waiting ∧ (laneSlot 31).lane < 32 ∧
    (inFlight rayOp).unitRuns rayOp = true ∧
    rayed (rayLane rayOp ((inFlight rayOp).mayCopy rayOp) (.rayO (gfx (.v 127) (.v 4) (.s 12) 0 0 0)) 31) (inFlight rayOp) = true := by decide +kernel

/-- A task of time 5 in slot 0, the frontier task of its domain, with a queued child in slot 1. -/
def taskOf (ts tie spawns state : Nat) (gid : Option Nat) : TaskRec := ⟨0x20000, [1, 2], ts, tie, 0, spawns, state, gid, none, none, true⟩
def domain (r : TaskRec) : Domain := ⟨0, 0x100000, 0x200000, 64, 100, 0, 0, 0, [(0, r), (1, taskOf 9 1 0 1 none)], 5, none, false, []⟩
def tasking (r : TaskRec) (s : Table Word) : State :=
  { placedWith (fun g => { g with task := some 0, s := s }) with domains := [(0, domain r)] }
def engT : ENG := eng (.s 20) (.s 56) (.s 2) 0 0
def twaitX : ENG := { eng (.s 20) .unused .unused 0 0 with flag := 15 }
def later : Table Word := [(20, 9)]
theorem witness_SpawnsAndTasks :
    (allIn placed [.spawn engT] ∧ Shaped placed ∧ Keyed placed ∧ (ctxOf placed).pair (.s 2) % 8 = 0 ∧
      (match (spawnAt (ctxOf placed) 0 (List.replicate 8 0)).run placed with
        | (.ok (st, _), u) => st == 0 && decide (tfind (ctxOf placed).g.gid u.groups = some (ctxOf placed).g) | (.error _, _) => false) = true) ∧
    (allIn (tasking (taskOf 5 1 2 2 (some 0)) later) [.task engT, .tabortRetry, .tabortDrop, .twait twaitX] ∧
      (tasking (taskOf 5 1 2 2 (some 0)) later).taskCtx (ctxOf (tasking (taskOf 5 1 2 2 (some 0)) later)) =
        some (domain (taskOf 5 1 2 2 (some 0)), 0, taskOf 5 1 2 2 (some 0)) ∧
      (domain (taskOf 5 1 2 2 (some 0))).recs.length < (domain (taskOf 5 1 2 2 (some 0))).slotLimit 0 ∧
      (ctxOf (tasking (taskOf 5 1 2 2 (some 0)) later)).pair (.s 20) = 9 ∧
      (domain (taskOf 5 1 2 2 (some 0))).isFrontier 0 = true ∧
      (match tfind 0 (((tasking (taskOf 5 1 2 2 (some 0)) later).modTask 0 0 (fun r => { r with spawns := r.spawns + 1 })).putTask 0 2
        ⟨0, (List.range 8).map (fun k => (ctxOf (tasking (taskOf 5 1 2 2 (some 0)) later)).g.sget (56 + k) 0), 9, 64 * 1 + 2 + 1, 0, 0, 1, none, none, none, false⟩).domains with
        | some e => !e.ended && (tfind 2 e.recs).isSome | none => false) = true) ∧
    (allIn (tasking (taskOf 5 1 2 2 (some 0)) []) [.task engT] ∧ (ctxOf (tasking (taskOf 5 1 2 2 (some 0)) [])).pair (.s 20) < 5) ∧
    allIn (tasking (taskOf 5 1 63 2 (some 0)) later) [.task engT] ∧
    allIn (tasking (taskOf 5 (2 ^ 26 - 1) 2 2 (some 0)) later) [.task engT] ∧ 2 ^ 32 ≤ 64 * (2 ^ 26 - 1) + 64 :=
  ⟨⟨all_in (by decide +kernel), placed_shaped, placed_keyed, by decide +kernel, by decide +kernel⟩,
    ⟨all_in (by decide +kernel), by decide +kernel, by decide +kernel, by decide +kernel, by decide +kernel, by decide +kernel⟩,
    ⟨all_in (by decide +kernel), by decide +kernel⟩, all_in (by decide +kernel), all_in (by decide +kernel), by decide⟩

/-- A worker without a task, and a domain whose root task is queued; queue memory holds zeros. -/
def zeroTask (arg : Word) : TaskRec := ⟨0, [arg], 0, 0, 0, 0, 1, none, none, none, true⟩
def dispatching (arg : Word) : State := { placed with
  launches := [(0, { Launch.start 0 { placedRecord with mode := 6 } 0 0 0 0 0 placedRanges placedRanges 1 with placed := [0], started := true, live := 1 })],
  domains := [(0, ⟨0, 0x100000, 0x200000, 64, 2 ^ 64 - 1, 0, 0, 0, [(0, zeroTask arg)], 0, none, false, []⟩)] }
def dispatchDomain (arg : Word) : Domain := ⟨0, 0x100000, 0x200000, 64, 2 ^ 64 - 1, 0, 0, 0, [(0, zeroTask arg)], 0, none, false, []⟩
def dispatchReads (arg : Word) : Mem (List Nat) := domainReadAll placedRanges ((dispatchDomain arg).slotVa 0) 7
def dispatchAnswer (arg : Word) : List Nat := match (dispatchReads arg).run (dispatching arg) with | (.ok ws, _) => ws | (.error _, _) => []
def dispatchLoaded (arg : Word) : State := afterIt (loadRanges 0) (afterIt (dispatchReads arg) (dispatching arg))
theorem due (arg : Word) : Due (dispatchDomain arg) 0 (zeroTask arg) := by
  have h : (dispatchDomain arg).isFrontier 0 = true := rfl
  exact ⟨by simp [dispatchDomain, tfind], rfl, rfl, by simp [zeroTask, dispatchDomain], by simp [zeroTask], .inl h, .inl h⟩
theorem idle : Idle (dispatching 0) 0 0 placedGroup ∧ Idle (dispatching 5) 0 0 placedGroup :=
  ⟨⟨by decide +kernel, by decide +kernel, by decide +kernel, by decide +kernel, by decide +kernel, fun o ho => by cases ho⟩,
    ⟨by decide +kernel, by decide +kernel, by decide +kernel, by decide +kernel, by decide +kernel, fun o ho => by cases ho⟩⟩
def endedGroup : Group := { placedGroup with task := some 0, strands := placedGroup.strands.map (fun st => { st with exited := true }) }
def finishedTask : State := { placed with groups := [(0, endedGroup)], domains := [(0, domain (taskOf 5 1 2 2 (some 0)))] }
def committing : State := { placed with domains := [(0, domain (taskOf 5 1 2 4 none))], marks := [⟨0, 0, 0, 3, [], true, .set⟩] }
def detLaunch (token : Option Nat) (fabpos : Nat) : Launch :=
  { Launch.start 0 { placedRecord with mode := 1, fabpos := fabpos } 0 0 0 0 0 placedRanges placedRanges 1 with token := token, placed := [0] }
def tokened : State := { placed with groups := [], launches := [(0, detLaunch (some 0) 0)] }
def tokenless : State := { placed with groups := [], launches := [(0, detLaunch none 1)], ev := ⟨0, 0, 0, 0, true, [], [], []⟩ }
theorem witness_TasksRun :
    ((dispatching 0).ev.a = 0 ∧ tfind 0 (dispatching 0).domains = some (dispatchDomain 0) ∧ works (dispatchReads 0) (dispatching 0) = true ∧
      Due (dispatchDomain 0) 0 (zeroTask 0) ∧ Idle (dispatching 0) 0 0 placedGroup ∧
      works (loadRanges 0) (afterIt (dispatchReads 0) (dispatching 0)) = true ∧
      tfind 0 (dispatchLoaded 0).groups = some placedGroup ∧ tfind 0 (dispatchLoaded 0).domains = some (dispatchDomain 0) ∧
      (dispatchAnswer 0).take 6 = (zeroTask 0).dwords.take 6 ∧ (dispatchAnswer 0).getD 6 0 % 2 ^ 32 = (zeroTask 0).tie) ∧
    (tfind 0 (dispatching 5).domains = some (dispatchDomain 5) ∧ works (dispatchReads 5) (dispatching 5) = true ∧
      Due (dispatchDomain 5) 0 (zeroTask 5) ∧ Idle (dispatching 5) 0 0 placedGroup ∧
      (dispatchAnswer 5).take 6 ≠ (zeroTask 5).dwords.take 6) ∧
    (tfind 0 finishedTask.groups = some endedGroup ∧ endedGroup.gid = 0 ∧ endedGroup.task = some 0 ∧ endedGroup.live = [] ∧
      endedGroup.deferred = none ∧ finishedTask.ops = []) ∧
    (tfind 0 committing.domains = some (domain (taskOf 5 1 2 4 none)) ∧
      (domain (taskOf 5 1 2 4 none)).frontierTask = some (0, taskOf 5 1 2 4 none) ∧ committing.taskVersions 0 0 = []) ∧
    (tfind 0 tokened.launches = some (detLaunch (some 0) 0) ∧ (detLaunch (some 0) 0).record.det = true ∧
      tokened.mayPass (detLaunch (some 0) 0) 0 = true ∧ tokened.ordered = []) ∧
    (tfind 0 tokenless.launches = some (detLaunch none 1) ∧ (detLaunch none 1).record.det = true ∧ tokenless.ev.on = true ∧
      (detLaunch none 1).record.fabpos ≠ 0) :=
  ⟨⟨by decide +kernel, by decide +kernel, by decide +kernel, due 0, idle.1, by decide +kernel, by decide +kernel, by decide +kernel,
    by decide +kernel, by decide +kernel⟩,
    ⟨by decide +kernel, by decide +kernel, due 5, idle.2, by decide +kernel⟩, by decide +kernel, by decide +kernel, by decide +kernel,
    by decide +kernel⟩

/-! Teams and queues. -/

def newLaunch : Launch := Launch.start 0 { placedRecord with mode := 4 } 0 0 0 0 0 placedRanges placedRanges 192
def unplaced : State := { State.reset with launches := [(0, newLaunch)], boot := { State.reset.boot with phase := 4 }, ev := { EvArgs.zero with b := 191, c := 191 } }
def leaving : Group := { placedGroup with retiring := true, strands := placedGroup.strands.map (fun st => { st with exited := true }) }
def retiringGroup : State := { placed with groups := [(0, leaving)], ev := { EvArgs.zero with b := 9 } }
def overLaunch : Launch := { Launch.start 9 placedRecord 0 0 4 0 0 placedRanges placedRanges 1 with placed := [0], retired := [0], started := true }
def queueA : UQueue := ⟨0x300000, some 0, false, true, 0, 0x301000, 12, 0x302000, 0, 64, 0, [], false, false, [9], [], 1, 0, 0⟩
def overState : State := { placed with launches := [(9, overLaunch)], queues := [(4, queueA)], ev := { EvArgs.zero with a := 99, b := 9 } }
def pendingGroup : Group := { placedGroup with active := false, gid := 8 }
def entering : State := { placed with groups := [(8, pendingGroup)] }
/-- The active group waits on the flag of a load in flight. -/
def beyondGroup : Group := placedGroup.modStrands (List.range 8) (fun _ st => { st with wait := .flags 0x800 })
def beyond : State := { placed with
  groups := [(0, { beyondGroup with flags := [(11, ⟨true, true, [], none⟩)] })],
  ops := [flying (.ldW ldPlain) (.load 4 1 4 false false) [] [] false] }
def eight : State := { placed with
  groups := ((List.range 8).map (fun k => (k, { placedGroup with gid := k, ctx := k }))) ++ [(8, { pendingGroup with ctx := 8 })], clock := 64 }
def teamOf (saving preempted : Bool) (image : Option (Nat × Nat)) (core : Nat) : Team :=
  { Team.start 0 0 0 0 core 0 1 with saving := saving, preempted := preempted, image := image }
def teamed (t : Team) : State := { placed with teams := [(0, t)] }
def awayGroup : Group := { placedGroup with resident := false, active := false }
def away : State := { teamed (teamOf false true none 0) with groups := [(0, awayGroup)], ev := { EvArgs.zero with b := 191 } }
def failing (used : Nat) : State := { placed with spareCores := [(0, used)] }
def deadlined : Launch := Launch.start 0 { placedRecord with mode := 4, deadline := 99 } 0 0 0 0 0 placedRanges placedRanges 1
def late : State := { placed with launches := [(0, deadlined)], timeb := 100 }
theorem witness_TeamsComeAndGo :
    (unplaced.placementHead = some newLaunch ∧ newLaunch.id = 0 ∧ tfind 0 unplaced.launches = some newLaunch ∧
      newLaunch.record.cosched = false ∧ unplaced.canPlace newLaunch 191 191 = true ∧ works (loadRanges 0) unplaced = true ∧
      ((tfind 0 (afterIt (loadRanges 0) unplaced).launches).map (fun l => (l.record, l.id))) = some (newLaunch.record, newLaunch.id)) ∧
    (tfind 0 retiringGroup.groups = some leaving ∧ leaving.retiring = true ∧ (tfind 0 retiringGroup.launches).isSome = true ∧
      retiringGroup.ops = [] ∧ tfind 9 retiringGroup.launches = none ∧
      (match tfind 0 retiringGroup.launches with | some l => retiringGroup.tokenReached l leaving | none => false) = true) ∧
    (tfind 99 overState.groups = none ∧ tfind 9 overState.launches = some overLaunch ∧ overLaunch.over = true ∧
      tfind overLaunch.queue overState.queues = some queueA ∧ queueA.done = overLaunch.number) ∧
    ((beyond.quarterOf 0 0).any (fun g => g.active && beyond.waitsBeyond g && decide (tfind g.gid beyond.groups = some g)) = true ∧
      (beyond.quarterOf 0 0).length = 1) ∧
    ((∀ g ∈ entering.quarterOf 0 0, g.active = true → entering.waitsBeyond g = false) ∧
      entering.entrant ((entering.quarterOf 0 0).filter (fun g => !g.active)) = some pendingGroup ∧
      ((entering.quarterOf 0 0).filter (fun g => g.active)).length < 8 ∧ tfind 8 entering.groups = some pendingGroup) ∧
    ((∀ g ∈ eight.quarterOf 0 0, g.active = true → eight.waitsBeyond g = false) ∧
      eight.entrant ((eight.quarterOf 0 0).filter (fun g => !g.active)) = some { pendingGroup with ctx := 8 } ∧
      8 ≤ ((eight.quarterOf 0 0).filter (fun g => g.active)).length ∧
      eight.leaver ((eight.quarterOf 0 0).filter (fun g => g.active)) { pendingGroup with ctx := 8 } = some { placedGroup with gid := 0, ctx := 0 } ∧
      tfind 0 eight.groups = some { placedGroup with gid := 0, ctx := 0 }) ∧
    ((({ placed with clock := 63, ev := { EvArgs.zero with a := 191, b := 62, c := 8 } } : State).clock + 1) % 64 = 0 ∧ 62 % 2 = 0 ∧
      (placed.coreState 191).istabNew = []) ∧
    (tfind 0 (teamed (teamOf true false none 0)).teams = some (teamOf true false none 0) ∧
      (teamed (teamOf true false none 0)).imageReady (teamOf true false none 0) = true ∧
      ((teamed (teamOf true false none 0)).savesAt (teamOf true false none 0)).isSome = true ∧ (teamed (teamOf true false none 0)).ops = [] ∧
      (∀ g ∈ tvalues (teamed (teamOf true false none 0)).groups, g.team = 0 → g.task = none)) ∧
    (tfind 0 (teamed (teamOf true false (some (0, 64)) 0)).teams = some (teamOf true false (some (0, 64)) 0) ∧
      (teamed (teamOf true false (some (0, 64)) 0)).rels = [] ∧ (teamed (teamOf true false (some (0, 64)) 0)).acqs = []) ∧
    (tfind 0 away.teams = some (teamOf false true none 0) ∧ (tfind 0 away.launches).isSome = true ∧
      away.canResume (teamOf false true none 0) 191 = true) ∧
    ((failing 3).ev.a < 192 ∧ ((failing 3).coreState 0).outOfService = false ∧
      (∀ tm ∈ tvalues (failing 3).teams, tm.core = 0 → tm.saving = false) ∧ (failing 3).ev.secs = [] ∧
      tget 0 (failing 3).spareCores (dieOf 0) < 4 ∧ 4 ≤ tget 0 (failing 4).spareCores (dieOf 0)) ∧
    (tfind 0 late.launches = some deadlined ∧ deadlined.record.prio % 4 = 0 ∧ deadlined.missed = false ∧ deadlined.ended = false ∧ deadlined.record.deadline < late.timeb) := by
  refine ⟨by decide +kernel, by decide +kernel, by decide +kernel, by decide +kernel, by decide +kernel, by decide, by decide +kernel,
    by decide +kernel, by decide +kernel, by decide +kernel, by decide +kernel, by decide +kernel⟩

/-- Queue 0 with packets in its ring: the ring at 0x301000, the range set at 0x302000 and a launch record at 0x303000. -/
def packet (type flags arg addr val aux : Nat) : Nat := type + 2 ^ 8 * flags + 2 ^ 32 * arg + 2 ^ 64 * addr + 2 ^ 128 * val + 2 ^ 192 * aux
def queueB (cursor wr : Nat) (loops : List (Nat × Nat)) (waiting : Bool) : UQueue :=
  ⟨0x300000, some 0, false, true, 0, 0x301000, 12, 0x302000, 0, wr, cursor, loops, false, waiting, [], [], 0, 0, 0⟩
def aRecord (task : Bool) : Nat :=
  0x20000 + 2 ^ 64 * 0x302000 + 2 ^ 128 * 0x304000 + 2 ^ 384 * 128 + 2 ^ 400 * 8 + 2 ^ 416 * (if task then 6 else 4) + 2 ^ 448 * 0x10000 + 2 ^ 480 * 0x41000 +
    2 ^ 512 * 0x82000 + 2 ^ 544 * 0x13000 + 2 ^ 576 * 0xF000 + 2 ^ 608 * 0xF000 + 2 ^ 640 * 0xF000 + 2 ^ 672 * 0xF000
def aDomain : Nat := 0x200000 + 2 ^ 64 * 8
def queueMem (p : Nat) (task : Bool) : Table Byte :=
  twriteLE (twriteLE (twriteLE (twriteLE (twriteLE placed.hbm 0x301000 p 32) 0x302000 0xB 8) 0x302008 0xFFFFFFFFF0000 8)
    0x303000 (aRecord task) 256) 0x304000 aDomain 128
def atPacket (p : Nat) (task : Bool) (q : UQueue) : State := { placed with queues := [(0, q)], hbm := queueMem p task, groups := [], launches := [], teams := [] }
/-- The decidable form of `AtPacket`, with the state after the read. -/
def readOf (p : Nat) (task : Bool) (q : UQueue) : Option (Packet × State) :=
  match (readPacket q q.cursor).run (atPacket p task q) with | (.ok k, u) => some (k, u) | (.error _, _) => none
def headed (type p : Nat) (task : Bool) (q : UQueue) : Bool :=
  q.slot.isSome && !q.halted && decide (q.cursor < q.wr) && match readOf p task q with
  | some (k, u) => decide (k = packetOf p) && decide (tfind 0 u.queues = some q) && k.type == type && (k.bad q).isNone
  | none => false
theorem headed_spec {type p : Nat} {task : Bool} {q : UQueue} (h : headed type p task q = true) :
    ∃ u, readOf p task q = some (packetOf p, u) ∧ AtPacket (atPacket p task q) type q (packetOf p) u := by
  unfold headed at h
  simp only [Bool.and_eq_true, Bool.not_eq_true', decide_eq_true_eq] at h
  obtain ⟨⟨⟨h1, h2⟩, h3⟩, h4⟩ := h
  rcases hr : readOf p task q with _ | ⟨k, u⟩
  · rw [hr] at h4; cases h4
  · rw [hr] at h4
    simp only [Bool.and_eq_true, decide_eq_true_eq, beq_iff_eq, Option.isNone_iff_eq_none] at h4
    obtain ⟨⟨⟨rfl, h5⟩, h6⟩, h7⟩ := h4
    refine ⟨u, rfl, by simp [atPacket, tfind, EvArgs.zero, placed, State.withFetchWord, State.placeWord, State.reset], ⟨h1, h2, h3⟩, rfl, ?_, h5, h6, h7⟩
    unfold readOf at hr
    rcases hm : (readPacket q q.cursor).run (atPacket p task q) with ⟨e | k', u'⟩
    · rw [hm] at hr; cases hr
    · rw [hm] at hr; simp only [Option.some.injEq, Prod.mk.injEq] at hr; rw [hr.1, hr.2]

/-- The state after a packet read and an action through the range set. -/
def through {α : Type} (p : Nat) (task : Bool) (q : UQueue) (m : Table (BitVec 64) → Mem α) : Option (α × State) :=
  match readOf p task q with
  | none => none
  | some (_, u) => match (readDwords q.qrange 48 >>= fun v => m (rangeSet v)).run u with
    | (.ok a, w) => if tfind 0 w.queues = some q then some (a, w) else none
    | (.error _, _) => none
def q1 : UQueue := queueB 0 32 [] false
def q2 : UQueue := queueB 0 64 [] false
def waitP (v : Nat) : Nat := packet 3 0 0 0x302000 v 0
def ifP (cond aux : Nat) : Nat := packet 8 0 cond 0x302000 0xB aux
def launchP (ind : Bool) : Nat := packet (if ind then 2 else 1) 0 0 0x303000 0 (if ind then 0x302000 else 0)
def launchRead (ind task : Bool) : Option ((Table (BitVec 64) × Nat) × State) :=
  through (launchP ind) task q1 (fun r => (if ind then vaRead r 0x302000 4 else pure 0) >>= fun n => pure (r, n))
/-- The status of the record of a launch, once it has been read. -/
def launchStat (ind task : Bool) (levels : List Level → List Level) : Option (Option Nat × Nat × Bool) :=
  match launchRead ind task with
  | none => none
  | some ((r, n), w) => match (vaReadAll r 0x303000 32 >>= fun v => launchSets r (launchRecord v []) >>= fun t => pure (v, t)).run w with
    | (.error _, _) => none
    | (.ok (v, t), y) =>
      let ls := levels ((recordLevels v).map levelOf)
      some (y.launchStatus q1 0x303000 v ls (launchRecord v ls) (if ind then some n else none), n,
        decide (tfind 0 y.queues = some q1) && (match (checkDomain (launchRecord v ls) t).run y with
          | (.ok (.ok d), z) => decide (tfind 0 z.queues = some q1) && d.isSome == task | _ => false))
theorem witness_PacketsAreTaken :
    headed 0 (packet 0 0 0 0 0 0) false q1 = true ∧ headed 9 (packet 9 0 0 0 0 0) false q1 = true ∧
    (headed 3 (waitP 11) false q1 = true ∧ headed 3 (waitP 12) false (queueB 0 32 [] true) = true ∧
      (through (waitP 11) false q1 (fun r => vaRead r 0x302000 8)).map (·.1) = some 11) ∧
    (headed 4 (packet 4 5 0 0x305000 7 0) false q1 = true ∧
      (through (packet 4 5 0 0x305000 7 0) false q1 (fun r => signalWord r (packetOf (packet 4 5 0 0x305000 7 0)))).isSome = true) ∧
    (headed 5 (packet 5 0 0 0x302000 16 0x305000) false q1 = true ∧
      (through (packet 5 0 0 0x302000 16 0x305000) false q1 (fun r => vaReadAll r 0x302000 2 >>= fun v => vaWriteAll r 0x305000 v 2)).isSome = true) ∧
    headed 6 (packet 6 0 3 0 0 0) false q1 = true ∧
    (headed 7 (packet 7 0 0 0 0 0) false (queueB 0 32 [(0, 1)] false) = true ∧ headed 7 (packet 7 0 0 0 0 0) false (queueB 0 32 [(0, 2)] false) = true) ∧
    (headed 8 (ifP 2 1) false q1 = true ∧ (through (ifP 2 1) false q1 (fun r => vaRead r 0x302000 8)).map (·.1) = some 0xB ∧
      ifHolds 2 0xB 0xB = true ∧ headed 8 (ifP 1 1) false q1 = true ∧ ifHolds 1 0xB 0xB = false ∧ q1.wr < q1.cursor + 32 * (1 + 1) ∧
      headed 8 (ifP 3 1) false q2 = true ∧ ifHolds 3 0xB 0xB = false ∧ q2.cursor + 32 * (1 + 1) ≤ q2.wr) ∧
    (headed 1 (launchP false) false q1 = true ∧ launchStat false false id = some (none, 0, true) ∧
      headed 1 (launchP false) true q1 = true ∧ launchStat false true id = some (none, 0, true) ∧
      headed 2 (launchP true) false q1 = true ∧ launchStat true false (replaceTop 0xB) = some (none, 0xB, true)) := by decide +kernel

/-- A descriptor in memory with RINGLOG 12, WRPTR 96 and RDPTR 32. -/
def descMem : Table Byte := twriteLE (twriteLE (twriteLE (twriteLE placed.hbm 0x300000 0x301000 8) 0x300008 12 1) 0x300018 32 8) 0x300020 96 8
def doored (q : UQueue) : State := { placed with queues := [(0, q)], hbm := descMem, ev := { EvArgs.zero with val := 0x300000 } }
def unitsOf (s : State) (ipa : Nat) : Option (Nat × State) := match (readUnits ipa 4).run s with | (.ok v, u) => some (v, u) | (.error _, _) => none
def haltedQ : UQueue := { queueB 0 32 [] false with halted := true }
def doorWaiter : UQueue := { queueB 0 32 [] false with slot := none, ipa := 0x310000 }
def sliced : State := { placed with queues := [(0, { queueB 0 32 [] false with sliceFrom := 0 }), (1, doorWaiter)], doors := [1], timeb := 50000 }
def registering (ipa : Nat) : State := { placed with qripa := BitVec.ofNat 64 ipa, hbm := descMem }
theorem witness_QueuesComeAndGo :
    (headed 7 (packet 7 0 0 0 0 0) false q1 = false ∧ (packetOf (packet 7 0 0 0 0 0)).bad q1 = some 0x23 ∧ q1.reads = true ∧
      (readOf (packet 7 0 0 0 0 0) false q1).isSome = true) ∧
    launchStat false false (fun _ => []) = some (some 0x07, 0, true) ∧
    ((readOf (packet 10 0 0 0 0 0) false q1).map (fun e => (e.1.type, tfind 0 e.2.queues == some q1))) = some (10, true) ∧
    ((doored haltedQ).queueAt 0x300000 = some (0, haltedQ) ∧
      (match unitsOf (doored haltedQ) 0x300000 with
        | some (v, u) => decide (bitsOf v (8 * 0x09 + 2) 1 = 0) && decide (tfind 0 u.queues = some haltedQ)
        | none => false) = true) ∧
    (doored q1).queueAt 0x300000 = some (0, q1) ∧
    ({ doored q1 with rung := [0x300000], ev := { EvArgs.zero with on := true } } : State).queueAt 0x300000 = some (0, q1) ∧
    (State.reset.boot.phase ≠ 4 ∧ State.reset.ev.on = false) ∧
    ((tfind 0 sliced.queues).map (fun q => (q.slot, q.pinned)) = some (some 0, false) ∧ sliced.doors = [1] ∧ 0 + 50000 ≤ sliced.timeb ∧
      (sliced.unmap 0).freeSlot.isSome = true ∧ tfind 1 sliced.queues = some doorWaiter) ∧
    ((registering 0x300000).qrstat ≠ 1 ∧ ({ registering 0x300000 with qrstat := 1 } : State).ev.on = false) ∧
    (({ booting 3 0 with qripa := 0x300000 } : State).queueAt 0x300000 = none ∧ (booting 3 0).boot.phase ≠ 4 ∧ (booting 3 0).qrstat ≠ 1) ∧
    (({ registering 0 with qrBusy := some 0x300000, qrstat := 1, ev := { EvArgs.zero with on := true } } : State).queueAt 0x300000 = none ∧
      (unitsOf { registering 0 with qrBusy := some 0x300000, qrstat := 1, ev := { EvArgs.zero with on := true } } 0x300000).isSome = true) ∧
    ((registering 0x300000).queueAt 0x300000 = none ∧
      (match unitsOf { registering 0x300000 with qrcmd := 1 } 0x300000 with
        | some (v, u) => decide (u.queueRefused 0x300000 v = none) | none => false) = true ∧
      (match unitsOf { registering 0x300040 with qrcmd := 1 } 0x300040 with
        | some (v, u) => decide (u.queueRefused 0x300040 v = some 2) | none => false) = true) ∧
    ((doored q1).queueAt 0x300000 = some (0, q1)) := by decide +kernel

/-! Registers, rings, commands, ports and boot. -/

def ringOf (log tail : Word) (rec_ : List Byte) : Ring := ⟨0x400000, log, 0, tail, [rec_], false, true⟩
def posting (on : Bool) : State := { placed with fq := ringOf 6 0 (leBytes 32 5), sq := ringOf 6 0 (leBytes 64 5), ev := ⟨0, 0, 0, 0, on, [], [], []⟩ }
def evRing (log : Word) : State := { placed with evq := ringOf log 0 (leBytes 64 1) }
def asking : Group := placedGroup.modStrands [2] (fun _ st => { st with wait := .syscall 7 3 })
def asked7 : State := { placed with groups := [(0, asking)], ev := ⟨0, 0, 0, 7, false, [], [], []⟩ }
def haltedGroup : Group := { placedGroup with halted := true }
def killing : State := { placed with groups := [(0, haltedGroup)] }
def hostAccess (on : Bool) : State := { placed with ev := ⟨0x100, 8, 0, 9, on, [], [], []⟩ }
theorem witness_RegistersAndRingsWork :
    (((posting true).ring true).waiting = [leBytes 64 5] ∧ MayPost ((posting true).ring true) ∧ (posting true).poison = []) ∧
    (((posting false).ring false).waiting = [leBytes 32 5] ∧ MayPost ((posting false).ring false)) ∧
    ((evRing 6).evq.waiting = [leBytes 64 1] ∧ (evRing 6).evq.stalled = false ∧ (evRing 6).evq.ready = true ∧ (evRing 6).evq.room = true ∧
      works (immBytes 0x400000 ((leBytes 64 1).take 24 ++ leBytes 8 (evRing 6).timeb ++ (leBytes 64 1).drop 32) 4) (evRing 6) = true) ∧
    (evRing 5).evq.ready = false ∧
    (tfind 0 asked7.groups = some asking ∧ asking.inHandler = none ∧ (asking.strand 2).wait = .syscall 7 3 ∧ (asking.strand 2).exited = false) ∧
    (tfind 0 killing.groups = some haltedGroup ∧ haltedGroup.gid = 0 ∧ haltedGroup.halted = true ∧ haltedGroup.retiring = false ∧
      haltedGroup.index = killing.ev.val ∧ haltedGroup.task = none ∧ (tvalues killing.groups) = [haltedGroup]) ∧
    ((hostAccess false).ev.a < 2 ^ 36 ∧ (0 + 0x100) % 2 ^ 52 % 8 = 0 ∧ works (immRead ⟨homeOf 0x100 false, 0x100, none⟩ 8) (hostAccess false) = true ∧
      works (immWrite ⟨homeOf 0x100 false, 0x100, none⟩ 8 (9 % 2 ^ (8 * 8))) (hostAccess true) = true) ∧
    (works (hostReadBytes 0x101 8) (hostAccess false) = true ∧ 0x101 % 8 ≠ 0 ∧ works (hostWriteBytes 0xF8 0x1122334455 16) (hostAccess true) = true) := by
  unfold MayPost
  decide +kernel

theorem placed_safe : Safe placed :=
  ⟨by decide +kernel, placed_shaped⟩
def idleTc : State := { placed with tc := { placed.tc with arg0 := 0x10000, arg1 := 0x20000 } }
def busyTc : State := { placed with tc := { placed.tc with busy := true, runOp := 2, runFirst := 0, runCount := 1 } }
/-- INVALL runs, and the overflow area of the one launch counts as full. -/
def fullLaunch : Launch := { Launch.start 0 { placedRecord with ovfbase := 0x100, ovfsize := 128 } 0 0 0 0 0 placedRanges placedRanges 1 with ovfFull := true }
def fullArea : State := { placed with launches := [(0, fullLaunch)], tc := { placed.tc with busy := true, runOp := 3 } }
theorem witness_TranslationCommandsWork : (idleTc.tc.busy = false ∧ idleTc.tc.arg0.toNat % 65536 = 0) ∧
    (Safe placed ∧ paOf idleTc.tc.arg0 % 65536 = 0 ∧ paOf idleTc.tc.arg1 % 65536 = 0) ∧
    (busyTc.tc.busy = true ∧
      (busyTc.flushLines busyTc.tc.runFirst (busyTc.tc.runCount * 65536)).spanFlushed busyTc.tc.runFirst (busyTc.tc.runCount * 65536) = true) ∧
    (fullArea.tc.busy = true ∧ fullArea.tc.runOp = 3 ∧ fullArea.held = [] ∧ fullArea.launches = [(0, fullLaunch)] ∧ fullLaunch.ovfFull = true ∧
      fullLaunch.ovfNext = some place ∧ works (confirm place true) fullArea = true ∧
      (afterIt (confirm place true) fullArea).launches = fullArea.launches ∧ (afterIt (confirm place true) fullArea).tc = fullArea.tc) ∧
    ((0x7FFFFFFFF8 : Nat) % 8 = 0 ∧ (0x7FFFFFFFF8 : Nat) < 2 ^ 39) :=
  ⟨by decide +kernel, ⟨placed_safe, by decide +kernel, by decide +kernel⟩, by decide +kernel, by decide +kernel, by decide⟩

def resending : State := { placed with ports := [(35, { Port.reset with resend := true })], ev := { EvArgs.zero with a := 35 } }
theorem witness_LinkBootAndCareWork : (placed.port 35).up = true ∧ ((resending.port 35).up = true ∧ (resending.port 35).resend = true) ∧
    (3 ∉ (placed.port 35).failed) ∧ ((0 : Nat) < 36 ∧ (placed.port 0).up = true) ∧ (booting 0 0).boot.phase = 0 ∧ (booting 1 3).boot.phase = 1 ∧
    (booting 3 0).boot.phase = 3 ∧ placed.attest.stat ≠ 1 ∧ ({ placed with attest := ⟨1, [], []⟩ } : State).attest.stat = 1 ∧
    (tfind 0 placed.groups = some placedGroup ∧ placedGroup.gid = 0 ∧ placedGroup.halted = false ∧ placedGroup.retiring = false) ∧
    ((255 : Nat) < 256 ∧ tget 0 placed.spareSlices (255 / 128) < 4) ∧ placed.timebAhead = 0 ∧
    (0 < ({ placed with timebAhead := 5 } : State).timebAhead ∧ placed.ev.a < 2) := by decide +kernel
/-- The next flit of a port, the one before it again, one out of sequence, and one with a wrong CRC; and a port whose pool of lanes is used up. -/
theorem witness_flits : (flitGood (makeFlit 0 0 false []) = true ∧ flitSeq (makeFlit 0 0 false []) = (placed.port 0).expected) ∧
    (flitGood (makeFlit 4095 0 false []) = true ∧ Repeats (makeFlit 4095 0 false []) (placed.port 0)) ∧
    (flitSeq (makeFlit 1 0 false []) ≠ (placed.port 0).expected ∧ ¬Repeats (makeFlit 1 0 false []) (placed.port 0)) ∧
    flitGood (List.replicate 248 0 ++ leBytes 8 (~~~crc64 (List.replicate 248 0)).toNat) = false ∧
    (¬({ placed with ports := [(0, { Port.reset with remapped := 2 })] } : State).poolUsed 0 < 2 ∧ 3 ∉ Port.reset.failed) := by
  have h : flitSeq (makeFlit 1 0 false []) = 1 ∧ (placed.port 0).expected = 0 := by decide +kernel
  refine ⟨⟨flitGood_makeFlit _ _ _ _ (by decide), by decide +kernel⟩,
    ⟨flitGood_makeFlit _ _ _ _ (by decide), 1, by decide, by decide, by decide +kernel⟩, ⟨by rw [h.1, h.2]; decide, ?_⟩, ?_, by decide +kernel⟩
  · rintro ⟨k, h1, h2, h3⟩
    rw [h.1, h.2] at h3
    omega
  · rw [flitGood_sealed _ _ (List.length_replicate ..), beq_eq_false_iff_ne]
    intro e
    have := BitVec.eq_of_toNat_eq e
    bv_omega

theorem witness_DecodeUndoesEncode : (Instr.iadd f2).form ≠ .event ∧ (Instr.iadd f2).wf = true := by decide +kernel

/-- The step's hypotheses for an instruction of one word, of two words, a word that is none, and a fetch that faults. -/
def stepping (w : Nat) : State := State.reset.withFetchWord 128 w
def fetched (w : Nat) (pc : Nat) : Option (Nat ⊕ (Nat × Nat)) :=
  match (fetchWord placedRanges pc).run (fetchState (stepping w) [] 0) with | (.ok v, _) => some (.inl v.toNat) | (.error e, _) => some (.inr (e.1, e.2.1))
theorem offered (w : Nat) (h : ((stepping w).agenda == [.issue 0] && (pickState (stepping w) [] 0).isPicked 0 &&
    (issueCtx (fetchState (stepping w) [] 0)).isSome && (fetchState (stepping w) [] 0).boot.phase == 4) = true) :
    ∃ c, Offered (stepping w) [] 0 c := by
  simp only [Bool.and_eq_true, beq_iff_eq, Option.isSome_iff_exists] at h
  obtain ⟨⟨⟨h1, h2⟩, c, h3⟩, h4⟩ := h
  exact ⟨c, h1, h2, h3, h4⟩
theorem witness_StepRunsDecoded :
    ((∃ c, Offered (stepping 0x50CE000000000000) [] 0 c) ∧ fetched 0x50CE000000000000 0x20000 = some (.inl 0x50CE000000000000) ∧
      wordTakesLit 0x50CE000000000000 = false ∧ decode 0x50CE000000000000 0 = .ok .nop) ∧
    (fetched (0x0010605FEE000070 + 2 ^ 64 * 0xF00000003E2AAAAB) 0x20000 = some (.inl 0x0010605FEE000070) ∧
      fetched (0x0010605FEE000070 + 2 ^ 64 * 0xF00000003E2AAAAB) 0x20008 = some (.inl 0xF00000003E2AAAAB) ∧ wordTakesLit 0x0010605FEE000070 = true) ∧
    (fetched 0x3000000000000000 0x20000 = some (.inl 0x3000000000000000) ∧ decode 0x3000000000000000 0 = .error .format) ∧
    fetched 0 0x20004 = some (.inr (0x08, 0)) ∧
    ((stepping 0).agenda = .issue 0 :: [] ∧ (pickState { stepping 0 with groups := [] } [] 0).isPicked 0 = false) ∧
    isEvent .careClear = true ∧ placed.agenda = [] ∧ placed.domains = [] ∧ placed.posted = [] ∧ (∀ e ∈ placed.teams, e.2.preempted = false) :=
  ⟨⟨offered _ (by decide +kernel), by decide +kernel, by decide +kernel, by decide +kernel⟩, by decide +kernel, by decide +kernel, by decide +kernel,
    by decide +kernel, by decide +kernel, by decide +kernel, by decide +kernel, by decide +kernel, by decide +kernel⟩
theorem witness_StepKeepsSafe : Safe placed := placed_safe
theorem witness_StepKeepsKeys : Keyed placed ∧ (match step placed with | .next _ => true | _ => false) = true :=
  ⟨placed_keyed, by decide +kernel⟩

/-! ### Single steps of the placed machine, with results worked out from the spec's rules -/

/-- The machine after one step on an instruction's words, with the placed group changed first. -/
def stepped (f : Group → Group) (i : Instr) : State :=
  let w := match encode i with | [w] => w.toNat | w :: l :: _ => w.toNat + 2 ^ 64 * l.toNat | [] => 0
  let s := State.reset.withFetchWord 128 w
  match step { s with groups := [(0, f placedGroup)] } with
  | .next t => t
  | .fault _ => s
  | .refused _ => s
/-- Its group. -/
def after (f : Group → Group) (i : Instr) : Group := match tfind 0 (stepped f i).groups with | some g => g | none => placedGroup
/-- Registers of lane 0, or of strand 0, as given. -/
def v0 (xs : List (Nat × Word)) (g : Group) : Group := { g with v := xs.foldl (fun t e => tset 0 t (32 * e.1) e.2) g.v }
def s0 (xs : List (Nat × Word)) (g : Group) : Group := { g with s := xs.foldl (fun t e => tset 0 t e.1 e.2) g.s }
/-- v1 of lane 0 after an operation on v2 and v3 of lane 0. -/
def lane0 (i : Instr) (a b : Word) : Word := (after (v0 [(2, a), (3, b)]) i).vget 1 0
def gClamp : VF := { gVF with clamp := true }
def pcOf (g : Group) (u : Nat) : Nat := (g.strand u).pc.toNat

theorem test_iadd : lane0 (.iadd gVF) 0xFFFFFFFF 2 = 1 ∧ lane0 (.iadd gClamp) 0x7FFFFFFF 1 = 0x7FFFFFFF := by decide +kernel
theorem test_isub : lane0 (.isub gVF) 0 1 = 0xFFFFFFFF ∧ lane0 (.isub gClamp) 0x80000000 1 = 0x80000000 := by decide +kernel
theorem test_imulh : lane0 (.imulh gVF) 0xFFFFFFFF 2 = 0xFFFFFFFF ∧ lane0 (.umulh gVF) 0xFFFFFFFF 2 = 1 := by decide +kernel
theorem test_umulh_clamp : lane0 (.umulh gClamp) 0xFFFFFFFF 0xFFFFFFFF = 0x7FFFFFFF := by decide +kernel
theorem test_imin_umin : lane0 (.imin gVF) 0xFFFFFFFF 1 = 0xFFFFFFFF ∧ lane0 (.umin gVF) 0xFFFFFFFF 1 = 1 := by decide +kernel
theorem test_iadd_abs : lane0 (.iadd { gVF with abs := 4 }) 0x80000000 0 = 0x80000000 := by decide +kernel
theorem test_shifts : lane0 (.shl gVF) 1 32 = 0 ∧ lane0 (.shr gVF) 0xFFFFFFFF 32 = 0 ∧ lane0 (.sar gVF) 0x80000000 33 = 0xFFFFFFFF := by decide +kernel
theorem test_shl_imm : lane0 (.shlImm ⟨.v 1, .v 2, .unused, 0, 0, 7, false, 0xFFFFF⟩) 1 0 = 0 := by decide +kernel
theorem test_clz_brev : lane0 (.clz { gVF with b := .unused }) 0 0 = 32 ∧ lane0 (.brev { gVF with b := .unused }) 1 0 = 0x80000000 := by decide +kernel
theorem test_bfe : lane0 (.bfe gVF) 0x00000F00 0x00010804 = 0xFFFFFFFF ∧ lane0 (.bfe gVF) 0x00000700 0x00010804 = 7 := by decide +kernel
theorem test_fadd : lane0 (.fadd gVF) 0x3F800000 0x33800000 = 0x3F800000 ∧ lane0 (.fadd { gVF with scale := 1 }) 0x3F800000 0x3F800000 = 0x40800000 := by
  decide +kernel
theorem test_fmul_clamp : lane0 (.fmul gClamp) 0x40000000 0x40000000 = 0x3F800000 ∧ lane0 (.fmul gClamp) 0x7FC00001 0 = 0 := by decide +kernel
theorem test_fmin : lane0 (.fmin gVF) 0x7FC00000 0x40000000 = 0x40000000 ∧ lane0 (.fmin gVF) 0 0x80000000 = 0x80000000 := by decide +kernel
theorem test_mov_predicated : lane0 (.mov { gVF with b := .unused, pred := 2 }) 5 0 = 0 ∧ lane0 (.mov { gVF with b := .unused, pred := 2, pinv := true }) 5 0 = 5 := by
  decide +kernel
theorem test_sadd_every_strand : let g := after id (.sadd ⟨.s 4, .s 4, .imm, .unused, 0xFFFFF⟩); (g.sget 4 0, g.sget 4 7, pcOf g 7) = (0xFFFFFFFF, 0xFFFFFFFF, 0x20008) := by
  decide +kernel
theorem test_sread_lane : let g := after id (.sread ⟨.s 3, .imm, .unused, .unused, 0x000⟩); (g.sget 3 0, g.sget 3 7) = (0, 28) := by decide +kernel
theorem test_bra_back : pcOf (after id (.bra ⟨.code 7, 0, 0xFFFFFFFD⟩)) 3 = 0x1FFE8 := by decide +kernel
theorem test_call_links : let g := after id (.call ⟨.s 40, 0, 0x10⟩); (pcOf g 0, g.spair 40 7) = (0x20080, 0x20008) := by decide +kernel
theorem test_sloop_parts : let g := after (s0 [(5, 1)]) (.sloop ⟨.s 5, 0, 0xFFFFFFFA⟩)
    (pcOf g 0, g.sget 5 0, pcOf g 1, g.sget 5 1, (g.strand 0).gang, (g.strand 7).gang) = (0x20008, 0, 0x1FFD0, 0xFFFFFFFF, 0, 1) := by decide +kernel
theorem test_ppush_pinv : ((after (fun g => { g with p := [(3, 0x5)] }) (.ppush ⟨.code 3, 0, 0⟩)).strand 0).stack = [0x5, 0xF] ∧
    ((after (fun g => g.modStrands [0, 1, 2, 3, 4, 5, 6, 7] (fun _ st => { st with stack := [0x5, 0xF] })) .pinv).strand 0).stack = [0xA, 0xF] := by decide +kernel
theorem test_ppop_traps : let g := after id .ppop; (g.halted, g.trapCause, g.trapPc) = (true, 0x06, 0x20000) := by decide +kernel
theorem test_trap : let g := after (fun g => { g with handler := 0x40000, hdata := 0x1234 }) (.trap ⟨.unused, 0x123, 0⟩)
    (pcOf g 0, g.trapCause, g.trapPc, g.trapAddr, g.spair 60 7) = (0x40000, 0x20, 0x20008, 0x123, 0x1234) := by decide +kernel
theorem test_litexec : let g := after (fun g => { g with handler := 0x40000 }) .litexec; (pcOf g 0, g.trapCause, g.trapPc) = (0x40000, 0x02, 0x20000) := by
  decide +kernel
theorem test_exit_retires : let g := after id .exit; (g.retiring, g.live) = (true, []) := by decide +kernel
theorem test_ld_tracks : (after id (.ldD ⟨.v 8, .s 2, .unused, 0, 0, 0, false, false, false, false, 3⟩)).flag 3 = ⟨true, true, [8, 9], none⟩ := by decide +kernel
theorem test_ld_misaligned : let g := after id (.ldW ⟨.v 8, .s 2, .unused, 2, 0, 0, false, false, false, false, 3⟩); (g.halted, g.trapCause, g.trapAddr) = (true, 0x08, 2) := by
  decide +kernel
theorem test_atom_one_request : ((stepped id (.atomAdd ⟨.v 8, .s 2, .const 1, 0, 0, 0, false, false, false, false, 3⟩)).ops.head?).map
    (fun o => o.reqs.map (fun r => r.args.length)) = some [32] := by decide +kernel
theorem test_pair_reads_first : let g := after (v0 [(1, 7), (2, 9)]) (.movSlot ⟨2, .v 1, .unused⟩ ⟨.mov, ⟨1, .v 2, .unused⟩⟩); (g.vget 1 0, g.vget 2 0) = (9, 7) := by
  decide +kernel
theorem test_hazard : let g := after (fun g => { g with flags := [(0, ⟨false, true, [2], none⟩)] }) (.iadd gVF); (g.halted, g.trapCause, g.trapAddr, g.trapPc) = (true, 0x05, 2, 0x20000) := by
  decide +kernel
theorem test_swrite_range : (after (s0 [(2, 0xFFFFFFFF), (3, 0xFFFFFFFF)]) (.swrite ⟨.none, .imm, .s 2, .unused, 0x100⟩)).ranges =
    [(0x100, 0xFFFFFFFFFFFF000F), (0x110, 0xFFFFFFFFF0000)] := by decide +kernel
theorem test_qbind_owns_flag : (after id (.qbind ⟨.q 0, .s 12, .const 0, 0, 0, 0, false, false, false, false, 3⟩)).flag 3 = ⟨false, true, [], none⟩ := by decide +kernel

/-! The assembler (R439 to R447). -/

/-- The code and the data of a source's kernels, placed at 0x1000 and 0x20000. -/
def built (body : List String) : List (Option (List (BitVec 64) × List Byte)) :=
  (ubn ([".kernel k", ".regs 8", ".closures 0", ".width 1"] ++ body)).map (fun k => (k.place 0x1000 0x20000).map (fun p => (p.code, p.data)))
theorem test_ubn_places : built ["loop: bra loop   ; for ever", ".data", ".byte 1", ".align 4", "x: .half x + 2 * 3", ".end"] =
    [some ([0x5000700000000000], [1, 0, 0, 0, 10, 0])] := by decide +kernel
theorem test_ubn_refuses : built ["mov v8, v1", ".end"] = [] ∧ built ["a: nop", "a: nop", ".end"] = [] ∧ built ["nop", ".end", "nop"] = [] := by decide +kernel
theorem test_asm_words : asmLine (fun _ => none) 0 "cvt.bf16.f32.rtz.h1 v9, v3" = some [0x0480903E01500070] ∧
    asmLine (fun _ => none) 0 "mmdrain.bf16.mem.rel.pkg [s20], s24, s26 -> f5" = some [0x60294989A0002505] ∧
    asmLine (fun _ => none) 0 "kmix k0, p2" = some [0x71200E0E0E00020F] ∧ asmLine (fun _ => none) 0 "twait s10" = some [0x60B8AE0E0000000F] := by decide +kernel

/-! Events. -/

/-- The placed machine after one event. -/
def afterEvent (i : Instr) (x : EvArgs) (s : State) : State :=
  match step { s with agenda := [.ev i x] } with | .next t => t | .fault _ => s | .refused _ => s
theorem test_tcstat_clears_err : let t := afterEvent .tcstatRead EvArgs.zero { placed with tc := { placed.tc with err := true } }; (t.busRead, t.tc.err) = (2, false) := by
  decide +kernel
theorem test_pageTableWrite : let t := afterEvent .pageTableWrite ⟨0x100, 0, 0, 0x1122334455667788, false, [], [], []⟩ placed
    (tget 0 t.hbm 0x100, tget 0 t.hbm 0x107) = (0x88, 0x11) := by decide +kernel
theorem test_careClear : tget 0 (afterEvent .careClear ⟨3, 0, 0, 0, false, [], [], []⟩ { placed with care := [(3, 9), (4, 1)] }).care 3 = 0 := by decide +kernel
def completing : State := { placedWith (fun g => { g with flags := [(11, ⟨true, true, [4], none⟩)] }) with ops :=
  [⟨7, 0, 0, 11, 0x20000, 0, .ldW gMEM, .load 4 1 4 false false, 0, false, none, false, none, true, [], [], [], [], 0, [], [(.v 4 31, 0xAB)], none, true, none, 0, false, false⟩] }
theorem test_long_latency : let t := afterEvent .longLatencyComplete ⟨7, 0, 0, 0, false, [], [], []⟩ completing
    ((tfind 0 t.groups).map (fun g => (g.vget 4 31, g.flag 11)), t.ops) = (some (0xAB, ⟨false, true, [4], none⟩), []) := by decide +kernel
theorem test_yield_end : (tfind 0 (afterEvent .yieldEnd EvArgs.zero { placedWith (fun g => { g with yielded := some 0 }) with clock := 64 }).groups).map (·.yielded) = some none := by
  decide +kernel

end Sys2Proof.Tests
end

section
/-! SUPPORT. Tables, folds of updates and actions of the memory side, as the proofs about teams need them. -/

namespace Sys2Proof.Machine

open Sys2Proof

variable {α β γ : Type}

theorem mem_of_tfind {k : Nat} {v : α} {t : Table α} (h : tfind k t = some v) : (k, v) ∈ t := by
  induction t with
  | nil => cases h
  | cons e t ih =>
    simp only [tfind] at h
    split at h
    · next hk => cases h; subst hk; exact .head _
    · exact .tail _ (ih h)

theorem mem_tvalues_of_tfind {k : Nat} {v : α} {t : Table α} (h : tfind k t = some v) : v ∈ tvalues t :=
  List.mem_map.mpr ⟨(k, v), mem_of_tfind h, rfl⟩

theorem tmodify_id (k : Nat) (t : Table α) : tmodify k id t = t := by
  induction t with
  | nil => rfl
  | cons e t ih => simp only [tmodify, ih, id_eq, ite_self]

/-- The entry that an update names, read under the key it stands at. -/
theorem tfind_tmodify_at {j k : Nat} {v : α} {t : Table α} (hj : j = k) (h : tfind k t = some v) (f : α → α) :
    tfind k (tmodify j f t) = some (f v) := by
  rw [hj, tfind_tmodify_self, h, Option.map_some]

/-- A table whose entries are changed under their keys. -/
theorem tfind_map_entries (k : Nat) (f : Nat × α → Nat × α) (hf : ∀ e, (f e).1 = e.1) (t : Table α) :
    tfind k (t.map f) = (tfind k t).map (fun v => (f (k, v)).2) := by
  induction t with
  | nil => rfl
  | cons e t ih =>
    have he : f e = (e.1, (f e).2) := by rw [← hf e]
    rw [List.map_cons, he]
    simp only [tfind]
    split
    · next hk => subst hk; rfl
    · exact ih

/-- An update that keeps a part of an entry keeps that part of every entry. -/
theorem tfind_tmodify_part (p : α → β) {f : α → α} (hf : ∀ v, p (f v) = p v) (j k : Nat) (t : Table α) :
    (tfind j (tmodify k f t)).map p = (tfind j t).map p := by
  rw [tfind_tmodify]
  split
  · next h => subst h; simp [Option.map_map, Function.comp_def, hf]
  · rfl

theorem State.modLaunch_part (s : State) (id : Nat) (p : Launch → β) {f : Launch → Launch} (hf : ∀ l, p (f l) = p l) (k : Nat) :
    (tfind k (s.modLaunch id f).launches).map p = (tfind k s.launches).map p := tfind_tmodify_part p hf k id s.launches

theorem State.modTeam_part (s : State) (id : Nat) (p : Team → β) {f : Team → Team} (hf : ∀ t, p (f t) = p t) (k : Nat) :
    (tfind k (s.modTeam id f).teams).map p = (tfind k s.teams).map p := tfind_tmodify_part p hf k id s.teams

/-- What each step of a fold keeps, the fold keeps. -/
theorem foldl_part (p : State → β) {f : State → γ → State} (hf : ∀ s x, p (f s x) = p s) (xs : List γ) (s : State) :
    p (xs.foldl f s) = p s := by
  induction xs generalizing s with
  | nil => rfl
  | cons x xs ih => exact (ih _).trans (hf s x)

/-- A fold whose steps change nothing. -/
theorem foldl_same {f : State → γ → State} {s : State} {xs : List γ} (hf : ∀ x ∈ xs, f s x = s) : xs.foldl f s = s := by
  induction xs with
  | nil => rfl
  | cons x xs ih => rw [List.foldl_cons, hf x (.head _)]; exact ih fun y hy => hf y (.tail _ hy)

/-- An action that answers goes on with its answer. -/
theorem Mem.on_ok {m : Mem α} {s u : State} {a : α} (h : m.run s = (.ok a, u)) (stall : State → β) (ok : α → State → β)
    (bad : Nat → Nat → Nat → State → β) : m.on s stall ok bad = ok a u := by
  unfold Mem.on; rw [h]

/-! ### Reads through range registers (R24) -/

section
variable {P : State → Prop}

theorem MemSide.vaRead (hP : MemSide P) (r : Table (BitVec 64)) (va size : Nat) : Keeps P (Machine.vaRead r va size) := by
  refine Keeps.bind ?_ fun l => hP.immRead l size
  unfold viaRanges
  split
  · exact Keeps.pure _
  · exact Keeps.fault _ _ _

theorem MemSide.vaReadAll (hP : MemSide P) (r : Table (BitVec 64)) (va n : Nat) : Keeps P (Machine.vaReadAll r va n) := by
  induction n generalizing va with
  | zero => exact Keeps.pure _
  | succ n ih => exact Keeps.bind (hP.vaRead r _ 8) fun _ => Keeps.bind (ih _) fun _ => Keeps.pure _

theorem MemSide.launchSets (hP : MemSide P) (qr : Table (BitVec 64)) (r : LaunchRec) : Keeps P (Machine.launchSets qr r) :=
  Keeps.ite (Keeps.pure _) (Keeps.bind (hP.vaReadAll _ _ _) fun _ => Keeps.pure _)

/-- A property kept by the memory side and by what a load notes in its launch is kept by the load of range registers. -/
theorem HomeSide.loadRanges (hP : HomeSide P) (hl : ∀ s k f, P s → P (s.modLaunch k f)) (launch : Nat) : Keeps P (Machine.loadRanges launch) := by
  intro s hs
  show P (Machine.loadRanges launch s).2
  unfold Machine.loadRanges
  split
  · exact hs
  · next l _ =>
    have h := hP.toMemSide.launchSets l.via l.record s hs
    unfold Mem.on
    rcases hr : (Machine.launchSets l.via l.record).run s with ⟨⟨c, b, a⟩ | a, t⟩ <;> rw [hr] at h
    · dsimp only
      split
      · exact hP.full s t hs
      · exact h
    · exact hl _ _ _ h

theorem loadRanges_ev {launch : Nat} {s u : State} {x : Except (Nat × Nat × Nat) (Table (BitVec 64))}
    (h : (loadRanges launch).run s = (x, u)) : u.ev = s.ev := by
  have := (HomeSide.of_frame State.ev s.ev fun s t e => by rw [e]).loadRanges (fun _ _ _ h => h) launch s rfl
  rwa [h] at this

end

@[simp] theorem State.coreState_modCore (s : State) (core : Nat) (f : CoreState → CoreState) (k : Nat) :
    (s.modCore core f).coreState k = if k = core then f (s.coreState core) else s.coreState k := tget_tset _ _ _ _ _

end Sys2Proof.Machine
end

section
/-! SUPPORT. What places a team: the group that starts, the groups of a team one after another, and the launch with its claims and its
placement acquire (R91, R180, R182, R208). -/

namespace Sys2Proof.Machine

open Sys2Proof

/-! ### A group as it starts (R182) -/

theorem Group.start_atEntry (p : Placement) {n entry : Nat} (hn : p.nstrands = n) (he : p.entry = BitVec.ofNat 64 entry) :
    Claim.AtEntry (Group.start p) n entry := by
  subst hn
  show startStrands p.nstrands p.entry = _
  rw [he]
  rfl

/-- The scalars of one strand at a start: arguments in s0 to s7, and s63. -/
theorem tget_startStrand (st : Nat) (args : List Word) (s63 : Word) (t : Table Word) (key : Nat) :
    tget 0 (tset 0 ((List.range 8).foldl (fun t k => tset 0 t (64 * st + k) (args.getD k 0)) t) (64 * st + 63) s63) key =
      if key = 64 * st + 63 then s63 else if 64 * st ≤ key ∧ key < 64 * st + 8 then args.getD (key - 64 * st) 0 else tget 0 t key := by
  rw [tget_tset]
  refine if_congr Iff.rfl rfl ?_
  have hmap := List.foldl_map (f := fun k => (64 * st + k, args.getD k 0)) (g := fun t (e : Nat × Word) => tset 0 t e.1 e.2)
    (l := List.range 8) (init := t)
  rw [← hmap]
  split
  · next h =>
    refine tget_writes_in 0 _ _ _ _ (List.mem_map.mpr ⟨key - 64 * st, List.mem_range.mpr (by omega), ?_⟩) ?_
    · rw [show 64 * st + (key - 64 * st) = key by omega]
    · intro e he hk
      obtain ⟨k, -, rfl⟩ := List.mem_map.mp he
      simp only at hk ⊢
      rw [show key - 64 * st = k by omega]
  · next h =>
    refine tget_writes_out 0 _ _ _ fun e he hk => h ?_
    obtain ⟨k, hk8, rfl⟩ := List.mem_map.mp he
    have := List.mem_range.mp hk8
    simp only at hk
    omega

/-- Every scalar below s63 as a group starts: the arguments in s0 to s7, else zero (R182). -/
theorem tget_startScalars (nstrands : Nat) (args : List Word) (s63 : Word) (n u : Nat) (hn : n < 63) :
    tget 0 (startScalars nstrands args s63) (64 * u + n) = if u < nstrands ∧ n < 8 then args.getD n 0 else 0 := by
  unfold startScalars
  induction nstrands with
  | zero => simp
  | succ m ih =>
    rw [List.range_succ (n := m), List.foldl_append, List.foldl_cons, List.foldl_nil, tget_startStrand, ih, if_neg (by omega)]
    by_cases hu : u = m
    · subst hu
      by_cases h8 : n < 8
      · simp [h8]
      · simp [h8]
    · rw [if_neg (by omega)]
      exact if_congr (by omega) rfl rfl

theorem Group.start_freshRegs (p : Placement) {n : Nat} {args : List Word} (hn : p.nstrands = n) (ha : p.args = args) :
    Claim.FreshRegs (Group.start p) n args := by
  subst hn ha
  refine ⟨fun _ _ => rfl, fun n h => ?_, rfl, rfl, rfl, rfl, rfl, fun n h8 u hu => ?_, fun n h8 h63 u => ?_⟩
  · simp [Group.pget, h, Group.start]
  · exact (tget_startScalars _ _ _ n u (by omega)).trans (if_pos ⟨hu, h8⟩)
  · exact (tget_startScalars _ _ _ n u h63).trans (if_neg (by omega))

/-! ### The q8 of a position emptied (R182) -/

/-- A team without the words of a position's q8 in the array it has taken along. -/
def Team.dropQ8 (t : Team) (pos : Nat) : Team := { t with prism := t.prism.map (fun p => { p with q8 := terase pos p.q8 }) }

theorem State.clearQ8_frame (s : State) (team pos : Nat) :
    s.clearQ8 team pos = { s with teams := tmodify team (·.dropQ8 pos) s.teams, cores := (s.clearQ8 team pos).cores } := by
  unfold State.clearQ8
  dsimp only
  split <;> rfl

section clearQ8
variable (s : State) (team pos : Nat)
@[simp] theorem State.clearQ8_groups : (s.clearQ8 team pos).groups = s.groups := by rw [State.clearQ8_frame]
@[simp] theorem State.clearQ8_teams : (s.clearQ8 team pos).teams = tmodify team (·.dropQ8 pos) s.teams := by rw [State.clearQ8_frame]
@[simp] theorem State.clearQ8_launches : (s.clearQ8 team pos).launches = s.launches := by rw [State.clearQ8_frame]
@[simp] theorem State.clearQ8_nextId : (s.clearQ8 team pos).nextId = s.nextId := by rw [State.clearQ8_frame]
@[simp] theorem State.clearQ8_ev : (s.clearQ8 team pos).ev = s.ev := by rw [State.clearQ8_frame]
end clearQ8

/-! ### The groups of a team started one after another -/

/-- The placement that a start gives its group (R24, R182). -/
def State.placementOf (s : State) (l : Launch) (r : Table (BitVec 64)) (team pos index core quarter : Nat) (spawned : Bool) (entry : Addr)
    (args : List Word) : Placement :=
  ⟨s.nextId, l.id, team, pos, index, quarter, s.freeContext core quarter, spawned, l.record.nstrands, entry, args,
    l.scratchBase (clusterOf core), r, BitVec.ofNat 64 l.record.rheap, (s.trapVector l.tenant).1, (s.trapVector l.tenant).2, s.clock⟩

section startGroup
variable (s : State) (l : Launch) (r : Table (BitVec 64)) (team pos index core quarter : Nat) (spawned : Bool) (entry : Addr) (args : List Word)
@[simp] theorem State.startGroup_groups : (s.startGroup l r team pos index core quarter spawned entry args).groups =
    tinsert s.nextId (Group.start (s.placementOf l r team pos index core quarter spawned entry args)) s.groups := by
  simp [State.startGroup, State.placementOf]
@[simp] theorem State.startGroup_teams : (s.startGroup l r team pos index core quarter spawned entry args).teams =
    tmodify team (·.dropQ8 pos) s.teams := by simp [State.startGroup]
@[simp] theorem State.startGroup_launches : (s.startGroup l r team pos index core quarter spawned entry args).launches =
    tmodify l.id (fun l => { l with live := l.live + 1 }) s.launches := by simp [State.startGroup]
@[simp] theorem State.startGroup_nextId : (s.startGroup l r team pos index core quarter spawned entry args).nextId = s.nextId + 1 := by
  simp [State.startGroup]
end startGroup

/-- The first groups of a team started, as a placement starts them (R182). -/
def State.startGroups (s : State) (l : Launch) (r : Table (BitVec 64)) (team base core : Nat) (entry : Addr) (n : Nat) : State :=
  (List.range n).foldl (fun s pos => s.startGroup l r team pos (base + pos) core (pos % 4) false entry []) s

section startGroups
variable (s : State) (l : Launch) (r : Table (BitVec 64)) (team base core : Nat) (entry : Addr) (n : Nat)

theorem State.startGroups_succ : s.startGroups l r team base core entry (n + 1) =
    (s.startGroups l r team base core entry n).startGroup l r team n (base + n) core (n % 4) false entry [] := by
  simp [State.startGroups, List.range_succ]

@[simp] theorem State.startGroups_nextId : (s.startGroups l r team base core entry n).nextId = s.nextId + n := by
  induction n with
  | zero => rfl
  | succ n ih => rw [startGroups_succ, startGroup_nextId, ih, Nat.add_assoc]

/-- Each group stands under a fresh number, in its own position. -/
theorem State.startGroups_group {pos : Nat} (h : pos < n) : ∃ u : State, u.nextId = s.nextId + pos ∧
    tfind (s.nextId + pos) (s.startGroups l r team base core entry n).groups =
      some (Group.start (u.placementOf l r team pos (base + pos) core (pos % 4) false entry [])) := by
  induction n with
  | zero => omega
  | succ n ih =>
    rw [startGroups_succ, startGroup_groups]
    by_cases hp : pos = n
    · subst hp
      exact ⟨_, s.startGroups_nextId l r team base core entry pos, by rw [startGroups_nextId]; exact tfind_tinsert_self _ _ _⟩
    · obtain ⟨u, hu, hg⟩ := ih (by omega)
      exact ⟨u, hu, by rw [tfind_tinsert_ne (by rw [startGroups_nextId]; omega), hg]⟩

/-- A team that holds no array stays as it is while its groups start. -/
theorem State.startGroups_team {tm : Team} (h : tfind team s.teams = some tm) (hp : tm.prism = none) :
    tfind team (s.startGroups l r team base core entry n).teams = some tm := by
  induction n with
  | zero => exact h
  | succ n ih =>
    rw [startGroups_succ, startGroup_teams, tfind_tmodify_self, ih, Option.map_some]
    cases tm; cases hp; rfl

theorem State.startGroups_launch (k : Nat) : (tfind k (s.startGroups l r team base core entry n).launches).isSome = (tfind k s.launches).isSome := by
  induction n with
  | zero => rfl
  | succ n ih =>
    rw [startGroups_succ, startGroup_launches, tfind_tmodify, ← ih]
    split
    · next h => subst h; simp
    · rfl

end startGroups

/-! ### The launch of a placed team -/

/-- A claim of scratch banks changes the claims of its launch and nothing else (R180). -/
theorem State.claimScratch_frame (s : State) (launch cluster : Nat) : ∃ f : Launch → Launch,
    (∀ l, f l = { l with claims := (f l).claims }) ∧ s.claimScratch launch cluster = s.modLaunch launch f := by
  have hid : s.modLaunch launch id = s := by simp [State.modLaunch, tmodify_id]
  unfold State.claimScratch
  split
  · exact ⟨id, fun _ => rfl, hid.symm⟩
  · split
    · exact ⟨id, fun _ => rfl, hid.symm⟩
    · split
      · exact ⟨_, fun _ => rfl, rfl⟩
      · exact ⟨id, fun _ => rfl, hid.symm⟩

theorem State.claimScratch_launch {s : State} {launch : Nat} {l : Launch} (h : tfind launch s.launches = some l) (cluster : Nat) :
    ∃ l', tfind launch (s.claimScratch launch cluster).launches = some l' ∧ l' = { l with claims := l'.claims } := by
  obtain ⟨f, hf, he⟩ := s.claimScratch_frame launch cluster
  exact ⟨f l, by rw [he]; simp [h], hf l⟩

@[simp] theorem State.claimScratch_nextId (s : State) (launch cluster : Nat) : (s.claimScratch launch cluster).nextId = s.nextId := by
  obtain ⟨f, -, he⟩ := s.claimScratch_frame launch cluster
  rw [he, State.modLaunch_nextId]

section enterCore
variable (s : State) (launch core : Nat)
theorem State.enterCore_frame : ∃ a n ls, s.enterCore launch core = { s with acqs := a, nextId := n, launches := ls } ∧
    ∀ k, (tfind k ls).isSome = (tfind k s.launches).isSome := by
  unfold State.enterCore
  split
  · exact ⟨_, _, _, rfl, fun _ => rfl⟩
  · split
    · exact ⟨_, _, _, rfl, fun _ => rfl⟩
    · refine ⟨_, _, _, rfl, fun k => ?_⟩
      simp only [State.newAcq_launches, tfind_tmodify]
      split
      · next h => subst h; simp
      · rfl

@[simp] theorem State.enterCore_groups : (s.enterCore launch core).groups = s.groups := by
  obtain ⟨_, _, _, h, -⟩ := s.enterCore_frame launch core; rw [h]
@[simp] theorem State.enterCore_teams : (s.enterCore launch core).teams = s.teams := by
  obtain ⟨_, _, _, h, -⟩ := s.enterCore_frame launch core; rw [h]
theorem State.enterCore_launch (k : Nat) : (tfind k (s.enterCore launch core).launches).isSome = (tfind k s.launches).isSome := by
  obtain ⟨_, _, _, h, hl⟩ := s.enterCore_frame launch core; rw [h]; exact hl k
end enterCore

/-- A launch with one more of its teams placed on a core (R175, R274). -/
def Launch.withPlaced (l : Launch) (number core : Nat) : Launch :=
  { l.noteUnits number core with placed := number :: l.placed, started := true }

section notePlaced
variable (s : State) (l : Launch) (number core : Nat)
theorem State.notePlaced_frame : ∃ slots, s.notePlaced l number core =
    { s with launches := tmodify l.id (·.withPlaced number core) s.launches, lastSlot := slots } := by
  unfold State.notePlaced
  dsimp only
  split <;> exact ⟨_, rfl⟩
@[simp] theorem State.notePlaced_groups : (s.notePlaced l number core).groups = s.groups := by
  obtain ⟨_, h⟩ := s.notePlaced_frame l number core; rw [h]
@[simp] theorem State.notePlaced_teams : (s.notePlaced l number core).teams = s.teams := by
  obtain ⟨_, h⟩ := s.notePlaced_frame l number core; rw [h]
@[simp] theorem State.notePlaced_launches : (s.notePlaced l number core).launches =
    tmodify l.id (·.withPlaced number core) s.launches := by
  obtain ⟨_, h⟩ := s.notePlaced_frame l number core; rw [h]
end notePlaced

/-! ### A team placed -/

/-- The machine in which a placement starts its groups: the launch's banks are claimed and the team stands under a fresh number. -/
def State.withTeam (s : State) (l : Launch) (number core : Nat) : State :=
  let s := s.claimScratch l.id (clusterOf core)
  { s with
    teams := tinsert s.nextId (Team.start s.nextId l.id number (l.record.fabpos * l.teams + number) core s.clock l.record.teamSize) s.teams
    nextId := s.nextId + 1 }

section placeTeam
variable (s : State) (l : Launch) (r : Table (BitVec 64)) (number core : Nat)

theorem State.placeTeam_eq : s.placeTeam l r number core =
    (((s.withTeam l number core).startGroups ((tfind l.id (s.claimScratch l.id (clusterOf core)).launches).getD l) r s.nextId
      ((l.record.fabpos * l.teams + number) * l.record.teamSize) core (BitVec.ofNat 64 l.record.entry) l.record.teamSize).enterCore l.id
        core).notePlaced l number core := by
  unfold State.placeTeam State.withTeam State.startGroups
  simp only [State.claimScratch_nextId]

theorem State.placeTeam_team : ∃ now, tfind s.nextId (s.placeTeam l r number core).teams =
    some (Team.start s.nextId l.id number (l.record.fabpos * l.teams + number) core now l.record.teamSize) := by
  refine ⟨(s.claimScratch l.id (clusterOf core)).clock, ?_⟩
  rw [placeTeam_eq, notePlaced_teams, enterCore_teams]
  exact State.startGroups_team _ _ _ _ _ _ _ _ (by simp [State.withTeam]) rfl

theorem State.placeTeam_launch {l₁ : Launch} (h : tfind l.id s.launches = some l₁) :
    ∃ l', tfind l.id (s.placeTeam l r number core).launches = some l' ∧ number ∈ l'.placed ∧ l'.started = true := by
  obtain ⟨l₂, hl₂, -⟩ := State.claimScratch_launch h (clusterOf core)
  have hw : (tfind l.id (s.withTeam l number core).launches).isSome = true := by simp [State.withTeam, hl₂]
  rw [placeTeam_eq, notePlaced_launches]
  rw [← State.startGroups_launch, ← State.enterCore_launch, Option.isSome_iff_exists] at hw
  obtain ⟨m, hm⟩ := hw
  exact ⟨_, by rw [tfind_tmodify_self, hm, Option.map_some], .head _, rfl⟩

/-- Each position of the team has a fresh group, with the launch as the claim has left it. -/
theorem State.placeTeam_group {l₁ : Launch} (h : tfind l.id s.launches = some l₁) {pos : Nat} (hp : pos < l.record.teamSize) :
    ∃ (u : State) (l' : Launch), l' = { l₁ with claims := l'.claims } ∧ tfind (s.nextId + 1 + pos) (s.placeTeam l r number core).groups =
      some (Group.start (u.placementOf l' r s.nextId pos ((l.record.fabpos * l.teams + number) * l.record.teamSize + pos) core (pos % 4) false
        (BitVec.ofNat 64 l.record.entry) [])) := by
  obtain ⟨l', hl', he⟩ := State.claimScratch_launch h (clusterOf core)
  have hn : (s.withTeam l number core).nextId = s.nextId + 1 := by simp [State.withTeam]
  obtain ⟨u, -, hg⟩ := (s.withTeam l number core).startGroups_group l' r s.nextId
    ((l.record.fabpos * l.teams + number) * l.record.teamSize) core (BitVec.ofNat 64 l.record.entry) l.record.teamSize hp
  refine ⟨u, l', he, ?_⟩
  rw [placeTeam_eq, notePlaced_groups, enterCore_groups, hl', Option.getD_some, ← hn]
  exact hg

end placeTeam

theorem startBarriers_read (size : Nat) {b : Nat} (hb : b < 16) :
    tget Barrier.zero (startBarriers size) b = ⟨size, 0, BitVec.ofNat 64 (2 ^ size - 1), 0, 0⟩ := by
  have key : ∀ (x : Barrier), tget Barrier.zero ((List.range 16).map (fun b => (b, x))) b = x := by
    intro x
    interval_cases b <;> rfl
  exact key _

/-- TEAM_PLACEMENT of a team that fits, once the range registers are loaded (R24, R179, R182). -/
theorem execTeamPlacement_places {s u : State} {l : Launch} {ranges : Table (BitVec 64)} (hh : s.placementHead = some l) (hl : l.id = s.ev.a)
    (hc : l.record.cosched = false) (hp : s.canPlace l s.ev.c s.ev.b = true) (hr : (loadRanges s.ev.a).run s = (.ok ranges, u)) :
    execTeamPlacement s = .next (u.placeTeam l ranges s.ev.c s.ev.b) := by
  rw [← hl] at hr
  simp only [execTeamPlacement, hh, hl, ne_eq, not_true_eq_false, hc, hp, if_true, if_false, Bool.false_eq_true]
  rw [← hl, Mem.on_ok hr, loadRanges_ev hr]

end Sys2Proof.Machine
end

section
/-! SUPPORT. The active sets (R278, R280): what moves between them, and what an exchange does. -/

namespace Sys2Proof.Machine

open Sys2Proof

/-- A group as it stands once it has been moved between the sets (R124, R278). -/
def Group.movedTo (g : Group) (on : Bool) (now : Nat) : Group := { g with active := on, since := now, latch := [] }

section moveSet
variable (s : State) (g : Group) (on : Bool)
@[simp] theorem State.moveSet_groups : (s.moveSet g on).groups = tmodify g.gid (·.movedTo on s.clock) s.groups := rfl
end moveSet

/-- A group that has been moved out stays so while other moves out follow, of itself too. -/
theorem State.moveSet_keeps_out {s : State} {k now : Nat} {h : Group} (hk : tfind k s.groups = some (h.movedTo false now))
    (hc : s.clock = now) (g : Group) : tfind k (s.moveSet g false).groups = some (h.movedTo false now) := by
  subst hc
  rw [moveSet_groups, tfind_tmodify]
  split
  · next e => subst e; rw [hk]; rfl
  · exact hk

/-- The groups of a list moved to the pending set. -/
def State.moveOut (s : State) (gs : List Group) : State := gs.foldl (fun s g => s.moveSet g false) s

theorem State.moveOut_frame (s : State) (gs : List Group) : s.moveOut gs = { s with groups := (s.moveOut gs).groups } := by
  induction gs generalizing s with
  | nil => rfl
  | cons g gs ih => exact (ih (s.moveSet g false)).trans rfl

theorem State.moveOut_keeps_out {s : State} {k now : Nat} {h : Group} (hk : tfind k s.groups = some (h.movedTo false now))
    (hc : s.clock = now) (gs : List Group) : tfind k (s.moveOut gs).groups = some (h.movedTo false now) := by
  induction gs generalizing s with
  | nil => exact hk
  | cons g gs ih => exact ih (s := s.moveSet g false) (State.moveSet_keeps_out hk hc g) hc

/-- A group of the list is moved out. -/
theorem State.moveOut_moves {s : State} {gs : List Group} {g : Group} (hg : g ∈ gs) (h : tfind g.gid s.groups = some g) :
    tfind g.gid (s.moveOut gs).groups = some (g.movedTo false s.clock) := by
  induction gs generalizing s with
  | nil => cases hg
  | cons p gs ih =>
    by_cases hp : g.gid = p.gid
    · exact State.moveOut_keeps_out (s := s.moveSet p false) (by rw [moveSet_groups, ← hp, tfind_tmodify_self, h]; rfl) rfl gs
    · have hg' : g ∈ gs := by
        cases hg with
        | head => exact absurd rfl hp
        | tail _ hg => exact hg
      exact ih (s := s.moveSet p false) hg' (by rw [moveSet_groups, tfind_tmodify_ne hp, h])

theorem oldest_mem {gs : List Group} {p : Group} (h : oldest gs = some p) : p ∈ gs := by
  induction gs generalizing p with
  | nil => cases h
  | cons g gs ih =>
    simp only [oldest] at h
    split at h
    · cases h; exact .head _
    · next k hk =>
      split at h <;> cases h
      · exact .head _
      · exact .tail _ (ih hk)

/-- The group that enters is one of the pending ones. -/
theorem State.entrant_mem {s : State} {pend : List Group} {p : Group} (h : s.entrant pend = some p) : p ∈ pend := by
  unfold State.entrant at h
  split at h
  · next hp => cases h; exact (List.mem_filter.mp (oldest_mem hp)).1
  · exact (List.mem_filter.mp (oldest_mem h)).1

/-- What follows in an exchange once the groups that wait have left: `here` are the quarter's groups as the exchange found them. -/
def State.exchange (s : State) (here : List Group) : State :=
  match s.entrant (here.filter (fun g => !g.active)) with
  | none => s
  | some p =>
    if (here.filter (fun g => g.active && !s.waitsBeyond g)).length < 8 then s.moveSet p true
    else match s.leaver (here.filter (fun g => g.active && !s.waitsBeyond g)) p with
      | some g => (s.moveSet g false).moveSet p true
      | none => s

theorem execActiveSetExchange_eq (s : State) : execActiveSetExchange s =
    .next ((s.moveOut ((s.quarterOf s.ev.a s.ev.b).filter (fun g => g.active && s.waitsBeyond g))).exchange (s.quarterOf s.ev.a s.ev.b)) := by
  unfold execActiveSetExchange State.exchange State.moveOut
  dsimp only
  generalize ((s.quarterOf s.ev.a s.ev.b).filter (fun g => g.active && s.waitsBeyond g)).foldl (fun s g => s.moveSet g false) s = u
  cases u.entrant ((s.quarterOf s.ev.a s.ev.b).filter (fun g => !g.active)) with
  | none => rfl
  | some p =>
    dsimp only
    by_cases hl : ((s.quarterOf s.ev.a s.ev.b).filter (fun g => g.active && !u.waitsBeyond g)).length < 8
    · rw [if_pos hl, if_pos hl]
    · rw [if_neg hl, if_neg hl]
      cases u.leaver ((s.quarterOf s.ev.a s.ev.b).filter (fun g => g.active && !u.waitsBeyond g)) p <;> rfl

theorem State.exchange_frame (s : State) (here : List Group) : s.exchange here = { s with groups := (s.exchange here).groups } := by
  unfold State.exchange
  split
  · rfl
  · split
    · rfl
    · split <;> rfl

/-- An exchange leaves in the pending set a group that has been moved there. -/
theorem State.exchange_keeps_out {s : State} {here : List Group} {h : Group} {k : Nat} (hk : tfind k s.groups = some (h.movedTo false s.clock))
    (hp : ∀ p ∈ here, p.active = false → p.gid ≠ k) : tfind k (s.exchange here).groups = some (h.movedTo false s.clock) := by
  have enter : ∀ {p : Group} {u : State}, s.entrant (here.filter (fun g => !g.active)) = some p →
      tfind k u.groups = some (h.movedTo false s.clock) → tfind k (u.moveSet p true).groups = some (h.movedTo false s.clock) := by
    intro p u he hu
    obtain ⟨hm, ha⟩ := List.mem_filter.mp (State.entrant_mem he)
    rw [State.moveSet_groups, tfind_tmodify_ne fun e => hp p hm (by simpa using ha) e.symm, hu]
  unfold State.exchange
  split
  · exact hk
  · next p he =>
    split
    · exact enter he hk
    · split
      · exact enter he (State.moveSet_keeps_out hk rfl _)
      · exact hk

/-- A group moved where no active group waits: nothing leaves first. -/
theorem State.moveOut_none {s : State} {here : List Group} (hw : ∀ g ∈ here, g.active = true → s.waitsBeyond g = false) :
    s.moveOut (here.filter (fun g => g.active && s.waitsBeyond g)) = s ∧
      here.filter (fun g => g.active && !s.waitsBeyond g) = here.filter (fun g => g.active) := by
  have h1 : here.filter (fun g => g.active && s.waitsBeyond g) = [] := by
    refine List.filter_eq_nil_iff.mpr fun g hg => ?_
    cases ha : g.active
    · simp
    · simp [hw g hg ha]
  refine ⟨by rw [h1]; rfl, List.filter_congr fun g hg => ?_⟩
  cases ha : g.active
  · rfl
  · simp [hw g hg ha]

section exchange
variable {s : State} {p g : Group}

/-- An active group whose wait moves it leaves for the pending set (R278). -/
theorem execActiveSetExchange_leaves (hg : g ∈ s.quarterOf s.ev.a s.ev.b) (ha : g.active = true) (hw : s.waitsBeyond g = true)
    (hf : tfind g.gid s.groups = some g) (hu : ∀ p ∈ s.quarterOf s.ev.a s.ev.b, p.gid = g.gid → p = g) :
    ∃ t, execActiveSetExchange s = .next t ∧ t = { s with groups := t.groups } ∧ tfind g.gid t.groups = some (g.movedTo false s.clock) := by
  have hm := State.moveOut_moves (List.mem_filter.mpr ⟨hg, by simp [ha, hw]⟩ :
    g ∈ (s.quarterOf s.ev.a s.ev.b).filter (fun g => g.active && s.waitsBeyond g)) hf
  refine ⟨_, execActiveSetExchange_eq s, ?_, ?_⟩
  · rw [State.exchange_frame, State.moveOut_frame]
  · rw [State.moveOut_frame] at hm ⊢
    refine State.exchange_keeps_out hm fun p hp hn e => ?_
    rw [hu p hp e, ha] at hn
    cases hn

variable (hw : ∀ g ∈ s.quarterOf s.ev.a s.ev.b, g.active = true → s.waitsBeyond g = false)
  (he : s.entrant ((s.quarterOf s.ev.a s.ev.b).filter (fun g => !g.active)) = some p)
include hw he

/-- A pending group enters while there is room (R278). -/
theorem execActiveSetExchange_enters (hl : ((s.quarterOf s.ev.a s.ev.b).filter (fun g => g.active)).length < 8) :
    execActiveSetExchange s = .next (s.moveSet p true) := by
  obtain ⟨ho, ha⟩ := State.moveOut_none hw
  rw [execActiveSetExchange_eq, ho]
  simp only [State.exchange, he, ha, hl, if_true]

/-- A pair is exchanged where there is no room (R278). -/
theorem execActiveSetExchange_exchanges (hl : 8 ≤ ((s.quarterOf s.ev.a s.ev.b).filter (fun g => g.active)).length)
    (hx : s.leaver ((s.quarterOf s.ev.a s.ev.b).filter (fun g => g.active)) p = some g) :
    execActiveSetExchange s = .next ((s.moveSet g false).moveSet p true) := by
  obtain ⟨ho, ha⟩ := State.moveOut_none hw
  rw [execActiveSetExchange_eq, ho]
  simp only [State.exchange, he, ha, hx, Nat.not_lt.mpr hl, if_false]

end exchange

end Sys2Proof.Machine
end

section
/-! SUPPORT. Entries of the issue-slot table: as written, and as they take effect (R276). -/

namespace Sys2Proof.Machine

open Sys2Proof

/-- The entries that an ISTAB write of a value puts into a core's table (R276, R423). -/
def CoreState.writeIstab (c : CoreState) (e size : Nat) (v : BitVec 64) : CoreState :=
  let c := c.putIstab e (v.truncate 32)
  if size = 8 then c.putIstab (e + 1) ((v >>> 32).truncate 32) else c

theorem execIstabWrite_writes {s : State} (ha : s.ev.a < 192) (hb : s.ev.b < 64) (hc : s.ev.c = 8 → s.ev.b % 2 = 0) :
    execIstabWrite s = .next (s.modCore s.ev.a (fun c => c.writeIstab s.ev.b s.ev.c s.ev.val)) := by
  unfold execIstabWrite
  rw [if_neg (by omega)]
  rfl

/-- The entry `e` and the value it gets, of those that a write of `size` bytes at an entry puts. -/
def IstabWrites (entry size : Nat) (v : BitVec 64) (e w : Nat) : Prop :=
  e = entry ∧ w = v.toNat % 2 ^ 32 &&& 0x8F8F8F8F ∨ size = 8 ∧ e = entry + 1 ∧ w = v.toNat / 2 ^ 32 &&& 0x8F8F8F8F

theorem CoreState.writeIstab_frame (c : CoreState) (e size : Nat) (v : BitVec 64) :
    c.writeIstab e size v = { c with istabNew := (c.writeIstab e size v).istabNew } := by
  unfold CoreState.writeIstab
  dsimp only
  split <;> rfl

section
variable {c : CoreState} {entry size e w : Nat} {v : BitVec 64} (h : IstabWrites entry size v e w)
include h

/-- A written entry waits with its value for the cycle in which it takes effect. -/
theorem CoreState.tfind_writeIstab : ∃ x : Word, x.toNat = w ∧ tfind e (c.writeIstab entry size v).istabNew = some x := by
  unfold CoreState.writeIstab
  dsimp only
  rcases h with ⟨rfl, rfl⟩ | ⟨rfl, rfl, rfl⟩
  · refine ⟨v.truncate 32 &&& istabMask, by simp [istabMask], ?_⟩
    split
    · exact (tfind_tinsert_ne (by omega) _ _).trans (tfind_tinsert_self _ _ _)
    · exact tfind_tinsert_self _ _ _
  · refine ⟨(v >>> 32).truncate 32 &&& istabMask, ?_, tfind_tinsert_self _ _ _⟩
    have := v.isLt
    simp only [istabMask, BitVec.toNat_and, BitVec.truncate_eq_setWidth, BitVec.toNat_setWidth, BitVec.toNat_ushiftRight, Nat.shiftRight_eq_div_pow]
    rw [Nat.mod_eq_of_lt (by omega)]
    rfl

/-- It has the value once it has taken effect, where no other write waited. -/
theorem CoreState.tget_istabTurn_writeIstab (hn : c.istabNew = []) :
    (tget istabReset (c.writeIstab entry size v).istabTurn.istab e).toNat = w := by
  obtain ⟨x, hx, hf⟩ := tfind_writeIstab (c := c) h
  have hu : ∀ b ∈ (c.writeIstab entry size v).istabNew, b.1 = e → b.2 = x := by
    intro b hb hbe
    have hs : tfind b.1 (c.writeIstab entry size v).istabNew = some b.2 := by
      unfold CoreState.writeIstab CoreState.putIstab at hb ⊢
      dsimp only at hb ⊢
      split at hb
      · next h8 =>
        simp only [hn, tinsert, if_neg (Nat.not_lt.mpr (Nat.le_succ entry)), if_neg (Nat.succ_ne_self entry), if_pos h8,
          List.mem_cons, List.not_mem_nil, or_false] at hb ⊢
        rcases hb with rfl | rfl <;> simp [tfind]
      · next h8 =>
        simp only [hn, tinsert, if_neg h8, List.mem_cons, List.not_mem_nil, or_false] at hb ⊢
        subst hb
        simp [tfind]
    rw [hbe, hf] at hs
    exact (Option.some.inj hs).symm
  rw [← hx]
  exact congrArg BitVec.toNat (tget_writes_in istabReset _ _ e x (mem_of_tfind hf) hu)

end

@[simp] theorem CoreState.istabTurn_idle {c : CoreState} (h : c.istabNew = []) : c.istabTurn = c := by
  cases c; cases h; rfl

@[simp] theorem State.pass_clock (s : State) (n : Nat) : (s.pass n).clock = s.clock := by
  unfold State.pass State.countTime
  dsimp only
  split <;> rfl

@[simp] theorem State.pass_cores (s : State) (n : Nat) : (s.pass n).cores = s.cores := by
  unfold State.pass State.countTime
  dsimp only
  split <;> rfl

/-- Written entries take effect at a cycle whose CLOCK mod 64 is 0 (R276). -/
theorem State.tick_coreState {s : State} (h : (s.clock + 1) % 64 = 0) (core : Nat) : s.tick.coreState core = (s.coreState core).istabTurn := by
  have hc : s.tick.cores = s.cores.map (fun e => (e.1, if e.2.istabNew = [] then e.2 else e.2.istabTurn)) := by
    unfold State.tick
    simp only [pass_clock, h, if_true, pass_cores]
  unfold State.coreState tget
  rw [hc, tfind_map_entries _ _ fun _ => by rfl]
  cases tfind core s.cores with
  | none => rfl
  | some c =>
    simp only [Option.map_some, Option.getD_some]
    split
    · next h => exact (CoreState.istabTurn_idle h).symm
    · rfl

/-- The table in effect is as before a write (R276). -/
theorem State.istabEntry_writeIstab (s : State) (core entry size : Nat) (v : BitVec 64) (k : Nat) :
    (s.modCore core (fun c => c.writeIstab entry size v)).istabEntry k = s.istabEntry k := by
  unfold State.istabEntry
  rw [coreState_modCore]
  split
  · next h => subst h; rw [CoreState.writeIstab_frame]; rfl
  · rfl

end Sys2Proof.Machine
end

section
/-! SUPPORT. The end of a group, of its team's turn and of its launch (R91, R186, R212, R272 to R274, R399). -/

namespace Sys2Proof.Machine

open Sys2Proof

/-! ### Deadlines (R274, R427) -/

theorem State.checkDeadline_frame (s : State) (launch : Nat) : s.checkDeadline launch = { s with
    launches := (s.checkDeadline launch).launches, care := (s.checkDeadline launch).care, evq := (s.checkDeadline launch).evq } := by
  unfold State.checkDeadline
  split
  · rfl
  · split <;> rfl

/-- A deadline noted as missed leaves the groups of a launch as they are. -/
theorem State.checkDeadline_live (s : State) (launch k : Nat) :
    (tfind k (s.checkDeadline launch).launches).map Launch.live = (tfind k s.launches).map Launch.live := by
  unfold State.checkDeadline
  split
  · rfl
  · split
    · rfl
    · exact State.modLaunch_part _ _ Launch.live (fun _ => by rfl) k

/-- A class-0 launch whose DEADLINE has passed is noted and posted (R274, R427). -/
theorem execDeadlineMiss_misses {s : State} {l : Launch} (h : tfind s.ev.a s.launches = some l) (hp : l.record.prio % 4 = 0)
    (hm : l.missed = false) (he : l.ended = false) (hd : l.record.deadline < s.timeb) : execDeadlineMiss s =
      .next (((s.modLaunch s.ev.a (fun l => { l with missed := true })).count (careIndex careDeadline 0)).postEvent
        (eventRecord 0x05 0xFF 0xFFFF 0 l.addr 0 0 l.record.deadline)) := by
  unfold execDeadlineMiss State.checkDeadline
  simp only [h]
  rw [if_neg (by simp [hp, hm, he, hd])]

/-- An event's first byte is its type (R427). -/
theorem eventRecord_type (type die core code addr group pc aux : Nat) :
    (eventRecord type die core code addr group pc aux).take 1 = [BitVec.ofNat 8 type] := by
  simp [eventRecord, leBytes]

/-! ### A group that retires -/

section settleTurn
variable (s : State) (team : Nat)

/-- The end of a turn changes whose turn it is, and nothing else. -/
theorem State.settleTurn_frame : s.settleTurn team = { s with teams := (s.settleTurn team).teams } ∧
    ∀ k, (tfind k (s.settleTurn team).teams).map Team.barriers = (tfind k s.teams).map Team.barriers := by
  have pass : s.passTurn team = { s with teams := (s.passTurn team).teams } ∧
      ∀ k, (tfind k (s.passTurn team).teams).map Team.barriers = (tfind k s.teams).map Team.barriers := by
    unfold State.passTurn
    split
    · exact ⟨rfl, fun _ => rfl⟩
    · exact ⟨rfl, State.modTeam_part _ _ Team.barriers (fun _ => by rfl)⟩
  unfold State.settleTurn
  split
  · exact ⟨rfl, fun _ => rfl⟩
  · split
    · split
      · exact pass
      · exact ⟨rfl, fun _ => rfl⟩
    · exact pass

end settleTurn

section endTeam
variable (s : State) (team : Nat)

theorem State.endTeam_frame : s.endTeam team =
    { s with launches := (s.endTeam team).launches, teams := (s.endTeam team).teams, cores := (s.endTeam team).cores } := by
  unfold State.endTeam
  split
  · rfl
  · split
    · rfl
    · dsimp only
      split <;> rfl

theorem State.endTeam_live (k : Nat) : (tfind k (s.endTeam team).launches).map Launch.live = (tfind k s.launches).map Launch.live := by
  unfold State.endTeam
  split
  · rfl
  · split
    · rfl
    · dsimp only
      split <;> exact State.modLaunch_part _ _ Launch.live (fun _ => by rfl) k

/-- A team that still has a group does not end. -/
theorem State.endTeam_of_group {s : State} {team : Nat} {g : Group} (hg : g ∈ tvalues s.groups) (ht : g.team = team) : s.endTeam team = s := by
  unfold State.endTeam
  split
  · rfl
  · rw [if_pos (List.any_eq_true.mpr ⟨g, hg, by simp [ht]⟩)]

end endTeam

/-- The release of a launch on a core where its last group has retired (R91, R186). -/
def State.endRun (s : State) (launch core : Nat) : State :=
  if s.launchOn launch (· == core) true then s
  else match tfind launch s.launches with
    | none => s
    | some l =>
      if l.coresRun.contains core then
        (s.startRel core 2 (.launch launch)).modLaunch launch (fun l =>
          { l with coresRun := l.coresRun.filter (· != core), releases := l.releases ++ [s.nextId] })
      else s

/-- The end of a launch's claim on a cluster that its last group has left (R180). -/
def State.endClaim (s : State) (launch cluster : Nat) : State :=
  if s.launchOn launch (fun c => clusterOf c == cluster) false then s
  else s.modLaunch launch (fun l => { l with claims := terase cluster l.claims })

section leaveCore
variable (s : State) (launch core cluster : Nat)

theorem State.leaveCore_eq : s.leaveCore launch core = (s.endRun launch core).endClaim launch (clusterOf core) := by
  unfold State.leaveCore State.endRun State.endClaim
  rfl

theorem State.endRun_frame : s.endRun launch core =
    { s with launches := (s.endRun launch core).launches, rels := (s.endRun launch core).rels, nextId := (s.endRun launch core).nextId } := by
  unfold State.endRun
  split
  · rfl
  · split
    · rfl
    · split <;> rfl

theorem State.endRun_live (k : Nat) : (tfind k (s.endRun launch core).launches).map Launch.live = (tfind k s.launches).map Launch.live := by
  unfold State.endRun
  split
  · rfl
  · split
    · rfl
    · split
      · exact State.modLaunch_part _ _ Launch.live (fun _ => by rfl) k
      · rfl

theorem State.endClaim_frame : s.endClaim launch cluster = { s with launches := (s.endClaim launch cluster).launches } := by
  unfold State.endClaim
  split <;> rfl

theorem State.endClaim_live (k : Nat) : (tfind k (s.endClaim launch cluster).launches).map Launch.live = (tfind k s.launches).map Launch.live := by
  unfold State.endClaim
  split
  · rfl
  · exact State.modLaunch_part _ _ Launch.live (fun _ => by rfl) k

/-- A launch that leaves a core changes its own notes and starts its release, and nothing else (R91, R180). -/
theorem State.leaveCore_frame : s.leaveCore launch core = { s with
    launches := (s.leaveCore launch core).launches, rels := (s.leaveCore launch core).rels, nextId := (s.leaveCore launch core).nextId } := by
  rw [leaveCore_eq, endClaim_frame, endRun_frame]

theorem State.leaveCore_live (k : Nat) : (tfind k (s.leaveCore launch core).launches).map Launch.live = (tfind k s.launches).map Launch.live := by
  rw [leaveCore_eq, endClaim_live, endRun_live]

end leaveCore

/-- A group gone, before its team's turn, its team's end and its launch's leaving of the core (R186). -/
def State.dropGroup (s : State) (g : Group) : State :=
  (({ s with groups := terase g.gid s.groups }.clearQ8 g.team g.pos).checkDeadline g.launch).modLaunch g.launch
    (fun l => { l with live := l.live - 1 })

/-- The turn of a group's team settled in a deterministic launch (R189). -/
def State.turnAfter (s : State) (g : Group) : State :=
  if (match s.recordOf g.launch with | some r => r.det | none => false) then s.settleTurn g.team else s

section freeGroup
variable (s : State) (g : Group)

theorem State.freeGroup_eq :
    s.freeGroup g = (((s.dropGroup g).turnAfter g).endTeam g.team).leaveCore g.launch (s.teamCore g.team) := by
  unfold State.freeGroup State.dropGroup State.turnAfter
  rfl

theorem State.turnAfter_frame : s.turnAfter g = { s with teams := (s.turnAfter g).teams } ∧
    ∀ k, (tfind k (s.turnAfter g).teams).map Team.barriers = (tfind k s.teams).map Team.barriers := by
  unfold State.turnAfter
  split_ifs
  · exact s.settleTurn_frame g.team
  · exact ⟨rfl, fun _ => rfl⟩

theorem State.dropGroup_groups : (s.dropGroup g).groups = terase g.gid s.groups := by
  rw [State.dropGroup, State.modLaunch_groups, State.checkDeadline_frame]
  exact State.clearQ8_groups _ _ _

theorem State.dropGroup_ev : (s.dropGroup g).ev = s.ev := by
  rw [State.dropGroup, State.modLaunch_ev, State.checkDeadline_frame]
  exact State.clearQ8_ev _ _ _

theorem State.dropGroup_live (k : Nat) : (tfind k (s.dropGroup g).launches).map Launch.live =
    if k = g.launch then (tfind k s.launches).map (fun l => l.live - 1) else (tfind k s.launches).map Launch.live := by
  have hd := (({ s with groups := terase g.gid s.groups } : State).clearQ8 g.team g.pos).checkDeadline_live g.launch k
  rw [State.clearQ8_launches] at hd
  rw [State.dropGroup, State.modLaunch_launches, tfind_tmodify]
  split
  · next h =>
    subst h
    have := congrArg (Option.map (· - 1)) hd
    simpa [Option.map_map, Function.comp_def] using this
  · exact hd

theorem State.dropGroup_barriers (k : Nat) : (tfind k (s.dropGroup g).teams).map Team.barriers = (tfind k s.teams).map Team.barriers := by
  rw [State.dropGroup, State.modLaunch_teams, State.checkDeadline_frame]
  exact (congrArg (fun t => (tfind k t).map Team.barriers) (State.clearQ8_teams _ _ _)).trans
    (tfind_tmodify_part Team.barriers (fun _ => by rfl) _ _ _)

/-- What follows once the group is gone keeps the groups and the event's arguments. -/
theorem State.freeGroup_frame : (s.freeGroup g).groups = terase g.gid s.groups ∧ (s.freeGroup g).ev = s.ev := by
  rw [freeGroup_eq, leaveCore_frame, endTeam_frame, (turnAfter_frame _ g).1]
  exact ⟨s.dropGroup_groups g, s.dropGroup_ev g⟩

theorem State.freeGroup_live (k : Nat) : (tfind k (s.freeGroup g).launches).map Launch.live =
    if k = g.launch then (tfind k s.launches).map (fun l => l.live - 1) else (tfind k s.launches).map Launch.live := by
  rw [freeGroup_eq, leaveCore_live, endTeam_live, (turnAfter_frame _ g).1]
  exact s.dropGroup_live g k

/-- The launch has one live group less (R186). -/
theorem State.freeGroup_launch {l : Launch} (h : tfind g.launch s.launches = some l) :
    ∃ l', tfind g.launch (s.freeGroup g).launches = some l' ∧ l'.live = l.live - 1 := by
  refine Option.map_eq_some_iff.mp ?_
  rw [freeGroup_live, if_pos rfl, h, Option.map_some]

/-- No launch comes into being. -/
theorem State.freeGroup_no_launch {k : Nat} {l : Launch} (h : tfind k s.launches = none) (hl : tfind g.launch s.launches = some l) :
    tfind k (s.freeGroup g).launches = none := by
  have hk : k ≠ g.launch := fun e => by rw [e, hl] at h; cases h
  refine (Option.map_eq_none_iff (f := Launch.live)).mp ?_
  rw [freeGroup_live, if_neg hk, h, Option.map_none]

/-- A team with another group stays, with its barriers as they were (R212). -/
theorem State.freeGroup_team {k : Nat} {h : Group} {tm : Team} (hk : k ≠ g.gid) (hf : tfind k s.groups = some h) (ht : h.team = g.team)
    (hm : tfind g.team s.teams = some tm) : ∃ tm', tfind g.team (s.freeGroup g).teams = some tm' ∧ tm'.barriers = tm.barriers := by
  have hin : h ∈ tvalues ((s.dropGroup g).turnAfter g).groups := by
    rw [(turnAfter_frame _ g).1]
    show h ∈ tvalues (s.dropGroup g).groups
    rw [dropGroup_groups]
    exact mem_tvalues_of_tfind ((tfind_terase_ne hk _).trans hf)
  refine Option.map_eq_some_iff.mp ?_
  rw [freeGroup_eq, endTeam_of_group hin ht, leaveCore_frame]
  exact ((turnAfter_frame _ g).2 _).trans ((s.dropGroup_barriers g g.team).trans (by rw [hm]; rfl))

end freeGroup

/-! ### A launch that is over (R91, R272, R273) -/

theorem State.reportLaunch_none {s : State} {k : Nat} (h : tfind k s.launches = none) : s.reportLaunch k = s := by
  unfold State.reportLaunch; rw [h]

theorem State.reportLaunch_over {s : State} {k : Nat} {l : Launch} (h : tfind k s.launches = some l) (ho : l.over = true) :
    s.reportLaunch k = { s.finishLaunch l.queue l.number with
      launches := terase k (s.finishLaunch l.queue l.number).launches, domains := terase k (s.finishLaunch l.queue l.number).domains } := by
  unfold State.reportLaunch; rw [h]; simp [ho]

theorem le_runLength (finished : List Nat) (fuel n : Nat) : n ≤ runLength finished fuel n := by
  induction fuel generalizing n with
  | zero => exact Nat.le_refl n
  | succ fuel ih =>
    simp only [runLength]
    split
    · have := ih (n + 1); omega
    · exact Nat.le_refl n

/-- The completed run of a queue grows past the launch that ends it (R273). -/
theorem State.finishLaunch_queue {s : State} {queue number : Nat} {q : UQueue} (h : tfind queue s.queues = some q) (hd : q.done = number) :
    ∃ q', tfind queue (s.finishLaunch queue number).queues = some q' ∧ number < q'.done := by
  have hr : number < runLength (number :: q.finished) ((number :: q.finished).length + 1) q.done := by
    rw [hd]
    simp only [runLength, List.contains_cons, beq_self_eq_true, Bool.true_or, if_true]
    exact le_runLength _ _ (number + 1)
  unfold State.finishLaunch
  rw [h]
  dsimp only
  rw [if_neg (by omega), State.putDesc_queues]
  exact ⟨_, by rw [tfind_tmodify_self, h, Option.map_some], hr⟩

/-! ### GROUP_RETIRE -/

theorem execGroupRetire_frees {s : State} {g : Group} {l : Launch} (hf : tfind s.ev.a s.groups = some g) (hid : g.gid = s.ev.a) (hr : g.retiring = true)
    (hl : tfind g.launch s.launches = some l) (ho : ∀ o ∈ s.ops, o.gid ≠ s.ev.a) (ht : s.tokenReached l g = true)
    (hb : tfind s.ev.b s.launches = none) : execGroupRetire s = .next (s.freeGroup g) := by
  have hops : s.ops.any (fun o => o.gid == g.gid) = false := by
    simpa [hid] using ho
  unfold execGroupRetire
  simp only [hf, hr, hl, hops, ht, Bool.not_true, Bool.false_eq_true, if_false, Bool.or_self]
  rw [(s.freeGroup_frame g).2, State.reportLaunch_none (s.freeGroup_no_launch g hb hl)]

theorem execGroupRetire_reports {s : State} (hf : tfind s.ev.a s.groups = none) : execGroupRetire s = .next (s.reportLaunch s.ev.b) := by
  unfold execGroupRetire
  simp only [hf]

end Sys2Proof.Machine
end

section
/-! SUPPORT. Pre-emption and resumption of teams, and a core that fails (R9, R172, R414, R437). -/

namespace Sys2Proof.Machine

open Sys2Proof

/-! ### A team settled and saved (R414) -/

/-- With nothing of a team in flight, its part of the list of instructions is empty. -/
theorem State.filter_inTeam_eq_nil {s : State} {team : Nat} (h : ∀ o ∈ s.ops, s.inTeam team o.gid = false) :
    s.ops.filter (fun o => s.inTeam team o.gid) = [] :=
  List.filter_eq_nil_iff.mpr fun o ho => by simp [h o ho]

section settle
variable {s : State} {t : Team} (ho : ∀ o ∈ s.ops, s.inTeam t.id o.gid = false)
include ho

/-- A team with nothing in flight has nothing that its Facet unit has to finish. -/
theorem State.finishFacet_idle : s.finishFacet t = (s, true) := by
  have h : s.ops.filter (fun o => s.inTeam t.id o.gid && s.facetNext o) = [] :=
    List.filter_eq_nil_iff.mpr fun o hm => by simp [ho o hm]
  unfold State.finishFacet
  simp only [h, List.foldl_nil, List.any_nil, Bool.not_false]

/-- A team with nothing in flight and no task is settled as it stands. -/
theorem State.settleTeam_idle (hk : ∀ g ∈ tvalues s.groups, g.team = t.id → g.task = none) : s.settleTeam t = s := by
  have hd : s.dropWorkers t.id = s := foldl_same fun g hg => by
    obtain ⟨hm, ht⟩ := List.mem_filter.mp hg
    rw [hk g hm (by simpa using ht)]
  unfold State.settleTeam
  simp only [State.filter_inTeam_eq_nil ho, List.filter_nil, List.foldl_nil]
  exact hd

end settle

/-- A pre-emption goes on once its team's boundaries are complete (R414). -/
theorem released_of_none {s : State} {team : Nat} (hr : ∀ r ∈ s.rels, r.source ≠ .move team) (ha : ∀ a ∈ s.acqs, a.source ≠ .move team) :
    (!s.rels.any (fun r => r.source == .move team) && !s.acqs.any (fun a => a.source == .move team)) = true := by
  simpa using ⟨hr, ha⟩

section preempt
variable {s : State} {tm : Team} (hf : tfind s.ev.a s.teams = some tm) (hid : tm.id = s.ev.a) (hs : tm.saving = true) (hp : tm.preempted = false)
  (hr : ∀ r ∈ s.rels, r.source ≠ .move s.ev.a) (ha : ∀ a ∈ s.acqs, a.source ≠ .move s.ev.a)
include hf hid hs hp hr ha

/-- A stopped team with nothing in flight takes its place in the save area, and its core begins the release (R414). -/
theorem execPreemptTeam_saves (hi : tm.image = none) (hm : s.imageReady tm = true) {place : Nat × Nat} (hw : s.savesAt tm = some place)
    (ho : ∀ o ∈ s.ops, s.inTeam s.ev.a o.gid = false) (hk : ∀ g ∈ tvalues s.groups, g.team = s.ev.a → g.task = none) :
    execPreemptTeam s = .next ((s.modTeam tm.id (fun t => { t with image := some place })).startRel tm.core 2 (.move tm.id)) := by
  rw [← hid] at hr ha ho hk
  unfold execPreemptTeam
  simp only [hf, released_of_none hr ha, hs, hp, hi, hm, State.finishFacet_idle ho, Bool.not_true, Bool.or_self, Bool.false_eq_true, if_false]
  rw [State.settleTeam_idle ho hk, hw]

/-- A team whose release is complete leaves its core (R414). -/
theorem execPreemptTeam_evicts {n : Nat × Nat} (hi : tm.image = some n) : execPreemptTeam s = .next (s.evictTeam tm) := by
  rw [← hid] at hr ha
  unfold execPreemptTeam
  rw [hf]
  dsimp only
  rw [released_of_none hr ha, hs, hp, hi]
  rfl

end preempt

/-- The groups and teams once a team with nothing in flight has left its core: its groups are evicted, and it takes its array along (R172, R299). -/
theorem State.evictTeam_frame {s : State} {t : Team} (ho : ∀ o ∈ s.ops, s.inTeam t.id o.gid = false) :
    (s.evictTeam t).groups = s.groups.map (fun e => (e.1, if e.2.team = t.id then e.2.evicted else e.2)) ∧
      (s.evictTeam t).teams = tmodify t.id (fun u => { u with preempted := true, saving := false, prism := s.claimOf t }) s.teams := by
  have hg : (fun (e : Nat × Group) => if e.2.team = t.id then (e.1, e.2.evicted) else e) =
      fun e => (e.1, if e.2.team = t.id then e.2.evicted else e.2) := by
    funext e
    split <;> rfl
  unfold State.evictTeam
  rw [State.filter_inTeam_eq_nil ho, hg]
  simp only [List.foldl_nil]
  split_ifs <;> exact ⟨rfl, rfl⟩

/-! ### A team placed again (R414) -/

/-- A group back on a core (R278, R417). -/
def Group.back (g : Group) (ctx now : Nat) : Group :=
  { g with resident := true, ctx := ctx, since := now, readyFrom := now, pending := g.pending.map (fun e => (e.1, { e.2 with since := now })) }

theorem Group.back_back (g : Group) (c d now : Nat) : (g.back c now).back d now = g.back d now := by
  simp [Group.back, List.map_map, Function.comp_def]

theorem State.returnGroup_groups (s : State) (core : Nat) (g : Group) :
    (s.returnGroup core g).groups = tmodify g.gid (·.back (s.freeContext core g.quarter) s.clock) s.groups := rfl

/-- The groups of a team back on a core, one after another. -/
def State.returnGroups (s : State) (core : Nat) (gs : List Group) : State := gs.foldl (fun s g => s.returnGroup core g) s

theorem State.returnGroups_frame (s : State) (core : Nat) (gs : List Group) :
    s.returnGroups core gs = { s with groups := (s.returnGroups core gs).groups } := by
  induction gs generalizing s with
  | nil => rfl
  | cons g gs ih => exact (ih (s.returnGroup core g)).trans rfl

theorem State.returnGroups_keeps_back {s : State} {core k c : Nat} {g : Group} (h : tfind k s.groups = some (g.back c s.clock)) (gs : List Group) :
    ∃ d, tfind k (s.returnGroups core gs).groups = some (g.back d s.clock) := by
  induction gs generalizing s c with
  | nil => exact ⟨c, h⟩
  | cons p gs ih =>
    by_cases hp : k = p.gid
    · refine ih (s := s.returnGroup core p) (c := s.freeContext core p.quarter) ?_
      rw [returnGroup_groups, ← hp, tfind_tmodify_self, h, Option.map_some, Group.back_back]
      rfl
    · exact ih (s := s.returnGroup core p) (c := c) (by rw [returnGroup_groups, tfind_tmodify_ne hp, h]; rfl)

/-- Every group of the list is back. -/
theorem State.returnGroups_back {s : State} {core k : Nat} {g : Group} (h : tfind k s.groups = some g) {gs : List Group}
    (hin : ∃ p ∈ gs, p.gid = k) : ∃ d, tfind k (s.returnGroups core gs).groups = some (g.back d s.clock) := by
  induction gs generalizing s with
  | nil => obtain ⟨p, hp, -⟩ := hin; cases hp
  | cons p gs ih =>
    by_cases hp : k = p.gid
    · refine State.returnGroups_keeps_back (s := s.returnGroup core p) (c := s.freeContext core p.quarter) ?_ gs
      rw [returnGroup_groups, ← hp, tfind_tmodify_self, h]
      rfl
    · refine ih (s := s.returnGroup core p) (by rw [returnGroup_groups, tfind_tmodify_ne hp, h]) ?_
      obtain ⟨q, hq, hk⟩ := hin
      cases hq with
      | head => exact absurd hk.symm hp
      | tail _ hq => exact ⟨q, hq, hk⟩

/-- The machine in which a team's groups return: its launch's banks are claimed and it is noted on its new core. -/
def State.retake (s : State) (t : Team) (core : Nat) : State :=
  let s := s.claimScratch t.launch (clusterOf core)
  s.modTeam t.id (fun t => { t with core := core, placedAt := s.clock, preempted := false, saving := true, prism := none })

/-- What follows for a team's instructions in flight, its array and its launch once its groups have returned. -/
def State.resettle (s : State) (t : Team) (core : Nat) (gs : List Group) : State :=
  let s := { s with ops := s.ops.map (fun (o : Op) => if gs.any (fun g => g.gid == o.gid) then o.moveTo core s.clock else o) }
  let s := ((s.ops.filter (fun o => gs.any (fun g => g.gid == o.gid))).filterMap Op.acqUnit).foldl (fun s u => s.dropCopiesOf core u) s
  let s := match t.prism with | some a => s.modPrism core (fun _ => a) | none => s
  let s := s.modLaunch t.launch (fun l => { l.noteUnits t.number core with
    coresRun := if l.coresRun.contains core then l.coresRun else core :: l.coresRun })
  if s.launchOn t.launch (fun c => clusterOf c == clusterOf t.core) false then s
    else s.modLaunch t.launch (fun l => { l with claims := terase (clusterOf t.core) l.claims })

section returnTeam
variable (s : State) (t : Team) (core : Nat)

theorem State.returnTeam_eq : s.returnTeam t core =
    (((s.retake t core).returnGroups core ((tvalues s.groups).filter (fun g => g.team == t.id))).resettle t core
      ((tvalues s.groups).filter (fun g => g.team == t.id))).newAcq core 2 (.move t.id) := by
  unfold State.returnTeam State.retake State.returnGroups State.resettle
  rfl

theorem State.resettle_frame (gs : List Group) : (s.resettle t core gs).groups = s.groups ∧ (s.resettle t core gs).teams = s.teams := by
  unfold State.resettle
  dsimp only
  cases t.prism <;> split_ifs <;>
    exact ⟨foldl_part State.groups (fun _ _ => by rfl) _ _, foldl_part State.teams (fun _ _ => by rfl) _ _⟩

/-- A team placed again is on its new core and waits for its acquire (R91, R414). -/
theorem State.returnTeam_teams : ∃ now, (s.returnTeam t core).teams =
    tmodify t.id (fun t => { t with core := core, placedAt := now, preempted := false, saving := true, prism := none }) s.teams := by
  obtain ⟨f, -, he⟩ := s.claimScratch_frame t.launch (clusterOf core)
  refine ⟨(s.claimScratch t.launch (clusterOf core)).clock, ?_⟩
  rw [returnTeam_eq, newAcq_teams, (resettle_frame _ t core _).2, returnGroups_frame]
  unfold State.retake
  rw [he]
  rfl

theorem State.returnTeam_acq : ∃ a ∈ (s.returnTeam t core).acqs, a.core = core ∧ a.scope = 2 ∧ a.source = .move t.id := by
  rw [returnTeam_eq, newAcq_acqs]
  exact ⟨_, List.mem_append_right _ (.head _), rfl, rfl, rfl⟩

/-- Every group of the team is back. -/
theorem State.returnTeam_group {k : Nat} {g : Group} (h : tfind k s.groups = some g) (hk : g.gid = k) (ht : g.team = t.id) :
    ∃ c, tfind k (s.returnTeam t core).groups = some (g.back c s.clock) := by
  obtain ⟨f, -, he⟩ := s.claimScratch_frame t.launch (clusterOf core)
  have hs : (s.retake t core).groups = s.groups ∧ (s.retake t core).clock = s.clock := by
    unfold State.retake
    rw [he]
    exact ⟨rfl, rfl⟩
  rw [returnTeam_eq, newAcq_groups, (resettle_frame _ t core _).1, ← hs.2]
  exact State.returnGroups_back (by rw [hs.1, h]) ⟨g, List.mem_filter.mpr ⟨mem_tvalues_of_tfind h, by simp [ht]⟩, hk⟩

end returnTeam

theorem execResumeTeam_resumes {s : State} {tm : Team} {l : Launch} (hf : tfind s.ev.a s.teams = some tm)
    (hl : tfind tm.launch s.launches = some l) (hc : l.record.cosched = false) (hr : s.canResume tm s.ev.b = true) :
    execResumeTeam s = .next (s.returnTeam tm s.ev.b) := by
  have hrec : s.recordOf tm.launch = some l.record := by simp [State.recordOf, hl]
  unfold execResumeTeam
  simp only [hf, hrec, hc, hr, Bool.false_eq_true, if_false, if_true]

/-! ### A core that fails (R9, R437) -/

section stopTeams
variable (stay : Bool)

theorem State.stopTeams_frame (s : State) (ids : List Nat) : s.stopTeams ids stay = { s with teams := (s.stopTeams ids stay).teams } := by
  unfold State.stopTeams
  induction ids generalizing s with
  | nil => rfl
  | cons i ids ih => exact (ih _).trans rfl

/-- A team that is stopped stays stopped in the same way. -/
theorem State.stopTeams_keeps {s : State} {k : Nat} {tm : Team} (hp : tm.preempted = false)
    (h : tfind k s.teams = some { tm with saving := true, stay := stay }) (ids : List Nat) :
    tfind k (s.stopTeams ids stay).teams = some { tm with saving := true, stay := stay } := by
  unfold State.stopTeams
  induction ids generalizing s with
  | nil => exact h
  | cons i ids ih =>
    refine ih ?_
    rw [State.modTeam_teams, tfind_tmodify]
    split
    · next e => subst e; rw [h]; simp [hp]
    · exact h

/-- Every team of the list that a core holds is stopped (R414). -/
theorem State.stopTeams_stops {s : State} {k : Nat} {tm : Team} (hp : tm.preempted = false) (h : tfind k s.teams = some tm) {ids : List Nat}
    (hk : k ∈ ids) : tfind k (s.stopTeams ids stay).teams = some { tm with saving := true, stay := stay } := by
  induction ids generalizing s with
  | nil => cases hk
  | cons i ids ih =>
    by_cases hi : k = i
    · exact State.stopTeams_keeps stay hp (by rw [State.modTeam_teams, ← hi, tfind_tmodify_self, h]; simp [hp]) ids
    · have hk' : k ∈ ids := by
        cases hk with
        | head => exact absurd rfl hi
        | tail _ hk => exact hk
      exact ih (s := s.modTeam i _) (by rw [State.modTeam_teams, tfind_tmodify_ne hi, h]) hk'

end stopTeams

/-- The teams that a core holds. -/
def State.teamsOn (s : State) (core : Nat) : List Team := (tvalues s.teams).filter (fun t => t.core == core && !t.preempted)

/-- What moves or stays with the teams that a core holds (R181). -/
def State.stoppedWith (s : State) (core : Nat) : List Nat := ((s.teamsOn core).map s.movesWith).flatten.dedup

theorem State.mem_stoppedWith {s : State} {k core : Nat} {tm : Team} (h : tfind k s.teams = some tm) (hid : tm.id = k) (hc : tm.core = core)
    (hp : tm.preempted = false) : k ∈ s.stoppedWith core := by
  have hv := mem_tvalues_of_tfind h
  have ht : tm ∈ s.teamsOn core := List.mem_filter.mpr ⟨hv, by simp [hc, hp]⟩
  have hm : k ∈ s.movesWith tm := List.mem_map.mpr ⟨tm, List.mem_filter.mpr ⟨hv, by simp⟩, hid⟩
  exact List.mem_dedup.mpr (List.mem_flatten.mpr ⟨_, List.mem_map.mpr ⟨tm, ht, rfl⟩, hm⟩)

/-- A team that has left a failed core returns elsewhere (R9). -/
def Team.unstay (t : Team) (core : Nat) : Team := if t.core = core ∧ t.preempted = true then { t with stay := false } else t

/-- A failed core exchanged with a spare of its die: its teams stop and stay (R9). -/
def State.exchangeCore (s : State) (core : Nat) : State :=
  State.stopTeams { s.count (careIndex careCore (dieOf core)) with
    spareCores := tset 0 s.spareCores (dieOf core) (tget 0 s.spareCores (dieOf core) + 1) } (s.stoppedWith core) true

/-- A failed core taken out of service, with its teams stopped. -/
def State.closeCore (s : State) (core : Nat) : State :=
  ((s.count (careIndex careCore (dieOf core))).modCore core (fun c => { c with outOfService := true })).stopTeams (s.stoppedWith core) false

/-- A failed core that leaves service: its teams stop to move elsewhere, and the event is posted (R9, R437). -/
def State.dropCore (s : State) (core : Nat) : State :=
  State.postEvent { s.closeCore core with teams := (s.closeCore core).teams.map (fun e => (e.1, e.2.unstay core)) }
    (eventRecord 0x04 (dieOf core) core (s.teamsOn core).length 0 0 0 0)

section
variable (s : State) (core : Nat)

theorem State.exchangeCore_spares : (s.exchangeCore core).spareCores =
    tset 0 s.spareCores (dieOf core) (tget 0 s.spareCores (dieOf core) + 1) := by
  rw [exchangeCore, stopTeams_frame]

theorem State.closeCore_frame : s.closeCore core = { (s.count (careIndex careCore (dieOf core))).modCore core
    (fun c => { c with outOfService := true }) with teams := (s.closeCore core).teams } :=
  State.stopTeams_frame _ _ _

theorem State.dropCore_outOfService : ((s.dropCore core).coreState core).outOfService = true := by
  have h : (s.dropCore core).coreState core =
      ((s.count (careIndex careCore (dieOf core))).modCore core (fun c => { c with outOfService := true })).coreState core := by
    unfold dropCore
    rw [closeCore_frame]
    rfl
  rw [h, coreState_modCore, if_pos rfl]

theorem State.dropCore_evq : (s.dropCore core).evq.waiting =
    s.evq.waiting ++ [eventRecord 0x04 (dieOf core) core (s.teamsOn core).length 0 0 0 0] := by
  unfold dropCore
  rw [closeCore_frame]
  rfl

variable {s core} {k : Nat} {tm : Team} (h : tfind k s.teams = some tm) (hid : tm.id = k) (hc : tm.core = core) (hp : tm.preempted = false)
include h hid hc hp

theorem State.exchangeCore_team : tfind k (s.exchangeCore core).teams = some { tm with saving := true, stay := true } := by
  refine State.stopTeams_stops true hp ?_ (State.mem_stoppedWith h hid hc hp)
  exact h

theorem State.dropCore_team : tfind k (s.dropCore core).teams = some { tm with saving := true, stay := false } := by
  have hs : tfind k (s.closeCore core).teams = some { tm with saving := true, stay := false } := by
    refine State.stopTeams_stops false hp ?_ (State.mem_stoppedWith h hid hc hp)
    exact h
  rw [dropCore, postEvent_teams, tfind_map_entries _ _ fun _ => by rfl, hs, Option.map_some, Team.unstay, if_neg (by simp [hp])]

end

/-- A failing core with no move under way and no team destroyed is exchanged while its die has a spare, and else leaves service (R9). -/
theorem execCoreFailure_fails {s : State} (ha : s.ev.a < 192) (ho : (s.coreState s.ev.a).outOfService = false)
    (hs : ∀ tm ∈ tvalues s.teams, tm.core = s.ev.a → tm.saving = false) (hx : s.ev.secs = []) : execCoreFailure s =
      if tget 0 s.spareCores (dieOf s.ev.a) < 4 then .next (s.exchangeCore s.ev.a) else .next (s.dropCore s.ev.a) := by
  have hb : (tvalues s.teams).any (fun t => t.core == s.ev.a && t.saving) = false := by
    refine List.any_eq_false.mpr fun t ht => ?_
    by_cases hc : t.core = s.ev.a
    · simp [hs t ht hc]
    · simp [hc]
  have he : (fun (e : Nat × Team) => if e.2.core = s.ev.a ∧ e.2.preempted = true then (e.1, { e.2 with stay := false }) else e) =
      fun e => (e.1, e.2.unstay s.ev.a) := by
    funext e
    unfold Team.unstay
    split <;> rfl
  have hp : ∀ ts : List Team, ts.partition (fun _ => false) = ([], ts) := by
    intro ts
    simp [List.partition_eq_filter_filter]
  unfold execCoreFailure
  rw [if_neg (by simp [ha, ho, hb])]
  simp only [State.count_ev, hx, List.contains_nil, hp, List.foldl_nil, he]
  rfl

end Sys2Proof.Machine
end

section
/-! The settlement of the statement about teams, groups and launches that come and go. -/

namespace Sys2Proof

open Machine Claim

/-- Settles O50: teams are placed, pre-empted and resumed, groups retire and move between the sets, ISTAB entries take effect, cores fail and
deadlines are missed, each by what its event can do. -/
theorem teamsComeAndGo : Obligations.TeamsComeAndGo := by
  unfold Obligations.TeamsComeAndGo
  refine ⟨?place, ?retire, ?report, ?leave, ?enter, ?swap, ?istab, ?save, ?evict, ?resume, ?fail, ?miss⟩
  case place =>
    intro s u l l₁ ranges hhead hid _ hcos hfits hload hu hrec hid₁
    rw [← hid] at hu
    obtain ⟨now, hteam⟩ := u.placeTeam_team l ranges s.ev.c s.ev.b
    obtain ⟨l', hl', hplaced, hstarted⟩ := u.placeTeam_launch l ranges s.ev.c s.ev.b hu
    refine ⟨_, _, l', execTeamPlacement_places hhead hid hcos hfits hload, hteam, hid, rfl, rfl, fun b hb => startBarriers_read _ hb,
      hid ▸ hl', hplaced, hstarted, fun pos hpos => ?_⟩
    obtain ⟨v, l₂, hl₂, hg⟩ := u.placeTeam_group l ranges s.ev.c s.ev.b hu hpos
    have hl₂id : l₂.id = s.ev.a := by rw [hl₂]; exact hid₁.trans hid
    have hl₂n : l₂.record.nstrands = l.record.nstrands := by rw [hl₂]; exact congrArg LaunchRec.nstrands hrec
    exact ⟨_, hg, hl₂id, rfl, rfl, rfl, rfl, rfl, rfl, Group.start_atEntry _ hl₂n rfl, Group.start_freshRegs _ hl₂n rfl, rfl⟩
  case retire =>
    intro s g l hf hid hr hl ho ht hb
    refine ⟨_, execGroupRetire_frees hf hid hr hl ho ht hb, ?_, fun k hk => ?_, s.freeGroup_launch g hl, fun tm k h hm _ hk hh hteam => ?_⟩
    · rw [(s.freeGroup_frame g).1, ← hid, tfind_terase_self]
    · rw [(s.freeGroup_frame g).1, tfind_terase_ne (hid ▸ hk)]
    · exact s.freeGroup_team g (hid ▸ hk) hh hteam hm
  case report =>
    intro s l hf hl ho
    refine ⟨_, execGroupRetire_reports hf, ?_, ?_, fun q hq hd => ?_⟩ <;> rw [State.reportLaunch_over hl ho]
    · exact tfind_terase_self _ _
    · exact tfind_terase_self _ _
    · exact State.finishLaunch_queue hq hd
  case leave =>
    intro s g hg ha hw hf hu
    exact execActiveSetExchange_leaves hg ha hw hf hu
  case enter =>
    intro s p hw he hl hf
    exact ⟨_, execActiveSetExchange_enters hw he hl, rfl, tfind_tmodify_at rfl hf _, fun k hk => tfind_tmodify_ne hk _ _⟩
  case swap =>
    intro s p g hw he hl hx hf hg hne
    exact ⟨_, execActiveSetExchange_exchanges hw he hl hx, rfl, tfind_tmodify_at rfl ((tfind_tmodify_ne hne _ _).trans hf) _,
      (tfind_tmodify_ne hne.symm _ _).trans (tfind_tmodify_at rfl hg _)⟩
  case istab =>
    intro s e w ha hb hc hw
    refine ⟨_, execIstabWrite_writes ha hb hc, ?_, s.istabEntry_writeIstab _ _ _ _, fun hclock hnew => ?_⟩
    · obtain ⟨x, hx, hfind⟩ := CoreState.tfind_writeIstab (c := s.coreState s.ev.a) hw
      simp only [State.istabWord, State.coreState_modCore, if_true, hfind, hx]
    · rw [State.tick_coreState (s := s.modCore _ _) hclock, State.coreState_modCore, if_pos rfl]
      exact CoreState.tget_istabTurn_writeIstab hw hnew
  case save =>
    intro s tm place hf hid hs hp hi hr ha hm hw ho hk
    exact ⟨_, _, execPreemptTeam_saves hf hid hs hp hr ha hi hm hw ho hk, rfl, rfl, rfl, congrArg _ hid, tfind_tmodify_at hid hf _⟩
  case evict =>
    intro s tm n hf hid hs hp hi hr ha ho
    obtain ⟨hgroups, hteams⟩ := State.evictTeam_frame (s := s) (t := tm) (hid ▸ ho)
    have hgroup : ∀ k, tfind k (s.evictTeam tm).groups = (tfind k s.groups).map (fun g => if g.team = tm.id then g.evicted else g) := by
      intro k
      rw [hgroups, tfind_map_entries _ _ fun _ => by rfl]
    refine ⟨_, { tm with preempted := true, saving := false, prism := s.claimOf tm }, execPreemptTeam_evicts hf hid hs hp hr ha hi, ?_, rfl, rfl,
      by rw [← hid]; rfl, fun k g hg ht => ⟨g.evicted, ?_, rfl, rfl⟩, fun k g hg ht => ?_⟩
    · rw [hteams]
      exact tfind_tmodify_at hid hf _
    · rw [hgroup, hg, Option.map_some, if_pos (ht.trans hid.symm)]
    · rw [hgroup, hg, Option.map_some, if_neg (hid ▸ ht)]
  case resume =>
    intro s tm l hf hid hl hc hr
    obtain ⟨now, hteams⟩ := s.returnTeam_teams tm s.ev.b
    refine ⟨_, { tm with core := s.ev.b, placedAt := now, preempted := false, saving := true, prism := none },
      execResumeTeam_resumes hf hl hc hr, ?_, rfl, rfl, rfl, hid ▸ s.returnTeam_acq tm s.ev.b, fun k g hg hk ht => ?_⟩
    · rw [hteams]
      exact tfind_tmodify_at hid hf _
    · obtain ⟨c, hback⟩ := s.returnTeam_group tm s.ev.b hg hk (ht.trans hid.symm)
      exact ⟨_, hback, rfl, rfl, rfl⟩
  case fail =>
    intro s ha ho hs hx
    have hexec := execCoreFailure_fails ha ho hs hx
    refine ⟨fun hu => ?_, fun hu => ?_⟩
    · rw [if_pos hu] at hexec
      exact ⟨_, hexec, by rw [State.exchangeCore_spares, tget_tset_self], fun k tm hf hk hc hp => State.exchangeCore_team hf hk hc hp⟩
    · rw [if_neg (Nat.not_lt.mpr hu)] at hexec
      exact ⟨_, hexec, s.dropCore_outOfService _, ⟨_, s.dropCore_evq _, eventRecord_type _ _ _ _ _ _ _ _⟩,
        fun k tm hf hk hc hp => State.dropCore_team hf hk hc hp⟩
  case miss =>
    intro s l hf _ hp hm he hd
    exact ⟨_, _, execDeadlineMiss_misses hf hp hm he hd, rfl, tfind_tmodify_at rfl hf _, rfl, eventRecord_type _ _ _ _ _ _ _ _⟩

end Sys2Proof
end

section
/-! SUPPORT. The bytes of a sector: which bits a mask of bytes names, and what lies at a byte once newer bytes are laid over older ones. -/

namespace Sys2Proof.Machine

open Sys2Proof

/-- The byte that data give at a place of a sector, where their mask names it. -/
def byteAt (m : BitVec 16) (d : BitVec 128) (i : Nat) : Option (BitVec 8) := if m.getLsbD i then some (d.extractLsb' (8 * i) 8) else none

@[simp] theorem byteAt_zero (d : BitVec 128) (i : Nat) : byteAt 0 d i = none := by simp [byteAt]

/-- The bits of the first `n` bytes that a mask names, as `byteMask` sums them up. -/
def maskSum (m : BitVec 16) (n : Nat) : Nat := (List.range n).foldl (fun a i => a + (if m.getLsbD i then 255 * 2 ^ (8 * i) else 0)) 0

theorem maskSum_succ (m : BitVec 16) (n : Nat) : maskSum m (n + 1) = 2 ^ (8 * n) * (if m.getLsbD n then 255 else 0) + maskSum m n := by
  unfold maskSum
  rw [List.range_succ, List.foldl_append]
  simp only [List.foldl_cons, List.foldl_nil]
  split <;> ring

theorem maskSum_lt (m : BitVec 16) (n : Nat) : maskSum m n < 2 ^ (8 * n) := by
  induction n with
  | zero => simp [maskSum]
  | succ n ih =>
    rw [maskSum_succ, show 8 * (n + 1) = 8 * n + 8 by ring, pow_add]
    split <;> omega

theorem testBit_maskSum (m : BitVec 16) (n j : Nat) : (maskSum m n).testBit j = (decide (j < 8 * n) && m.getLsbD (j / 8)) := by
  induction n with
  | zero => simp [maskSum]
  | succ n ih =>
    rw [maskSum_succ, Nat.testBit_two_pow_mul_add _ (maskSum_lt m n)]
    split
    · next h => rw [ih]; simp [h, show j < 8 * (n + 1) by omega]
    · next h =>
      have h255 : (255 : Nat).testBit (j - 8 * n) = decide (j - 8 * n < 8) := Nat.testBit_two_pow_sub_one 8 _
      by_cases hj : j < 8 * (n + 1)
      · rw [show j / 8 = n by omega]
        split
        · next hm => simp [h255, hj, hm]; omega
        · next hm => simp [hm]
      · split
        · simp [h255, hj]; omega
        · simp [hj]

theorem getLsbD_byteMask (m : BitVec 16) {j : Nat} (hj : j < 128) : (byteMask m).getLsbD j = m.getLsbD (j / 8) := by
  show (BitVec.ofNat 128 (maskSum m 16)).getLsbD j = _
  rw [BitVec.getLsbD_ofNat, testBit_maskSum]
  simp [hj]

theorem getLsbD_mergeBytes (old new : BitVec 128) (m : BitVec 16) {j : Nat} (hj : j < 128) :
    (mergeBytes old new m).getLsbD j = if m.getLsbD (j / 8) then new.getLsbD j else old.getLsbD j := by
  simp only [mergeBytes, BitVec.getLsbD_or, BitVec.getLsbD_and, BitVec.getLsbD_not, getLsbD_byteMask m hj, hj]
  cases m.getLsbD (j / 8) <;> simp

/-- Newer bytes lie over older ones. -/
theorem byteAt_mergeBytes (m m' : BitVec 16) (d d' : BitVec 128) (i : Nat) :
    byteAt (m ||| m') (mergeBytes d d' m') i = (byteAt m' d' i).or (byteAt m d i) := by
  by_cases hi : i < 16
  · have hx : (mergeBytes d d' m').extractLsb' (8 * i) 8 = if m'.getLsbD i then d'.extractLsb' (8 * i) 8 else d.extractLsb' (8 * i) 8 := by
      refine BitVec.eq_of_getLsbD_eq fun j hj => ?_
      have hb : (8 * i + j) / 8 = i := by omega
      rw [BitVec.getLsbD_extractLsb', getLsbD_mergeBytes _ _ _ (show 8 * i + j < 128 by omega), hb]
      split <;> simp [BitVec.getLsbD_extractLsb']
    unfold byteAt
    rw [hx, BitVec.getLsbD_or]
    cases m'.getLsbD i <;> simp
  · have hm : ∀ m : BitVec 16, m.getLsbD i = false := fun m => BitVec.getLsbD_of_ge m i (by omega)
    simp [byteAt, hm]

/-! ### The bytes of one access -/

theorem getLsbD_spanMask (l : Loc) (size : Nat) {i : Nat} (hi : i < 16) :
    (spanMask l size).getLsbD i = decide (l.ipa % 16 ≤ i ∧ i < l.ipa % 16 + size) := by
  rw [spanMask, BitVec.getLsbD_ofNat, Nat.testBit_mul_two_pow, Nat.testBit_two_pow_sub_one]
  by_cases h : l.ipa % 16 ≤ i
  · simp [hi, h]; omega
  · simp [h]

theorem spanMask_ne_zero (l : Loc) {size : Nat} (h : 0 < size) : spanMask l size ≠ 0 := by
  intro h0
  have := getLsbD_spanMask l size (i := l.ipa % 16) (by omega)
  simp [h0, h] at this

theorem or_spanMask_ne_zero (m : BitVec 16) (l : Loc) {size : Nat} (h : 0 < size) : m ||| spanMask l size ≠ 0 := by
  intro h0
  have := congrArg (fun x => x.getLsbD (l.ipa % 16)) h0
  simp [getLsbD_spanMask l size (i := l.ipa % 16) (by omega), h] at this

theorem getLsbD_spanData (l : Loc) (v : Nat) {j : Nat} (hj : j < 128) :
    (spanData l v).getLsbD j = (decide (8 * (l.ipa % 16) ≤ j) && v.testBit (j - 8 * (l.ipa % 16))) := by
  rw [spanData, BitVec.getLsbD_ofNat, Nat.testBit_mul_two_pow]
  simp [hj]

/-- What an access reads where its own bytes were put into the sector. -/
theorem spanValue_spanData (l : Loc) (size v : Nat) (d e : BitVec 128) (m : BitVec 16) (h : l.ipa % 16 + size ≤ 16)
    (hm : spanMask l size &&& m = spanMask l size) :
    spanValue l size (mergeBytes e (mergeBytes d (spanData l v) (spanMask l size)) m) = v % 2 ^ (8 * size) := by
  refine Nat.eq_of_testBit_eq fun j => ?_
  rw [spanValue, bitsOf, Nat.testBit_mod_two_pow, Nat.testBit_div_two_pow, Nat.testBit_mod_two_pow]
  by_cases hj : j < 8 * size
  · have hi : (j + 8 * (l.ipa % 16)) / 8 < 16 := by omega
    have hs : (spanMask l size).getLsbD ((j + 8 * (l.ipa % 16)) / 8) = true := by
      rw [getLsbD_spanMask l size hi]; simp; omega
    have hb : m.getLsbD ((j + 8 * (l.ipa % 16)) / 8) = true := by
      have := congrArg (fun x => x.getLsbD ((j + 8 * (l.ipa % 16)) / 8)) hm
      simpa [hs] using this
    have hlt : j + 8 * (l.ipa % 16) < 128 := by omega
    rw [BitVec.testBit_toNat, getLsbD_mergeBytes _ _ _ hlt, if_pos hb, getLsbD_mergeBytes _ _ _ hlt, if_pos hs, getLsbD_spanData l v hlt]
    simp [hj]
  · simp [hj]

end Sys2Proof.Machine
end

section
/-! SUPPORT. COMMITTED of a sector at its home slice: what a read gives, that a write reads back, and that a line which L2 holds needs no
room made for it (R59, R64). -/

namespace Sys2Proof.Machine

open Sys2Proof

variable {α β : Type}

/-! ### Runs of actions -/

/-- Where an action and then another answer, each answers. -/
theorem run_bind_ok {m : Mem α} {k : α → Mem β} {s u : State} {b : β} (h : (m >>= k).run s = (.ok b, u)) :
    ∃ a t, m.run s = (.ok a, t) ∧ (k a).run t = (.ok b, u) := by
  rw [run_bind] at h
  rcases hm : m.run s with ⟨e | a, t⟩ <;> rw [hm] at h
  · cases h
  · exact ⟨a, t, rfl, h⟩

@[simp] theorem run_pure (a : α) (s : State) : (pure a : Mem α).run s = (.ok a, s) := rfl

@[simp] theorem run_modify (f : State → State) (s : State) : (modify f : Mem Unit).run s = (.ok (), f s) := rfl

theorem run_get_bind (k : State → Mem β) (s : State) : (MonadState.get >>= k : Mem β).run s = (k s).run s := rfl

/-! ### Walks -/

/-- The machine with other copies of lines in the CACHE banks. -/
def State.withCopies (s : State) (c : Table Nat) : State := { s with copies := c }

/-- An answer and a machine, with other copies. -/
def otherCopies (c : Table Nat) (r : Except (Nat × Nat × Nat) α × State) : Except (Nat × Nat × Nat) α × State := (r.1, r.2.withCopies c)

/-- A walk does not ask which copies there are. -/
theorem walkFrom_withCopies (c : Table Nat) (ipa fuel level table : Nat) (s : State) :
    (walkFrom ipa fuel level table).run (s.withCopies c) = otherCopies c ((walkFrom ipa fuel level table).run s) := by
  induction fuel generalizing level table s with
  | zero => rfl
  | succ n ih =>
    unfold walkFrom
    rw [run_get_bind, run_get_bind]
    have hp : (s.withCopies c).physRead (entryAddr ipa level table) 8 = s.physRead (entryAddr ipa level table) 8 := rfl
    rw [hp]
    rcases s.physRead (entryAddr ipa level table) 8 with - | e
    · rfl
    · dsimp only
      rcases pteOf level e with - | - | pa | l
      · rfl
      · rfl
      · exact ih (level + 1) pa { s with walkCache := tinsert (walkKey ipa level) pa s.walkCache }
      · rfl

theorem walk_withCopies (c : Table Nat) (ipa : Nat) (s : State) :
    (walk ipa).run (s.withCopies c) = otherCopies c ((walk ipa).run s) := by
  unfold walk
  rw [run_get_bind, run_get_bind]
  have htlb : (s.withCopies c).tlb = s.tlb := rfl
  have hcache : (s.withCopies c).walkCache = s.walkCache := rfl
  have htc : (s.withCopies c).tc = s.tc := rfl
  rw [htlb, hcache, htc]
  rcases tfind (tlbKey ipa false) s.tlb with - | e
  · rcases tfind (tlbKey ipa true) s.tlb with - | e
    · rcases tfind (walkKey ipa 2) s.walkCache with - | t
      · rcases tfind (walkKey ipa 1) s.walkCache with - | t <;> exact walkFrom_withCopies c ipa _ _ _ s
      · exact walkFrom_withCopies c ipa _ _ _ s
    · rfl
  · rfl

theorem walkFrom_l2 (c : Table L2Sector) (ipa fuel level table : Nat) : Keeps (fun s => s.l2 = c) (walkFrom ipa fuel level table) := by
  induction fuel generalizing level table with
  | zero => exact Keeps.fault _ _ _
  | succ n ih =>
    unfold walkFrom
    refine Keeps.get fun s hs => ?_
    split
    · exact hs
    · split
      · exact hs
      · exact hs
      · exact ih (level + 1) _ _ hs
      · exact hs

theorem walk_l2 (c : Table L2Sector) (ipa : Nat) : Keeps (fun s => s.l2 = c) (walk ipa) := by
  unfold walk
  refine Keeps.get fun s hs => ?_
  split
  · exact hs
  · exact hs
  · split <;> exact walkFrom_l2 c ipa _ _ _ s hs

/-! ### Lines that L2 holds -/

theorem lineRoom_held {s : State} {home line : Nat} (h : s.lineSectors home line ≠ []) : (lineRoom home line).run s = (.ok (), s) := by
  unfold lineRoom
  rw [run_get_bind, if_pos h]
  rfl

theorem lineSectors_ne_nil {s : State} {home line : Nat} :
    s.lineSectors home line ≠ [] ↔ ∃ k < 8, (tfind (secKey home (8 * line + k)) s.l2).isSome = true := by
  rw [State.lineSectors, Ne, List.filterMap_eq_nil_iff]
  simp only [List.mem_range, Option.map_eq_none_iff, not_forall, Option.isSome_iff_ne_none]
  exact ⟨fun ⟨k, hk, h⟩ => ⟨k, hk, h⟩, fun ⟨k, hk, h⟩ => ⟨k, hk, h⟩⟩

/-- L2 as a sector of a line that it holds is put into it: the line is still held, and the other sectors are as they were. -/
theorem lineSectors_tinsert {s : State} {home line key : Nat} {x : L2Sector} (h : s.lineSectors home line ≠ []) :
    ({ s with l2 := tinsert key x s.l2 } : State).lineSectors home line ≠ [] := by
  obtain ⟨k, hk, hs⟩ := lineSectors_ne_nil.mp h
  refine lineSectors_ne_nil.mpr ⟨k, hk, ?_⟩
  by_cases hkey : secKey home (8 * line + k) = key
  · rw [hkey, tfind_tinsert_self]; rfl
  · rw [tfind_tinsert_ne hkey]; exact hs

/-! ### Reads of a sector -/

/-- The bytes that a sector's home, the host or another package holds of it. -/
def State.sectorValue (s : State) (home ipa : Nat) : Option (BitVec 128) :=
  if nodeOf (ipa / 16 * 16) = 0xFF then some (BitVec.ofNat 128 (treadLE s.hostMem (s.hostAddr (ipa / 16 * 16)) 16))
  else if s.foreign (ipa / 16 * 16) then some (BitVec.ofNat 128 (treadLE s.remote (ipa / 16 * 16) 16))
  else match tfind (secKey home (ipa / 16 * 16 / 16)) s.l2, s.heldSector home (ipa / 16 * 16 / 16), (walk (ipa / 16 * 16)).run s with
    | some x, _, _ => some x.data
    | none, some d, _ => some d
    | none, none, (.ok e, t) => (t.physRead (leafPa e (ipa / 16 * 16)) 16).map (BitVec.ofNat 128)
    | none, none, (.error _, _) => none

theorem sectorValue_withCopies (s : State) (c : Table Nat) (home ipa : Nat) : (s.withCopies c).sectorValue home ipa = s.sectorValue home ipa := by
  unfold State.sectorValue
  rw [walk_withCopies]
  have hl2 : (s.withCopies c).l2 = s.l2 := rfl
  have hheld : (s.withCopies c).heldSector home (ipa / 16 * 16 / 16) = s.heldSector home (ipa / 16 * 16 / 16) := rfl
  rw [hl2, hheld]
  rcases (walk (ipa / 16 * 16)).run s with ⟨e | e, t⟩ <;>
    rcases tfind (secKey home (ipa / 16 * 16 / 16)) s.l2 with - | x <;> rcases s.heldSector home (ipa / 16 * 16 / 16) with - | d <;> rfl

theorem sector_host {s : State} {home ipa : Nat} {d : BitVec 128} (md : Option Nat) (hn : nodeOf (ipa / 16 * 16) = 0xFF)
    (h : BitVec.ofNat 128 (treadLE s.hostMem (s.hostAddr (ipa / 16 * 16)) 16) = d) : (sector home ipa md).run s = (.ok d, s) := by
  unfold sector
  rw [run_get_bind]
  dsimp only
  rw [if_pos hn, h]
  rfl

theorem sector_foreign {s : State} {home ipa : Nat} {d : BitVec 128} (md : Option Nat) (hn : nodeOf (ipa / 16 * 16) ≠ 0xFF)
    (hf : s.foreign (ipa / 16 * 16) = true) (h : BitVec.ofNat 128 (treadLE s.remote (ipa / 16 * 16) 16) = d) :
    (sector home ipa md).run s = (.ok d, s) := by
  unfold sector
  rw [run_get_bind]
  dsimp only
  rw [if_neg hn, if_pos hf, h]
  rfl

theorem sector_l2 {s : State} {home ipa : Nat} {x : L2Sector} (md : Option Nat) (hn : nodeOf (ipa / 16 * 16) ≠ 0xFF)
    (hf : s.foreign (ipa / 16 * 16) = false) (h : tfind (secKey home (ipa / 16)) s.l2 = some x) :
    (sector home ipa md).run s = (.ok x.data, s) := by
  unfold sector
  rw [run_get_bind]
  dsimp only
  rw [if_neg hn, hf, show ipa / 16 * 16 / 16 = ipa / 16 by omega, h]
  rfl

/-- A sector put into L2, once there is room for its line. -/
def fillL2 (home ipa : Nat) (x : L2Sector) : Mem (BitVec 128) := do
  lineRoom home (ipa / 128)
  modify (fun s => { s with l2 := tinsert (secKey home (ipa / 16)) x s.l2 })
  pure x.data

theorem sector_fills {s u : State} {home ipa : Nat} {md : Option Nat} {d : BitVec 128} (hn : nodeOf (ipa / 16 * 16) ≠ 0xFF)
    (hf : s.foreign (ipa / 16 * 16) = false) (hx : tfind (secKey home (ipa / 16)) s.l2 = none) (h : (sector home ipa md).run s = (.ok d, u)) :
    ∃ x t, s.sectorValue home ipa = some x.data ∧ t.l2 = s.l2 ∧ (fillL2 home ipa x).run t = (.ok d, u) := by
  unfold sector at h
  unfold State.sectorValue
  rw [run_get_bind] at h
  dsimp only at h
  rw [if_neg hn, hf] at h ⊢
  rw [show ipa / 16 * 16 / 16 = ipa / 16 by omega, show ipa / 16 * 16 / 128 = ipa / 128 by omega, hx] at h
  rw [show ipa / 16 * 16 / 16 = ipa / 16 by omega, hx]
  rcases hheld : s.heldSector home (ipa / 16) with - | e <;> rw [hheld] at h
  · obtain ⟨e, t, ht, h⟩ := run_bind_ok h
    have hl2 : t.l2 = s.l2 := by have := walk_l2 s.l2 (ipa / 16 * 16) s rfl; rwa [ht] at this
    rw [run_get_bind] at h
    rcases hv : t.physRead (leafPa e (ipa / 16 * 16)) 16 with - | v <;> rw [hv] at h
    · cases h
    · refine ⟨⟨BitVec.ofNat 128 v, false, md⟩, t, ?_, hl2, h⟩
      rw [ht]
      show Option.map _ (t.physRead _ _) = _
      rw [hv]
      rfl
  · exact ⟨⟨e, true, md⟩, s, rfl, rfl, h⟩

theorem fillL2_ok {s u : State} {home ipa : Nat} {x : L2Sector} {d : BitVec 128} (h : (fillL2 home ipa x).run s = (.ok d, u)) :
    d = x.data ∧ (s.lineSectors home (ipa / 128) ≠ [] → u = { s with l2 := tinsert (secKey home (ipa / 16)) x s.l2 }) := by
  obtain ⟨_, t, ht, h⟩ := run_bind_ok h
  rw [run_bind, run_modify] at h
  obtain ⟨hd, hu⟩ := Prod.mk.inj h
  refine ⟨(Except.ok.inj hd).symm, fun hl => ?_⟩
  rw [lineRoom_held hl] at ht
  obtain ⟨-, rfl⟩ := Prod.mk.inj ht
  exact hu.symm

/-- A read that answers gives the sector's bytes; where L2 holds the line, it leaves every other sector there as it was. -/
theorem sector_ok {s u : State} {home ipa : Nat} {md : Option Nat} {d : BitVec 128} (h : (sector home ipa md).run s = (.ok d, u)) :
    s.sectorValue home ipa = some d ∧ (s.lineSectors home (ipa / 128) ≠ [] →
      u.lineSectors home (ipa / 128) ≠ [] ∧ ∀ key, key ≠ secKey home (ipa / 16) → tfind key u.l2 = tfind key s.l2) := by
  by_cases hn : nodeOf (ipa / 16 * 16) = 0xFF
  · rw [sector_host md hn rfl] at h
    obtain ⟨hd, rfl⟩ := Prod.mk.inj h
    rw [State.sectorValue, if_pos hn, Except.ok.inj hd]
    exact ⟨rfl, fun hl => ⟨hl, fun _ _ => rfl⟩⟩
  rcases hf : s.foreign (ipa / 16 * 16) with - | -
  · rcases hx : tfind (secKey home (ipa / 16)) s.l2 with - | x
    · obtain ⟨x, t, hval, hl2, hfill⟩ := sector_fills hn hf hx h
      obtain ⟨rfl, hu⟩ := fillL2_ok hfill
      refine ⟨hval, fun hl => ?_⟩
      have hlt : t.lineSectors home (ipa / 128) ≠ [] := by rw [lineSectors_ne_nil, hl2]; exact lineSectors_ne_nil.mp hl
      rw [hu hlt]
      exact ⟨lineSectors_tinsert hlt, fun key hk => (tfind_tinsert_ne hk _ _).trans (by rw [hl2])⟩
    · rw [sector_l2 md hn hf hx] at h
      obtain ⟨hd, rfl⟩ := Prod.mk.inj h
      rw [State.sectorValue, if_neg hn, hf, show ipa / 16 * 16 / 16 = ipa / 16 by omega, hx, ← Except.ok.inj hd]
      exact ⟨rfl, fun hl => ⟨hl, fun _ _ => rfl⟩⟩
  · rw [sector_foreign md hn hf rfl] at h
    obtain ⟨hd, rfl⟩ := Prod.mk.inj h
    rw [State.sectorValue, if_neg hn, if_pos hf, Except.ok.inj hd]
    exact ⟨rfl, fun hl => ⟨hl, fun _ _ => rfl⟩⟩

/-! ### Writes of a sector -/

theorem lineRoom_tc {s u : State} {home line : Nat} (h : (lineRoom home line).run s = (.ok (), u)) : u.tc = s.tc := by
  have := (HomeSide.of_frame State.tc s.tc fun s t e => by rw [e]).toMemSide.lineRoom home line s rfl
  rwa [h] at this

theorem putSector_host {s : State} {home ipa : Nat} (md : Option Nat) (d : BitVec 128) (h : nodeOf (ipa / 16 * 16) = 0xFF) :
    (putSector home ipa md d).run s =
      (.ok (), { s with hostMem := twriteLE s.hostMem (s.hostAddr (ipa / 16 * 16)) d.toNat 16 }) := by
  unfold putSector
  rw [run_get_bind]
  dsimp only
  rw [if_pos h]
  rfl

theorem putSector_foreign {s : State} {home ipa : Nat} (md : Option Nat) (d : BitVec 128) (hn : nodeOf (ipa / 16 * 16) ≠ 0xFF)
    (h : s.foreign (ipa / 16 * 16) = true) :
    (putSector home ipa md d).run s = (.ok (), { s with remote := twriteLE s.remote (ipa / 16 * 16) d.toNat 16 }) := by
  unfold putSector
  rw [run_get_bind]
  dsimp only
  rw [if_neg hn, if_pos h]
  rfl

theorem putSector_l2 {s u : State} {home ipa : Nat} {md : Option Nat} {d : BitVec 128} (hn : nodeOf (ipa / 16 * 16) ≠ 0xFF)
    (hf : s.foreign (ipa / 16 * 16) = false) (h : (putSector home ipa md d).run s = (.ok (), u)) :
    ∃ t, (lineRoom home (ipa / 128)).run s = (.ok (), t) ∧ u = { t with l2 := tinsert (secKey home (ipa / 16)) ⟨d, true, md⟩ t.l2 } := by
  unfold putSector at h
  rw [run_get_bind] at h
  dsimp only at h
  rw [if_neg hn, hf, show ipa / 16 * 16 / 128 = ipa / 128 by omega, show ipa / 16 * 16 / 16 = ipa / 16 by omega] at h
  obtain ⟨_, t, ht, h⟩ := run_bind_ok h
  exact ⟨t, ht, (Prod.mk.inj h).2.symm⟩

theorem ofNat_treadLE_twriteLE (t : Table Byte) (a : Nat) (d : BitVec 128) : BitVec.ofNat 128 (treadLE (twriteLE t a d.toNat 16) a 16) = d := by
  rw [treadLE_twriteLE, Nat.mod_eq_of_lt (by have := d.isLt; omega), BitVec.ofNat_toNat, BitVec.setWidth_eq]

/-- A sector that has been written reads as written. -/
theorem sector_putSector {s u : State} {home ipa : Nat} {md md' : Option Nat} {d : BitVec 128}
    (h : (putSector home ipa md d).run s = (.ok (), u)) : ∃ u', (sector home ipa md').run u = (.ok d, u') := by
  by_cases hn : nodeOf (ipa / 16 * 16) = 0xFF
  · rw [putSector_host md d hn] at h
    obtain ⟨-, rfl⟩ := Prod.mk.inj h
    exact ⟨_, sector_host md' hn (ofNat_treadLE_twriteLE s.hostMem (s.hostAddr (ipa / 16 * 16)) d)⟩
  rcases hf : s.foreign (ipa / 16 * 16) with - | -
  · obtain ⟨t, ht, rfl⟩ := putSector_l2 hn hf h
    have hf' : t.foreign (ipa / 16 * 16) = false := by rw [State.foreign, State.nodeId, lineRoom_tc ht]; exact hf
    refine ⟨_, sector_l2 (x := ⟨d, true, md⟩) md' hn ?_ (tfind_tinsert_self _ _ _)⟩
    exact hf'
  · rw [putSector_foreign md d hn hf] at h
    obtain ⟨-, rfl⟩ := Prod.mk.inj h
    exact ⟨_, sector_foreign md' hn hf (ofNat_treadLE_twriteLE s.remote (ipa / 16 * 16) d)⟩

/-- A write to a line that L2 holds leaves every other sector there as it was. -/
theorem putSector_others {s u : State} {home ipa : Nat} {md : Option Nat} {d : BitVec 128} (hl : s.lineSectors home (ipa / 128) ≠ [])
    (h : (putSector home ipa md d).run s = (.ok (), u)) {key : Nat} (hk : key ≠ secKey home (ipa / 16)) : tfind key u.l2 = tfind key s.l2 := by
  by_cases hn : nodeOf (ipa / 16 * 16) = 0xFF
  · rw [putSector_host md d hn] at h
    obtain ⟨-, rfl⟩ := Prod.mk.inj h
    rfl
  rcases hf : s.foreign (ipa / 16 * 16) with - | -
  · obtain ⟨t, ht, rfl⟩ := putSector_l2 hn hf h
    rw [lineRoom_held hl] at ht
    obtain ⟨-, rfl⟩ := Prod.mk.inj ht
    exact tfind_tinsert_ne hk _ _
  · rw [putSector_foreign md d hn hf] at h
    obtain ⟨-, rfl⟩ := Prod.mk.inj h
    rfl

/-- A write of bytes over an uncompressed sector reads the sector and writes it with those bytes. -/
theorem commitBytes_ok {s u : State} {l : Loc} {m : BitVec 16} {d : BitVec 128} (hmd : l.md = none) (h : (commitBytes l m d).run s = (.ok (), u)) :
    ∃ c old t, (sector l.home l.ipa none).run (s.withCopies c) = (.ok old, t) ∧ (putSector l.home l.ipa none (mergeBytes old d m)).run t = (.ok (), u) := by
  unfold commitBytes at h
  rw [hmd] at h
  obtain ⟨_, _, hc, h⟩ := run_bind_ok h
  cases hc
  obtain ⟨old, t, ht, h⟩ := run_bind_ok h
  exact ⟨_, old, t, ht, h⟩

end Sys2Proof.Machine
end

section
/-! The settlement of the statement about COMMITTED. -/

namespace Sys2Proof

open Machine Claim

/-- Settles O40: a write of some bytes reads the sector's value, which does not depend on the copies it drops, and writes it back with the new bytes;
L2 makes no room for a line that it holds. -/
theorem committedKeepsWrites : Obligations.CommittedKeepsWrites := by
  unfold Obligations.CommittedKeepsWrites
  intro s u old m d l hmd hread hwrite
  have hcommitted : committed l = sector l.home l.ipa none := by rw [committed, hmd]
  rw [hcommitted] at hread ⊢
  obtain ⟨s', hs'⟩ := hread
  obtain ⟨c, old', t, ht, hput⟩ := commitBytes_ok hmd hwrite
  obtain ⟨hval, hkeep⟩ := sector_ok ht
  have hold : old' = old := Option.some.inj (by rw [← hval, sectorValue_withCopies, (sector_ok hs').1])
  subst hold
  refine ⟨sector_putSector hput, fun hl key x hx hne => ?_⟩
  obtain ⟨hlt, hothers⟩ := hkeep hl
  rw [putSector_others hlt hput hne, hothers key hne]
  exact hx

end Sys2Proof
end

section
/-! SUPPORT. The bytes that the versions of a kind give at home, newer ones over older, and what changes them: bytes put there do, and neither
an abort nor a move of blocks does (R62, R66, R104, R380). -/

namespace Sys2Proof.Machine

open Sys2Proof

/-! ### The latest byte -/

/-- The byte that a version gives at place `i` of a sector, where it is of a kind and lies there. -/
def Version.byteOf (v : Version) (k : VKind) (home sec i : Nat) : Option (BitVec 8) :=
  if v.kind = k ∧ v.home = home ∧ v.sector = sec then byteAt v.mask v.data i else none

/-- The latest byte that versions of a kind give at place `i` of a sector; the list is oldest first. -/
def latestByte (k : VKind) (home sec i : Nat) : List Version → Option (BitVec 8)
  | [] => none
  | v :: vs => (latestByte k home sec i vs).or (v.byteOf k home sec i)

variable {k : VKind} {home sec i : Nat}

theorem latestByte_append (xs ys : List Version) :
    latestByte k home sec i (xs ++ ys) = (latestByte k home sec i ys).or (latestByte k home sec i xs) := by
  induction xs with
  | nil => simp [latestByte]
  | cons x xs ih => simp [latestByte, ih, Option.or_assoc]

theorem latestByte_map {f : Version → Version} (hf : ∀ v, (f v).byteOf k home sec i = v.byteOf k home sec i) (vs : List Version) :
    latestByte k home sec i (vs.map f) = latestByte k home sec i vs := by
  induction vs with
  | nil => rfl
  | cons v vs ih => simp [latestByte, ih, hf]

theorem latestByte_filter {p : Version → Bool} (hp : ∀ v, p v = false → v.byteOf k home sec i = none) (vs : List Version) :
    latestByte k home sec i (vs.filter p) = latestByte k home sec i vs := by
  induction vs with
  | nil => rfl
  | cons v vs ih =>
    rw [List.filter_cons]
    split
    · simp [latestByte, ih]
    · next h => simp [latestByte, ih, hp v (Bool.eq_false_iff.mpr h)]

theorem latestByte_eq_none {vs : List Version} (h : ∀ v ∈ vs, v.byteOf k home sec i = none) : latestByte k home sec i vs = none := by
  induction vs with
  | nil => rfl
  | cons v vs ih => simp [latestByte, ih fun w hw => h w (.tail _ hw), h v (.head _)]

theorem byteAt_join (v w : Version) (i : Nat) :
    byteAt (v.join w).mask (v.join w).data i = (byteAt w.mask w.data i).or (byteAt v.mask v.data i) := byteAt_mergeBytes _ _ _ _ _

/-- The version of a kind in a sector gives its latest byte. -/
theorem State.version?_byteAt (s : State) (k : VKind) (home sec i : Nat) :
    (s.version? k home sec).bind (fun v => byteAt v.mask v.data i) = latestByte k home sec i s.versions := by
  have hfold : ∀ (vs : List Version) (v : Version), (∀ w ∈ vs, w.kind = k ∧ w.home = home ∧ w.sector = sec) →
      byteAt (vs.foldl Version.join v).mask (vs.foldl Version.join v).data i = (latestByte k home sec i vs).or (byteAt v.mask v.data i) := by
    intro vs
    induction vs with
    | nil => intro v _; simp [latestByte]
    | cons w vs ih =>
      intro v h
      rw [List.foldl_cons, ih _ fun x hx => h x (.tail _ hx), byteAt_join, latestByte, Version.byteOf, if_pos (h w (.head _)), Option.or_assoc]
  have hmem : ∀ v ∈ s.versions.filter (fun v => v.kind == k && v.home == home && v.sector == sec), v.kind = k ∧ v.home = home ∧ v.sector = sec := by
    intro v hv
    simpa [and_assoc] using (List.mem_filter.mp hv).2
  rw [← latestByte_filter (p := fun v => v.kind == k && v.home == home && v.sector == sec), State.version?]
  · split
    · next h => rw [h]; rfl
    · next v vs h =>
      rw [h] at hmem ⊢
      rw [Option.bind_some, hfold vs v fun w hw => hmem w (.tail _ hw), latestByte, Version.byteOf, if_pos (hmem v (.head _))]
  · intro v hv
    exact if_neg fun h => by simp [h] at hv

/-! ### Bytes put into a version -/

/-- The last of the versions that a test finds takes newer bytes: then they are the latest of its kind in its sector. -/
theorem latestByte_mapIdx_join {new : Version} {ours : Version → Bool} (hours : ∀ v, v.kind = new.kind → v.home = new.home → v.sector = new.sector → ours v = true)
    (hplace : ∀ v, ours v = true → v.home = new.home ∧ v.sector = new.sector) {vs : List Version}
    (htop : ∃ w, (vs.filter ours).getLast? = some w ∧ w.kind = new.kind) :
    latestByte k home sec i (vs.mapIdx (fun i v => if ours v && !(vs.drop (i + 1)).any ours then v.join new else v)) =
      (new.byteOf k home sec i).or (latestByte k home sec i vs) := by
  induction vs with
  | nil => obtain ⟨w, hw, -⟩ := htop; cases hw
  | cons v vs ih =>
    obtain ⟨w, hw, hkind⟩ := htop
    rw [List.mapIdx_cons]
    simp only [List.drop_succ_cons, List.drop_zero, latestByte]
    by_cases hany : vs.any ours = true
    · have hne : vs.filter ours ≠ [] := by simpa [List.filter_eq_nil_iff] using hany
      have htop' : (vs.filter ours).getLast? = some w := by
        rw [List.filter_cons] at hw
        split at hw
        · rwa [List.getLast?_cons_of_ne_nil hne] at hw
        · exact hw
      rw [ih ⟨w, htop', hkind⟩, hany]
      simp [Option.or_assoc]
    · have hnone : ∀ x ∈ vs, ours x = false := by simpa using hany
      have hv : ours v = true := by
        by_contra hv
        rw [List.filter_cons, if_neg hv, List.filter_eq_nil_iff.mpr (by simpa using hnone)] at hw
        cases hw
      obtain rfl : v = w := by
        rw [List.filter_cons, if_pos hv, List.filter_eq_nil_iff.mpr (by simpa using hnone)] at hw
        exact Option.some.inj hw
      have htail : vs.mapIdx (fun i v => if ours v && !(vs.drop (i + 1)).any ours then v.join new else v) = vs := by
        refine List.ext_getElem (by simp) fun n h₁ h₂ => ?_
        simp [hnone _ (List.getElem_mem h₂)]
      rw [htail, hv, Bool.eq_false_iff.mpr hany]
      simp only [Bool.not_false, Bool.and_self, if_true]
      obtain ⟨hhome, hsec⟩ := hplace v hv
      by_cases hnew : new.kind = k ∧ new.home = home ∧ new.sector = sec
      · obtain ⟨rfl, rfl, rfl⟩ := hnew
        rw [latestByte_eq_none fun x hx => if_neg fun ⟨h₁, h₂, h₃⟩ => by simpa [hnone x hx] using hours x h₁ h₂ h₃]
        simp only [Version.byteOf, Option.none_or, hkind, hhome, hsec, and_self, if_true]
        rw [if_pos ⟨hkind, hhome, hsec⟩, byteAt_join]
      · have hv' : ¬(v.kind = k ∧ v.home = home ∧ v.sector = sec) := by rwa [hkind, hhome, hsec]
        simp only [Version.byteOf]
        rw [if_neg hnew, if_neg hv', if_neg (show ¬((v.join new).kind = k ∧ (v.join new).home = home ∧ (v.join new).sector = sec) from hv'),
          Option.none_or]

/-- Bytes put into an owner's versions are the latest of their kind in their sector. -/
theorem State.latestByte_addBytes (s : State) (new : Version) :
    latestByte k home sec i (s.addBytes new).versions = (new.byteOf k home sec i).or (latestByte k home sec i s.versions) := by
  unfold State.addBytes
  dsimp only
  generalize hvs : (if new.whole = true then s.versions else _) = vs
  have hbytes : latestByte k home sec i vs = latestByte k home sec i s.versions := by
    rw [← hvs]
    split
    · rfl
    · refine latestByte_map (fun v => ?_) _
      split <;> rfl
  have happ : latestByte k home sec i (vs ++ [new]) = (new.byteOf k home sec i).or (latestByte k home sec i s.versions) := by
    rw [latestByte_append, hbytes]
    simp [latestByte]
  split
  · next w hw =>
    by_cases hkind : (w.kind == new.kind) = true
    · rw [if_pos hkind]
      refine (latestByte_mapIdx_join (ours := fun v => v.kind.owner == new.kind.owner && v.home == new.home && v.sector == new.sector)
        (fun v h₁ h₂ h₃ => by simp [h₁, h₂, h₃]) (fun v hv => ?_) ⟨w, hw, by simpa using hkind⟩).trans (by rw [hbytes])
      simp only [Bool.and_eq_true, beq_iff_eq] at hv
      exact ⟨hv.1.2, hv.2⟩
    · rw [if_neg hkind]
      exact happ
  · exact happ

@[simp] theorem State.addBytes_sectors (s : State) (new : Version) : (s.addBytes new).sectors = s.sectors := by
  unfold State.addBytes
  dsimp only
  exact (apply_ite State.sectors _ _ _).trans (ite_self _)

/-! ### What leaves pending bytes as they are -/

/-- Two machines whose cores hold the same sectors, and whose PENDING versions at home give the same bytes. -/
structure SamePending (s t : State) : Prop where
  sectors : t.sectors = s.sectors
  bytes : ∀ core home sec i, latestByte (.pending core) home sec i t.versions = latestByte (.pending core) home sec i s.versions

theorem SamePending.refl (s : State) : SamePending s s := ⟨rfl, fun _ _ _ _ => rfl⟩

theorem SamePending.trans {s t u : State} (h : SamePending s t) (k : SamePending t u) : SamePending s u :=
  ⟨k.sectors.trans h.sectors, fun _ _ _ _ => (k.bytes _ _ _ _).trans (h.bytes _ _ _ _)⟩

theorem SamePending.of_eq {s t u : State} (h : SamePending s t) (hs : u.sectors = t.sectors) (hv : u.versions = t.versions) : SamePending s u :=
  ⟨hs.trans h.sectors, fun _ _ _ _ => by rw [hv, h.bytes]⟩

theorem SamePending.modDomain {s t : State} (h : SamePending s t) (id : Nat) (f : Domain → Domain) : SamePending s (t.modDomain id f) := h.of_eq rfl rfl

theorem SamePending.foldl {γ : Type} {s t : State} {f : State → γ → State} (hf : ∀ u x, SamePending u (f u x)) (xs : List γ) (h : SamePending s t) :
    SamePending s (xs.foldl f t) := List.foldlRecOn xs f h fun u hu x _ => hu.trans (hf u x)

theorem State.dropTask_samePending (s : State) (launch slot : Nat) : SamePending s (s.dropTask launch slot) :=
  ⟨rfl, fun _ _ _ _ => latestByte_filter (fun v hv => if_neg fun h => by simp [isSpec, h.1] at hv) _⟩

theorem State.killTask_samePending (s : State) (launch slot : Nat) : SamePending s (s.killTask launch slot) := by
  unfold State.killTask
  split
  · exact .refl s
  split
  · exact .refl s
  dsimp only
  split
  · exact ((State.dropTask_samePending _ launch slot).of_eq rfl rfl)
  · exact ((State.dropTask_samePending _ launch slot).of_eq rfl rfl)

theorem State.abortTasks_samePending (s : State) (launch : Nat) (slots : List Nat) : SamePending s (s.abortTasks launch slots) := by
  unfold State.abortTasks
  split
  · exact .refl s
  dsimp only
  refine (SamePending.foldl (fun s k => s.killTask_samePending launch k) _ (SamePending.foldl (fun s k => ?_) _ (.refl s))).modDomain _ _
  exact (s.killTask_samePending launch k).modDomain _ _

/-- Neither the memory side nor an abort changes what is pending. -/
theorem samePending_homeSide (s : State) : HomeSide (SamePending s) where
  caches t u h e := h.of_eq (by rw [e]) (by rw [e])
  phys t pa v n h := h.of_eq rfl rfl
  remote t a v n h := h.of_eq rfl rfl
  host t a v n h := h.of_eq rfl rfl
  aborts t launch slots h := h.trans (t.abortTasks_samePending launch slots)
  rings t ipa h := h.of_eq rfl rfl
  full t u h := h.of_eq (by rw [t.keepFull_only u]) (by rw [t.keepFull_only u])
  posts t ps h := h.of_eq rfl rfl

/-! ### Room for version blocks -/

variable {α β : Type} {P : State → Prop}

/-- What an action done on a machine leads to, of whatever kind, has a property, where each way of going on does. -/
theorem Keeps.on_of {m : Mem α} (hm : Keeps P m) {Q : β → Prop} {s : State} {stall : State → β} {ok : α → State → β} {bad : Nat → Nat → Nat → State → β}
    (hs : P s) (h0 : ∀ t, P t → Q (stall (s.keepFull t))) (h1 : ∀ a t, P t → Q (ok a t)) (h2 : ∀ c b a t, P t → Q (bad c b a t)) : Q (m.on s stall ok bad) := by
  have h := hm s hs
  unfold Mem.on
  rcases hr : m.run s with ⟨⟨c, b, a⟩ | a, t⟩ <;> rw [hr] at h <;> simp only
  · split
    · exact h0 _ h
    · exact h2 _ _ _ _ h
  · exact h1 _ _ h

theorem State.enterWait_frame {s t : State} {ipa kind token : Nat} {access : List (Nat × Nat)} (h : s.enterWait ipa kind access = some (token, t)) :
    t.sectors = s.sectors ∧ t.versions = s.versions := by
  unfold State.enterWait at h
  dsimp only at h
  split at h
  · cases h; exact ⟨rfl, rfl⟩
  · split at h
    · cases h
    · cases h; exact ⟨rfl, rfl⟩

theorem State.ovfFault_samePending (s : State) (l ipa : Nat) : SamePending s (s.ovfFault l ipa) := by
  unfold State.ovfFault
  dsimp only
  split
  · next h => exact (SamePending.refl s).of_eq (s.enterWait_frame h).1 (s.enterWait_frame h).2
  · exact (SamePending.refl s).of_eq rfl rfl

theorem State.moveBlock_samePending (s : State) (home line : Nat) (k : VKind) (p : Place) : SamePending s (s.moveBlock home line k p) :=
  ⟨rfl, fun _ _ _ _ => latestByte_map (fun v => by split <;> rfl) _⟩

theorem State.moveOrdered_samePending (s : State) (home line l n : Nat) : SamePending s (s.moveOrdered home line l n).1 := by
  unfold State.moveOrdered
  split
  · exact .refl s
  split
  · exact s.ovfFault_samePending l 0
  next loc _ =>
  refine Keeps.on_of ((samePending_homeSide s).toMemSide.confirm loc true) (Q := fun r : State × Bool => SamePending s r.1) (.refl s) ?_ ?_ ?_
  · exact fun t _ => (samePending_homeSide s).full s t (.refl s)
  · exact fun _ t ht => (ht.trans (t.moveBlock_samePending home line (.ordered l n) .overflow)).of_eq rfl rfl
  · exact fun _ _ ipa t ht => ht.trans (t.ovfFault_samePending l ipa)

theorem State.makeRoom_samePending (s : State) (home : Nat) (inSet : List (VKind × Nat)) : SamePending s (s.makeRoom home inSet).1 := by
  unfold State.makeRoom
  split
  · exact s.abortTasks_samePending _ _
  · split
    · exact s.moveBlock_samePending _ _ _ _
    · split
      · exact s.moveOrdered_samePending _ _ _ _
      · exact .refl s

theorem State.block?_samePending (s : State) (home line : Nat) (k : VKind) : SamePending s (s.block? home line k).1 := by
  have hway : SamePending s (match s.wayFor home line with | some t => (t, some Place.set) | none => (s, none)).1 := by
    split
    · next t ht => exact (samePending_homeSide s).toMemSide.wayFor s t home line (.refl s) ht
    · exact .refl s
  unfold State.block?
  dsimp only
  split
  · exact .refl s
  split
  · exact .refl s
  split
  · exact hway
  split
  · exact hway
  have hroom := s.makeRoom_samePending home (s.setBlocks home line)
  split
  · next h => rw [h] at hroom; exact hroom
  · next h => rw [h] at hroom; exact hroom

/-- A kind of versions that is no task's. -/
def VKind.noTask (k : VKind) : Prop := ∀ launch slot, k ≠ .spec launch slot

theorem State.limitStop_noTask (s : State) (home line : Nat) {k : VKind} (hk : k.noTask) : s.limitStop home line k = s := by
  cases k with
  | spec l t => exact absurd rfl (hk l t)
  | _ => rfl

theorem State.ownerRuns_noTask (s : State) {k : VKind} (hk : k.noTask) : s.ownerRuns k = true := by
  cases k with
  | spec l t => exact absurd rfl (hk l t)
  | _ => rfl

theorem takeBlock_samePending (s : State) (l : Loc) {k : VKind} (hk : k.noTask) : SamePending s ((takeBlock l k).run s).2 := by
  unfold takeBlock
  rw [run_bind, run_modify, State.limitStop_noTask s l.home l.line hk]
  dsimp only
  rw [run_get_bind]
  have h := s.block?_samePending l.home l.line k
  split
  · next hb => rw [hb] at h; exact h
  · next hb => rw [hb] at h; exact h

/-- Bytes put into a version: they are put there once there is a block for them, or the slice stalls. -/
theorem putVersion_run (s : State) {k : VKind} (hk : k.noTask) (l : Loc) (m : BitVec 16) (d : BitVec 128) (whole : Bool) (fault : Option Nat) :
    ∃ t, SamePending s t ∧ ((∃ e, (putVersion k l m d whole fault).run s = (.error e, t)) ∨
      ∃ place, (putVersion k l m d whole fault).run s = (.ok (), t.addBytes ⟨k, l.home, l.sec, l.md, m, d, whole, fault, place⟩)) := by
  have h := takeBlock_samePending s l hk
  unfold putVersion
  rw [run_bind]
  rcases hr : (takeBlock l k).run s with ⟨e | place, t⟩ <;> rw [hr] at h
  · exact ⟨t, h, .inl ⟨e, rfl⟩⟩
  · refine ⟨t, h, .inr ⟨place, ?_⟩⟩
    dsimp only
    rw [run_modify, State.ownerRuns_noTask t hk, if_pos rfl]

end Sys2Proof.Machine
end

section
/-! SUPPORT. The sectors that cores hold, filed under their homes and places, and the bytes that a core has pending in them or at home: they stay
what they are as L1 and the banks send them home, drop pins and make room (R10, R47, R48, R67, R83). -/

namespace Sys2Proof.Machine

open Sys2Proof Claim

/-! ### Keys and places -/

theorem coreKey_inj {c c' h h' n n' : Nat} (hh : h < 256) (hh' : h' < 256) (hn : n < 2 ^ 48) (hn' : n' < 2 ^ 48) :
    coreKey c h n = coreKey c' h' n' ↔ c = c' ∧ h = h' ∧ n = n' := by
  unfold coreKey
  omega

theorem coreKey_div {c h n : Nat} (hh : h < 256) (hn : n < 2 ^ 48) : coreKey c h n / 2 ^ 56 = c := by
  unfold coreKey
  omega

theorem sec_lt {l : Loc} (h : Real l) : l.sec < 2 ^ 48 := by
  have := h.2
  unfold Loc.sec
  omega

theorem line_lt {l : Loc} (h : Real l) : l.line < 2 ^ 45 := by
  have := h.2
  unfold Loc.line
  omega

theorem line_of_sec {l m : Loc} (h : l.sec = m.sec) : l.line = m.line := by
  unfold Loc.sec at h
  unfold Loc.line
  omega

/-- A held sector is one of a location. -/
def CoreSector.LiesAt (x : CoreSector) (l : Loc) : Prop := x.loc.home = l.home ∧ x.loc.sec = l.sec ∧ Real x.loc

theorem liesAt_self {x : CoreSector} (h : Real x.loc) : x.LiesAt x.loc := ⟨rfl, rfl, h⟩

section
variable {s t : State} {core : Nat} {l : Loc} {x : CoreSector}

theorem filed_real (h : Filed s) {e : Nat × CoreSector} (he : e ∈ s.sectors) : Real e.2.loc := by
  obtain ⟨_, -, hhome, hipa⟩ := h e he
  exact ⟨hhome, hipa⟩

theorem filed_find (h : Filed s) {home sec : Nat} (hh : home < 256) (hs : sec < 2 ^ 48) (hx : tfind (coreKey core home sec) s.sectors = some x) :
    x.loc.home = home ∧ x.loc.sec = sec ∧ Real x.loc := by
  obtain ⟨c, hkey, hhome, hipa⟩ := h _ (mem_of_tfind hx)
  have hreal : Real x.loc := ⟨hhome, hipa⟩
  obtain ⟨-, h₁, h₂⟩ := (coreKey_inj hh hhome hs (sec_lt hreal)).mp hkey
  exact ⟨h₁.symm, h₂.symm, hreal⟩

theorem filed_held (h : Filed s) (hl : Real l) : (s.held? core l).LiesAt l := by
  unfold State.held?
  rcases hx : tfind (coreKey core l.home l.sec) s.sectors with - | x
  · exact liesAt_self (x := CoreSector.empty l) hl
  · exact filed_find h hl.1 (sec_lt hl) hx

theorem filed_of_sectors (h : Filed s) (e : t.sectors = s.sectors) : Filed t := by
  unfold Filed
  rw [e]
  exact h

theorem tfind_setHeld (k : Nat) : tfind k (s.setHeld core l x).sectors =
    if k = coreKey core l.home l.sec then (if x.pmask = 0 ∧ x.pinned = none then none else some x) else tfind k s.sectors := by
  unfold State.setHeld
  dsimp only
  split <;> split
  · next h => rw [h, tfind_terase_self]
  · next h => exact tfind_terase_ne h _
  · next h => rw [h, tfind_tinsert_self]
  · next h => exact tfind_tinsert_ne h _ _

theorem mem_setHeld {e : Nat × CoreSector} (h : e ∈ (s.setHeld core l x).sectors) : e = (coreKey core l.home l.sec, x) ∨ e ∈ s.sectors := by
  unfold State.setHeld at h
  dsimp only at h
  split at h
  · exact .inr (mem_terase h)
  · exact mem_tinsert h

theorem filed_setHeld (h : Filed s) (hx : x.LiesAt l) : Filed (s.setHeld core l x) := by
  intro e he
  rcases mem_setHeld he with rfl | he
  · obtain ⟨hhome, hsec, hreal⟩ := hx
    exact ⟨core, by rw [hhome, hsec], hreal⟩
  · exact h e he

end

/-! ### Pending bytes -/

theorem l1Byte_eq (s : State) (core home b : Nat) : l1Byte s core home b =
    (tfind (coreKey core home (b / 16)) s.sectors).bind (fun x => byteAt x.pmask x.pdata (b % 16)) := by
  unfold l1Byte State.held?
  show (if _ then _ else _) = _
  rcases h : tfind (coreKey core home (b / 16)) s.sectors with - | x
  · simp [Loc.sec, h, CoreSector.empty]
  · simp [Loc.sec, h, byteAt]

/-- A core's pending byte is its L1's, or else the latest of its PENDING versions at home. -/
theorem pendingByte_eq (s : State) (core home b : Nat) : pendingByte s core home b =
    (l1Byte s core home b).or (latestByte (.pending core) home (b / 16) (b % 16) s.versions) := by
  rw [← State.version?_byteAt]
  unfold pendingByte
  rcases l1Byte s core home b with - | x <;> rcases s.version? (.pending core) home (b / 16) with - | v <;> rfl

theorem l1Byte_held {s : State} {core b : Nat} {l : Loc} (h : b / 16 = l.sec) :
    l1Byte s core l.home b = byteAt (s.held? core l).pmask (s.held? core l).pdata (b % 16) := by
  rw [l1Byte_eq, h, State.held?]
  rcases tfind (coreKey core l.home l.sec) s.sectors with - | x
  · exact (byteAt_zero _ _).symm
  · rfl

theorem l1Byte_setHeld {s : State} {core : Nat} {l : Loc} (x : CoreSector) (hl : Real l) (c : Nat) {home b : Nat} (hh : home < 256) (hb : b < 2 ^ 52) :
    l1Byte (s.setHeld core l x) c home b =
      if c = core ∧ home = l.home ∧ b / 16 = l.sec then byteAt x.pmask x.pdata (b % 16) else l1Byte s c home b := by
  rw [l1Byte_eq, l1Byte_eq, tfind_setHeld]
  have hkey := coreKey_inj (c := c) (c' := core) hh hl.1 (show b / 16 < 2 ^ 48 by omega) (sec_lt hl)
  by_cases hat : c = core ∧ home = l.home ∧ b / 16 = l.sec
  · rw [if_pos (hkey.mpr hat), if_pos hat]
    split
    · next h => rw [h.1]; exact (byteAt_zero _ _).symm
    · rfl
  · rw [if_neg (mt hkey.mp hat), if_neg hat]

/-- The sectors are filed, and each core's pending bytes are the ones given. -/
def PendingIs (B : Nat → Nat → Nat → Option (BitVec 8)) (s : State) : Prop :=
  Filed s ∧ ∀ core home b, home < 256 → b < 2 ^ 52 → pendingByte s core home b = B core home b

theorem pendingIs_self {s : State} (h : Filed s) : PendingIs (pendingByte s) s := ⟨h, fun _ _ _ _ _ => rfl⟩

theorem pendingByte_same {s t : State} (h : SamePending s t) (core home b : Nat) : pendingByte t core home b = pendingByte s core home b := by
  rw [pendingByte_eq, pendingByte_eq, l1Byte_eq, l1Byte_eq, h.sectors, h.bytes]

/-- A held sector whose pending bytes have gone home. -/
def CoreSector.sentHome (x : CoreSector) : CoreSector :=
  { x with pmask := 0, pdata := 0, whole := false, banked := none, fault := none, pinned := x.keeps }

/-- A sector's pending bytes go home as a version and leave L1, once there is a block for them, or the slice stalls. -/
theorem sendPending_run (s : State) (core : Nat) (whole : Bool) (x : CoreSector) :
    (x.pmask = 0 ∧ (sendPending core whole x).run s = (.ok (), s)) ∨
    ∃ t, SamePending s t ∧ ((∃ e, (sendPending core whole x).run s = (.error e, t)) ∨
      ∃ place, (sendPending core whole x).run s = (.ok (),
        (t.addBytes ⟨.pending core, x.loc.home, x.loc.sec, x.loc.md, x.pmask, x.pdata, whole, x.fault, place⟩).setHeld core x.loc x.sentHome)) := by
  unfold sendPending
  by_cases hm : x.pmask = 0
  · exact .inl ⟨hm, by rw [if_pos hm]; rfl⟩
  · rw [if_neg hm, run_bind]
    obtain ⟨t, ht, ⟨e, hr⟩ | ⟨place, hr⟩⟩ := putVersion_run s (k := .pending core) (fun _ _ => nofun) x.loc x.pmask x.pdata whole x.fault <;> rw [hr]
    · exact .inr ⟨t, ht, .inl ⟨e, rfl⟩⟩
    · exact .inr ⟨t, ht, .inr ⟨place, rfl⟩⟩

/-- A sector's pending bytes sent home: they are the core's pending bytes there, and no other sector that a core holds changes. -/
theorem sendPending_keeps {B : Nat → Nat → Nat → Option (BitVec 8)} {s : State} {core : Nat} (whole : Bool) {x : CoreSector}
    (hx : tfind (coreKey core x.loc.home x.loc.sec) s.sectors = some x) (h : PendingIs B s) :
    PendingIs B ((sendPending core whole x).run s).2 ∧ ∀ k, k ≠ coreKey core x.loc.home x.loc.sec →
      tfind k ((sendPending core whole x).run s).2.sectors = tfind k s.sectors := by
  obtain ⟨hfiled, hbytes⟩ := h
  have hreal : Real x.loc := filed_real hfiled (mem_of_tfind hx)
  obtain ⟨-, hr⟩ | ⟨t, ht, ⟨e, hr⟩ | ⟨place, hr⟩⟩ := sendPending_run s core whole x <;> rw [hr]
  · exact ⟨⟨hfiled, hbytes⟩, fun _ _ => rfl⟩
  · exact ⟨⟨filed_of_sectors hfiled ht.sectors, fun c home b hh hb => (pendingByte_same ht c home b).trans (hbytes c home b hh hb)⟩,
      fun _ _ => by rw [ht.sectors]⟩
  · have hsectors := (State.addBytes_sectors t ⟨.pending core, x.loc.home, x.loc.sec, x.loc.md, x.pmask, x.pdata, whole, x.fault, place⟩).trans ht.sectors
    refine ⟨⟨filed_setHeld (filed_of_sectors hfiled hsectors) (liesAt_self hreal), fun c home b hh hb => ?_⟩, fun k hk => ?_⟩
    · rw [← hbytes c home b hh hb, pendingByte_eq, pendingByte_eq, l1Byte_setHeld _ hreal c hh hb]
      show (if _ then _ else _ : Option (BitVec 8)).or (latestByte _ _ _ _ (t.addBytes _).versions) = _
      rw [State.latestByte_addBytes, ht.bytes, Version.byteOf, l1Byte_eq, l1Byte_eq, hsectors]
      by_cases hat : c = core ∧ home = x.loc.home ∧ b / 16 = x.loc.sec
      · obtain ⟨rfl, rfl, hsec⟩ := hat
        rw [if_pos ⟨rfl, rfl, hsec⟩, if_pos ⟨rfl, rfl, hsec.symm⟩, hsec, hx]
        exact congrArg (Option.or · _) (byteAt_zero _ _)
      · rw [if_neg hat, if_neg fun hv => hat ⟨(VKind.pending.inj hv.1).symm, hv.2.1.symm, hv.2.2.symm⟩, Option.none_or]
    · rw [tfind_setHeld, if_neg hk, hsectors]

/-- Held sectors sent home one after another, each once. -/
theorem sendAll_keeps {B : Nat → Nat → Nat → Option (BitVec 8)} {core : Nat} (whole : Bool) {xs : List CoreSector} {s : State}
    (hx : ∀ x ∈ xs, tfind (coreKey core x.loc.home x.loc.sec) s.sectors = some x)
    (hone : (xs.map (fun x => coreKey core x.loc.home x.loc.sec)).Nodup) (h : PendingIs B s) :
    PendingIs B ((eachDo (sendPending core whole) xs).run s).2 := by
  induction xs generalizing s with
  | nil => exact h
  | cons x xs ih =>
    rw [List.map_cons, List.nodup_cons] at hone
    obtain ⟨hkeep, hothers⟩ := sendPending_keeps whole (hx x (.head _)) h
    rw [eachDo, run_bind]
    rcases hr : (sendPending core whole x).run s with ⟨e | u, t⟩ <;> rw [hr] at hkeep hothers
    · exact hkeep
    · refine ih (fun y hy => ?_) hone.2 hkeep
      rw [hothers _ fun he => hone.1 (List.mem_map.mpr ⟨y, hy, he⟩)]
      exact hx y (.tail _ hy)

/-! ### Lines -/

theorem mem_heldLine {s : State} {core home line : Nat} {x : CoreSector} (h : x ∈ s.heldLine core home line) :
    ∃ k < 8, tfind (coreKey core home (8 * line + k)) s.sectors = some x := by
  obtain ⟨k, hk, hx⟩ := List.mem_filterMap.mp h
  exact ⟨k, List.mem_range.mp hk, hx⟩

theorem heldLine_real {s : State} (h : Filed s) {core home line : Nat} {x : CoreSector} (hx : x ∈ s.heldLine core home line) : Real x.loc := by
  obtain ⟨_, -, hk⟩ := mem_heldLine hx
  exact filed_real h (mem_of_tfind hk)

theorem heldLine_find {s : State} (h : Filed s) {core home line : Nat} (hh : home < 256) (hline : line < 2 ^ 45) {x : CoreSector}
    (hx : x ∈ s.heldLine core home line) :
    tfind (coreKey core x.loc.home x.loc.sec) s.sectors = some x ∧ x.loc.home = home ∧ x.loc.line = line := by
  obtain ⟨k, hk, hf⟩ := mem_heldLine hx
  obtain ⟨hhome, hsec, -⟩ := filed_find h hh (by omega) hf
  refine ⟨by rw [hhome, hsec]; exact hf, hhome, ?_⟩
  unfold Loc.sec at hsec
  unfold Loc.line
  omega

/-- No two sectors that a core holds of a line stand under one key. -/
theorem heldLine_nodup {s : State} (h : Filed s) {core home line : Nat} (hh : home < 256) (hline : line < 2 ^ 45) :
    ((s.heldLine core home line).map (fun x => coreKey core x.loc.home x.loc.sec)).Nodup := by
  have hkeys : ∀ ks : List Nat, (∀ k ∈ ks, k < 8) →
      (ks.filterMap (fun k => tfind (coreKey core home (8 * line + k)) s.sectors)).map (fun x => coreKey core x.loc.home x.loc.sec) =
        (ks.filter (fun k => (tfind (coreKey core home (8 * line + k)) s.sectors).isSome)).map (fun k => coreKey core home (8 * line + k)) := by
    intro ks hks
    induction ks with
    | nil => rfl
    | cons k ks ih =>
      have ih := ih fun j hj => hks j (.tail _ hj)
      have hk := hks k (.head _)
      rcases hx : tfind (coreKey core home (8 * line + k)) s.sectors with - | x
      · simpa [List.filterMap_cons, List.filter_cons, hx] using ih
      · obtain ⟨hhome, hsec, -⟩ := filed_find h hh (by omega) hx
        simpa [List.filterMap_cons, List.filter_cons, hx, hhome, hsec] using ih
  rw [State.heldLine, hkeys _ fun k hk => List.mem_range.mp hk]
  refine (List.nodup_range.filter _).map fun j k hjk => ?_
  unfold coreKey at hjk
  omega

/-- Sectors that a core holds of a line sent home: no core's pending bytes change. -/
theorem sendLine_keeps {B : Nat → Nat → Nat → Option (BitVec 8)} {s : State} (h : PendingIs B s) {core home line : Nat} (hh : home < 256) (hline : line < 2 ^ 45)
    (whole : Bool) {xs : List CoreSector} (hxs : xs.Sublist (s.heldLine core home line)) : PendingIs B ((eachDo (sendPending core whole) xs).run s).2 :=
  sendAll_keeps whole (fun _ hx => (heldLine_find h.1 hh hline (hxs.subset hx)).1) ((heldLine_nodup h.1 hh hline).sublist (hxs.map _)) h

/-! ### What a core's cache does to what it holds -/

/-- Actions kept from one state on: the first from there, the second from anywhere. -/
theorem Keeps.bind_from {α β : Type} {P : State → Prop} {m : Mem α} {k : α → Mem β} {s : State} (h : P (m.run s).2) (hk : ∀ a, Keeps P (k a)) :
    P ((m >>= k).run s).2 := by
  rw [run_bind]
  rcases hr : m.run s with ⟨e | a, t⟩ <;> rw [hr] at h
  · exact h
  · exact hk a t h

theorem Keeps.eachDo {α : Type} {P : State → Prop} {f : α → Mem Unit} {xs : List α} (h : ∀ x ∈ xs, Keeps P (f x)) : Keeps P (Machine.eachDo f xs) := by
  induction xs with
  | nil => exact Keeps.pure _
  | cons x xs ih => exact Keeps.bind (h x (.head _)) fun _ => ih fun y hy => h y (.tail _ hy)

/-- A property that sends of a line's sectors keep. -/
def Sends (P : State → Prop) (core home line : Nat) : Prop :=
  ∀ s, P s → ∀ whole xs, xs.Sublist (s.heldLine core home line) → P ((eachDo (sendPending core whole) xs).run s).2

/-- A property of filed sectors and pending bytes: what leaves both as they are keeps it, and so do changes of a held sector that leave its
pending bytes, and sends home. -/
structure PendingSide (P : State → Prop) : Prop where
  filed : ∀ s, P s → Filed s
  same : ∀ s t, P s → SamePending s t → P t
  held : ∀ s core l x, P s → Real l → x.LiesAt l → x.pmask = (s.held? core l).pmask → x.pdata = (s.held? core l).pdata → P (s.setHeld core l x)
  sends : ∀ core home line, home < 256 → line < 2 ^ 45 → Sends P core home line

theorem pendingIs_pendingSide (B : Nat → Nat → Nat → Option (BitVec 8)) : PendingSide (PendingIs B) where
  filed s h := h.1
  same s t h e := ⟨filed_of_sectors h.1 e.sectors, fun c home b hh hb => (pendingByte_same e c home b).trans (h.2 c home b hh hb)⟩
  held s core l x h hl hx hm hd := by
    refine ⟨filed_setHeld h.1 hx, fun c home b hh hb => ?_⟩
    rw [← h.2 c home b hh hb, pendingByte_eq, pendingByte_eq, l1Byte_setHeld x hl c hh hb]
    split
    · next hat => obtain ⟨rfl, rfl, hsec⟩ := hat; rw [l1Byte_held hsec, hm, hd]; rfl
    · rfl
  sends core home line hh hline s h whole xs hxs := sendLine_keeps h hh hline whole hxs

theorem sendPending_filed {core : Nat} (whole : Bool) {x : CoreSector} (hx : Real x.loc) : Keeps Filed (sendPending core whole x) := by
  intro s h
  obtain ⟨-, hr⟩ | ⟨t, ht, ⟨e, hr⟩ | ⟨place, hr⟩⟩ := sendPending_run s core whole x <;> rw [hr]
  · exact h
  · exact filed_of_sectors h ht.sectors
  · exact filed_setHeld (filed_of_sectors h (by rw [State.addBytes_sectors, ht.sectors])) (liesAt_self hx)

theorem sends_filed (core home line : Nat) : Sends Filed core home line := fun s h whole _ hxs =>
  Keeps.eachDo (fun _ hx => sendPending_filed whole (heldLine_real h (hxs.subset hx))) s h

theorem filed_pendingSide : PendingSide Filed where
  filed _ h := h
  same _ _ h e := filed_of_sectors h e.sectors
  held _ _ _ _ h _ hx _ _ := filed_setHeld h hx
  sends core home line _ _ := sends_filed core home line

theorem State.addCopy_samePending (s : State) (core : Nat) (l : Loc) : SamePending s (s.addCopy core l) := by
  unfold State.addCopy
  split
  · exact ⟨rfl, fun _ _ _ _ => rfl⟩
  · exact .refl s

namespace PendingSide

variable {P : State → Prop} (hP : PendingSide P)
include hP

/-- What the memory side does leaves pending bytes alone. -/
theorem mem {α : Type} {m : Mem α} (hm : ∀ s, Keeps (SamePending s) m) : Keeps P m := fun s hs => hP.same s _ hs (hm s s (.refl s))

theorem unpin {s : State} {l : Loc} (core : Nat) (bank : Option Nat) (hl : Real l) (hs : P s) : P (s.unpin core bank l) := by
  have hat := filed_held (core := core) (hP.filed s hs) hl
  exact hP.held s core l _ hs hl hat rfl rfl

/-- A pinned value that goes home as a SNAPSHOT version. -/
theorem putSnapshot (core : Nat) (l : Loc) (m : BitVec 16) (d : BitVec 128) (whole : Bool) (fault : Option Nat) :
    Keeps P (putVersion (.snapshot core) l m d whole fault) := by
  intro s hs
  obtain ⟨t, ht, ⟨e, hr⟩ | ⟨place, hr⟩⟩ := putVersion_run s (k := .snapshot core) (fun _ _ => nofun) l m d whole fault <;> rw [hr]
  · exact hP.same s t hs ht
  · refine hP.same s _ hs (ht.trans ⟨State.addBytes_sectors _ _, fun c home sec i => ?_⟩)
    rw [State.latestByte_addBytes, Version.byteOf, if_neg fun h => (nomatch h.1), Option.none_or]

/-- What L1 forgets of the sectors of a line as it evicts them. -/
theorem unpinAll {core : Nat} {bank : Option Nat} {xs : List CoreSector} (hxs : ∀ x ∈ xs, Real x.loc) {s t : State} (hs : P s)
    (ht : SamePending (xs.foldl (fun s x => s.unpin core bank x.loc) s) t) : P t :=
  hP.same _ t (List.foldlRecOn xs _ hs fun _ hu x hx => hP.unpin core bank (hxs x hx) hu) ht

omit hP in
theorem sendSectors {core home line : Nat} (hsend : Sends P core home line) {s : State} (hs : P s) (p : CoreSector → Bool) :
    P ((Machine.sendSectors core (s.heldLine core home line) ((s.heldLine core home line).filter p)).run s).2 := by
  unfold Machine.sendSectors
  refine hsend s hs _ _ ?_
  split
  · exact List.Sublist.refl _
  · exact List.filter_sublist

theorem evictLineL1 {core home line : Nat} (hsend : Sends P core home line) (bank : Nat) : Keeps P (Machine.evictLineL1 core home line bank) := by
  unfold Machine.evictLineL1
  refine Keeps.get fun s hs => ?_
  have hreal : ∀ x ∈ s.heldLine core home line, Real x.loc := fun x hx => heldLine_real (hP.filed s hs) hx
  have hpin : ∀ x : CoreSector, Keeps P (match x.pinned with
      | some p => putVersion (.snapshot core) x.loc (BitVec.allOnes 16) p false none
      | none => Pure.pure () : Mem Unit) := fun x => by
    split
    · exact hP.putSnapshot _ _ _ _ _ _
    · exact Keeps.pure _
  dsimp only
  split
  · exact hs
  split
  · exact Keeps.bind_from (sendSectors hsend hs _) fun _ => Keeps.bind (Keeps.eachDo fun x _ => hpin x) fun _ =>
      Keeps.update fun t ht => hP.unpinAll hreal ht ⟨rfl, fun _ _ _ _ => rfl⟩
  · refine Keeps.bind (Keeps.eachDo fun x _ => hpin x) (fun _ => Keeps.update fun t ht => ?_) s hs
    exact hP.unpinAll hreal ht ⟨rfl, fun _ _ _ _ => rfl⟩

theorem after {m : Mem Unit} (hm : Keeps P m) (s : State) (hs : P s) : P (s.after m) :=
  hm.on hs (fun t _ => hP.same s _ hs ((samePending_homeSide s).full s t (.refl s))) (fun _ _ h => h) fun _ _ _ _ h => h

theorem evictL1 {core home line : Nat} (hsend : Sends P core home line) (bank : Nat) (s : State) (hs : P s) : P (s.evictL1 core home line bank) :=
  hP.after (hP.evictLineL1 hsend bank) s hs

theorem evictBank {core home line : Nat} (hsend : Sends P core home line) (s : State) (hs : P s) : P (s.evictBank core home line) := by
  refine hP.after ?_ s hs
  unfold evictBankLine
  refine Keeps.get fun s hs => ?_
  dsimp only
  split
  · exact hs
  · exact sendSectors hsend hs _

theorem evictFirstL1 {core : Nat} {s t : State} (hs : P s) {ls : List (Nat × Nat)} (hls : ∀ e ∈ ls, e.1 < 256 ∧ e.2 < 2 ^ 45)
    (h : Machine.evictFirstL1 core s ls = some t) : P t := by
  induction ls with
  | nil => cases h
  | cons e ls ih =>
    obtain ⟨hh, hline⟩ := hls e (.head _)
    unfold Machine.evictFirstL1 at h
    dsimp only at h
    split at h
    · exact ih (fun f hf => hls f (.tail _ hf)) h
    · cases h; exact hP.evictL1 (hP.sends core _ _ hh hline) 0 s hs

theorem l1Room (core home line : Nat) : Keeps P (Machine.l1Room core home line) := by
  unfold Machine.l1Room
  refine Keeps.get fun s hs => ?_
  dsimp only
  split
  · exact hs
  split
  · next t ht =>
    refine hP.evictFirstL1 hs (fun e he => ?_) ht
    obtain ⟨f, hf, rfl⟩ := List.mem_map.mp (List.mem_dedup.mp (List.mem_filter.mp he).1)
    have hreal := filed_real (hP.filed s hs) (List.mem_filter.mp hf).1
    exact ⟨hreal.1, line_lt hreal⟩
  · exact hs

/-! ### Loads -/

theorem pin (core : Nat) {l : Loc} (hl : Real l) : Keeps P (Machine.pin core l) := by
  unfold Machine.pin
  refine Keeps.get fun s hs => ?_
  split
  · exact hs
  refine Keeps.bind (hP.mem fun s => (samePending_homeSide s).toMemSide.confirm l false) (fun _ => Keeps.bind
    (hP.mem fun s => (samePending_homeSide s).toMemSide.committed l) fun d => Keeps.bind (hP.l1Room core l.home l.line) fun _ =>
    Keeps.update fun t ht => ?_) s hs
  have hat := filed_held (core := core) (hP.filed t ht) hl
  refine hP.same _ _ ?_ (State.addCopy_samePending _ core l)
  exact hP.held t core l _ ht hl hat rfl rfl

theorem tryFill {m : Mem Unit} (hm : Keeps P m) : Keeps P (Machine.tryFill m) := fun s hs =>
  hm.on_of (Q := fun r : Except (Nat × Nat × Nat) Unit × State => P r.2) hs
    (fun t _ => hP.same s _ hs ((samePending_homeSide s).full s t (.refl s))) (fun _ _ h => h) fun _ _ _ _ _ => hs

theorem plainLoad (core : Nat) {l : Loc} (size : Nat) (hl : Real l) : Keeps P (Machine.plainLoad core l size) := by
  unfold Machine.plainLoad
  refine Keeps.get fun s hs => ?_
  dsimp only
  split
  · exact Keeps.bind (hP.tryFill (hP.pin core hl)) (fun _ => Keeps.get fun _ ht => Keeps.pure _ _ ht) s hs
  · exact Keeps.bind (hP.pin core hl) (fun _ => Keeps.get fun _ ht => Keeps.pure _ _ ht) s hs

end PendingSide

end Sys2Proof.Machine
end

section
/-! SUPPORT. Plain stores and plain loads at a core's L1: what each leaves there, and that a core sees its own stores (R47, R48, R89). -/

namespace Sys2Proof.Machine

open Sys2Proof Claim

variable {s t u : State} {core : Nat} {l : Loc} {size v : Nat}

/-! ### Plain stores -/

/-- A held sector with a lane's bytes stored over its pending ones. -/
def CoreSector.store (x : CoreSector) (l : Loc) (size v : Nat) : CoreSector :=
  { x with pmask := x.pmask ||| spanMask l size, pdata := mergeBytes x.pdata (spanData l v) (spanMask l size), banked := none }

/-- A plain store changes one held sector, and may forget the line's confirmation. -/
theorem plainStore_eq (s : State) (core : Nat) (l : Loc) (size v : Nat) :
    ∃ c, s.plainStore core l size v = ({ s with l1conf := c } : State).setHeld core l ((s.held? core l).store l size v) := by
  unfold State.plainStore
  dsimp only
  split
  · exact ⟨terase (coreKey core l.home l.line) s.l1conf, rfl⟩
  · exact ⟨s.l1conf, rfl⟩

theorem tfind_plainStore (h : 0 < size) (k : Nat) : tfind k (s.plainStore core l size v).sectors =
    if k = coreKey core l.home l.sec then some ((s.held? core l).store l size v) else tfind k s.sectors := by
  obtain ⟨c, he⟩ := plainStore_eq s core l size v
  have hne : ¬(((s.held? core l).store l size v).pmask = 0 ∧ ((s.held? core l).store l size v).pinned = none) :=
    fun hx => or_spanMask_ne_zero _ l h hx.1
  rw [he, tfind_setHeld, if_neg hne]

theorem held_plainStore (h : 0 < size) : (s.plainStore core l size v).held? core l = (s.held? core l).store l size v := by
  rw [State.held?, tfind_plainStore h, if_pos rfl]
  rfl

theorem filed_plainStore (h : Filed s) (hl : Real l) : Filed (s.plainStore core l size v) := by
  obtain ⟨c, he⟩ := plainStore_eq s core l size v
  have hat := filed_held (core := core) h hl
  rw [he]
  exact filed_setHeld (filed_of_sectors h rfl) hat

/-! ### Lines in L1 -/

theorem mem_l1Lines {x : CoreSector} (hl : Real l) (hx : tfind (coreKey core l.home l.sec) s.sectors = some x) (hat : x.LiesAt l)
    (hin : x.pinned.isSome ∨ x.banked = none) : (l.home, l.line) ∈ s.l1Lines core := by
  obtain ⟨hhome, hsec, -⟩ := hat
  rw [State.l1Lines, List.mem_dedup, List.mem_map]
  refine ⟨_, List.mem_filter.mpr ⟨mem_of_tfind hx, ?_⟩, Prod.ext hhome (line_of_sec hsec)⟩
  have hcore := coreKey_div (c := core) hl.1 (sec_lt hl)
  simpa using And.intro hcore hin

theorem l1Room_of_mem {home line : Nat} (h : (home, line) ∈ s.l1Lines core) : (l1Room core home line).run s = (.ok (), s) := by
  unfold l1Room
  rw [run_get_bind]
  simp [h]

/-- L1 holds the line of a plain store. -/
theorem mem_l1Lines_plainStore (h : Filed s) (hl : Real l) (hsize : 0 < size) : (l.home, l.line) ∈ (s.plainStore core l size v).l1Lines core :=
  mem_l1Lines hl ((tfind_plainStore hsize _).trans (if_pos rfl)) (filed_held (core := core) h hl) (.inr rfl)

/-! ### Plain loads -/

@[simp] theorem State.addCopy_held (s : State) (c core : Nat) (l m : Loc) : (s.addCopy c m).held? core l = s.held? core l := by
  rw [State.held?, (s.addCopy_samePending c m).sectors]
  rfl

theorem held_setHeld_pinned (s : State) (core : Nat) (l : Loc) {x : CoreSector} (h : x.pinned ≠ none) : (s.setHeld core l x).held? core l = x := by
  rw [State.held?, tfind_setHeld, if_pos rfl, if_neg fun hx => h hx.2]
  rfl

/-- A line in L1 pinned: the sector keeps its pending bytes. -/
theorem pin_ok (hin : (l.home, l.line) ∈ s.l1Lines core) (h : (pin core l).run s = (.ok (), u)) :
    (u.held? core l).pmask = (s.held? core l).pmask ∧ (u.held? core l).pdata = (s.held? core l).pdata := by
  unfold pin at h
  rw [run_get_bind] at h
  split at h
  · cases h; exact ⟨rfl, rfl⟩
  obtain ⟨_, t, ht, h⟩ := run_bind_ok h
  obtain ⟨d, t', ht', h⟩ := run_bind_ok h
  have hkeep := (samePending_homeSide s).toMemSide.confirm l false s (.refl s)
  rw [ht] at hkeep
  have hkeep' := (samePending_homeSide s).toMemSide.committed l t hkeep
  rw [ht'] at hkeep'
  have hheld : t'.held? core l = s.held? core l := by unfold State.held?; rw [hkeep'.sectors]
  have hin' : (l.home, l.line) ∈ t'.l1Lines core := by unfold State.l1Lines; rw [hkeep'.sectors]; exact hin
  obtain ⟨_, t'', ht'', h⟩ := run_bind_ok h
  rw [l1Room_of_mem hin'] at ht''
  cases ht''
  rw [run_modify] at h
  rw [← (Prod.mk.inj h).2]
  dsimp only
  rw [State.addCopy_held, held_setHeld_pinned _ _ _ (by simp), hheld]
  exact ⟨rfl, rfl⟩

theorem tryFill_ok {m : Mem Unit} (h : (tryFill m).run s = (.ok (), u)) : u = s ∨ m.run s = (.ok (), u) := by
  unfold tryFill Mem.on at h
  rcases hr : m.run s with ⟨⟨c, b, a⟩ | _, t⟩ <;> rw [ExceptT.run, hr] at h <;> dsimp only at h
  · split at h
    · cases (Prod.mk.inj h).1
    · exact .inl (Prod.mk.inj h).2.symm
  · exact .inr h

/-- What a plain load of pending bytes in L1 gives. -/
theorem plainLoad_pending {w : Nat} (hin : (l.home, l.line) ∈ s.l1Lines core) (hm : spanMask l size &&& (s.held? core l).pmask = spanMask l size)
    (h : (plainLoad core l size).run s = (.ok w, u)) : ∃ e, w = spanValue l size (mergeBytes e (s.held? core l).pdata (s.held? core l).pmask) := by
  have hcov : (s.held? core l).covers l size = true := by simp [CoreSector.covers, BitVec.and_comm _ (spanMask l size), hm]
  unfold plainLoad at h
  rw [run_get_bind] at h
  dsimp only at h
  rw [if_pos hcov] at h
  obtain ⟨_, t, ht, h⟩ := run_bind_ok h
  rw [run_get_bind, run_pure] at h
  obtain rfl : _ = w := Except.ok.inj (Prod.mk.inj h).1
  rcases tryFill_ok ht with rfl | ht
  · exact ⟨_, rfl⟩
  · obtain ⟨hm, hd⟩ := pin_ok hin ht
    rw [hm, hd]
    exact ⟨_, rfl⟩

/-- A plain load of the bytes that a core has just stored plainly gives them. -/
theorem plainLoad_plainStore {w : Nat} (hs : Filed s) (hl : Real l) (hsize : 0 < size) (hfit : l.ipa % 16 + size ≤ 16)
    (h : (plainLoad core l size).run (s.plainStore core l size v) = (.ok w, u)) : w = v % 2 ^ (8 * size) := by
  have hm : spanMask l size &&& ((s.held? core l).pmask ||| spanMask l size) = spanMask l size := by
    ext i hi
    simpa using Or.inr
  obtain ⟨e, rfl⟩ := plainLoad_pending (mem_l1Lines_plainStore hs hl hsize) (by rw [held_plainStore hsize]; exact hm) h
  rw [held_plainStore hsize]
  exact spanValue_spanData l size v _ e _ hfit hm

/-! ### Acquires -/

theorem filed_acquire (h : Filed s) (core : Nat) : Filed (s.acquire core) := by
  intro e he
  obtain ⟨f, hf, hkeep⟩ := List.mem_filterMap.mp he
  have hfiled := h f hf
  unfold keepPending at hkeep
  split at hkeep
  · cases hkeep; exact hfiled
  split at hkeep
  · cases hkeep
  · cases hkeep; exact hfiled

/-- Settles O41: a core's L1 holds the bytes of its own plain store as pending bytes, over whatever a load fills in below them. -/
theorem ownStoresAreSeen : Obligations.OwnStoresAreSeen := by
  unfold Obligations.OwnStoresAreSeen
  refine ⟨fun s u core l size v w => plainLoad_plainStore, fun s core l size v => filed_plainStore,
    fun s core l size hs hl => filed_pendingSide.plainLoad core size hl s hs, fun s core home line bank hs => ⟨?_, ?_⟩, fun s core hs => filed_acquire hs core⟩
  · exact filed_pendingSide.evictL1 (sends_filed core home line) bank s hs
  · exact filed_pendingSide.evictBank (sends_filed core home line) s hs

end Sys2Proof.Machine
end

section
/-! SUPPORT. What reset leaves (R54, R276, R433, R449). -/

namespace Sys2Proof.Machine

open Sys2Proof Claim

theorem reset_shaped : Shaped State.reset := ⟨fun _ h => (nomatch h), fun _ h => (nomatch h)⟩

theorem reset_safe : Safe State.reset := ⟨State.reset_formed, reset_shaped⟩

/-- Settles O58: the fields that reset gives, read through the registers that show them. -/
theorem resetLeaves : Obligations.ResetLeaves := by
  unfold Obligations.ResetLeaves
  have hmode : ∀ cluster bank, State.reset.bankMode cluster bank = 0 := fun _ _ => tget_nil 0 _
  have hslots : ∀ core e, State.reset.istabWord core e = 0x8F8F8F8F := fun _ _ => rfl
  have hmemory : ∀ a, tget 0 State.reset.hbm a = 0 := fun _ => tget_nil 0 _
  exact ⟨hmode, hslots, rfl, rfl, rfl, hmemory, reset_safe⟩

end Sys2Proof.Machine
end

section
/-! SUPPORT. Releases and acquires: what each leaves in flight, pending and at home (R49, R50, R67, R91 to R93). -/

namespace Sys2Proof.Machine

open Sys2Proof Claim

variable {s t u : State}

/-! ### Instructions in flight by number -/

/-- An update of one instruction in flight, found by its number. -/
theorem State.op?_modOp (s : State) (id : Nat) {f : Op → Op} (hf : ∀ o, (f o).id = o.id) (k : Nat) :
    (s.modOp id f).op? k = if k = id then (s.op? id).map f else s.op? k := by
  have hid : ∀ o : Op, (if o.id = id then f o else o).id = o.id := fun o => by split <;> simp [hf]
  have hsame : ((fun o : Op => o.id == k) ∘ fun o => if o.id = id then f o else o) = fun o => o.id == k := funext fun o => by simp [hid]
  rw [State.op?, State.modOp_ops, List.find?_map, hsame]
  change (s.op? k).map _ = _
  split
  · next h =>
    subst h
    rcases ho : s.op? k with - | o
    · rfl
    · have hk : o.id = k := by simpa using List.find?_some ho
      simp [hk]
  · next h =>
    rcases ho : s.op? k with - | o
    · rfl
    · have hk : o.id = k := by simpa using List.find?_some ho
      simp [hk, h]

/-! ### Releases with nothing left -/

theorem State.modRel_self (s : State) (id : Nat) {f : Rel → Rel} (hf : ∀ r, f r = r) : s.modRel id f = s := by
  simp [State.modRel, hf]

theorem State.takeIn_nil (s : State) (id : Nat) : s.takeIn id [] = s := s.modRel_self id fun _ => by simp

/-- A release that has begun and has nothing left ends. -/
theorem execReleaseBoundary_done {r : Rel} (hr : s.rels.find? (fun q => q.id == s.ev.a) = some r) (hb : r.begun = true) (htodo : r.todo = [])
    (hsent : r.sent = []) (hlate : s.ev.late = []) : execReleaseBoundary s = .next (s.finishRel r.id) := by
  have hid : r.id = s.ev.a := by simpa using List.find?_some hr
  have hr' : s.rels.find? (fun q => q.id == r.id) = some r := hid.symm ▸ hr
  simp [execReleaseBoundary, hr, hb, hlate, State.takeIn_nil, hr', htodo, hsent]

theorem State.finishRel_done {r : Rel} {id : Nat} (hr : s.rels.find? (fun q => q.id == r.id) = some r) (hb : r.begun = true) (htodo : r.todo = [])
    (hsent : r.sent = []) (hparked : r.parked = []) (hsrc : r.source = .op id) :
    s.finishRel r.id = ({ s with rels := s.rels.filter (fun q => q.id != r.id) } : State).afterRelease id r.fault := by
  simp [State.finishRel, hr, hb, htodo, hsent, hparked, hsrc]

/-- A PHASE with no acquire to wait for has been performed once its release is complete. -/
theorem State.afterRelease_phase {o : Op} {id : Nat} (ho : s.op? id = some o) (hk : o.kind = .phase) (ha : o.acq = false) :
    s.afterRelease id none =
      (s.modOp id (fun o => { o with parked := false })).modOp id (fun o => { o with relId := none, performed := true }) := by
  simp [State.afterRelease, ho, hk, ha]

/-! ### Sectors that a release sends home -/

/-- The pending bytes of the sector that stands under a key. -/
def State.maskAt (s : State) (key : Nat) : BitVec 16 := ((tfind key s.sectors).map (·.pmask)).getD 0

theorem held_pmask (s : State) (core : Nat) (l : Loc) : (s.held? core l).pmask = s.maskAt (coreKey core l.home l.sec) := by
  unfold State.held? State.maskAt
  rcases tfind (coreKey core l.home l.sec) s.sectors with - | x <;> rfl

theorem maskAt_eq {k : Nat} (h : tfind k t.sectors = tfind k s.sectors) : t.maskAt k = s.maskAt k := by unfold State.maskAt; rw [h]

theorem sendPending_ok {core : Nat} {whole : Bool} {x : CoreSector} (hx : tfind (coreKey core x.loc.home x.loc.sec) s.sectors = some x)
    (h : (sendPending core whole x).run s = (.ok (), u)) : u.maskAt (coreKey core x.loc.home x.loc.sec) = 0 := by
  obtain ⟨hm, hr⟩ | ⟨t, -, ⟨e, hr⟩ | ⟨place, hr⟩⟩ := sendPending_run s core whole x <;> rw [hr] at h
  · obtain rfl := (Prod.mk.inj h).2
    simp [State.maskAt, hx, hm]
  · exact nomatch (Prod.mk.inj h).1
  · rw [← (Prod.mk.inj h).2, State.maskAt, tfind_setHeld, if_pos rfl]
    split
    · rfl
    · rfl

/-- Held sectors sent home one after another leave none of their bytes in L1. -/
theorem sendAll_ok {core : Nat} {whole : Bool} {xs : List CoreSector} (hs : Filed s)
    (hx : ∀ x ∈ xs, tfind (coreKey core x.loc.home x.loc.sec) s.sectors = some x)
    (hone : (xs.map (fun x => coreKey core x.loc.home x.loc.sec)).Nodup) (h : (eachDo (sendPending core whole) xs).run s = (.ok (), u)) (k : Nat)
    (hk : k ∈ xs.map (fun x => coreKey core x.loc.home x.loc.sec) ∨ s.maskAt k = 0) : u.maskAt k = 0 := by
  induction xs generalizing s with
  | nil => cases h; simpa using hk
  | cons x xs ih =>
    rw [List.map_cons, List.nodup_cons] at hone
    obtain ⟨_, t, ht, h⟩ := run_bind_ok h
    obtain ⟨⟨hfiled, -⟩, hothers⟩ := sendPending_keeps (whole := whole) (hx x (.head _)) (pendingIs_self hs)
    have hgone := sendPending_ok (hx x (.head _)) ht
    rw [ht] at hfiled hothers
    refine ih hfiled (fun y hy => ?_) hone.2 h ?_
    · rw [hothers _ fun he => hone.1 (List.mem_map.mpr ⟨y, hy, he⟩)]
      exact hx y (.tail _ hy)
    · by_cases hkx : k = coreKey core x.loc.home x.loc.sec
      · exact .inr (hkx ▸ hgone)
      · rw [maskAt_eq (hothers k hkx)]
        simpa [hkx] using hk

theorem pendingLoc_place (h : Filed s) {core k : Nat} (hk : k / 2 ^ 48 < 256) :
    (s.pendingLoc core k).home = k / 2 ^ 48 ∧ (s.pendingLoc core k).sec = k % 2 ^ 48 := by
  unfold State.pendingLoc
  dsimp only
  have hsec : k % 2 ^ 48 < 2 ^ 48 := Nat.mod_lt _ (by positivity)
  split
  · next x hx =>
    obtain ⟨hhome, hs, -⟩ := filed_find h hk hsec hx
    exact ⟨hhome, hs⟩
  · exact ⟨rfl, by simp [Loc.sec]⟩
  · exact ⟨rfl, by simp [Loc.sec]⟩

/-- A sector that a core holds is among those it holds of the sector's line. -/
theorem held_mem_heldLine {core : Nat} {l : Loc} {x : CoreSector} (hx : tfind (coreKey core l.home l.sec) s.sectors = some x) :
    x ∈ s.heldLine core l.home l.line := by
  refine List.mem_filterMap.mpr ⟨l.sec % 8, List.mem_range.mpr (Nat.mod_lt _ (by norm_num)), ?_⟩
  have hsec : 8 * l.line + l.sec % 8 = l.sec := by unfold Loc.line Loc.sec; omega
  rw [hsec, hx]

/-- A release's sector sent home: nothing of it is pending in L1, and each core's pending bytes are what they were. -/
theorem sendSector_ok {r : Rel} {k : Nat} (hs : Filed s) (hk : k / 2 ^ 48 < 256) (hof : r.of_ = .pending r.core)
    (h : (sendSector r k).run s = (.ok (), u)) :
    (u.held? r.core (s.pendingLoc r.core k)).pmask = 0 ∧ ∀ core home b, home < 256 → b < 2 ^ 52 → pendingByte u core home b = pendingByte s core home b := by
  obtain ⟨hhome, hsec⟩ := pendingLoc_place (core := r.core) hs hk
  unfold sendSector at h
  rw [run_get_bind] at h
  dsimp only at h
  rw [hof] at h
  generalize hl : s.pendingLoc r.core k = l at h hhome hsec ⊢
  have hline : l.line < 2 ^ 45 := by unfold Loc.line; unfold Loc.sec at hsec; omega
  rw [← hhome] at hk
  simp only [beq_self_eq_true, Bool.true_and, if_true] at h
  split at h
  · exact nomatch (Prod.mk.inj h).1
  obtain ⟨_, t, ht, h⟩ := run_bind_ok h
  rw [run_modify] at h
  obtain rfl := (Prod.mk.inj h).2
  have hkeep := PendingSide.sendSectors ((pendingIs_pendingSide (pendingByte s)).sends r.core l.home l.line hk hline) (pendingIs_self hs)
    (fun x => x.loc.sec == l.sec)
  rw [ht] at hkeep
  obtain ⟨-, hbytes⟩ := hkeep
  refine ⟨?_, hbytes⟩
  rw [held_pmask]
  change t.maskAt _ = 0
  unfold Machine.sendSectors at ht
  have hsub : (if wholeSent (s.heldLine r.core l.home l.line) then s.heldLine r.core l.home l.line else
      (s.heldLine r.core l.home l.line).filter (fun x => x.loc.sec == l.sec)).Sublist (s.heldLine r.core l.home l.line) := by
    split
    · exact List.Sublist.refl _
    · exact List.filter_sublist
  refine sendAll_ok hs (fun x hx => (heldLine_find hs hk hline (hsub.subset hx)).1) ((heldLine_nodup hs hk hline).sublist (hsub.map _)) ht _ ?_
  rcases hx : tfind (coreKey r.core l.home l.sec) s.sectors with - | x
  · exact .inr (by rw [State.maskAt, hx]; rfl)
  · have hat := filed_find hs hk (by omega) hx
    refine .inl (List.mem_map.mpr ⟨x, ?_, by rw [hat.1, hat.2.1]⟩)
    have hmem := held_mem_heldLine hx
    split
    · exact hmem
    · exact List.mem_filter.mpr ⟨hmem, by simp [hat.2.1]⟩

/-! ### Sectors that a release publishes -/

theorem version?_eq_none {k : VKind} {home sec : Nat} : s.version? k home sec = none ↔
    ∀ v ∈ s.versions, ¬(v.kind = k ∧ v.home = home ∧ v.sector = sec) := by
  unfold State.version?
  split
  · next h => simpa [List.filter_eq_nil_iff, and_imp] using h
  · next v vs h =>
    have hv : v ∈ s.versions.filter (fun v => v.kind == k && v.home == home && v.sector == sec) := by rw [h]; exact .head _
    obtain ⟨hv, hat⟩ := List.mem_filter.mp hv
    exact ⟨nofun, fun hall => absurd (by simpa [and_assoc] using hat) (hall v hv)⟩

/-- The version of a kind in a sector is of that kind and there. -/
theorem version?_place {k : VKind} {home sec : Nat} {v : Version} (h : s.version? k home sec = some v) : v.kind = k ∧ v.home = home ∧ v.sector = sec := by
  unfold State.version? at h
  split at h
  · cases h
  · next w ws hw =>
    have hmem : w ∈ s.versions.filter (fun v => v.kind == k && v.home == home && v.sector == sec) := by rw [hw]; exact .head _
    have hat : w.kind = k ∧ w.home = home ∧ w.sector = sec := by simpa [and_assoc] using (List.mem_filter.mp hmem).2
    cases h
    exact List.foldlRecOn ws Version.join (motive := fun v : Version => v.kind = k ∧ v.home = home ∧ v.sector = sec) hat fun v hv w _ => hv

theorem published_gone (s : State) (core : Nat) (v : Version) : (s.published core v).version? v.kind v.home v.sector = none := by
  rw [version?_eq_none]
  intro w hw
  obtain ⟨x, hx, rfl⟩ := List.mem_map.mp hw
  have hne : ¬(x.kind = v.kind ∧ x.home = v.home ∧ x.sector = v.sector) := by
    have hkept := (List.mem_filter.mp hx).2
    rintro ⟨h₁, h₂, h₃⟩
    simp [h₁, h₂, h₃] at hkept
  split
  · exact hne
  · exact hne

theorem published_none {core : Nat} {v : Version} {k : VKind} {home sec : Nat} (h : s.version? k home sec = none) :
    (s.published core v).version? k home sec = none := by
  rw [version?_eq_none] at h ⊢
  intro w hw
  obtain ⟨x, hx, rfl⟩ := List.mem_map.mp hw
  have hx := h x (List.mem_filter.mp hx).1
  split
  · exact hx
  · exact hx

theorem publishedAll_gone {core : Nat} {v : Version} {vs : List Version} (hv : v ∈ vs) (s : State) :
    (vs.foldl (fun s w => s.published core w) s).version? v.kind v.home v.sector = none := by
  induction vs generalizing s with
  | nil => cases hv
  | cons w ws ih =>
    rcases List.mem_cons.mp hv with rfl | hv
    · exact List.foldlRecOn ws _ (motive := fun s : State => s.version? v.kind v.home v.sector = none) (published_gone s core v)
        fun t ht _ _ => published_none ht
    · exact ih hv _

/-- A version that a release publishes is gone, on its own or with its whole line. -/
theorem publishSector_ok {r : Rel} {k : Nat} {v : Version} (hv : s.version? r.of_ (k / 2 ^ 48) (k % 2 ^ 48) = some v)
    (h : (publishSector r k).run s = (.ok (), u)) : u.version? r.of_ v.home v.sector = none := by
  obtain ⟨hkind, hhome, hsec⟩ := version?_place hv
  unfold publishSector at h
  rw [run_get_bind, hv] at h
  dsimp only at h
  obtain ⟨_, t, -, h⟩ := run_bind_ok h
  split at h
  · obtain ⟨_, t', -, h⟩ := run_bind_ok h
    rw [run_modify] at h
    rw [← (Prod.mk.inj h).2, ← hkind]
    refine publishedAll_gone (List.mem_filterMap.mpr ⟨v.sector % 8, List.mem_range.mpr (Nat.mod_lt _ (by norm_num)), ?_⟩) _
    have hsector : 8 * (⟨v.home, 16 * v.sector, v.md⟩ : Loc).line + v.sector % 8 = v.sector := by unfold Loc.line; dsimp only; omega
    rw [hsector, hkind, ← hv, hhome, hsec]
  · obtain ⟨_, t', -, h⟩ := run_bind_ok h
    rw [run_modify] at h
    rw [← (Prod.mk.inj h).2, ← hkind]
    exact published_gone _ _ _

/-! ### Acquires -/

theorem acquire_sectors {core : Nat} {e : Nat × CoreSector} (he : e ∈ (s.acquire core).sectors) (hc : e.1 / 2 ^ 56 = core) : e.2.pinned = none := by
  obtain ⟨f, -, hkeep⟩ := List.mem_filterMap.mp he
  unfold keepPending at hkeep
  split at hkeep
  · next hf => cases hkeep; exact absurd hc hf
  split at hkeep
  · cases hkeep
  · cases hkeep; rfl

theorem acquire_keeps {core : Nat} {e : Nat × CoreSector} (he : e ∈ s.sectors) (hm : e.2.pmask ≠ 0) :
    ∃ x, (e.1, x) ∈ (s.acquire core).sectors ∧ x.pmask = e.2.pmask ∧ x.pdata = e.2.pdata := by
  by_cases hc : e.1 / 2 ^ 56 = core
  · exact ⟨{ e.2 with pinned := none }, List.mem_filterMap.mpr ⟨e, he, by rw [keepPending, if_neg (not_not.mpr hc), if_neg hm]⟩, rfl, rfl⟩
  · exact ⟨e.2, List.mem_filterMap.mpr ⟨e, he, by rw [keepPending, if_pos hc]⟩, rfl, rfl⟩

theorem acquire_versions (s : State) (core : Nat) : (s.acquire core).versions = s.versions.filter (fun v => v.kind != .snapshot core) := rfl

theorem acquire_noSnapshot {core : Nat} {v : Version} (h : v ∈ (s.acquire core).versions) : v.kind ≠ .snapshot core := by
  rw [acquire_versions] at h
  simpa using (List.mem_filter.mp h).2

/-- An acquire of some scope takes place. -/
theorem execAcquireBoundary_takes {a : Acq} (ha : s.acqs.find? (fun b => b.id == s.ev.a) = some a) (h : a.scope ≠ 0) :
    execAcquireBoundary s = .next (({ s.acquire a.core with acqs := s.acqs.filter (fun b => b.id != a.id) } : State).afterAcquire a) := by
  unfold execAcquireBoundary
  rw [ha]
  dsimp only
  rw [if_neg h]
  rfl

/-- What waits for an acquire is an instruction or a team, and memory stays. -/
theorem afterAcquire_frame (s : State) (a : Acq) : s.afterAcquire a = { s with ops := (s.afterAcquire a).ops, teams := (s.afterAcquire a).teams } := by
  unfold State.afterAcquire
  split <;> rfl

theorem acquire_implicitAcq (s : State) (core c : Nat) : ((s.acquire core).coreState c).implicitAcq = (s.coreState c).implicitAcq := by
  unfold State.acquire
  rw [State.coreState_modCore]
  split
  · next h => rw [h]; rfl
  · rfl

/-- A core at its limit of SNAPSHOT blocks acquires, and the acquire is counted. -/
theorem execImplicitBoundary_acquires (hon : s.ev.on = true) (hcount : 16384 ≤ s.blockCount (.snapshot s.ev.a))
    (hwants : s.wantsBlock s.ev.a s.ev.b s.ev.c (.snapshot s.ev.a) = true) :
    execImplicitBoundary s = .next (((s.acquire s.ev.a).modCore s.ev.a (fun c => { c with implicitAcq := c.implicitAcq + 1 })).count
      (careIndex careImplicit (dieOf s.ev.a))) := by
  have hrun : ¬(s.blockCount (.snapshot s.ev.a) < 16384 ∨ s.wantsBlock s.ev.a s.ev.b s.ev.c (.snapshot s.ev.a) = false) := by simp [hcount, hwants]
  simp only [execImplicitBoundary, hon, if_true, if_neg hrun]

/-- Settles O42: what a release finds left, sends and publishes, and what an acquire drops. -/
theorem boundariesWork : Obligations.BoundariesWork := by
  unfold Obligations.BoundariesWork
  refine ⟨?_, ?_, fun s u r k v => publishSector_ok, ?_, ?_⟩
  · intro s r o id hr hb htodo hsent hparked hlate hfault hsrc ho hk ha
    have hid : r.id = s.ev.a := by simpa using List.find?_some hr
    have hdone := execReleaseBoundary_done hr hb htodo hsent hlate
    rw [State.finishRel_done (hid.symm ▸ hr) hb htodo hsent hparked hsrc, hfault,
      State.afterRelease_phase (s := { s with rels := s.rels.filter (fun q => q.id != r.id) }) ho hk ha] at hdone
    refine ⟨_, hdone, rfl, ?_, fun k hne => ?_⟩
    · rw [State.op?_modOp, if_pos rfl, State.op?_modOp, if_pos rfl]
      exacts [congrArg (fun o => (Option.map _ o).map _) ho, fun _ => rfl, fun _ => rfl]
    · rw [State.op?_modOp, if_neg hne, State.op?_modOp, if_neg hne]
      exacts [rfl, fun _ => rfl, fun _ => rfl]
  · rintro s u r k l hs hk hof rfl h
    exact sendSector_ok hs hk hof h
  · intro s a ha hscope
    refine ⟨_, execAcquireBoundary_takes ha hscope, ?_⟩
    rw [afterAcquire_frame]
    refine ⟨fun b hb => by simpa using (List.mem_filter.mp hb).2, fun v => acquire_noSnapshot (s := s), fun v hv hk => ?_,
      fun e he hc => acquire_sectors (s := s) he hc, fun e he hm => acquire_keeps he hm, rfl, rfl, rfl⟩
    exact List.mem_filter.mpr ⟨hv, by simpa using hk⟩
  · intro s hon hcount hwants
    refine ⟨_, execImplicitBoundary_acquires hon hcount hwants, fun v => acquire_noSnapshot (s := s), ?_, rfl, rfl⟩
    change (((s.acquire s.ev.a).modCore s.ev.a (fun c => { c with implicitAcq := c.implicitAcq + 1 })).coreState s.ev.a).implicitAcq = _
    rw [State.coreState_modCore, if_pos rfl]
    exact congrArg (· + 1) (acquire_implicitAcq s s.ev.a s.ev.a)

end Sys2Proof.Machine
end

section
/-! SUPPORT. Local space: what a service on a granule, a queue element and a change of a bank's mode do, and what they leave (R54 to R57, R141, R150). -/

namespace Sys2Proof.Machine

open Sys2Proof Claim

variable {s t : State}

/-! ### Bytes and full bits -/

theorem tfind_filter_key {α : Type} (p : Nat → Bool) (k : Nat) (t : Table α) :
    tfind k (t.filter (fun e => p e.1)) = if p k = true then tfind k t else none := by
  induction t with
  | nil => simp
  | cons e t ih =>
    obtain ⟨j, v⟩ := e
    by_cases hj : k = j
    · subst hj
      by_cases hp : p k = true
      · simp [hp, tfind]
      · simp [hp, ih]
    · by_cases hp : p j = true
      · simpa [List.filter_cons, hp, tfind, hj] using ih
      · simpa [List.filter_cons, hp, tfind, hj] using ih

/-- The byte `j` of a number of `size` bytes. -/
theorem ofNat_byte_of_mod (v : Nat) {size j : Nat} (h : j < size) :
    BitVec.ofNat 8 (v % 2 ^ (8 * size) / 256 ^ j) = BitVec.ofNat 8 (v / 2 ^ (8 * j)) := by
  have hpow : 2 ^ (8 * size) = 256 ^ j * 256 ^ (size - j) := by rw [← pow_add, Nat.add_sub_cancel' h.le, pow_mul]; norm_num
  have hdvd : 2 ^ 8 ∣ 256 ^ (size - j) := dvd_pow (by norm_num) (by omega)
  refine BitVec.eq_of_toNat_eq ?_
  rw [BitVec.toNat_ofNat, BitVec.toNat_ofNat, hpow, Nat.mod_mul_right_div_self, Nat.mod_mod_of_dvd _ hdvd, pow_mul]
  norm_num

/-! ### Stores served on a granule -/

/-- Lanes stored on a granule change bank bytes and nothing else. -/
theorem granuleStore_frame (o : Op) (cl size : Nat) (r : Req) (s : State) : granuleStore o cl size r s = { s with banks := (granuleStore o cl size r s).banks } := by
  unfold granuleStore
  exact List.foldlRecOn (motive := fun t : State => t = { s with banks := t.banks }) _ _ rfl fun t ht a _ => by rw [ht]; rfl

/-- A lane's bytes stored at a bank. -/
def storeArg (o : Op) (cl size : Nat) (s : State) (a : Nat × Word × Word) : State :=
  s.localWrite cl a.2.1.toNat (srcValue o (ceilDiv size 4) a.1 % 2 ^ (8 * size)) size

/-- A bank byte that no lane of a list stores to. -/
theorem storeArgs_outside {o : Op} {cl size key : Nat} {as : List (Nat × Word × Word)}
    (h : ∀ a ∈ as, key < cl * 2 ^ 22 + a.2.1.toNat ∨ cl * 2 ^ 22 + a.2.1.toNat + size ≤ key) (s : State) :
    tget 0 (as.foldl (storeArg o cl size) s).banks key = tget 0 s.banks key := by
  induction as generalizing s with
  | nil => rfl
  | cons a as ih =>
    rw [List.foldl_cons, ih (fun b hb => h b (.tail _ hb))]
    exact tget_twriteLE_outside _ _ _ _ _ (h a (.head _))

/-- A bank byte holds what the last lane of a list that stores there stores. -/
theorem storeArgs_last {o : Op} {cl size j : Nat} {a : Nat × Word × Word} {after : List (Nat × Word × Word)} (before : List (Nat × Word × Word)) (hj : j < size)
    (h : ∀ b ∈ after, a.2.1.toNat + j < b.2.1.toNat ∨ b.2.1.toNat + size ≤ a.2.1.toNat + j) (s : State) :
    tget 0 ((before ++ a :: after).foldl (storeArg o cl size) s).banks (cl * 2 ^ 22 + (a.2.1.toNat + j)) =
      BitVec.ofNat 8 (srcValue o (ceilDiv size 4) a.1 / 2 ^ (8 * j)) := by
  rw [List.foldl_append, List.foldl_cons, storeArgs_outside fun b hb => by have := h b hb; omega]
  change tget 0 (twriteLE _ (bankKey cl a.2.1.toNat) _ size) _ = _
  rw [← Nat.add_assoc, bankKey, tget_twriteLE_inside _ _ _ _ _ hj, ofNat_byte_of_mod _ hj]

/-! ### What follows a service -/

/-- A fault ends an instruction in flight and changes nothing else, where it is no store of pending bytes. -/
theorem endFaulted_eq {o : Op} (h : storesPlain o.kind = false) (r : Req) (s : State) :
    ∃ f : Op → Op, s.endFaulted o r = s.modOp o.id f ∧ ∀ p, (f p).id = p.id := by
  unfold State.endFaulted
  simp only [h, Bool.not_false, Bool.or_true, if_true]
  exact ⟨_, rfl, fun _ => rfl⟩

theorem lowestBad_eq_none {rs : List Req} (h : ∀ r ∈ rs, r.state.bad = false) : lowestBad rs = none := by
  induction rs with
  | nil => rfl
  | cons r rs ih => simp [lowestBad, ih fun q hq => h q (.tail _ hq), h r (.head _)]

/-- Settling a local access changes the instruction alone; without faults it keeps its results. -/
theorem settleLocal_eq {id : Nat} {o : Op} (ho : s.op? id = some o) (hk : storesPlain o.kind = false) :
    ∃ f : Op → Op, s.settleLocal id = s.modOp id f ∧ (∀ p, (f p).id = p.id) ∧ ((∀ r ∈ o.reqs, r.state.bad = false) → (f o).results = o.results) := by
  have hid : o.id = id := by simpa using List.find?_some ho
  unfold State.settleLocal
  rw [ho]
  dsimp only
  split
  · exact ⟨fun p => p, by simp [State.modOp], fun _ => rfl, fun _ => rfl⟩
  split
  · next r hr =>
    obtain ⟨f, he, hf⟩ := endFaulted_eq hk r s
    exact ⟨f, hid ▸ he, hf, fun h => by rw [lowestBad_eq_none h] at hr; cases hr⟩
  · exact ⟨_, rfl, fun _ => rfl, fun _ => rfl⟩

theorem mem_lset {α : Type} {f : α → α} {x : α} {xs : List α} {n : Nat} (h : x ∈ lset xs n f) : x ∈ xs ∨ ∃ y ∈ xs, x = f y := by
  induction xs generalizing n with
  | nil => exact .inl (by simp [lset] at h)
  | cons y ys ih =>
    cases n with
    | zero =>
      rcases List.mem_cons.mp h with rfl | h
      · exact .inr ⟨y, .head _, rfl⟩
      · exact .inl (.tail _ h)
    | succ n =>
      rcases List.mem_cons.mp h with rfl | h
      · exact .inl (.head _)
      · rcases ih h with h | ⟨z, hz, rfl⟩
        · exact .inl (.tail _ h)
        · exact .inr ⟨z, .tail _ hz, rfl⟩

/-- An instruction with a request done and results gained. -/
def Op.served (o : Op) (n : Nat) (res : List (RegElem × Word)) : Op :=
  { o with reqs := lset o.reqs n (fun r => { r with state := .done }), results := o.results ++ res }

/-- A service of a local access changes the instruction alone, beside its granule; without faults it gains the results. -/
theorem served_eq {o : Op} {id : Nat} (ho : s.op? id = some o) (hk : storesPlain o.kind = false) (n : Nat) (res : List (RegElem × Word)) :
    ∃ ops p, ((s.setReq id n .done).modOp id (fun p => { p with results := p.results ++ res })).settleLocal id = { s with ops := ops } ∧
      ({ s with ops := ops } : State).op? id = some p ∧ ((∀ r ∈ o.reqs, r.state.bad = false) → p.results = o.results ++ res) := by
  have hserved : ((s.setReq id n .done).modOp id (fun p => { p with results := p.results ++ res })).op? id = some (o.served n res) := by
    unfold State.setReq State.modReq
    rw [State.op?_modOp, if_pos rfl, State.op?_modOp, if_pos rfl, ho]
    exacts [rfl, fun _ => rfl, fun _ => rfl]
  obtain ⟨f, he, hf, hres⟩ := settleLocal_eq hserved hk
  refine ⟨_, f (o.served n res), he.trans rfl, ?_, fun h => hres fun r hr => ?_⟩
  · change (State.modOp _ id f).op? id = _
    rw [State.op?_modOp _ _ hf, if_pos rfl, hserved]
    rfl
  · rcases mem_lset hr with hr | ⟨q, -, rfl⟩
    · exact h r hr
    · rfl

/-! ### Local accesses -/

section
variable {o : Op} {r : Req} {fe size dst : Nat} {store : Bool}

theorem execGranuleServe_local (ho : s.op? s.ev.a = some o) (hk : o.kind = .local store fe size dst) (hr : o.reqs[s.ev.b]? = some r)
    (hst : r.state = .confirmed) (hmay : s.mayServe o = true) (hready : s.granuleReady o store fe r = true) :
    execGranuleServe s = .next (s.serveLocal o s.ev.b store fe size dst r) := by
  unfold execGranuleServe
  rw [ho]
  dsimp only
  rw [hk, hr]
  simp [hst, hmay, hready]

/-- A local store served on its granule: its bytes written, its bit as FE says, and then the instruction itself settled. -/
theorem serveLocal_store (n : Nat) (hmode : s.bankMode (clusterOf o.core) (r.va / 2 ^ 18) ≠ 0) : s.serveLocal o n true fe size dst r =
    (((if fe = 3 then (granuleStore o (clusterOf o.core) size r s).setFull (clusterOf o.core) r.va true
      else granuleStore o (clusterOf o.core) size r s).setReq o.id n .done).modOp o.id (fun p => { p with results := p.results ++ [] })).settleLocal o.id := by
  unfold State.serveLocal
  exact if_neg hmode

/-- A local load served on its granule: its lanes' values, its bit as FE says, and then the instruction itself settled. -/
theorem serveLocal_load (n : Nat) (hmode : s.bankMode (clusterOf o.core) (r.va / 2 ^ 18) ≠ 0) : s.serveLocal o n false fe size dst r =
    (((if fe = 2 then s.setFull (clusterOf o.core) r.va false else s).setReq o.id n .done).modOp o.id
      (fun p => { p with results := p.results ++ granuleLoad s (clusterOf o.core) size dst r })).settleLocal o.id := by
  unfold State.serveLocal
  exact if_neg hmode

end

/-- The registers that lanes of a local load write. -/
theorem granuleLoad_eq (s : State) (cl size dst : Nat) (r : Req) : granuleLoad s cl size dst r = (r.args.map (fun a =>
    (List.range (ceilDiv size 4)).map (fun k => (RegElem.v (dst + k) a.1, BitVec.ofNat 32 (treadLE s.banks (cl * 2 ^ 22 + a.2.1.toNat) size / 2 ^ (32 * k)))))).flatten := by
  unfold granuleLoad
  congr 1
  refine List.map_congr_left fun a _ => List.ext_getElem (by simp [loadWords]) fun k h₁ h₂ => ?_
  simp [loadWords, State.localRead, bankKey]

end Sys2Proof.Machine
end

section
/-! SUPPORT. Local space, clause by clause of O43: accesses, queue elements and bank modes (R54 to R57, R141, R150). -/

namespace Sys2Proof.Machine

open Sys2Proof Claim

variable {s t : State}

/-! ### Local accesses -/

section
variable {o : Op} {r : Req} {fe size dst : Nat}

theorem op?_id {k : Nat} (h : s.op? k = some o) : o.id = k := by simpa using List.find?_some h

/-- The bank bytes and the bit after a local store. -/
theorem storeServed_frame (o : Op) (cl fe size : Nat) (r : Req) (s : State) :
    (if fe = 3 then (granuleStore o cl size r s).setFull cl r.va true else granuleStore o cl size r s) =
      { s with banks := (granuleStore o cl size r s).banks, full := if fe = 3 then tset false s.full (granuleKey cl r.va) true else s.full } := by
  split <;> rw [granuleStore_frame]
  rfl

theorem localStore_serves (ho : s.op? s.ev.a = some o) (hk : o.kind = .local true fe size dst) (hr : o.reqs[s.ev.b]? = some r)
    (hst : r.state = .confirmed) (hmay : s.mayServe o = true) (hready : s.granuleReady o true fe r = true)
    (hmode : s.bankMode (clusterOf o.core) (r.va / 2 ^ 18) ≠ 0) : ∃ ops, execGranuleServe s = .next { s with
      ops := ops, banks := (granuleStore o (clusterOf o.core) size r s).banks
      full := if fe = 3 then tset false s.full (granuleKey (clusterOf o.core) r.va) true else s.full } := by
  rw [execGranuleServe_local ho hk hr hst hmay hready, serveLocal_store _ hmode, storeServed_frame]
  obtain ⟨ops, _, h, -⟩ := served_eq (s := { s with
    banks := (granuleStore o (clusterOf o.core) size r s).banks
    full := if fe = 3 then tset false s.full (granuleKey (clusterOf o.core) r.va) true else s.full }) (id := o.id) (op?_id ho ▸ ho)
    (by rw [hk]; rfl) s.ev.b []
  exact ⟨ops, by rw [h]⟩

theorem localLoad_serves (ho : s.op? s.ev.a = some o) (hk : o.kind = .local false fe size dst) (hr : o.reqs[s.ev.b]? = some r)
    (hst : r.state = .confirmed) (hmay : s.mayServe o = true) (hready : s.granuleReady o false fe r = true)
    (hmode : s.bankMode (clusterOf o.core) (r.va / 2 ^ 18) ≠ 0) : ∃ t p, execGranuleServe s = .next t ∧
      t = { s with ops := t.ops, full := if fe = 2 then tset false s.full (granuleKey (clusterOf o.core) r.va) false else s.full } ∧ t.op? o.id = some p ∧
      (o.reqs.all (fun q => !q.state.bad) = true → p.results = o.results ++ granuleLoad s (clusterOf o.core) size dst r) := by
  have hbase : (if fe = 2 then s.setFull (clusterOf o.core) r.va false else s) =
      { s with full := if fe = 2 then tset false s.full (granuleKey (clusterOf o.core) r.va) false else s.full } := by split <;> rfl
  rw [execGranuleServe_local ho hk hr hst hmay hready, serveLocal_load _ hmode, hbase]
  obtain ⟨ops, p, h, hp, hres⟩ := served_eq (s := { s with full := if fe = 2 then tset false s.full (granuleKey (clusterOf o.core) r.va) false else s.full })
    (id := o.id) (op?_id ho ▸ ho) (by rw [hk]; rfl) s.ev.b (granuleLoad s (clusterOf o.core) size dst r)
  exact ⟨_, p, by rw [h], rfl, hp, fun hgood => hres fun q hq => by simpa using List.all_eq_true.mp hgood q hq⟩

end

/-! ### Queue elements -/

theorem isFull_eq (s : State) (cl la : Nat) : s.isFull cl la = fullAt s cl (la / 16) := rfl

section
variable {g : Group} {p : Pending} {q : Nat} {cl : Nat} {b : QBind}

/-- A gang of a group on a core, not halted and not to be tried again, is served its next element. -/
theorem execQueueElementServe_serves (hg : tfind s.ev.a s.groups = some g) (hp : tfind s.ev.b g.pending = some p) (hres : g.resident = true)
    (hhalt : g.halted = false) (hgo : s.resumes g p.strand = false) :
    execQueueElementServe s = .next (if p.pushing then s.servePush g p else s.servePop g p) := by
  unfold execQueueElementServe
  rw [hg]
  dsimp only
  rw [hp]
  simp only [hres, hhalt, hgo, Bool.true_eq_false, Bool.false_eq_true, or_self, if_false]
  split <;> rfl

theorem servePop_serves {f l : Nat} {rest : List (Nat × Nat × Nat)} (hpops : p.pops = (f, q, l) :: rest) (hq : q < 8) (hb : s.binding g q = some (cl, b))
    (hch : s.bankChanging cl ((b.start + b.rd) / 2 ^ 18) = false) (hfull : fullAt s cl ((b.start + b.rd) / 16) = true)
    (hfirst : s.firstAt cl (b.start + b.rd) true p.since g.gid = true) : s.servePop g p =
      (s.setFull cl (b.start + b.rd) false).modGroup g.gid (fun g => { g with
        qbinds := tset ⟨0, 0, 0, 0⟩ g.qbinds q { b with rd := (b.rd + 16) % b.size }
        pending := tinsert p.strand { p with
          since := s.clock
          pops := rest
          popped := tset 0 p.popped (32 * f + l) (BitVec.ofNat 32 (treadLE s.banks (cl * 2 ^ 22 + (b.start + b.rd)) 4)) } g.pending }) := by
  have hch' : s.bankChanging cl (bankOf (b.start + b.rd)) = false := hch
  unfold State.servePop
  rw [hpops]
  dsimp only
  rw [if_neg (by omega), if_neg (by omega), hb]
  dsimp only
  rw [isFull_eq, hfull, hfirst, hch']
  rfl

/-- A group whose gang has pushed its last element to a queue: its gang goes on. -/
def Group.pushedLast (g : Group) (p : Pending) (q : Nat) (b : QBind) : Group :=
  (({ g with qbinds := tset ⟨0, 0, 0, 0⟩ g.qbinds q { b with wr := b.after b.wr } } : Group).endPending p.strand).modStrands
    (g.gangOf (g.strand p.strand).gang) (fun _ st => { st with pc := p.next, wait := .ready })

theorem servePush_last {l : Nat} {w : Word} (hpushes : p.pushes = [(q, l, w)]) (hb : s.binding g q = some (cl, b))
    (hch : s.bankChanging cl ((b.start + b.wr) / 2 ^ 18) = false) (hfull : fullAt s cl ((b.start + b.wr) / 16) = false)
    (hfirst : s.firstAt cl (b.start + b.wr) false p.since g.gid = true) : s.servePush g p =
      ((s.localWrite cl (b.start + b.wr) w.toNat 16).setFull cl (b.start + b.wr) true).modGroup g.gid (fun g => g.pushedLast p q b) := by
  have hch' : s.bankChanging cl (bankOf (b.start + b.wr)) = false := hch
  unfold State.servePush
  rw [hpushes]
  dsimp only
  rw [hb]
  dsimp only
  rw [isFull_eq, hfull, hfirst, hch']
  rfl

theorem mem_gangOf_lt {gang u : Nat} (h : u ∈ g.gangOf gang) : u < g.strands.length :=
  List.mem_range.mp (List.mem_filter.mp (List.mem_filter.mp h).1).1

theorem pushedLast_pending (g : Group) (p : Pending) (q : Nat) (b : QBind) : tfind p.strand (g.pushedLast p q b).pending = none := tfind_terase_self _ _

theorem pushedLast_goesOn {u : Nat} (h : u ∈ g.gangOf (g.strand p.strand).gang) :
    ((g.pushedLast p q b).strand u).pc = p.next ∧ ((g.pushedLast p q b).strand u).wait = .ready := by
  rw [Group.pushedLast, Group.strand_modStrands, if_pos ⟨h, mem_gangOf_lt h⟩]
  exact ⟨rfl, rfl⟩

end

/-! ### Bank modes -/

theorem lastMode_eq (s : State) (cl b : Nat) : s.lastMode cl b = modeToBe s cl b := by
  have hp : (fun c : BankChange => c.cluster == cl && c.bank == b) = fun c => decide (c.cluster = cl ∧ c.bank = b) := by
    funext c
    simp [Bool.decide_and, beq_eq_decide]
  unfold State.lastMode modeToBe
  rw [hp, List.getLastD_eq_getLast?, List.getLast?_map]
  rcases (s.changes.filter _).getLast? with - | c <;> rfl

/-- CLBMODE asks for a change of each bank whose field names a mode other than the one it will have. -/
theorem execClbmodeWrite_asks (h : s.ev.a < 48) : execClbmodeWrite s = .next { s with
    changes := s.changes ++ ((List.range 16).filter (fun b => decide (s.ev.val.toNat / 4 ^ b % 4 ≠ 3 ∧
      s.ev.val.toNat / 4 ^ b % 4 ≠ modeToBe s s.ev.a b))).map (fun b => ⟨s.ev.a, b, s.ev.val.toNat / 4 ^ b % 4, none⟩) } := by
  have hfield : ∀ b, bitsOf s.ev.val.toNat (2 * b) 2 = s.ev.val.toNat / 4 ^ b % 4 := fun b => by rw [bitsOf, pow_mul]; rfl
  unfold execClbmodeWrite
  dsimp only
  rw [if_neg (by omega)]
  simp only [hfield, lastMode_eq, Bool.decide_and, ne_eq, decide_not, bne, beq_eq_decide]

/-- A cleared bank's bytes are 0, and every other byte of local space is as it was. -/
theorem localByte_clearBank {cl bank c la : Nat} (hbank : bank < 16) (hla : la < 2 ^ 22) :
    localByte (s.clearBank cl bank) c la = if c = cl ∧ la / 2 ^ 18 = bank then 0 else localByte s c la := by
  unfold localByte State.clearBank tget
  dsimp only
  rw [tfind_filter_key (fun k => !(decide (bankKey cl (bank * 2 ^ 18) ≤ k) && decide (k < bankKey cl (bank * 2 ^ 18) + 2 ^ 18)))]
  have hin : (!(decide (bankKey cl (bank * 2 ^ 18) ≤ c * 2 ^ 22 + la) && decide (c * 2 ^ 22 + la < bankKey cl (bank * 2 ^ 18) + 2 ^ 18))) = true ↔
      ¬(c = cl ∧ la / 2 ^ 18 = bank) := by
    unfold bankKey
    simp only [Bool.not_eq_true', Bool.and_eq_false_iff, decide_eq_false_iff_not]
    omega
  by_cases hat : c = cl ∧ la / 2 ^ 18 = bank
  · rw [if_neg (mt hin.mp (not_not.mpr hat)), if_pos hat]; rfl
  · rw [if_pos (hin.mpr hat), if_neg hat]

/-- A cleared bank's granules are empty, and every other granule's bit is as it was. -/
theorem fullAt_clearBank {cl bank c la : Nat} (hbank : bank < 16) (hla : la < 2 ^ 22) :
    fullAt (s.clearBank cl bank) c (la / 16) = if c = cl ∧ la / 2 ^ 18 = bank then false else fullAt s c (la / 16) := by
  unfold fullAt State.clearBank tget
  dsimp only
  rw [tfind_filter_key (fun k => !(decide (granuleKey cl (bank * 2 ^ 18) ≤ k) && decide (k < granuleKey cl (bank * 2 ^ 18) + 2 ^ 14)))]
  have hin : (!(decide (granuleKey cl (bank * 2 ^ 18) ≤ c * 2 ^ 18 + la / 16) &&
      decide (c * 2 ^ 18 + la / 16 < granuleKey cl (bank * 2 ^ 18) + 2 ^ 14))) = true ↔ ¬(c = cl ∧ la / 2 ^ 18 = bank) := by
    unfold granuleKey
    simp only [Bool.not_eq_true', Bool.and_eq_false_iff, decide_eq_false_iff_not]
    omega
  by_cases hat : c = cl ∧ la / 2 ^ 18 = bank
  · rw [if_neg (mt hin.mp (not_not.mpr hat)), if_pos hat]; rfl
  · rw [if_pos (hin.mpr hat), if_neg hat]

/-- A bank that leaves SCRATCH or FIFO mode is cleared; bindings of queues to it may go. -/
theorem changeBank_leaves {b : BankChange} (h : s.bankMode b.cluster b.bank ≠ 0) : ∃ groups, s.changeBank b =
    { s.clearBank b.cluster b.bank with groups := groups, bankModes := tset 0 s.bankModes (16 * b.cluster + b.bank) b.mode } := by
  unfold State.changeBank
  dsimp only
  rw [if_neg h]
  split
  · exact ⟨_, rfl⟩
  · exact ⟨_, rfl⟩

/-- The change of a bank that nothing holds and nothing is pending in is made. -/
theorem execBankModeChange_changes {b : BankChange} (hb : s.changes.find? (fun c => c.cluster == s.ev.a && c.bank == s.ev.b) = some b) (hop : b.op = none)
    (hboot : s.boot.phase = 4 ∨ 8 ≤ b.cluster) (hfree : ∀ o ∈ s.ops, clusterOf o.core = b.cluster → b.bank ∉ o.banks)
    (hempty : s.bankedIn b.cluster b.bank = []) : execBankModeChange s = .next { s.changeBank b with changes := s.changes.erase b } := by
  have hcl : b.cluster = s.ev.a := by
    have h := List.find?_some hb
    simp only [Bool.and_eq_true, beq_iff_eq] at h
    exact h.1
  have hheld : s.bootHeld s.ev.a = false := by
    unfold State.bootHeld
    simp only [Bool.and_eq_false_iff, decide_eq_false_iff_not]
    omega
  have hany : s.ops.any (fun o => clusterOf o.core == b.cluster && o.banks.contains b.bank) = false := by
    rw [List.any_eq_false]
    intro o ho
    simpa using hfree o ho
  have hsame : s.emptyBank b.cluster b.bank = s := by unfold State.emptyBank; rw [hempty]; rfl
  unfold execBankModeChange
  rw [hheld, hb]
  dsimp only
  rw [hany, hsame, hempty, hop]
  rfl

end Sys2Proof.Machine
end

section
/-! SUPPORT. O43: local space serves its accesses, its queues and its mode changes. -/

namespace Sys2Proof.Machine

open Sys2Proof Claim

/-- A write of one granule's bit, read at any granule's key. -/
theorem tget_full_tset (full : Table Bool) (key n : Nat) (v : Bool) : tget false (tset false full key v) n = if n = key then v else tget false full n :=
  tget_tset _ _ _ _ _

/-- The bits after an access that sets or clears its granule's bit under some condition. -/
theorem tget_full_ite (full : Table Bool) (key n : Nat) (v : Bool) (c : Prop) [Decidable c] :
    tget false (if c then tset false full key v else full) n = if c ∧ n = key then v else tget false full n := by
  by_cases hc : c
  · simp [hc, tget_full_tset]
  · simp [hc]

/-- Settles O43: each service's equation, read through the bytes and bits it leaves. -/
theorem localSpaceServes : Obligations.LocalSpaceServes := by
  unfold Obligations.LocalSpaceServes
  refine ⟨?_, ?_, ?_, ?_, ?_, ?_, ?_⟩
  · intro s o r fe size dst ho hk hr hst hmay hready hmode
    obtain ⟨ops, h⟩ := localStore_serves ho hk hr hst hmay hready hmode
    refine ⟨_, h, rfl, fun key hkey => storeArgs_outside hkey s, fun before a after hargs j hj hafter => ?_, fun n => ?_⟩
    · have hlast := storeArgs_last (cl := clusterOf o.core) (o := o) before hj hafter s
      rw [← hargs] at hlast
      exact hlast
    · exact tget_full_ite _ _ _ _ _
  · intro s o r fe size dst ho hk hr hst hmay hready hmode
    obtain ⟨t, p, h, ht, hp, hres⟩ := localLoad_serves ho hk hr hst hmay hready hmode
    rw [granuleLoad_eq] at hres
    have hfull : t.full = if fe = 2 then tset false s.full (granuleKey (clusterOf o.core) r.va) false else s.full := congrArg State.full ht
    refine ⟨t, p, h, by rw [hfull]; exact ht, hp, hres, fun n => ?_⟩
    rw [hfull]
    exact tget_full_ite _ _ _ _ _
  · intro s g p f q l rest cl b hg hgid hp hstrand hres hhalt hgo hpushing hpops hq hb hch hfull hfirst
    have h := execQueueElementServe_serves hg hp hres hhalt hgo
    rw [hpushing, if_neg Bool.false_ne_true, servePop_serves hpops hq hb hch hfull hfirst] at h
    refine ⟨_, h, rfl, fun n => tget_full_tset s.full (granuleKey cl (b.start + b.rd)) n false, ?_⟩
    change tfind s.ev.a (tmodify g.gid _ s.groups) = _
    rw [tfind_tmodify_at hgid hg, hstrand]
  · intro s g p q l w cl b hg hgid hp hstrand hres hhalt hgo hpushing hpushes hb hch hfull hfirst
    have h := execQueueElementServe_serves hg hp hres hhalt hgo
    rw [hpushing, if_pos rfl, servePush_last hpushes hb hch hfull hfirst] at h
    refine ⟨_, g.pushedLast p q b, h, rfl, ?_, fun k hk => tget_twriteLE_outside _ _ _ _ _ hk, fun n => tget_full_tset s.full (granuleKey cl (b.start + b.wr)) n true,
      ?_, hstrand ▸ pushedLast_pending g p q b, fun u hu => pushedLast_goesOn (hstrand ▸ hu)⟩
    · exact (treadLE_twriteLE _ _ _ _).trans (Nat.mod_eq_of_lt (by have := w.isLt; omega))
    · change tfind s.ev.a (tmodify g.gid _ s.groups) = _
      rw [tfind_tmodify_at hgid hg]
  · intro s h
    exact ⟨_, execClbmodeWrite_asks h, rfl, rfl⟩
  · intro s hphase hcl
    have hheld : s.bootHeld s.ev.a = true := by simp [State.bootHeld, hphase, hcl]
    exact if_pos hheld
  · intro s b hb hop hcl hbank hboot hfree hmode hempty
    obtain ⟨groups, h⟩ := changeBank_leaves hmode
    refine ⟨_, execBankModeChange_changes hb hop hboot hfree hempty, rfl, ?_, ?_, ?_, ?_⟩ <;> rw [h]
    · intro c k hk
      have hkey : 16 * c + k = 16 * b.cluster + b.bank ↔ c = b.cluster ∧ k = b.bank := by omega
      exact (tget_tset _ _ _ _ _).trans (by simp only [hkey]; rfl)
    · intro la hla
      have hat : b.cluster = b.cluster ∧ la / 2 ^ 18 = b.bank := ⟨rfl, hla⟩
      exact ⟨(localByte_clearBank hbank (by omega)).trans (if_pos hat), (fullAt_clearBank hbank (by omega)).trans (if_pos hat)⟩
    · intro c la hla hout
      have hat : ¬(c = b.cluster ∧ la / 2 ^ 18 = b.bank) := by tauto
      exact ⟨(localByte_clearBank hbank hla).trans (if_neg hat), (fullAt_clearBank hbank hla).trans (if_neg hat)⟩
    · exact ⟨rfl, rfl, rfl⟩

end Sys2Proof.Machine
end

section
/-! SUPPORT. What it takes to make room in a full L1 set whose lines' home sets are full of versions: a line's pinned value goes home, a speculative
task is aborted for its block, and the group that its record names as worker is idle (R10, R48, R66, R380). -/

namespace Sys2Proof.Machine

open Sys2Proof Claim

variable {s t : State}

/-! ### A block in a full home set -/

/-- A set full of blocks of one line, of which a task that is not its domain's frontier task has the only one: the task is aborted for room. -/
theorem makeRoom_aborts {home launch slot n : Nat} {inSet : List (VKind × Nat)}
    (h : inSet.filter (fun b => s.specTask b.1) = [(.spec launch slot, n)]) : s.makeRoom home inSet = (s.abortTasks launch [slot], true) := by
  unfold State.makeRoom
  rw [h]
  rfl

theorem block?_full {home line : Nat} {k : VKind} (hnew : s.hasBlock home line k = false) (hour : s.foreign (128 * line) = false)
    (hall : (s.blocksAt home).length = 8) (hset : s.setBlocks home line = s.blocksAt home) (hroom : s.makeRoom home (s.blocksAt home) = (t, true)) :
    s.block? home line k = (t, some .set) := by
  unfold State.block?
  dsimp only
  rw [hnew, hour, hset, hall, hroom]
  simp

/-- Bytes put home where there is a block for them. -/
theorem putVersion_ok {k : VKind} (hk : k.noTask) {l : Loc} {m : BitVec 16} {d : BitVec 128} {whole : Bool} {fault : Option Nat} {place : Place}
    (hb : s.block? l.home l.line k = (t, some place)) :
    (putVersion k l m d whole fault).run s = (.ok (), t.addBytes ⟨k, l.home, l.sec, l.md, m, d, whole, fault, place⟩) := by
  have htake : (takeBlock l k).run s = (.ok place, t) := by
    unfold takeBlock
    rw [run_bind, run_modify, State.limitStop_noTask s l.home l.line hk]
    dsimp only
    rw [run_get_bind, hb]
    rfl
  unfold putVersion
  rw [run_bind, htake]
  dsimp only
  rw [run_modify, State.ownerRuns_noTask t hk, if_pos rfl]

/-! ### A pinned line evicted -/

/-- L1 evicts a line of which it holds one pinned sector and nothing pending: the pinned value goes home, and the sector is held no more. -/
theorem evictL1_pinned {core home line bank : Nat} {x : CoreSector} {p : BitVec 128} (hheld : s.heldLine core home line = [x]) (hm : x.pmask = 0)
    (hp : x.pinned = some p) (hunder : s.underLimit home line (.snapshot core) = true)
    (hput : (putVersion (.snapshot core) x.loc (BitVec.allOnes 16) p false none).run s = (.ok (), t)) :
    s.evictL1 core home line bank =
      { t.unpin core (s.cacheBank (clusterOf core) bank) x.loc with l1conf := terase (coreKey core home line) t.l1conf } := by
  have hrun : (evictLineL1 core home line bank).run s = (.ok (),
      { t.unpin core (s.cacheBank (clusterOf core) bank) x.loc with l1conf := terase (coreKey core home line) t.l1conf }) := by
    unfold evictLineL1
    rw [run_get_bind]
    dsimp only
    rw [hheld]
    simp only [List.filter_cons, List.filter_nil, hm, bne_self_eq_false, Bool.false_and, Bool.false_eq_true, if_false, Bool.and_false, hunder,
      Bool.not_true, Bool.or_self, List.any_cons, List.any_nil, hp]
    rw [run_bind, eachDo, run_bind, hp]
    dsimp only
    rw [hput]
    rfl
  unfold State.evictL1 State.after Mem.on
  rw [hrun]

theorem unpin_groups (s : State) (core : Nat) (bank : Option Nat) (l : Loc) : (s.unpin core bank l).groups = s.groups := rfl

/-- A sector without pending bytes is held no more once its pin is gone. -/
theorem unpin_sectors {l : Loc} {x : CoreSector} (core : Nat) (bank : Option Nat) (hx : s.held? core l = x) (hm : x.pmask = 0) :
    (s.unpin core bank l).sectors = terase (coreKey core l.home l.sec) s.sectors := by
  unfold State.unpin State.setHeld
  rw [hx]
  exact if_pos ⟨hm, rfl⟩

/-- What that eviction leaves of sectors and groups. -/
theorem evictL1_pinned_leaves {core home line bank : Nat} {x : CoreSector} {p : BitVec 128} (hheld : s.heldLine core home line = [x]) (hm : x.pmask = 0)
    (hp : x.pinned = some p) (hunder : s.underLimit home line (.snapshot core) = true)
    (hput : (putVersion (.snapshot core) x.loc (BitVec.allOnes 16) p false none).run s = (.ok (), t)) (hx : t.held? core x.loc = x) :
    (s.evictL1 core home line bank).sectors = terase (coreKey core x.loc.home x.loc.sec) t.sectors ∧ (s.evictL1 core home line bank).groups = t.groups := by
  rw [evictL1_pinned hheld hm hp hunder hput]
  exact ⟨unpin_sectors core (s.cacheBank (clusterOf core) bank) hx hm, unpin_groups t core (s.cacheBank (clusterOf core) bank) x.loc⟩

/-- A core that holds the first sector of a line and no other. -/
theorem heldLine_first {core home line : Nat} {x : CoreSector} (hfirst : tfind (coreKey core home (8 * line)) s.sectors = some x)
    (hothers : ∀ k, 0 < k → k < 8 → tfind (coreKey core home (8 * line + k)) s.sectors = none) : s.heldLine core home line = [x] := by
  unfold State.heldLine
  rw [show List.range 8 = [0, 1, 2, 3, 4, 5, 6, 7] from rfl]
  simp [hfirst, hothers]

@[simp] theorem State.addBytes_groups (s : State) (new : Version) : (s.addBytes new).groups = s.groups := by
  unfold State.addBytes
  dsimp only
  exact (apply_ite State.groups _ _ _).trans (ite_self _)

end Sys2Proof.Machine
end

section
/-! SUPPORT. The machine that refutes O30: a group without a task, which a task domain's record names as its worker, stores to a line
of a full L1 set. -/

namespace Sys2Proof.Machine

open Sys2Proof Claim

/-- A location of line `i` of the identity mapping. -/
def lineLoc (i : Nat) : Loc := ⟨homeOf (128 * i) false, 128 * i, none⟩

/-- The placed group with one strand, one active lane and an address in v2. -/
def storingGroup (a : Word) : Group := { placedGroup with strands := [⟨0x20000, [1], false, 0, .ready⟩], v := [(64, a)] }

/-- A domain whose one record, of a task that is not open, names group 0 as its worker. -/
def namingDomain : Domain := ⟨1, 0, 0, 0, 0, 0, 0, 0, [(0, ⟨0, [], 0, 0, 0, 0, 0, some 0, none, none, true⟩)], 0, none, false, []⟩

/-- A task of that domain and seven of a launch that has no domain, by launch and slot. -/
def crowdTasks : List (Nat × Nat) := (1, 0) :: (List.range 7).map (fun k => (2, k))

/-- The read marks of those tasks in one line of a home set. -/
def crowdMarks (home line : Nat) : List Mark := crowdTasks.map (fun e => ⟨e.1, e.2, home, 8 * line, [], false, .set⟩)

/-- The first sector of a line, pinned in core 0's L1. -/
def pinnedLine (j : Nat) : CoreSector := ⟨lineLoc j, 0, 0, some 0, false, none, none⟩

/-- Lines pinned in core 0's L1. -/
def pinnedLines (js : List Nat) : Table CoreSector := js.map (fun j => (coreKey 0 (lineLoc j).home (8 * j), pinnedLine j))

/-- The placed machine, with nothing on the agenda. -/
def storingBase : State := { State.reset.placeWord 64 0 with agenda := [] }

/-- Group 0 stands at a store to an address, core 0's L1 has lines pinned, and the home set of the first of them is full. -/
def crowded (a : Word) (j : Nat) (js : List Nat) : State := { storingBase with
  groups := [(0, storingGroup a)]
  domains := [(1, namingDomain)]
  marks := crowdMarks (lineLoc j).home j
  sectors := pinnedLines (j :: js) }

/-- The gang of the store, as it issues. -/
def storingCtx (a : Word) : Ctx := ⟨storingGroup a, [0], 0, 0x20000, 0, 128, 8, 8, List.replicate 32 0, true, false, 0⟩

/-- ST.B v1, [v2] with flag f11. -/
def byteStore : MEM := ⟨.v 1, .v 2, .unused, 0, 0, 0, false, false, false, false, 11⟩

/-! ### Range 0, which maps every address to itself -/

theorem translate_placed {va : Nat} (h : va < 2 ^ 32) : translate placedRanges va 1 false true false = .ok ⟨homeOf va false, va, none⟩ := by
  have hbase : rangeBase placedRanges 0 = 0xB := by decide
  have hlim : rangeLim placedRanges 0 = 0xFFFFFFFFF0000 := by decide
  have hoff : rangeOff placedRanges 0 = 0 := by decide
  have hhit : rangeHit placedRanges va = some 0 := by
    unfold rangeHit
    rw [show List.range 16 = 0 :: (List.range 15).map (· + 1) by decide, List.find?_cons_of_pos]
    rw [hbase, hlim]
    simp only [bitsOf, Bool.and_eq_true, decide_eq_true_eq]
    exact ⟨⟨by decide, by omega⟩, by omega⟩
  unfold translate locOf
  rw [hhit]
  dsimp only
  rw [hbase, hlim, hoff, if_neg (by omega)]
  norm_num [bitsOf]
  rw [if_neg (by omega)]
  rfl

variable (a : Word) (j : Nat) (js : List Nat)

theorem storing_laneActive : ∀ l < 4, (storingGroup a).laneActive l = (BitVec.getLsbD (1 : BitVec 4) l) := by
  intro l hl
  unfold Group.laneActive Group.mask
  rw [Nat.div_eq_of_lt hl, Nat.mod_eq_of_lt hl]
  rfl

theorem storing_active : (storingCtx a).active = [0] := by
  have h := storing_laneActive a
  show List.filter (storingGroup a).laneActive [0, 1, 2, 3] = [0]
  simp [h]

theorem storing_va : (storingCtx a).va byteStore 0 = a.toNat := by
  have hbase : (storingCtx a).base64 byteStore.base 0 = a.toNat := by
    show (tget 0 [(64, a)] 64).toNat + (tget 0 [(64, a)] 96).toNat * 2 ^ 32 = a.toNat
    simp [tget, tfind]
  unfold Ctx.va
  rw [hbase]
  have ha := a.isLt
  simp [byteStore]
  omega

theorem crowded_ctx : issueCtx (crowded a j js) = some (storingCtx a) := by
  have hopen : (crowded a j js).slotOpen 0 0 0 = true := by
    have h : (crowded a j js).istabEntry 0 = storingBase.istabEntry 0 := rfl
    unfold State.slotOpen
    rw [h]
    have hall : bitsOf (storingBase.istabEntry 0) (8 * 0) 8 % 16 = 15 := by decide +kernel
    dsimp only
    rw [hall]
    rfl
  have hg : tfind (crowded a j js).cur.1 (crowded a j js).groups = some (storingGroup a) := rfl
  have hl : tfind (storingGroup a).launch (crowded a j js).launches = some { Launch.start 0 placedRecord 0 0 0 0 0 placedRanges [] 1 with
      placed := [0], started := true, live := 1, coresRun := [0] } := rfl
  have ht : tfind (storingGroup a).team (crowded a j js).teams = some (Team.start 0 0 0 0 0 0 1) := rfl
  have hopen' : (crowded a j js).slotOpen (Team.start 0 0 0 0 0 0 1).core (storingGroup a).quarter (Launch.start 0 placedRecord 0 0 0 0 0 placedRanges [] 1).tenant = true := hopen
  unfold issueCtx
  rw [hg]
  dsimp only
  rw [hl, ht]
  dsimp only
  rw [hopen']
  rfl

theorem crowded_issues : Issues (.stB byteStore) (crowded a j js) (storingCtx a) := by
  have hchecks : decodeTrap (.stB byteStore) (storingCtx a) (crowded a j js) = none := rfl
  have haddr : addressTrap (.stB byteStore) (storingCtx a) (crowded a j js) = none := by
    show firstBad ((storingCtx a).active.map _) = none
    rw [storing_active, List.map_singleton, storing_va]
    show firstBad [(0, a.toNat, locate placedRanges a.toNat 1 false true)] = none
    unfold locate
    rw [if_neg (by omega), translate_placed a.isLt]
    rfl
  refine ⟨crowded_ctx a j js, rfl, rfl, ?_, rfl, rfl, rfl⟩
  unfold issueTrap
  rw [hchecks, haddr]

end Sys2Proof.Machine
end

section
/-! SUPPORT. The store of the refuting machine: its line's set is full, so that L1 evicts a pinned line, for whose snapshot the home set aborts a task. -/

namespace Sys2Proof.Machine

open Sys2Proof Claim

/-! ### Homes and keys -/

theorem xorFields_lt {fs : List (Nat × Nat)} (h : ∀ f ∈ fs, f.2 ≤ 8) (v : Nat) : xorFields v fs < 2 ^ 8 := by
  induction fs with
  | nil => simp [xorFields]
  | cons f fs ih =>
    have hf : bitsOf v f.1 f.2 < 2 ^ 8 := (Nat.mod_lt _ (by positivity)).trans_le (Nat.pow_le_pow_right (by norm_num) (h f (.head _)))
    exact Nat.xor_lt_two_pow hf (ih fun g hg => h g (.tail _ hg))

theorem homeOf_lt (ipa : Nat) : homeOf ipa false < 256 := xorFields_lt (by decide) ipa

theorem lineLoc_real {i : Nat} (h : i < 2 ^ 25) : Claim.Real (lineLoc i) := ⟨homeOf_lt _, show 128 * i < 2 ^ 52 by omega⟩

theorem lineLoc_sec (i : Nat) : (lineLoc i).sec = 8 * i := by
  show 128 * i / 16 = 8 * i
  omega

theorem lineLoc_line (i : Nat) : (lineLoc i).line = i := by
  show 128 * i / 128 = i
  omega

variable {js : List Nat} {j : Nat}

theorem mem_pinnedLines {e : Nat × CoreSector} (h : e ∈ pinnedLines js) : ∃ i ∈ js, e = (coreKey 0 (lineLoc i).home (8 * i), pinnedLine i) := by
  obtain ⟨i, hi, rfl⟩ := List.mem_map.mp h
  exact ⟨i, hi, rfl⟩

/-- Only first sectors of lines are pinned. -/
theorem tfind_pinnedLines_none {k : Nat} (h : k % 8 ≠ 0) (js : List Nat) : tfind k (pinnedLines js) = none := by
  induction js with
  | nil => rfl
  | cons i js ih =>
    have hk : k ≠ coreKey 0 (lineLoc i).home (8 * i) := by unfold coreKey; omega
    simpa [pinnedLines, tfind, hk] using ih

/-- The lines of a list without the first, found by their keys. -/
theorem terase_pinnedLines (hj : j ∉ js) (hlt : ∀ i ∈ j :: js, i < 2 ^ 25) :
    terase (coreKey 0 (lineLoc j).home (8 * j)) (pinnedLines (j :: js)) = pinnedLines js := by
  have hrest : ∀ is : List Nat, j ∉ is → (∀ i ∈ is, i < 2 ^ 25) → terase (coreKey 0 (lineLoc j).home (8 * j)) (pinnedLines is) = pinnedLines is := by
    intro is
    induction is with
    | nil => exact fun _ _ => rfl
    | cons i is ih =>
      intro hne hlt'
      have hk : coreKey 0 (lineLoc j).home (8 * j) ≠ coreKey 0 (lineLoc i).home (8 * i) := fun he => by
        have hi := hlt' i (.head _)
        have hj' := hlt j (.head _)
        have h := ((coreKey_inj (homeOf_lt _) (homeOf_lt _) (by omega) (by omega)).mp he).2.2
        exact hne (by rw [Nat.eq_of_mul_eq_mul_left (by norm_num) h]; exact .head _)
      have ih := ih (fun h => hne (.tail _ h)) fun x hx => hlt' x (.tail _ hx)
      simpa [pinnedLines, terase, hk] using ih
  simpa [pinnedLines, terase] using hrest js hj fun i hi => hlt i (.tail _ hi)

variable (a : Word)

theorem crowded_filed (hlt : ∀ i ∈ j :: js, i < 2 ^ 25) : Filed (crowded a j js) := by
  intro e he
  obtain ⟨i, hi, rfl⟩ := mem_pinnedLines he
  exact ⟨0, by rw [pinnedLine, lineLoc_sec], lineLoc_real (hlt i hi)⟩

/-- The line's first sector is all that core 0 holds of it. -/
theorem crowded_heldLine : (crowded a j js).heldLine 0 (lineLoc j).home j = [pinnedLine j] := by
  have hsectors : (crowded a j js).sectors = pinnedLines (j :: js) := rfl
  refine heldLine_first ?_ fun k hk hk' => ?_ <;> rw [hsectors]
  · simp [pinnedLines, tfind]
  · exact tfind_pinnedLines_none (by unfold coreKey; omega) _

/-! ### Lines in L1 -/

theorem l1Lines_pinned {s : State} (h : s.sectors = pinnedLines js) (hlt : ∀ i ∈ js, i < 2 ^ 25) (hnd : js.Nodup) :
    s.l1Lines 0 = js.map (fun i => ((lineLoc i).home, i)) := by
  have hall : (pinnedLines js).filter (fun e => e.1 / 2 ^ 56 == 0 && (e.2.pinned.isSome || e.2.banked.isNone)) = pinnedLines js := by
    refine List.filter_eq_self.mpr fun e he => ?_
    obtain ⟨i, hi, rfl⟩ := mem_pinnedLines he
    have hcore := coreKey_div (c := 0) (homeOf_lt (128 * i)) (show 8 * i < 2 ^ 48 by have := hlt i hi; omega)
    change ((coreKey 0 (homeOf (128 * i) false) (8 * i) / 2 ^ 56 == 0) && true) = true
    rw [hcore]
    rfl
  have hmap : (pinnedLines js).map (fun e => (e.2.loc.home, e.2.loc.line)) = js.map (fun i => ((lineLoc i).home, i)) := by
    unfold pinnedLines
    rw [List.map_map]
    exact List.map_congr_left fun i _ => Prod.ext rfl (lineLoc_line i)
  unfold State.l1Lines
  rw [h, hall, hmap, List.dedup_eq_self.mpr (hnd.map fun x y he => (Prod.mk.inj he).2)]

/-! ### Room at home for the pinned value -/

theorem crowded_blocks : (crowded a j js).blocksAt (lineLoc j).home = crowdTasks.map (fun e => (VKind.spec e.1 e.2, j)) := by
  have hmarks : (crowdMarks (lineLoc j).home j).filterMap (fun m =>
      if m.home = (lineLoc j).home ∧ m.place = Place.set then some (VKind.spec m.launch m.slot, m.sector / 8) else none) =
      crowdTasks.map (fun e => (VKind.spec e.1 e.2, j)) := by
    unfold crowdMarks
    rw [List.filterMap_map, ← List.filterMap_eq_map]
    refine List.filterMap_congr fun e _ => ?_
    simp
  have hnd : (crowdTasks.map (fun e => (VKind.spec e.1 e.2, j))).Nodup :=
    List.Nodup.map (fun x y he => Prod.ext (VKind.spec.inj (Prod.mk.inj he).1).1 (VKind.spec.inj (Prod.mk.inj he).1).2) (by decide)
  unfold State.blocksAt
  change (List.filterMap _ [] ++ List.filterMap _ (crowdMarks (lineLoc j).home j)).dedup = _
  rw [List.filterMap_nil, List.nil_append, hmarks, List.dedup_eq_self.mpr hnd]

theorem crowded_room : (crowded a j js).makeRoom (lineLoc j).home ((crowded a j js).blocksAt (lineLoc j).home) =
    ((crowded a j js).abortTasks 1 [0], true) := by
  refine makeRoom_aborts (n := j) ?_
  rw [crowded_blocks a]
  rfl

theorem crowded_block (h : j < 2 ^ 25) : (crowded a j js).block? (lineLoc j).home (lineLoc j).line (.snapshot 0) =
    ((crowded a j js).abortTasks 1 [0], some .set) := by
  rw [lineLoc_line]
  refine block?_full ?_ ?_ (by rw [crowded_blocks a]; rfl) ?_ (crowded_room a)
  · have hversions : (crowded a j js).versions = [] := rfl
    unfold State.hasBlock
    rw [hversions, List.any_nil, Bool.false_or, List.any_eq_false]
    intro m _ h
    simp at h
  · have hnode : nodeOf (128 * j) = 0 := by
      unfold nodeOf bitsOf
      omega
    show (nodeOf (128 * j) != 0) = false
    rw [hnode]
    rfl
  · unfold State.setBlocks
    refine List.filter_eq_self.mpr fun b hb => ?_
    rw [crowded_blocks a] at hb
    obtain ⟨e, -, rfl⟩ := List.mem_map.mp hb
    exact beq_self_eq_true _

/-- The worker that the aborted task's record names is idle: its strand has exited. -/
theorem aborted_groups : ((crowded a j js).abortTasks 1 [0]).groups = [(0, (storingGroup a).idle)] := by
  rfl

theorem aborted_sectors : ((crowded a j js).abortTasks 1 [0]).sectors = pinnedLines (j :: js) :=
  (State.abortTasks_samePending _ 1 [0]).sectors

/-- The first line's eviction leaves the other lines and an idle group. -/
theorem crowded_evicts (hj : j ∉ js) (hlt : ∀ i ∈ j :: js, i < 2 ^ 25) (bank : Nat) :
    ((crowded a j js).evictL1 0 (lineLoc j).home j bank).sectors = pinnedLines js ∧
      ((crowded a j js).evictL1 0 (lineLoc j).home j bank).groups = [(0, (storingGroup a).idle)] := by
  have hput := putVersion_ok (k := .snapshot 0) (fun _ _ => nofun) (l := lineLoc j) (m := BitVec.allOnes 16) (d := 0) (whole := false) (fault := none)
    (crowded_block a (hlt j (.head _)) (js := js))
  have hunder : (crowded a j js).underLimit (lineLoc j).home j (.snapshot 0) = true := by
    have hcount : (crowded a j js).blockCount (.snapshot 0) = 0 := by
      unfold State.blockCount
      rw [show (crowded a j js).versions = [] from rfl]
      rfl
    show (_ || decide ((crowded a j js).blockCount (.snapshot 0) < 16384)) = true
    rw [hcount]
    exact Bool.or_true _
  generalize hnew : (⟨.snapshot 0, (lineLoc j).home, (lineLoc j).sec, (lineLoc j).md, BitVec.allOnes 16, 0, false, none, .set⟩ : Version) = new at hput
  have hsectors : (((crowded a j js).abortTasks 1 [0]).addBytes new).sectors = pinnedLines (j :: js) :=
    (State.addBytes_sectors _ _).trans (aborted_sectors a)
  have hheld : (((crowded a j js).abortTasks 1 [0]).addBytes new).held? 0 (lineLoc j) = pinnedLine j := by
    unfold State.held?
    rw [hsectors, lineLoc_sec]
    simp [pinnedLines, tfind]
  obtain ⟨hs, hg⟩ := evictL1_pinned_leaves (bank := bank) (crowded_heldLine a) rfl rfl hunder hput hheld
  rw [hs, hg, hsectors, State.addBytes_groups, aborted_groups]
  refine ⟨?_, rfl⟩
  have hloc : (pinnedLine j).loc = lineLoc j := rfl
  rw [hloc, lineLoc_sec]
  exact terase_pinnedLines hj hlt

end Sys2Proof.Machine
end

section
/-! SUPPORT. O30 refuted: some line's L1 set can be filled with eight others, and the store to it makes its own group idle. -/

namespace Sys2Proof.Machine

open Sys2Proof Claim

/-! ### A store of one lane -/

theorem plainStore_groups (s : State) (core : Nat) (l : Loc) (size v : Nat) : (s.plainStore core l size v).groups = s.groups := by
  obtain ⟨c, h⟩ := plainStore_eq s core l size v
  rw [h]
  rfl

theorem markWhole_groups (s : State) (core : Nat) (reqs : List Req) : (s.markWhole core reqs).groups = s.groups := by
  unfold State.markWhole
  refine List.foldlRecOn (motive := fun t : State => t.groups = s.groups) _ _ rfl fun t ht r _ => ?_
  split
  · exact ht
  · exact ht

/-- A store to one line is performed once L1 has room for it; no group changes by the store itself. -/
theorem storeAll_line {s t : State} {core : Nat} {r : Req} {l : Loc} (hl : reqLines [r] = [l]) (hroom : (l1Room core l.home l.line).run s = (.ok (), t)) :
    ∃ u, (storeAll core [r]).run s = (.ok (), u) ∧ u.groups = t.groups := by
  unfold storeAll
  rw [hl, eachDo, run_bind]
  unfold storeLine
  rw [run_bind, hroom]
  refine ⟨_, rfl, (markWhole_groups _ _ _).trans ?_⟩
  exact List.foldlRecOn (motive := fun u : State => u.groups = t.groups) _ _ rfl fun u hu r _ => (plainStore_groups u core _ _ _).trans hu

theorem reqLines_lineLoc {r : Req} {i : Nat} (h : r.loc = lineLoc i) : reqLines [r] = [lineLoc i] := by
  have hstart : 128 * i / 128 * 128 = 128 * i := by omega
  unfold reqLines
  rw [List.map_singleton, h]
  show [(⟨homeOf (128 * i) false, 128 * i / 128 * 128, none⟩ : Loc)].dedup = _
  rw [hstart]
  rfl

/-! ### The refuting machine's store -/

/-- Line `i` and eight others of its L1 set, among the first that there are. -/
structure SameSet (i j : Nat) (js : List Nat) : Prop where
  fresh : i ∉ j :: js
  nodup : (j :: js).Nodup
  eight : (j :: js).length = 8
  small : ∀ k ∈ j :: js, k < 2 ^ 25
  oneSet : ∀ k ∈ j :: js, l1SetOf (lineLoc k).home k = l1SetOf (lineLoc i).home i

/-- Of more lines than eight for each of the 128 sets, nine lie in one set, whichever function gives the set. -/
theorem sameSet_exists : ∃ i j js, i < 2 ^ 25 ∧ SameSet i j js := by
  have hmaps : ∀ k ∈ Finset.range 1025, l1SetOf (lineLoc k).home k ∈ Finset.range 128 := fun k _ =>
    Finset.mem_range.mpr (Nat.mod_lt _ (by norm_num))
  obtain ⟨y, -, hy⟩ := Finset.exists_lt_card_fiber_of_mul_lt_card_of_maps_to (n := 8) hmaps (by simp)
  obtain ⟨nine, hsub, hcard⟩ := Finset.exists_subset_card_eq (Nat.succ_le_of_lt hy)
  have hmem : ∀ k ∈ nine.toList, k < 1025 ∧ l1SetOf (lineLoc k).home k = y := fun k hk => by
    simpa using hsub (Finset.mem_toList.mp hk)
  have hlen := Finset.length_toList nine
  have hnd := Finset.nodup_toList nine
  rcases hl : nine.toList with - | ⟨i, - | ⟨j, js⟩⟩ <;> rw [hl] at hmem hlen hnd
  · simp [hcard] at hlen
  · simp [hcard] at hlen
  · obtain ⟨hi, hiy⟩ := hmem i (.head _)
    rw [List.nodup_cons] at hnd
    refine ⟨i, j, js, by omega, hnd.1, hnd.2, by simpa [hcard] using hlen, fun k hk => ?_, fun k hk => (hmem k (.tail _ hk)).2.trans hiy.symm⟩
    have := (hmem k (.tail _ hk)).1
    omega

variable {a : Word} {i j : Nat} {js : List Nat}

theorem crowded_l1Room (h : SameSet i j js) : (l1Room 0 (lineLoc i).home (lineLoc i).line).run (crowded a j js) =
    (.ok (), (crowded a j js).evictL1 0 (lineLoc j).home j 0) := by
  obtain ⟨hfresh, hnodup, height, hsmall, hset⟩ := h
  have hls := l1Lines_pinned (s := crowded a j js) rfl hsmall hnodup
  have hnew : ((j :: js).map (fun k => ((lineLoc k).home, k))).contains ((lineLoc i).home, i) = false := by
    rw [Bool.eq_false_iff]
    intro hin
    obtain ⟨k, hk, he⟩ := List.mem_map.mp (List.contains_iff_mem.mp hin)
    exact hfresh ((Prod.mk.inj he).2 ▸ hk)
  have hall : ((j :: js).map (fun k => ((lineLoc k).home, k))).filter (fun e => l1SetOf e.1 e.2 == l1SetOf (lineLoc i).home i) =
      (j :: js).map (fun k => ((lineLoc k).home, k)) := by
    refine List.filter_eq_self.mpr fun e he => ?_
    obtain ⟨k, hk, rfl⟩ := List.mem_map.mp he
    exact beq_iff_eq.mpr (hset k hk)
  have hgone : (((crowded a j js).evictL1 0 (lineLoc j).home j 0).l1Lines 0).contains ((lineLoc j).home, j) = false := by
    rw [List.nodup_cons] at hnodup
    rw [l1Lines_pinned (crowded_evicts a hnodup.1 hsmall 0).1 (fun k hk => hsmall k (.tail _ hk)) hnodup.2, Bool.eq_false_iff]
    intro hin
    obtain ⟨k, hk, he⟩ := List.mem_map.mp (List.contains_iff_mem.mp hin)
    exact hnodup.1 ((Prod.mk.inj he).2 ▸ hk)
  have hevict : Machine.evictFirstL1 0 (crowded a j js) ((j :: js).map (fun k => ((lineLoc k).home, k))) =
      some ((crowded a j js).evictL1 0 (lineLoc j).home j 0) := by
    rw [List.map_cons, Machine.evictFirstL1, hgone]
    rfl
  unfold Machine.l1Room
  rw [run_get_bind]
  dsimp only
  rw [lineLoc_line, hls, hnew, hall, List.length_map, height, hevict]
  rfl

/-- The store of the refuting machine is performed, and leaves its group idle. -/
theorem crowded_stores (h : SameSet i j js) {r : Req} (hr : r.loc = lineLoc i) :
    ∃ u, (storeAll 0 [r]).run (crowded a j js) = (.ok (), u) ∧ u.groups = [(0, (storingGroup a).idle)] := by
  obtain ⟨u, hrun, hgroups⟩ := storeAll_line (reqLines_lineLoc hr) (crowded_l1Room (a := a) h)
  exact ⟨u, hrun, hgroups.trans (crowded_evicts a (List.nodup_cons.mp h.nodup).1 h.small 0).2⟩

/-! ### What the instruction does -/

/-- Lanes whose accesses land are located. -/
theorem located_lands {c : Ctx} {x : MEM} {size : Nat} {rd wr : Bool} {loc : Nat → Loc} {lanes : List Nat} (h : Lands c x size rd wr loc lanes) :
    located (lanes.map (fun l => (l, c.va x l, locate c.g.ranges (c.va x l) size rd wr))) = lanes.map (fun l => (l, c.va x l, loc l)) := by
  induction lanes with
  | nil => rfl
  | cons l ls ih =>
    obtain ⟨halign, hok⟩ := h l (.head _)
    have hloc : locate c.g.ranges (c.va x l) size rd wr = .ok (loc l) := by
      unfold locate
      rw [if_neg (not_not.mpr halign), hok]
    rw [List.map_cons, List.map_cons, hloc, located, ih fun k hk => h k (.tail _ hk)]

/-- A plain store outside tasks starts once its bytes are stored. -/
theorem storeOp_plain {i : Instr} {s u : State} {c : Ctx} {x : MEM} {size run : Nat} {loc : Nat → Loc} (hi : Issues i s c)
    (hl : Lands c x size false true loc c.active) (hsync : x.sync = false) (htask : c.g.task = none) (hne : c.active ≠ [])
    (hloads : s.loadsPending c.g.gid = false) {reqs : List Req}
    (hreqs : reqs = c.active.map (fun l => asked c x loc size (runValue (c.run x.data run l) % 2 ^ (8 * size)) l))
    (hrun : (storeAll c.core reqs).run s = (.ok (), u)) :
    storeOp i x size run s = .next (c.send i (c.op i (.store size) reqs [] u) u) := by
  have hall : (c.active.map (fun l => (l, c.va x l, loc l))).map (laneReq size (fun l => runValue (c.run x.data run l) % 2 ^ (8 * size))) = reqs := by
    rw [hreqs, List.map_map]
    rfl
  unfold storeOp memAccess
  rw [issue_body hi.gang hi.fresh hi.begun hi.checks hi.late hi.free hi.turn, located_lands hl]
  dsimp only
  rw [hall, hsync, htask, hloads, if_neg Bool.false_ne_true, if_neg (by simp), if_neg (by simpa using hne), if_neg Bool.false_ne_true]
  unfold Mem.on
  rw [hrun]

theorem crowded_lands {i : Nat} (hi : i < 2 ^ 25) :
    Lands (storingCtx (BitVec.ofNat 32 (128 * i))) byteStore 1 false true (fun _ => lineLoc i) (storingCtx (BitVec.ofNat 32 (128 * i))).active := by
  intro l hl
  rw [storing_active, List.mem_singleton] at hl
  have hva : (BitVec.ofNat 32 (128 * i)).toNat = 128 * i := by
    rw [BitVec.toNat_ofNat]
    omega
  rw [hl, storing_va, hva]
  exact ⟨Nat.mod_one _, translate_placed (by omega)⟩

/-- The store's group after it goes on, but its one strand has exited. -/
theorem sent_exited {a : Word} {u : State} (hu : u.groups = [(0, (storingGroup a).idle)]) (reqs : List Req) :
    ∃ g, tfind 0 ((storingCtx a).send (.stB byteStore) ((storingCtx a).op (.stB byteStore) (.store 1) reqs [] u) u).groups = some g ∧
      (g.strand 0).exited = true := by
  have hgroups : ((storingCtx a).send (.stB byteStore) ((storingCtx a).op (.stB byteStore) (.store 1) reqs [] u) u).groups =
      tmodify 0 (fun g => g.modStrands [0] (fun _ st => { st with pc := 0x20000 + BitVec.ofNat 64 (Instr.stB byteStore).size, wait := .ready }))
        (tmodify 0 (fun g => g.own ((storingCtx a).op (.stB byteStore) (.store 1) reqs [] u) (opDsts (Instr.stB byteStore).form)) u.groups) := rfl
  rw [hgroups, hu]
  exact ⟨_, rfl, rfl⟩

/-- The request of the store's one lane. -/
def byteReq (a : Word) (i data : Nat) : Req := asked (storingCtx a) byteStore (fun _ => lineLoc i) 1 data 0

/-- Refutes O30: nothing in its hypotheses keeps a task domain's record from naming, as its worker, a group that runs no task. Where that group
stores to a line of a full L1 set, L1 evicts a line, whose pinned value takes a block of a full home set; the set aborts that record's task for it
(R66), and its worker becomes idle (R380). So the store starts, but its strand has exited, where O30 says that its gang is as it was. Which lines
share an L1 set the configuration says; by the pigeonhole principle nine of the first 1025 do. -/
theorem not_storesStart : ¬ Obligations.StoresStart := by
  unfold Obligations.StoresStart
  rintro ⟨hstore, -⟩
  obtain ⟨i, j, js, hi, hset⟩ := sameSet_exists
  set a : Word := BitVec.ofNat 32 (128 * i)
  have hissues := crowded_issues a j js
  have hlands : Lands (storingCtx a) byteStore 1 false true (fun _ => lineLoc i) (storingCtx a).active := crowded_lands hi
  have hactive := storing_active a
  obtain ⟨-, hplain⟩ := hstore byteStore (crowded a j js) (storingCtx a) (fun _ => lineLoc i) (by decide) hissues hlands
  obtain ⟨-, hstarts⟩ := hplain rfl rfl (.inr fun p hp => (nomatch hp)) (crowded_filed a hset.small) fun _ _ => lineLoc_real hi
  rw [hactive] at hstarts
  obtain ⟨u, hrun, -⟩ := crowded_stores (a := a) hset (r := byteReq a i (storeData (storingCtx a) byteStore 1 1 0)) rfl
  obtain ⟨t, o, hexec, ⟨-, -, -, -, -, hsent⟩, -⟩ := hstarts u hrun
  rw [if_neg fun h => Bool.false_ne_true h.1] at hsent
  obtain ⟨-, -, -, -, g, hg, hgang, -⟩ := hsent
  obtain ⟨v, hrun', hgroups⟩ := crowded_stores (a := a) hset
    (r := byteReq a i (runValue ((storingCtx a).run byteStore.data 1 0) % 2 ^ (8 * 1))) rfl
  have hexec' := storeOp_plain hissues hlands rfl rfl (by rw [hactive]; exact List.cons_ne_nil _ _) rfl (run := 1) (by rw [hactive]; rfl) hrun'
  obtain ⟨g', hg', hexited⟩ := sent_exited hgroups [byteReq a i (runValue ((storingCtx a).run byteStore.data 1 0) % 2 ^ (8 * 1))]
  have ht : t = _ := Host.Outcome.next.inj (hexec.symm.trans hexec')
  have hsame : g' = g := Option.some.inj (hg'.symm.trans (ht ▸ hg))
  have hstrand : (g.strand 0).exited = false := by
    have hin : 0 ∈ (storingCtx a).strands := List.mem_singleton.mpr rfl
    rw [hgang 0, if_pos hin]
    rfl
  rw [hsame, hstrand] at hexited
  exact Bool.false_ne_true hexited

end Sys2Proof.Machine
end

section
/-! SUPPORT. Accesses performed at their home: what an instruction in flight is once requests of it are done, and what a turn at home leaves
(R83, R98, R100, R403). -/

namespace Sys2Proof.Machine

open Sys2Proof

/-! ### Requests that are done -/

theorem lset_eq_modify {α : Type} (xs : List α) (n : Nat) (f : α → α) : lset xs n f = xs.modify n f := by
  induction xs generalizing n with
  | nil => cases n <;> rfl
  | cons x xs ih =>
    cases n with
    | zero => rfl
    | succ n => exact congrArg (x :: ·) (ih n)

/-- Requests, those of some numbers done. -/
def doneReqs (ns : List Nat) (rs : List Req) : List Req := ns.foldl (fun rs n => lset rs n (fun r => { r with state := .done })) rs

theorem doneReqs_cons (n : Nat) (ns : List Nat) (rs : List Req) :
    doneReqs (n :: ns) rs = doneReqs ns (rs.modify n (fun r => { r with state := .done })) := by
  rw [← lset_eq_modify]
  rfl

theorem doneReqs_outside {ns : List Nat} {m : Nat} (hm : m ∉ ns) (rs : List Req) : (doneReqs ns rs)[m]? = rs[m]? := by
  induction ns generalizing rs with
  | nil => rfl
  | cons n ns ih =>
    rw [List.mem_cons, not_or] at hm
    rw [doneReqs_cons, ih hm.2, List.getElem?_modify_ne _ _ (Ne.symm hm.1)]

theorem doneReqs_state {ns : List Nat} {m : Nat} (hm : m ∈ ns) {rs : List Req} {q : Req} (hq : (doneReqs ns rs)[m]? = some q) : q.state = .done := by
  induction ns generalizing rs with
  | nil => cases hm
  | cons n ns ih =>
    rw [doneReqs_cons] at hq
    by_cases hin : m ∈ ns
    · exact ih hin hq
    · obtain rfl : m = n := (List.mem_cons.mp hm).resolve_right hin
      rw [doneReqs_outside hin, List.getElem?_modify_eq] at hq
      obtain ⟨q', -, rfl⟩ := Option.map_eq_some_iff.mp hq
      rfl

/-- With those of some numbers done, all requests are done where each other one was. -/
theorem doneReqs_all {ns : List Nat} {rs : List Req} : (doneReqs ns rs).all (fun q => q.state == .done) = true ↔
    ∀ m q, m ∉ ns → rs[m]? = some q → q.state = .done := by
  simp only [List.all_eq_true, beq_iff_eq]
  constructor
  · intro h m q hm hq
    exact h q (List.mem_of_getElem? ((doneReqs_outside hm rs).trans hq))
  · intro h q hq
    obtain ⟨m, hq⟩ := List.mem_iff_getElem?.mp hq
    by_cases hm : m ∈ ns
    · exact doneReqs_state hm hq
    · exact h m q hm ((doneReqs_outside hm rs).symm.trans hq)

/-! ### An instruction some of whose requests have been performed -/

/-- An instruction with requests of some numbers done and results gained: it has been performed once all its requests are done. -/
def Op.advance (o : Op) (ns : List Nat) (res : List (RegElem × Word)) : Op :=
  { o with
    reqs := doneReqs ns o.reqs
    results := o.results ++ res
    performed := o.performed || (doneReqs ns o.reqs).all (fun q => q.state == .done) }

theorem Op.advance_state {o : Op} {ns : List Nat} {res : List (RegElem × Word)} {m : Nat} (hm : m ∈ ns) (q : Req)
    (hq : (o.advance ns res).reqs[m]? = some q) : q.state = .done := doneReqs_state hm hq

theorem Op.advance_performed {o : Op} {n : Nat} {res : List (RegElem × Word)} : (o.advance [n] res).performed = true ↔
    o.performed = true ∨ ∀ m q, m ≠ n → o.reqs[m]? = some q → q.state = .done := by
  change (o.performed || (doneReqs [n] o.reqs).all _) = true ↔ _
  rw [Bool.or_eq_true, doneReqs_all]
  simp only [List.mem_singleton]

/-! ### A turn at home -/

/-- A machine that differs from another at most in its instructions in flight and in the acquires begun. -/
def OnlyHome (s t : State) : Prop := t = { s with ops := t.ops, acqs := t.acqs, nextId := t.nextId }

section
variable {s u : State} {o p : Op} {r : Req}

/-- The instruction of some number, after an update under that number. -/
theorem op?_modOp_self {id : Nat} {f : Op → Op} (hp : s.op? id = some p) (hf : ∀ o, (f o).id = o.id) : (s.modOp id f).op? id = some (f p) := by
  rw [State.op?_modOp s id hf, if_pos rfl, hp, Option.map_some]

/-- Requests of an instruction set to done one after another. -/
theorem foldl_setReq_done (hu : u.op? o.id = some o) (es : List (Nat × Req)) :
    OnlyHome u (es.foldl (fun s e => s.setReq o.id e.1 .done) u) ∧
    (es.foldl (fun s e => s.setReq o.id e.1 .done) u).op? o.id = some { o with reqs := doneReqs (es.map (·.1)) o.reqs } := by
  induction es generalizing u o with
  | nil => exact ⟨rfl, hu⟩
  | cons e es ih =>
    exact ih (o := { o with reqs := lset o.reqs e.1 (fun r => { r with state := .done }) }) (op?_modOp_self hu fun _ => rfl)

theorem settlePerformed_op? (hp : s.op? o.id = some p) : (s.settlePerformed o.id).op? o.id =
    some { p with performed := p.performed || p.reqs.all (fun r => r.state == .done) } := by
  unfold State.settlePerformed
  rw [op?_modOp_self hp fun o => by split <;> rfl]
  rcases p.reqs.all _ <;> simp

/-- What follows at home, outside a task: the instruction has been performed once all its requests are done, and then its acquire begins (R93, R137). -/
theorem afterHome_settles (hp : s.op? o.id = some p) (htask : p.task = none) :
    OnlyHome s (s.afterHome o) ∧
    (s.afterHome o).op? o.id = some { p with performed := p.performed || p.reqs.all (fun r => r.state == .done) } := by
  have hsettled := settlePerformed_op? hp
  unfold State.afterHome
  dsimp only
  rw [hsettled]
  dsimp only
  rw [if_neg (show ¬p.task.isSome = true by rw [htask]; exact Bool.false_ne_true)]
  split
  · split
    · exact ⟨rfl, hsettled⟩
    · exact ⟨rfl, hsettled⟩
  · exact ⟨rfl, hsettled⟩

/-- A request that its home performs: the access leaves the rest of the machine as it does, and the instruction advances by the request. -/
theorem atHome_performs {m : Mem (List (RegElem × Word))} {res : List (RegElem × Word)} (hrun : m.run s = (.ok res, u)) (hu : u.op? o.id = some o)
    (htask : o.task = none) (n : Nat) (r : Req) (stall : State) :
    OnlyHome u (s.atHome o n r stall m) ∧ (s.atHome o n r stall m).op? o.id = some (o.advance [n] res) := by
  have hdone : ((u.setReq o.id n .done).modOp o.id (fun p => { p with results := p.results ++ res })).op? o.id =
      some { o with reqs := doneReqs [n] o.reqs, results := o.results ++ res } :=
    op?_modOp_self (foldl_setReq_done hu [(n, r)]).2 fun _ => rfl
  unfold State.atHome
  rw [Mem.on_ok hrun]
  exact afterHome_settles hdone htask

/-- A whole line that its home has written: the instruction advances by the line's requests. -/
theorem afterHome_line (hu : u.op? o.id = some o) (htask : o.task = none) (es : List (Nat × Req)) :
    OnlyHome u ((es.foldl (fun s e => s.setReq o.id e.1 .done) u).afterHome o) ∧
    ((es.foldl (fun s e => s.setReq o.id e.1 .done) u).afterHome o).op? o.id = some (o.advance (es.map (·.1)) []) := by
  obtain ⟨hframe, hdone⟩ := foldl_setReq_done hu es
  obtain ⟨hafter, hop⟩ := afterHome_settles hdone htask
  refine ⟨?_, ?_⟩
  · unfold OnlyHome at hframe hafter ⊢
    rw [hafter, hframe]
  · rw [hop]
    simp [Op.advance]

/-! ### The three events -/

/-- A line is written as one only outside tasks. -/
theorem task_of_wholeImmediate (h : wholeImmediate o r ≠ []) : o.task = none := by
  unfold wholeImmediate at h
  split at h
  · assumption
  · exact absurd rfl h

/-- Kinds of access that IMMEDIATE_AT_HOME performs. -/
def IsImmediateAccess (k : OpKind) : Prop := (∃ a b d e f, k = .immLoad a b d e f) ∨ ∃ a, k = .immStore a

theorem execImmediateAtHome_one (ho : s.op? s.ev.a = some o) (hr : o.reqs[s.ev.b]? = some r) (hk : IsImmediateAccess o.kind)
    (hready : s.homeReady o r = true) (hone : wholeImmediate o r = []) :
    execImmediateAtHome s = .next (s.atHome o s.ev.b r s (immPerform o r)) := by
  unfold execImmediateAtHome
  rw [ho]
  dsimp only
  rcases hk with ⟨a, b, d, e, f, hk⟩ | ⟨a, hk⟩
  · rw [hk, hr]
    simp [hready, hone]
  · rw [hk, hr]
    simp [hready, hone]

theorem execImmediateAtHome_line {size : Nat} (ho : s.op? s.ev.a = some o) (hr : o.reqs[s.ev.b]? = some r) (hk : o.kind = .immStore size)
    (hready : s.homeReady o r = true) (hwhole : wholeImmediate o r ≠ []) (hall : ∀ e ∈ wholeImmediate o r, s.homeReady o e.2 = true)
    (hrun : (immLine r.loc (lineOf (wholeImmediate o r))).run s = (.ok (), u)) :
    execImmediateAtHome s = .next (((wholeImmediate o r).foldl (fun s e => s.setReq o.id e.1 .done) u).afterHome o) := by
  unfold execImmediateAtHome
  rw [ho]
  dsimp only
  rw [hk, hr]
  dsimp only
  rw [hready, if_neg (by decide)]
  split
  · next h => exact absurd h hwhole
  · rw [List.all_eq_true.mpr hall, if_neg (by decide), Mem.on_ok hrun]

theorem execAtomicAtHome_applies {op : AtomOp} {dst : Option Nat} (ho : s.op? s.ev.a = some o) (hr : o.reqs[s.ev.b]? = some r)
    (hk : o.kind = .atomic op dst) (hready : s.homeReady o r = true) (hbuf : s.buffers o op dst.isSome = false)
    (hown : s.ownOrdered o r.loc = false) (hopen : op.float = true → s.openFor o r.loc = []) :
    execAtomicAtHome s = .next (s.atHome o s.ev.b r s (atomPerform o op dst r)) := by
  have hfree : ¬(op.float && s.openFor o r.loc != []) = true := by simpa using hopen
  unfold execAtomicAtHome
  rw [ho]
  dsimp only
  rw [hk, hr]
  dsimp only
  rw [hready, if_neg (by decide), hbuf, if_neg Bool.false_ne_true, hown, if_neg Bool.false_ne_true, if_neg hfree]

theorem execForeignAtomicApply_applies {op : AtomOp} {dst : Option Nat} {ls : List Nat} (ho : s.op? s.ev.a = some o)
    (hr : o.reqs[s.ev.b]? = some r) (hk : o.kind = .atomic op dst) (hheld : r.state = .held ls) (hopen : s.openFor o r.loc = []) :
    execForeignAtomicApply s = .next ((ls.foldl (fun s l => s.modLaunch l (fun l => { l with intrude := l.intrude + 1 })) s).atHome
      o s.ev.b r s (atomPerform o op dst r)) := by
  unfold execForeignAtomicApply
  rw [ho]
  dsimp only
  rw [hk, hr]
  dsimp only
  rw [hheld]
  dsimp only
  rw [hopen]
  rfl

end

/-- Settles O38: each event runs the access at its home, after which the instruction advances by the requests that are done. -/
theorem homesPerform : Obligations.HomesPerform := by
  unfold Obligations.HomesPerform
  refine ⟨?_, ?_, ?_, ?_⟩
  · intro s u o r res ho hr hk hready htask hone hrun hu
    obtain ⟨hframe, hop⟩ := atHome_performs hrun hu htask s.ev.b r s
    exact ⟨_, _, execImmediateAtHome_one ho hr hk hready hone, hframe, hop, rfl, Op.advance_state (.head _), Op.advance_performed⟩
  · intro s u o r size ho hr hk hready hwhole hall hrun hu
    obtain ⟨hframe, hop⟩ := afterHome_line hu (task_of_wholeImmediate hwhole) (wholeImmediate o r)
    refine ⟨_, _, execImmediateAtHome_line ho hr hk hready hwhole hall hrun, hframe, hop, List.append_nil _, fun e he => ?_⟩
    exact Op.advance_state (List.mem_map_of_mem he)
  · intro s u o r op dst res ho hr hk hready htask hbuf hown hopen hrun hu
    obtain ⟨hframe, hop⟩ := atHome_performs hrun hu htask s.ev.b r s
    exact ⟨_, _, execAtomicAtHome_applies ho hr hk hready hbuf hown hopen, hframe, hop, rfl, Op.advance_state (.head _)⟩
  · intro s u o r op dst ls res ho hr hk hheld htask hopen hrun hu
    obtain ⟨hframe, hop⟩ := atHome_performs hrun hu htask s.ev.b r s
    exact ⟨_, _, execForeignAtomicApply_applies ho hr hk hheld hopen, hframe, hop, rfl, Op.advance_state (.head _)⟩

end Sys2Proof.Machine
end

section
/-! SUPPORT. What an atomic makes of its location, lane by lane (R100, R142). -/

namespace Sys2Proof.Machine

open Sys2Proof Claim

/-! ### One lane -/

/-- The signed order of words is that of their integers. -/
theorem ofInt_min (v x : Word) : BitVec.ofInt 32 (min v.toInt x.toInt) = if v.slt x then v else x := by
  split
  · next h => rw [min_eq_left (BitVec.slt_iff_toInt_lt.mp h).le, BitVec.ofInt_toInt]
  · next h => rw [min_eq_right (not_lt.mp (mt BitVec.slt_iff_toInt_lt.mpr h)), BitVec.ofInt_toInt]

theorem ofInt_max (v x : Word) : BitVec.ofInt 32 (max v.toInt x.toInt) = if v.slt x then x else v := by
  split
  · next h => rw [max_eq_right (BitVec.slt_iff_toInt_lt.mp h).le, BitVec.ofInt_toInt]
  · next h => rw [max_eq_left (not_lt.mp (mt BitVec.slt_iff_toInt_lt.mpr h)), BitVec.ofInt_toInt]

theorem ofNat_min (v x : Word) : BitVec.ofNat 32 (min v.toNat x.toNat) = if v.ult x then v else x := by
  split
  · next h => rw [min_eq_left (BitVec.ult_iff_toNat_lt.mp h).le, BitVec.ofNat_toNat, BitVec.setWidth_eq]
  · next h => rw [min_eq_right (not_lt.mp (mt BitVec.ult_iff_toNat_lt.mpr h)), BitVec.ofNat_toNat, BitVec.setWidth_eq]

theorem ofNat_max (v x : Word) : BitVec.ofNat 32 (max v.toNat x.toNat) = if v.ult x then x else v := by
  split
  · next h => rw [max_eq_right (BitVec.ult_iff_toNat_lt.mp h).le, BitVec.ofNat_toNat, BitVec.setWidth_eq]
  · next h => rw [max_eq_left (not_lt.mp (mt BitVec.ult_iff_toNat_lt.mpr h)), BitVec.ofNat_toNat, BitVec.setWidth_eq]

theorem applyAtom_eq (op : AtomOp) (v x cmp : Word) : applyAtom op v x cmp = atomValue op v x cmp := by
  cases op with
  | add =>
    show v + x = BitVec.ofInt 32 (v.toInt + x.toInt)
    rw [BitVec.ofInt_add, BitVec.ofInt_toInt, BitVec.ofInt_toInt]
  | min => exact (ofInt_min v x).symm
  | max => exact (ofInt_max v x).symm
  | umin => exact (ofNat_min v x).symm
  | umax => exact (ofNat_max v x).symm
  | and | or | xor | xchg | cas | fadd | fmin | fmax => rfl

/-! ### Lane after lane -/

/-- What a lane of a request makes of the value before it. -/
def atomStep (op : AtomOp) (v : Word) (a : Nat × Word × Word) : Word := atomValue op v a.2.1 a.2.2

theorem applyLanes_cons (op : AtomOp) (v : Word) (a : Nat × Word × Word) (rest : List (Nat × Word × Word)) : applyLanes op v (a :: rest) =
    ((applyLanes op (atomStep op v a) rest).1, (a.1, v) :: (applyLanes op (atomStep op v a) rest).2) := by
  obtain ⟨l, x, cmp⟩ := a
  unfold atomStep
  rw [← applyAtom_eq]
  rfl

/-- Lanes are applied in order. -/
theorem applyLanes_value (op : AtomOp) (v : Word) (args : List (Nat × Word × Word)) : (applyLanes op v args).1 = args.foldl (atomStep op) v := by
  induction args generalizing v with
  | nil => rfl
  | cons a rest ih =>
    rw [applyLanes_cons]
    exact ih _

/-- Each lane sees the value that the lanes before it left. -/
theorem applyLanes_sees (op : AtomOp) (v : Word) (args : List (Nat × Word × Word)) {k : Nat} {a : Nat × Word × Word} (ha : args[k]? = some a) :
    (applyLanes op v args).2[k]? = some (a.1, (args.take k).foldl (atomStep op) v) := by
  induction args generalizing v k with
  | nil => cases ha
  | cons b rest ih =>
    rw [applyLanes_cons]
    cases k with
    | zero =>
      cases ha
      rfl
    | succ k => exact ih _ ha

/-- Settles O39, by induction on the lanes. -/
theorem atomicsApplyInOrder : Obligations.AtomicsApplyInOrder := by
  unfold Obligations.AtomicsApplyInOrder
  exact ⟨applyAtom_eq, fun op v args => ⟨applyLanes_value op v args, fun _ _ => applyLanes_sees op v args⟩⟩

end Sys2Proof.Machine
end

section
/-! SUPPORT. How a long-latency instruction starts: what it is in flight, the group that goes on, and the boundary of an access (R92, R120, R121, R137). -/

namespace Sys2Proof.Machine

open Sys2Proof Claim

variable {i : Instr} {s u : State} {c : Ctx} {o : Op}

/-! ### The issuing group -/

/-- An instruction of the gang that may issue has its effect. -/
theorem issue_of_issues (h : Issues i s c) (body : Ctx → State → Out) : issue i s body = body c s :=
  issue_body h.gang h.fresh h.begun h.checks h.late h.free h.turn

theorem issueCtx_group (hc : issueCtx s = some c) : tfind c.g.gid s.groups = some c.g := (issueCtx_spec hc).1

/-- A group that issues is not held by an instruction in flight (R121). -/
theorem issueCtx_heldBy (hc : issueCtx s = some c) : c.g.heldBy = none := by
  obtain ⟨-, -, -, -, -, -, -, -, -, hheld, -⟩ := issueCtx_spec hc
  exact hheld

/-- Whether a gang issues in a deterministic launch its group's launch says. -/
theorem issueCtx_det (hc : issueCtx s = some c) : ∃ l, tfind c.g.launch s.launches = some l ∧ l.record.det = c.det := by
  unfold issueCtx at hc
  split at hc
  · cases hc
  · split at hc
    · next l t hl ht =>
      dsimp only at hc
      split at hc
      · cases hc
      · split at hc
        · cases hc
        · cases hc
        · cases hc
          exact ⟨l, hl, rfl⟩
    · cases hc

/-- A group has at most 8 strands, and so no lane above 31 (R168). -/
theorem active_lt (hs : Shaped s) (hc : issueCtx s = some c) {l : Nat} (hl : l ∈ c.active) : l < 32 := by
  obtain ⟨-, hgroups⟩ := hs
  obtain ⟨-, hlen, -⟩ := hgroups _ (mem_of_tfind (issueCtx_group hc))
  obtain ⟨hin, -⟩ := List.mem_filter.mp hl
  obtain ⟨ls, hls, hmem⟩ := List.mem_flatten.mp hin
  obtain ⟨t, ht, rfl⟩ := List.mem_map.mp hls
  obtain ⟨j, hj, rfl⟩ := List.mem_map.mp hmem
  have := issueCtx_strands hc ht
  have := List.mem_range.mp hj
  have : c.g.strands.length ≤ 8 := hlen
  omega

/-- The gang waits at its instruction, and only its strands change. -/
theorem waitOn_ends (hc : issueCtx s = some c) (w : GangWait) :
    GroupEnds s c (c.waitOn w s) (fun g => OnlyStrands c g ∧ Claim.Waits c w g) := by
  refine ⟨⟨rfl, fun k hk => State.tfind_modGroup_ne s _ hk⟩, _, State.tfind_modGroup _ (issueCtx_group hc), rfl, fun t => ?_⟩
  rw [Group.strand_modStrands]
  by_cases ht : t ∈ c.strands
  · rw [if_pos ⟨ht, issueCtx_strands hc ht⟩, if_pos ht]
  · rw [if_neg fun h => ht h.1, if_neg ht]

/-! ### The flag and the registers (R120, R121) -/

theorem Group.own_frame (g : Group) (o : Op) (dsts : List Nat) :
    g.own o dsts = { g with flags := (g.own o dsts).flags, heldBy := (g.own o dsts).heldBy } := by
  unfold Group.own
  split
  · rfl
  · split
    · rfl
    · rfl

/-- With a flag the group owns it, its destination registers tracked. -/
theorem Group.own_flag {g : Group} (h : o.flag < 12) (dsts : List Nat) :
    (g.own o dsts).flag o.flag = ⟨true, true, dsts, (g.flag o.flag).late⟩ ∧ (∀ n, n ≠ o.flag → (g.own o dsts).flag n = g.flag n) ∧
      (g.own o dsts).heldBy = g.heldBy := by
  unfold Group.own Group.flag
  rw [if_pos h]
  exact ⟨by rw [tget_tset_self], fun n hn => by rw [tget_tset_ne _ _ hn], rfl⟩

/-- Without one it is held where a register will be written. -/
theorem Group.own_noFlag {g : Group} (h : ¬o.flag < 12) (dsts : List Nat) :
    (g.own o dsts).flags = g.flags ∧ (g.own o dsts).heldBy = if dsts = [] then g.heldBy else some o.id := by
  unfold Group.own
  rw [if_neg h]
  split
  · exact ⟨rfl, rfl⟩
  · exact ⟨rfl, rfl⟩

/-! ### The start -/

/-- An instruction starts on a machine that has the groups of the one it issued on. -/
theorem Ctx.start_started (hc : issueCtx s = some c) (hu : u.groups = s.groups) (i : Instr) (o : Op) :
    Started i (opDsts i.form) [] u c o (c.start i o u) := by
  have hgroups : (c.start i o u).groups = tmodify c.g.gid (fun g => c.stepped i (g.own o (opDsts i.form))) u.groups := by
    unfold Ctx.start Ctx.advance
    rw [State.modGroup_modGroup]
    rfl
  have hown := Group.own_frame c.g o (opDsts i.form)
  have hstrands : (c.g.own o (opDsts i.form)).strands = c.g.strands := by rw [hown]
  refine ⟨?_, fun k hk => ?_, c.stepped i (c.g.own o (opDsts i.form)), ?_, fun t => Ctx.strand_stepped hc i hstrands t, ?_, ?_⟩
  · rw [List.append_nil]
    rfl
  · rw [hgroups, tfind_tmodify_ne hk]
  · unfold Has
    rw [hgroups, tfind_tmodify_self, hu, issueCtx_group hc]
    rfl
  · unfold Ctx.stepped Group.modStrands
    rw [hown]
  · split
    · next h => exact Group.own_flag h _
    · next h => exact Group.own_noFlag h _

theorem Ctx.op_isOf (c : Ctx) (i : Instr) (kind : OpKind) (reqs : List Req) (src : Table Word) (s : State) : IsOf i s c (c.op i kind reqs src s) :=
  ⟨rfl, rfl, rfl, rfl, rfl, rfl, rfl, rfl, rfl⟩

/-! ### An access and its boundary (R91, R92, R137) -/

/-- An access in flight but for the scope and the release that it is sent with. -/
def SentFor (o p : Op) : Prop := p = { o with scope := p.scope, sent := p.sent, relId := p.relId }

/-- The access of a task, which has no scope (R152). -/
def Op.scoped (o : Op) : Op := if o.task.isSome then { o with scope := 0 } else o

theorem Op.scoped_eq (o : Op) : o.scoped = { o with scope := if o.task.isSome then 0 else o.scope } := by
  unfold Op.scoped
  split
  · rfl
  · rfl

/-- Whether an access waits for its release: an immediate one with REL that has something to send. -/
def Op.waitsRelease (o : Op) : Bool := o.rel && isImmediate o.kind && !o.performed

theorem Op.waitsRelease_iff (o : Op) : o.waitsRelease = true ↔ o.rel = true ∧ isImmediate o.kind = true ∧ o.performed = false := by
  unfold Op.waitsRelease
  rw [Bool.and_eq_true, Bool.and_eq_true, Bool.not_eq_true', and_assoc]

theorem Op.scoped_waitsRelease (o : Op) : o.scoped.waitsRelease = o.waitsRelease := by
  rw [Op.scoped_eq]
  rfl

theorem Ctx.send_atOnce (h : o.waitsRelease = false) : c.send i o s = c.start i o.scoped s := by
  rw [← Op.scoped_waitsRelease] at h
  exact if_neg (Bool.eq_false_iff.mp h)

/-- The release that an access with REL asks for (R92). -/
def Op.release (o : Op) (s : State) : Rel := ⟨s.nextId + 1, o.core, o.scope, .op o.id, .pending o.core, false, [], [], [], none⟩

theorem Ctx.send_released (h : o.waitsRelease = true) : c.send i o s =
    { c.start i { o.scoped with sent := false, relId := some (s.nextId + 1) } s with
      rels := (c.start i { o.scoped with sent := false, relId := some (s.nextId + 1) } s).rels ++ [o.scoped.release s]
      nextId := (c.start i { o.scoped with sent := false, relId := some (s.nextId + 1) } s).nextId + 1 } := by
  rw [← Op.scoped_waitsRelease] at h
  exact if_pos h

/-- A started instruction whose release is asked for. -/
theorem started_withRel {dsts : List Nat} {t : State} (h : Started i dsts [] s c o t) (r : Rel) :
    Started i dsts [r] s c o { t with rels := t.rels ++ [r], nextId := t.nextId + 1 } := by
  obtain ⟨ht, hothers, hgroup⟩ := h
  refine ⟨?_, hothers, hgroup⟩
  have hrels : t.rels = s.rels := by rw [ht, List.append_nil]
  have hid : t.nextId = s.nextId + 1 := by rw [ht]; rfl
  rw [hrels, hid, ht]
  rfl

/-- What an access is as it issues: it has its word's boundaries, no result, and nothing that it waits for. -/
structure AsIssued (i : Instr) (x : MEM) (s : State) (c : Ctx) (o : Op) : Prop where
  isOf : IsOf i s c o
  rel : o.rel = x.rel
  acq : o.acq = x.acq
  scope : o.scope = x.scope.toNat
  results : o.results = []
  sent : o.sent = true
  relId : o.relId = none

theorem Ctx.op_asIssued {n : Nat} {x : MEM} (hform : i.form = .mem n x) (c : Ctx) (kind : OpKind) (reqs : List Req) (src : Table Word) (done : Bool) :
    AsIssued i x s c { c.op i kind reqs src s with performed := done } := by
  refine ⟨c.op_isOf i kind reqs src s, ?_, ?_, ?_, rfl, rfl, rfl⟩ <;> unfold Ctx.op <;> rw [hform]

/-- A memory access that issues is sent at once, or waits for its release. -/
theorem Ctx.send_sent {x : MEM} (hc : issueCtx s = some c) (ho : AsIssued i x s c o) :
    ∃ p, Sent i x (opDsts i.form) s c p (c.send i o s) ∧ SentFor o p := by
  obtain ⟨⟨hid, hgid, hcore, hflag, hpc, hstrand, hinstr, htask, hlate⟩, hrel, hacq, hscope, hresults, hsent, hrelId⟩ := ho
  have hscoped : (if o.task.isSome then 0 else o.scope) = if c.g.task.isSome then 0 else x.scope.toNat := by
    rw [htask, hscope, Option.isSome_map]
  have hrelease : o.waitsRelease = true ↔ x.rel = true ∧ isImmediate o.kind = true ∧ o.performed = false := by
    rw [Op.waitsRelease_iff, hrel]
  cases hw : o.waitsRelease with
  | false =>
    rw [Ctx.send_atOnce hw]
    have hstart := Ctx.start_started hc rfl i o.scoped
    rw [Op.scoped_eq] at hstart ⊢
    refine ⟨{ o with scope := if o.task.isSome then 0 else o.scope },
      ⟨⟨hid, hgid, hcore, hflag, hpc, hstrand, hinstr, htask, hlate⟩, hrel, hacq, hscoped, hresults, ?_⟩, rfl⟩
    rw [if_neg fun h => by rw [hrelease.mpr h] at hw; cases hw]
    exact ⟨hsent, hrelId, hstart⟩
  | true =>
    rw [Ctx.send_released hw]
    have hstart := started_withRel (Ctx.start_started hc rfl i { o.scoped with sent := false, relId := some (s.nextId + 1) }) (o.scoped.release s)
    have hask : o.scoped.release s = ⟨s.nextId + 1, c.core, o.scoped.scope, .op o.id, .pending c.core, false, [], [], [], none⟩ := by
      rw [Op.scoped_eq, ← hcore]
      rfl
    rw [hask] at hstart ⊢
    rw [Op.scoped_eq] at hstart ⊢
    refine ⟨{ o with scope := if o.task.isSome then 0 else o.scope, sent := false, relId := some (s.nextId + 1) },
      ⟨⟨hid, hgid, hcore, hflag, hpc, hstrand, hinstr, htask, hlate⟩, hrel, hacq, hscoped, hresults, ?_⟩, rfl⟩
    rw [if_pos (hrelease.mp hw)]
    exact ⟨rfl, rfl, hstart⟩

/-- A sent access has started, with its release where it waits for one. -/
theorem started_of_sent {x : MEM} {dsts : List Nat} {t : State} (h : Sent i x dsts s c o t) : ∃ rels, Started i dsts rels s c o t := by
  obtain ⟨-, -, -, -, -, hsent⟩ := h
  split at hsent
  · obtain ⟨-, -, hstart⟩ := hsent
    exact ⟨_, hstart⟩
  · obtain ⟨-, -, hstart⟩ := hsent
    exact ⟨_, hstart⟩

end Sys2Proof.Machine
end

section
/-! SUPPORT. Atomics and reductions as they issue: lanes gathered by location, the wait for a block, and the turn of a deterministic launch
(R100, R142, R143, R396, R401). -/

namespace Sys2Proof.Machine

open Sys2Proof Claim

variable {i : Instr} {s u : State} {c : Ctx} {o : Op}

/-! ### Lanes gathered by location (R100) -/

/-- Lanes of a list that name a location. -/
def namers (loc : Nat → Loc) (ls : List Nat) (at' : Loc) : List Nat := ls.filter (fun k => loc k = at')

/-- One request stands for the lanes of a list that name its location. -/
structure Gathers (arg : Nat → Word × Word) (va : Nat → Nat) (loc : Nat → Loc) (ls : List Nat) (r : Req) : Prop where
  size : r.size = 4
  state : r.state = .waiting
  first : ∃ l, (namers loc ls r.loc).head? = some l ∧ r.lane = l ∧ r.va = va l
  args : r.args = (namers loc ls r.loc).map (fun l => (l, arg l))

/-- The lanes of a list are gathered: one request for each location. -/
structure Gathered (arg : Nat → Word × Word) (va : Nat → Nat) (loc : Nat → Loc) (ls : List Nat) (rs : List Req) : Prop where
  nodup : (rs.map (·.loc)).Nodup
  covers : ∀ l ∈ ls, ∃ r ∈ rs, r.loc = loc l
  gathers : ∀ r ∈ rs, Gathers arg va loc ls r

section
variable {arg : Nat → Word × Word} {va : Nat → Nat} {loc : Nat → Loc} {ls : List Nat} {rs : List Req} {r : Req} {l : Nat}

theorem namers_snoc (loc : Nat → Loc) (ls : List Nat) (l : Nat) (at' : Loc) :
    namers loc (ls ++ [l]) at' = namers loc ls at' ++ if loc l = at' then [l] else [] := by
  unfold namers
  rw [List.filter_append, List.filter_singleton]
  congr 1
  by_cases h : loc l = at'
  · simp [h]
  · simp [h]

/-- A lane of another location leaves a request as it is. -/
theorem Gathers.skip (h : Gathers arg va loc ls r) (hl : loc l ≠ r.loc) : Gathers arg va loc (ls ++ [l]) r := by
  obtain ⟨hsize, hstate, hfirst, hargs⟩ := h
  have hsame : namers loc (ls ++ [l]) r.loc = namers loc ls r.loc := by rw [namers_snoc, if_neg hl, List.append_nil]
  exact ⟨hsize, hstate, hsame.symm ▸ hfirst, hsame.symm ▸ hargs⟩

/-- A lane of a request's location joins it as its last. -/
theorem Gathers.join (h : Gathers arg va loc ls r) (hl : r.loc = loc l) :
    Gathers arg va loc (ls ++ [l]) { r with args := r.args ++ [(l, arg l)] } := by
  obtain ⟨hsize, hstate, ⟨k, hk, hlane, hva⟩, hargs⟩ := h
  have hmore : namers loc (ls ++ [l]) r.loc = namers loc ls r.loc ++ [l] := by rw [namers_snoc, if_pos hl.symm]
  refine ⟨hsize, hstate, ⟨k, ?_, hlane, hva⟩, ?_⟩
  · show (namers loc (ls ++ [l]) r.loc).head? = _
    rw [hmore, List.head?_append, hk]
    rfl
  · show r.args ++ [(l, arg l)] = (namers loc (ls ++ [l]) r.loc).map _
    rw [hmore, List.map_append, hargs]
    rfl

/-- A lane of a location that no request names gets a request of its own. -/
theorem Gathered.fresh (h : Gathered arg va loc ls rs) (hl : ∀ r ∈ rs, r.loc ≠ loc l) :
    Gathered arg va loc (ls ++ [l]) (⟨l, va l, loc l, 4, 0, [(l, arg l)], .waiting⟩ :: rs) := by
  obtain ⟨hnodup, hcovers, hgathers⟩ := h
  have hnone : namers loc ls (loc l) = [] := List.filter_eq_nil_iff.mpr fun k hk hkl => by
    obtain ⟨r, hr, hrk⟩ := hcovers k hk
    exact hl r hr (hrk.trans (of_decide_eq_true hkl))
  have hown : namers loc (ls ++ [l]) (loc l) = [l] := by rw [namers_snoc, hnone, if_pos rfl, List.nil_append]
  refine ⟨List.nodup_cons.mpr ⟨fun hin => ?_, hnodup⟩, fun k hk => ?_, fun r hr => ?_⟩
  · obtain ⟨r, hr, hrl⟩ := List.mem_map.mp hin
    exact hl r hr hrl
  · rcases List.mem_append.mp hk with hk | hk
    · obtain ⟨r, hr, hrk⟩ := hcovers k hk
      exact ⟨r, .tail _ hr, hrk⟩
    · rw [List.mem_singleton.mp hk]
      exact ⟨_, .head _, rfl⟩
  · rcases List.mem_cons.mp hr with rfl | hr
    · exact ⟨rfl, rfl, ⟨l, by rw [hown]; rfl, rfl, rfl⟩, by rw [hown]; rfl⟩
    · exact (hgathers r hr).skip fun he => hl r hr he.symm

/-- A lane joins the request of its location. -/
theorem Gathered.join (h : Gathered arg va loc ls rs) (hl : ∃ r ∈ rs, r.loc = loc l) :
    Gathered arg va loc (ls ++ [l]) (rs.map (fun r => if r.loc == loc l then { r with args := r.args ++ [(l, arg l)] } else r)) := by
  obtain ⟨hnodup, hcovers, hgathers⟩ := h
  have hloc : ∀ r : Req, (if r.loc == loc l then { r with args := r.args ++ [(l, arg l)] } else r).loc = r.loc := fun r => by
    split
    · rfl
    · rfl
  have hin : ∀ {k}, (∃ r ∈ rs, r.loc = loc k) →
      ∃ r ∈ rs.map (fun r => if r.loc == loc l then { r with args := r.args ++ [(l, arg l)] } else r), r.loc = loc k := by
    rintro k ⟨r, hr, hrk⟩
    exact ⟨_, List.mem_map_of_mem hr, (hloc r).trans hrk⟩
  refine ⟨?_, fun k hk => ?_, fun r' hr' => ?_⟩
  · rw [List.map_map]
    exact (List.map_congr_left fun r _ => hloc r).symm ▸ hnodup
  · rcases List.mem_append.mp hk with hk | hk
    · exact hin (hcovers k hk)
    · rw [List.mem_singleton.mp hk]
      exact hin hl
  · obtain ⟨r, hr, rfl⟩ := List.mem_map.mp hr'
    split
    · next he => exact (hgathers r hr).join (beq_iff_eq.mp he)
    · next he => exact (hgathers r hr).skip fun h => he (beq_iff_eq.mpr h.symm)

theorem Gathered.reverse (h : Gathered arg va loc ls rs) : Gathered arg va loc ls rs.reverse := by
  obtain ⟨hnodup, hcovers, hgathers⟩ := h
  refine ⟨?_, fun l hl => ?_, fun r hr => hgathers r (List.mem_reverse.mp hr)⟩
  · rw [List.map_reverse]
    exact List.nodup_reverse.mpr hnodup
  · obtain ⟨r, hr, hrl⟩ := hcovers l hl
    exact ⟨r, List.mem_reverse.mpr hr, hrl⟩

/-- Lanes gathered after others that have been. -/
theorem gatherAtoms_after (h : Gathered arg va loc ls rs) (ms : List Nat) :
    Gathered arg va loc (ls ++ ms) (gatherAtoms arg (ms.map (fun l => (l, va l, loc l))) rs) := by
  induction ms generalizing ls rs with
  | nil => exact (List.append_nil ls).symm ▸ h.reverse
  | cons l ms ih =>
    rw [List.map_cons, gatherAtoms, ← List.singleton_append, ← List.append_assoc]
    split
    · next hany => exact ih (h.join (by simpa using hany))
    · next hany => exact ih (h.fresh (by simpa using hany))

theorem gatherAtoms_gathered (arg : Nat → Word × Word) (va : Nat → Nat) (loc : Nat → Loc) (ls : List Nat) :
    Gathered arg va loc ls (gatherAtoms arg (ls.map (fun l => (l, va l, loc l))) []) :=
  gatherAtoms_after (ls := []) (rs := []) ⟨List.nodup_nil, fun _ h => (nomatch h), fun _ h => (nomatch h)⟩ ls

/-- The lines that gathered requests name are those of the lanes. -/
theorem Gathered.mem_lines (h : Gathered arg va loc ls rs) (p : Nat × Nat) :
    p ∈ (rs.map (fun r => (r.loc.home, r.loc.line))).dedup ↔ ∃ l ∈ ls, p = ((loc l).home, (loc l).line) := by
  rw [List.mem_dedup]
  constructor
  · intro hp
    obtain ⟨r, hr, rfl⟩ := List.mem_map.mp hp
    obtain ⟨l, hl, -, -⟩ := (h.gathers r hr).first
    obtain ⟨hin, hloc⟩ := List.mem_filter.mp (List.mem_of_head? hl)
    exact ⟨l, hin, by rw [of_decide_eq_true hloc]⟩
  · rintro ⟨l, hl, rfl⟩
    obtain ⟨r, hr, hrl⟩ := h.covers l hl
    exact List.mem_map.mpr ⟨r, hr, by rw [hrl]⟩

end

/-! ### The ordered buffer and the turn (R153, R396, R401) -/

/-- Outside deterministic launches no atomic goes to the ordered buffer. -/
theorem toBuffer_of_not_det {g : Group} {l : Launch} (hg : tfind o.gid s.groups = some g) (hl : tfind g.launch s.launches = some l)
    (hdet : l.record.det = false) : s.toBuffer o = false := by
  have hbuffers : ∀ op ret, s.buffers o op ret = false := fun op ret => by
    unfold State.buffers
    rw [hg]
    dsimp only
    rw [hl]
    dsimp only
    rw [hdet, Bool.false_and, Bool.false_and]
  unfold State.toBuffer
  split
  · rw [hbuffers, Bool.and_false]
  · rfl

/-- An atomic is not held back at issue where no want of a block holds one back. -/
theorem heldBack_none {loc : Nat → Loc} (hc : issueCtx s = some c) (hgid : o.gid = c.g.gid)
    (hlines : ∀ p, p ∈ (o.reqs.map (fun r => (r.loc.home, r.loc.line))).dedup ↔ ∃ l ∈ c.active, p = ((loc l).home, (loc l).line))
    (h : NotHeldBack s c loc) : s.heldBack c o = none := by
  unfold State.heldBack
  rcases h with hdet | hfree
  · obtain ⟨l, hl, hldet⟩ := issueCtx_det hc
    have hbuf : s.toBuffer o = false := toBuffer_of_not_det (hgid ▸ issueCtx_group hc) hl (hldet.trans hdet)
    rw [hbuf]
    rfl
  · dsimp only
    rw [hfree _ (List.nodup_dedup _) hlines, Bool.and_false]
    rfl

theorem turnMayPass_refl (team : Nat) (s : State) : TurnMayPass team s s := ⟨rfl, fun _ _ => rfl, fun tm h => ⟨tm.turn, h⟩⟩

/-- The end of a turn changes whose turn it is. -/
theorem passTurn_turnMayPass (s : State) (team : Nat) : TurnMayPass team s (s.passTurn team) := by
  unfold State.passTurn
  cases ht : tfind team s.teams with
  | none => exact turnMayPass_refl team s
  | some t =>
    refine ⟨rfl, fun k hk => tfind_tmodify_ne hk _ _, fun tm htm => ⟨s.nextTurn t t.turn, ?_⟩⟩
    exact tfind_tmodify_at rfl htm _

theorem endHeldTurn_turnMayPass (c : Ctx) (o : Op) (u : State) : TurnMayPass c.g.team u (c.endHeldTurn o u) := by
  have hor : c.endHeldTurn o u = u.passTurn c.g.team ∨ c.endHeldTurn o u = u := ite_eq_or_eq _ _ _
  rcases hor with h | h
  · exact h.symm ▸ passTurn_turnMayPass u c.g.team
  · exact h.symm ▸ turnMayPass_refl c.g.team u

/-- The turn stays outside deterministic launches, and after an instruction with a flag, which holds no group. -/
theorem endHeldTurn_same {dsts : List Nat} {rels : List Rel} {p : Op} (hc : issueCtx s = some c) (hp : Started i dsts rels s c p u)
    (hgid : o.gid = c.g.gid) (h : c.det = false ∨ p.flag < 12) : c.endHeldTurn o u = u := by
  obtain ⟨hu, -, g, hg, -, hframe, hflags⟩ := hp
  unfold Ctx.endHeldTurn
  refine if_neg fun hpass => ?_
  rw [Bool.and_eq_true] at hpass
  obtain ⟨hbuf, hheld⟩ := hpass
  rcases h with hdet | hflag
  · obtain ⟨l, hl, hldet⟩ := issueCtx_det hc
    have hlaunch : g.launch = c.g.launch := by rw [← hframe]
    have hlaunches : u.launches = s.launches := by rw [hu]
    have hgroup : tfind o.gid u.groups = some g := hgid.symm ▸ hg
    rw [toBuffer_of_not_det hgroup (by rw [hlaunch, hlaunches, hl]) (hldet.trans hdet)] at hbuf
    cases hbuf
  · rw [if_pos hflag] at hflags
    obtain ⟨-, -, hnone⟩ := hflags
    have hheld' : (g.heldBy == some o.id) = true := by
      rw [show tfind c.g.gid u.groups = some g from hg] at hheld
      exact hheld
    rw [hnone, issueCtx_heldBy hc] at hheld'
    cases hheld'

/-! ### The instructions -/

/-- What an atomic or a reduction captures of a lane: its operand and, for CAS, its swap and compare values (R142). -/
def atomArg (c : Ctx) (x : MEM) (op : AtomOp) (l : Nat) : Word × Word :=
  if op = .cas then (c.g.vget (dataReg x.data) l, c.read none 0 0 x.sb l) else (c.read none 0 0 x.sb l, 0)

/-- An atomic or a reduction in flight as it is issued. -/
def atomIssued (c : Ctx) (i : Instr) (x : MEM) (op : AtomOp) (ret : Bool) (loc : Nat → Loc) (s : State) : Op :=
  { c.op i (.atomic op (if ret then some (dataReg x.data) else none))
      (gatherAtoms (atomArg c x op) (c.active.map (fun l => (l, c.va x l, loc l))) []) [] s with
    performed := (c.active.map (fun l => (l, c.va x l, loc l))) = [] }

theorem atomOp_lands {x : MEM} {loc : Nat → Loc} (hi : Issues i s c) (hl : Lands c x 4 true true loc c.active) (op : AtomOp) (ret : Bool) :
    atomOp i x op ret s = match s.heldBack c (atomIssued c i x op ret loc s) with
      | some lines => .next (c.waitTurn (.overflow lines) true s)
      | none => .next (c.endHeldTurn (atomIssued c i x op ret loc s) (c.send i (atomIssued c i x op ret loc s) s)) := by
  unfold atomOp memAccess
  rw [issue_of_issues hi, located_lands hl]
  rfl

/-- An atomic or a reduction whose form's registers are those of the claim. -/
theorem atomicCompletes {k : MEM → Instr} {op : AtomOp} {ret : Bool} (n : Nat) (hform : ∀ x, (k x).form = .mem n x)
    (hdsts : ∀ x, opDsts (.mem n x) = if ret then runCodes x.data 1 else [])
    (hexec : ∀ x s, exec (k x) s = atomOp (k x) x op ret s) : AtomicCompletes k op ret := by
  intro x s c loc _ hi hl hfree
  have hgathered := gatherAtoms_gathered (atomArg c x op) (c.va x) loc c.active
  have hnone : s.heldBack c (atomIssued c (k x) x op ret loc s) = none := heldBack_none hi.gang rfl hgathered.mem_lines hfree
  obtain ⟨p, hsent, hp⟩ := Ctx.send_sent (o := atomIssued c (k x) x op ret loc s) hi.gang (Ctx.op_asIssued (hform x) c _ _ _ _)
  obtain ⟨rels, hstarted⟩ := started_of_sent hsent
  have hflag : p.flag = x.flag.toNat := by
    rw [congrArg Op.flag hp]
    show formFlag (k x).form = _
    rw [hform]
    rfl
  have hreqs : p.reqs = gatherAtoms (atomArg c x op) (c.active.map (fun l => (l, c.va x l, loc l))) [] := congrArg Op.reqs hp
  rw [← hreqs] at hgathered
  rw [hform, hdsts] at hsent
  refine ⟨_, _, p, ?_, hsent, endHeldTurn_turnMayPass c (atomIssued c (k x) x op ret loc s) _, fun h => endHeldTurn_same hi.gang hstarted rfl (hflag ▸ h),
    congrArg Op.kind hp, ?_, hgathered.nodup, hgathered.covers, fun r hr => ?_⟩
  · rw [hexec, atomOp_lands hi hl, hnone]
  · rw [congrArg Op.performed hp]
    exact decide_eq_true_iff.trans List.map_eq_nil_iff
  · obtain ⟨hsize, hstate, hfirst, hargs⟩ := hgathered.gathers r hr
    exact ⟨hsize, hstate, hfirst, hargs⟩

theorem atomCompletes {k : MEM → Instr} {op : AtomOp} (n : Nat) (hn : 0x20 ≤ n ∧ n ≤ 0x2c) (hform : ∀ x, (k x).form = .mem n x)
    (hexec : ∀ x s, exec (k x) s = atomOp (k x) x op true s) : AtomicCompletes k op true := by
  refine atomicCompletes n hform (fun x => ?_) hexec
  unfold opDsts
  dsimp only
  rw [if_neg (by omega), if_neg (by omega), if_neg (by omega), if_pos hn]
  rfl

theorem redCompletes {k : MEM → Instr} {op : AtomOp} (n : Nat) (hn : 0x30 ≤ n) (hform : ∀ x, (k x).form = .mem n x)
    (hexec : ∀ x s, exec (k x) s = atomOp (k x) x op false s) : AtomicCompletes k op false := by
  refine atomicCompletes n hform (fun x => ?_) hexec
  unfold opDsts
  dsimp only
  rw [if_neg (by omega), if_neg (by omega), if_neg (by omega), if_neg (by omega)]
  rfl

/-- Settles O31: an atomic's lanes are gathered by location, it is sent with its boundary, and its turn passes only where it holds its group. -/
theorem atomicsStart : Obligations.AtomicsStart := by
  unfold Obligations.AtomicsStart
  exact ⟨atomCompletes 0x20 (by decide) (fun _ => rfl) fun _ _ => rfl, atomCompletes 0x21 (by decide) (fun _ => rfl) fun _ _ => rfl,
    atomCompletes 0x22 (by decide) (fun _ => rfl) fun _ _ => rfl, atomCompletes 0x23 (by decide) (fun _ => rfl) fun _ _ => rfl,
    atomCompletes 0x24 (by decide) (fun _ => rfl) fun _ _ => rfl, atomCompletes 0x25 (by decide) (fun _ => rfl) fun _ _ => rfl,
    atomCompletes 0x26 (by decide) (fun _ => rfl) fun _ _ => rfl, atomCompletes 0x27 (by decide) (fun _ => rfl) fun _ _ => rfl,
    atomCompletes 0x28 (by decide) (fun _ => rfl) fun _ _ => rfl, atomCompletes 0x29 (by decide) (fun _ => rfl) fun _ _ => rfl,
    atomCompletes 0x2a (by decide) (fun _ => rfl) fun _ _ => rfl, atomCompletes 0x2b (by decide) (fun _ => rfl) fun _ _ => rfl,
    atomCompletes 0x2c (by decide) (fun _ => rfl) fun _ _ => rfl, redCompletes 0x30 (by decide) (fun _ => rfl) fun _ _ => rfl,
    redCompletes 0x31 (by decide) (fun _ => rfl) fun _ _ => rfl, redCompletes 0x32 (by decide) (fun _ => rfl) fun _ _ => rfl,
    redCompletes 0x33 (by decide) (fun _ => rfl) fun _ _ => rfl, redCompletes 0x34 (by decide) (fun _ => rfl) fun _ _ => rfl,
    redCompletes 0x35 (by decide) (fun _ => rfl) fun _ _ => rfl, redCompletes 0x36 (by decide) (fun _ => rfl) fun _ _ => rfl,
    redCompletes 0x37 (by decide) (fun _ => rfl) fun _ _ => rfl, redCompletes 0x38 (by decide) (fun _ => rfl) fun _ _ => rfl,
    redCompletes 0x39 (by decide) (fun _ => rfl) fun _ _ => rfl, redCompletes 0x3a (by decide) (fun _ => rfl) fun _ _ => rfl,
    redCompletes 0x3b (by decide) (fun _ => rfl) fun _ _ => rfl, redCompletes 0x3c (by decide) (fun _ => rfl) fun _ _ => rfl⟩

end Sys2Proof.Machine
end

section
/-! SUPPORT. Texture, ray and closure instructions as they issue: what they capture of their lanes, the copies that ACQ drops, and the sectors
that KSPILL and KFILL ask for (R103, R309, R337, R358, R359). -/

namespace Sys2Proof.Machine

open Sys2Proof Claim

variable {i : Instr} {s : State} {c : Ctx} {x : GFX}

/-! ### Captured words -/

/-- The words of a lane's run, each at its key. -/
def laneWrites (c : Ctx) (x : Src) (run l : Nat) : List (Nat × Word) :=
  ((c.run x run l).mapIdx (fun k w => (k, w))).map (fun e => (32 * e.1 + l, e.2))

theorem captureRun_eq (c : Ctx) (x : Src) (run : Nat) (ls : List Nat) :
    captureRun c x run ls = (ls.flatMap (laneWrites c x run)).foldl (fun t e => tset 0 t e.1 e.2) [] := by
  unfold captureRun
  rw [List.foldl_flatMap]
  congr 1
  funext t l
  unfold laneWrites
  rw [List.foldl_map]

theorem Ctx.length_run (c : Ctx) (x : Src) (run l : Nat) : (c.run x run l).length = run := by
  cases x <;> simp [Ctx.run]

theorem mem_laneWrites {run l : Nat} {x : Src} {e : Nat × Word} : e ∈ laneWrites c x run l ↔ ∃ j < run, e = (32 * j + l, (c.run x run l).getD j 0) := by
  have hlen := c.length_run x run l
  unfold laneWrites
  simp only [List.mem_map, List.mem_mapIdx]
  constructor
  · rintro ⟨_, ⟨j, hj, rfl⟩, rfl⟩
    exact ⟨j, hlen ▸ hj, by rw [List.getD_eq_getElem _ _ hj]⟩
  · rintro ⟨j, hj, rfl⟩
    have hj' : j < (c.run x run l).length := hlen.symm ▸ hj
    exact ⟨_, ⟨j, hj', rfl⟩, by rw [List.getD_eq_getElem _ _ hj']⟩

/-- What an engine instruction captures: each lane's run, and after it the index in SC. -/
def engineWrites (c : Ctx) (x : GFX) (run : Nat) (ls : List Nat) : List (Nat × Word) :=
  ls.flatMap (laneWrites c x.a run) ++ ls.map (fun l => (32 * run + l, c.read none 0 0 x.c l))

def engineWords (c : Ctx) (x : GFX) (run : Nat) (ls : List Nat) : Table Word :=
  ls.foldl (fun t l => tset 0 t (32 * run + l) (c.read none 0 0 x.c l)) (captureRun c x.a run ls)

theorem engineWords_eq (c : Ctx) (x : GFX) (run : Nat) (ls : List Nat) :
    engineWords c x run ls = (engineWrites c x run ls).foldl (fun t e => tset 0 t e.1 e.2) [] := by
  unfold engineWords engineWrites
  rw [List.foldl_append, ← captureRun_eq, List.foldl_map]

/-- The word captured of a lane at each place of its run, and the index at the place after them. -/
def engineWord (c : Ctx) (x : GFX) (run l j : Nat) : Word := if j < run then (c.run x.a run l).getD j 0 else c.read none 0 0 x.c l

theorem mem_engineWrites {run : Nat} {ls : List Nat} {e : Nat × Word} :
    e ∈ engineWrites c x run ls ↔ ∃ l ∈ ls, ∃ j ≤ run, e = (32 * j + l, engineWord c x run l j) := by
  unfold engineWrites
  simp only [List.mem_append, List.mem_flatMap, List.mem_map, mem_laneWrites]
  constructor
  · rintro (⟨l, hl, j, hj, rfl⟩ | ⟨l, hl, rfl⟩)
    · exact ⟨l, hl, j, hj.le, by rw [engineWord, if_pos hj]⟩
    · exact ⟨l, hl, run, le_rfl, by rw [engineWord, if_neg (lt_irrefl run)]⟩
  · rintro ⟨l, hl, j, hj, rfl⟩
    rcases hj.lt_or_eq with hj | rfl
    · exact .inl ⟨l, hl, j, hj, by rw [engineWord, if_pos hj]⟩
    · exact .inr ⟨l, hl, by rw [engineWord, if_neg (lt_irrefl j)]⟩

/-- Words captured of lanes below 32 lie apart, so that each reads as captured. -/
theorem tget_engineWords {run l j : Nat} {ls : List Nat} (h32 : ∀ l ∈ ls, l < 32) (hl : l ∈ ls) (hj : j ≤ run) :
    tget 0 (engineWords c x run ls) (32 * j + l) = engineWord c x run l j := by
  rw [engineWords_eq]
  refine tget_writes_in 0 _ _ _ _ (mem_engineWrites.mpr ⟨l, hl, j, hj, rfl⟩) fun e he hkey => ?_
  obtain ⟨m, hm, k, -, rfl⟩ := mem_engineWrites.mp he
  have hm32 := h32 m hm
  have hl32 := h32 l hl
  have hkey' : 32 * k + m = 32 * j + l := hkey
  obtain rfl : m = l := by omega
  obtain rfl : k = j := by omega
  rfl

/-! ### The start -/

/-- The machine once an instruction with ACQ and an active lane has dropped its engine's copies. -/
def acquired (s : State) (c : Ctx) (acq : Bool) (unit : Nat) : State := if acq && c.active != [] then s.dropCopiesOf c.core unit else s

theorem acquired_frame (s : State) (c : Ctx) (acq : Bool) (unit : Nat) : acquired s c acq unit = { s with cores := (acquired s c acq unit).cores } := by
  unfold acquired
  split
  · rfl
  · rfl

theorem acquired_coreState (s : State) (c : Ctx) (acq : Bool) (unit core : Nat) : (acquired s c acq unit).coreState core =
    if acq = true ∧ c.active ≠ [] ∧ core = c.core then
      { s.coreState core with engineCopies := (s.coreState core).engineCopies.filter (fun e => e.1 / 2 ^ 56 % 8 != unit) }
    else s.coreState core := by
  unfold acquired State.dropCopiesOf
  by_cases hacq : acq = true ∧ c.active ≠ []
  · rw [if_pos (by simpa using hacq), State.coreState_modCore]
    by_cases hcore : core = c.core
    · obtain ⟨hset, hactive⟩ := hacq
      rw [if_pos hcore, if_pos ⟨hset, hactive, hcore⟩, hcore]
    · rw [if_neg hcore, if_neg fun ⟨_, _, h⟩ => hcore h]
  · rw [if_neg (by simpa using hacq), if_neg fun ⟨hset, hactive, _⟩ => hacq ⟨hset, hactive⟩]

/-- An engine instruction of the GFX format in flight as it is issued. -/
def engineOp (i : Instr) (kind : OpKind) (x : GFX) (run : Nat) (acq : Bool) (more : List Req) (c : Ctx) (s : State) : Op :=
  { c.op i kind (c.active.map laneSlot ++ more) (engineWords c x run c.active) s with acq := acq, performed := c.active = [] }

theorem gfxStart_eq (i : Instr) (kind : OpKind) (x : GFX) (run unit : Nat) (acq : Bool) (more : List Req) (c : Ctx) (s : State) :
    gfxStart i kind x run unit acq more c s = c.start i (engineOp i kind x run acq more c s) (acquired s c acq unit) := rfl

theorem gfxStart_starts (hs : Shaped s) (hc : issueCtx s = some c) (i : Instr) (kind : OpKind) (x : GFX) (run unit : Nat) (acq : Bool) (more : List Req) :
    EngineStarts i x kind run unit acq more s c (gfxStart i kind x run unit acq more c s) := by
  have hframe := acquired_frame s c acq unit
  have h32 : ∀ l ∈ c.active, l < 32 := fun l hl => active_lt hs hc hl
  have hstarted := Ctx.start_started (u := acquired s c acq unit) hc (by rw [hframe]) i (engineOp i kind x run acq more c s)
  have hcores : (gfxStart i kind x run unit acq more c s).cores = (acquired s c acq unit).cores := rfl
  refine ⟨engineOp i kind x run acq more c s, c.op_isOf i kind [] [] s, ?_, rfl, rfl, rfl, rfl, rfl, decide_eq_true_iff,
    fun l hl => ⟨fun j hj => ?_, ?_⟩, fun core => ?_⟩
  · rw [hcores, ← hframe]
    exact hstarted
  · exact (tget_engineWords h32 hl hj.le).trans (if_pos hj)
  · exact (tget_engineWords h32 hl le_rfl).trans (if_neg (lt_irrefl run))
  · exact acquired_coreState s c acq unit core

theorem gfxCompletes {k : GFX → Instr} {kind : Instr → OpKind} {run : GFX → Nat} {unit : Nat} {acq : GFX → Bool} {more : List Req}
    (hexec : ∀ x s, exec (k x) s = issue (k x) s (fun c s => .next (gfxStart (k x) (kind (k x)) x (run x) unit (acq x) more c s))) :
    GfxCompletes k kind run unit acq more := by
  intro x s c _ hs hi
  exact ⟨_, (hexec x s).trans (issue_of_issues hi _), gfxStart_starts hs hi.gang ..⟩

/-! ### Ray slots (R309) -/

/-- A ray instruction starts where its lanes have their ray slots, and else waits for them. -/
theorem rayStart_starts (hs : Shaped s) (hi : Issues i s c) (hexec : exec i s = rayStart i x s) :
    (c.active = [] ∨ s.raysInFlight c.core + c.active.length ≤ 1024 →
      ∃ t, exec i s = .next t ∧ EngineStarts i x (.ray i) 10 1 (gfxAcq x) [] s c t) ∧
    (c.active ≠ [] → 1024 < s.raysInFlight c.core + c.active.length →
      ∃ t, exec i s = .next t ∧ GroupEnds s c t (fun g => OnlyStrands c g ∧ Claim.Waits c (.slots c.active.length) g)) := by
  have hray : exec i s = if c.active != [] && decide (1024 < s.raysInFlight c.core + c.active.length)
      then .next (c.waitOn (.slots c.active.length) s) else .next (gfxStart i (.ray i) x 10 1 (gfxAcq x) [] c s) :=
    hexec.trans (issue_of_issues hi _)
  refine ⟨fun hroom => ⟨_, hray.trans (if_neg ?_), gfxStart_starts hs hi.gang ..⟩,
    fun hne hfull => ⟨_, hray.trans (if_pos ?_), waitOn_ends hi.gang _⟩⟩
  · rw [Bool.and_eq_true, bne_iff_ne, decide_eq_true_eq, not_and_or, not_not, not_lt]
    exact hroom
  · rw [Bool.and_eq_true, bne_iff_ne, decide_eq_true_eq]
    exact ⟨hne, hfull⟩

/-! ### KSPILL and KFILL (R359) -/

/-- The IPA to which a range leads an address (R22). -/
def rangedIpa (r : Table (BitVec 64)) (n va : Nat) : Nat := va - rangeBase r n / 65536 * 65536 + bitsOf (rangeOff r n) 16 36 * 65536

/-- What lets a range answer an access (R22). -/
structure RangeAllows (r : Table (BitVec 64)) (va size : Nat) (rd wr fetch : Bool) (n : Nat) : Prop where
  hit : rangeHit r va = some n
  limit : (va + size - 1) / 65536 ≤ rangeLim r n / 65536
  ipa : rangedIpa r n va + size - 1 < 2 ^ 52
  reads : (rd && bitsOf (rangeBase r n) 0 1 == 0) = false
  writes : (wr && bitsOf (rangeBase r n) 1 1 == 0) = false
  fetches : (fetch && bitsOf (rangeBase r n) 2 1 == 1) = false

section
variable {r : Table (BitVec 64)} {va size n : Nat} {rd wr fetch : Bool}

theorem translate_of_allows (h : RangeAllows r va size rd wr fetch n) : translate r va size rd wr fetch = .ok (locOf r n (rangedIpa r n va)) := by
  obtain ⟨hhit, hlimit, hipa, hreads, hwrites, hfetches⟩ := h
  unfold rangedIpa at hipa ⊢
  unfold translate
  rw [hhit]
  dsimp only
  rw [if_neg (not_lt.mpr hlimit), if_neg (not_le.mpr hipa), hreads, hwrites, hfetches, if_neg Bool.false_ne_true, if_neg Bool.false_ne_true,
    if_neg Bool.false_ne_true]

theorem allows_of_translate {loc : Loc} (h : translate r va size rd wr fetch = .ok loc) : ∃ n, RangeAllows r va size rd wr fetch n := by
  unfold translate at h
  split at h
  · cases h
  · next n hhit =>
    dsimp only at h
    split_ifs at h with hlimit hipa hreads hwrites hfetches
    exact ⟨n, hhit, not_lt.mp hlimit, not_le.mp hipa, Bool.eq_false_iff.mpr hreads, Bool.eq_false_iff.mpr hwrites, Bool.eq_false_iff.mpr hfetches⟩

/-- A range that an address hits begins at its page or below. -/
theorem rangeBase_le_of_hit (h : rangeHit r va = some n) : rangeBase r n / 65536 ≤ va / 65536 := by
  have hholds := List.find?_some h
  simp only [Bool.and_eq_true, decide_eq_true_eq] at hholds
  obtain ⟨⟨-, hbase⟩, -⟩ := hholds
  exact hbase

/-- The range that answers an access of 256 aligned bytes answers each of their sectors: they lie in one page. -/
theorem RangeAllows.sector (hva : va % 256 = 0) (h : RangeAllows r va 256 rd wr fetch n) {j : Nat} (hj : j < 16) :
    RangeAllows r (va + 16 * j) 16 rd wr fetch n := by
  obtain ⟨hhit, hlimit, hipa, hreads, hwrites, hfetches⟩ := h
  have hpage : (va + 16 * j) / 65536 = va / 65536 := by omega
  have hsame : rangeHit r (va + 16 * j) = rangeHit r va := by
    unfold rangeHit
    rw [hpage]
  have hbase := rangeBase_le_of_hit hhit
  unfold rangedIpa at hipa
  refine ⟨hsame.trans hhit, by omega, ?_, hreads, hwrites, hfetches⟩
  unfold rangedIpa
  omega

theorem translate_sector {loc : Loc} (hva : va % 256 = 0) (h : translate r va 256 rd wr fetch = .ok loc) {j : Nat} (hj : j < 16) :
    ∃ loc', translate r (va + 16 * j) 16 rd wr fetch = .ok loc' := by
  obtain ⟨n, hallows⟩ := allows_of_translate h
  exact ⟨_, translate_of_allows (hallows.sector hva hj)⟩

end

/-- The requests of a lane whose 256 bytes are mapped: its sixteen sectors. -/
theorem spillReqs_sectors {r : Table (BitVec 64)} {store : Bool} {va : Nat} {loc : Loc} (l : Nat) (hva : va % 256 = 0)
    (h : translate r va 256 (!store) store false = .ok loc) :
    (spillReqs r store l va).map (fun q => (q.lane, q.va)) = (List.range 16).map (fun j => (l, va + 16 * j)) := by
  unfold spillReqs
  rw [List.map_filterMap, ← List.filterMap_eq_map]
  refine List.filterMap_congr fun j hj => ?_
  obtain ⟨loc', hloc'⟩ := translate_sector hva h (List.mem_range.mp hj)
  rw [hloc']
  rfl

theorem mem_spillReqs {r : Table (BitVec 64)} {store : Bool} {l va : Nat} {q : Req} (h : q ∈ spillReqs r store l va) :
    q.size = 16 ∧ q.state = .waiting := by
  obtain ⟨j, -, hq⟩ := List.mem_filterMap.mp h
  split at hq
  · cases hq
    exact ⟨rfl, rfl⟩
  · cases hq

/-- The requests of KSPILL or KFILL, lane by lane. -/
def spillRequests (c : Ctx) (x : GFX) (store : Bool) : List Req := (c.active.map (fun l => spillReqs c.g.ranges store l (c.base64 x.a l))).flatten

theorem spillRequests_sectors {store : Bool}
    (h : ∀ l ∈ c.active, c.base64 x.a l % 256 = 0 ∧ ∃ loc, translate c.g.ranges (c.base64 x.a l) 256 (!store) store false = .ok loc) :
    (spillRequests c x store).map (fun r => (r.lane, r.va)) =
      (c.active.map (fun l => (List.range 16).map (fun j => (l, c.base64 x.a l + 16 * j)))).flatten := by
  unfold spillRequests
  rw [List.map_flatten, List.map_map]
  congr 1
  refine List.map_congr_left fun l hl => ?_
  obtain ⟨hva, loc, hloc⟩ := h l hl
  exact spillReqs_sectors l hva hloc

theorem spillRequests_eq_nil {store : Bool}
    (h : ∀ l ∈ c.active, c.base64 x.a l % 256 = 0 ∧ ∃ loc, translate c.g.ranges (c.base64 x.a l) 256 (!store) store false = .ok loc) :
    spillRequests c x store = [] ↔ c.active = [] := by
  rw [← List.map_eq_nil_iff (f := fun r : Req => (r.lane, r.va)), spillRequests_sectors h, List.flatten_eq_nil_iff]
  constructor
  · intro hnil
    refine List.eq_nil_iff_forall_not_mem.mpr fun l hl => ?_
    have := hnil _ (List.mem_map_of_mem hl)
    cases List.map_eq_nil_iff.mp this
  · intro hnil
    rw [hnil]
    exact fun _ hm => (nomatch hm)

/-- KSPILL or KFILL in flight as it is issued. -/
def spillOp (i : Instr) (x : GFX) (store : Bool) (c : Ctx) (s : State) : Op :=
  { c.op i (.spillFill i) (spillRequests c x store) (captureRun c x.a 2 c.active) s with performed := spillRequests c x store = [] }

theorem spillFillOp_eq (hi : Issues i s c) (x : GFX) (store : Bool) : spillFillOp i x store s = .next (c.start i (spillOp i x store c s) s) :=
  issue_of_issues hi _

theorem spillCompletes {k : GFX → Instr} {store : Bool} (hdsts : ∀ x, opDsts (k x).form = [])
    (hexec : ∀ x s, exec (k x) s = spillFillOp (k x) x store s) : SpillCompletes k store := by
  intro x s c _ hi hmapped
  have hstarted := Ctx.start_started hi.gang rfl (k x) (spillOp (k x) x store c s)
  rw [hdsts] at hstarted
  refine ⟨_, spillOp (k x) x store c s, (hexec x s).trans (spillFillOp_eq hi x store), c.op_isOf (k x) (.spillFill (k x)) [] [] s, hstarted, rfl,
    decide_eq_true_iff.trans (spillRequests_eq_nil hmapped), fun r hr => ?_, spillRequests_sectors hmapped⟩
  obtain ⟨rs, hrs, hin⟩ := List.mem_flatten.mp hr
  obtain ⟨l, -, rfl⟩ := List.mem_map.mp hrs
  exact mem_spillReqs hin

/-! ### The statement -/

/-- Settles O46: each instruction's start, and KSPILL's and KFILL's requests sector by sector. -/
theorem graphicsInstructionsStart : Obligations.GraphicsInstructionsStart := by
  unfold Obligations.GraphicsInstructionsStart
  refine ⟨gfxCompletes fun _ _ => rfl, gfxCompletes fun _ _ => rfl, gfxCompletes fun _ _ => rfl, ?_, gfxCompletes fun _ _ => rfl,
    gfxCompletes fun _ _ => rfl, gfxCompletes fun _ _ => rfl, gfxCompletes fun _ _ => rfl, gfxCompletes fun _ _ => rfl,
    gfxCompletes fun _ _ => rfl, gfxCompletes fun _ _ => rfl, gfxCompletes fun _ _ => rfl, gfxCompletes fun _ _ => rfl,
    gfxCompletes fun _ _ => rfl, spillCompletes (fun _ => rfl) fun _ _ => rfl, spillCompletes (fun _ => rfl) fun _ _ => rfl⟩
  rintro k (rfl | rfl | rfl) x s c - hs hi
  · exact rayStart_starts hs hi rfl
  · exact rayStart_starts hs hi rfl
  · exact rayStart_starts hs hi rfl

end Sys2Proof.Machine
end

section
/-! SUPPORT. Instruction words: the fields of a word packed and unpacked, the operands that codes name, the fields that the checks allow, and
O55, that decoding undoes encoding (R107 to R131). -/

namespace Sys2Proof

/-! ### Fields of a word -/

/-- Every field's value fits its width. -/
def Fits (fs : List (Nat × Nat)) : Prop := ∀ f ∈ fs, f.2 < 2 ^ f.1

theorem fits_cons {w v : Nat} {fs : List (Nat × Nat)} : Fits ((w, v) :: fs) ↔ v < 2 ^ w ∧ Fits fs := List.forall_mem_cons

theorem fits_nil : Fits [] := fun _ h => nomatch h

theorem unpack_pack {fs : List (Nat × Nat)} (h : Fits fs) : unpack (fs.map Prod.fst) (pack fs) = fs.map Prod.snd := by
  induction fs with
  | nil => rfl
  | cons f fs ih =>
    obtain ⟨hv, hfs⟩ := fits_cons.mp h
    have hrest : (f.2 % 2 ^ f.1 + 2 ^ f.1 * pack fs) / 2 ^ f.1 = pack fs := by
      rw [Nat.add_mul_div_left _ _ (Nat.two_pow_pos _), Nat.div_eq_of_lt (Nat.mod_lt _ (Nat.two_pow_pos _)), Nat.zero_add]
    show (f.2 % 2 ^ f.1 + 2 ^ f.1 * pack fs) % 2 ^ f.1 :: unpack _ ((f.2 % 2 ^ f.1 + 2 ^ f.1 * pack fs) / 2 ^ f.1) = _
    rw [hrest, ih hfs, Nat.add_mul_mod_self_left, Nat.mod_mod, Nat.mod_eq_of_lt hv]
    rfl

theorem pack_lt (fs : List (Nat × Nat)) : pack fs < 2 ^ (fs.map Prod.fst).sum := by
  induction fs with
  | nil => exact Nat.one_pos
  | cons f fs ih =>
    show f.2 % 2 ^ f.1 + 2 ^ f.1 * pack fs < 2 ^ (f.1 + (fs.map Prod.fst).sum)
    rw [Nat.pow_add]
    calc f.2 % 2 ^ f.1 + 2 ^ f.1 * pack fs < 2 ^ f.1 + 2 ^ f.1 * pack fs := Nat.add_lt_add_right (Nat.mod_lt _ (Nat.two_pow_pos _)) _
      _ = 2 ^ f.1 * (pack fs + 1) := by ring
      _ ≤ 2 ^ f.1 * 2 ^ (fs.map Prod.fst).sum := Nat.mul_le_mul_left _ ih

/-- The fields above the lowest few. -/
theorem pack_div_drop (fs : List (Nat × Nat)) (k : Nat) : pack fs / 2 ^ ((fs.take k).map Prod.fst).sum = pack (fs.drop k) := by
  induction fs generalizing k with
  | nil => rw [List.take_nil, List.drop_nil]; exact Nat.div_one _
  | cons f fs ih =>
    cases k with
    | zero => exact Nat.div_one _
    | succ k =>
      show (f.2 % 2 ^ f.1 + 2 ^ f.1 * pack fs) / 2 ^ (f.1 + ((fs.take k).map Prod.fst).sum) = pack (fs.drop k)
      rw [Nat.pow_add, ← Nat.div_div_eq_div_mul, Nat.add_mul_div_left _ _ (Nat.two_pow_pos _),
        Nat.div_eq_of_lt (Nat.mod_lt _ (Nat.two_pow_pos _)), Nat.zero_add, ih]

/-- The format code of a form's word (R108). -/
def Form.format : Form → Nat
  | .vf _ _ => 0x0
  | .vi _ _ => 0x1
  | .sf _ _ => 0x2
  | .mem _ _ => 0x4
  | .ctl _ _ => 0x5
  | .eng _ _ => 0x6
  | .gfx _ _ => 0x7
  | .pair _ _ _ => 0x8
  | .lit => 0xF
  | .event => 0x0

theorem pack_lt_of_widths {fs : List (Nat × Nat)} {n : Nat} (ws : List Nat) (hfs : fs.map Prod.fst = ws) (hsum : ws.sum = n) :
    pack fs < 2 ^ n := by
  subst hfs hsum
  exact pack_lt fs

theorem pack_div_of_widths {fs : List (Nat × Nat)} {n k : Nat} (ws : List Nat) (hfs : fs.map Prod.fst = ws) (hsum : (ws.take k).sum = n) :
    pack fs / 2 ^ n = pack (fs.drop k) := by
  subst hfs hsum
  rw [← List.map_take]
  exact pack_div_drop fs k

theorem Form.word_format (f : Form) : f.word / 2 ^ 60 = f.format := by
  cases f with
  | vf op x => exact pack_div_of_widths (k := 17) vfWidths rfl (by decide)
  | vi op x => exact pack_div_of_widths (k := 11) viWidths rfl (by decide)
  | sf op x => exact pack_div_of_widths (k := 6) sfWidths rfl (by decide)
  | mem op x => exact pack_div_of_widths (k := 12) memWidths rfl (by decide)
  | ctl op x => exact pack_div_of_widths (k := 4) ctlWidths rfl (by decide)
  | eng op x => exact pack_div_of_widths (k := 10) engWidths rfl (by decide)
  | gfx op x => exact pack_div_of_widths (k := 9) gfxWidths rfl (by decide)
  | pair op x y => exact pack_div_of_widths (k := 8) pairWidths rfl (by decide)
  | lit => decide
  | event => decide

theorem Form.word_lt (f : Form) : f.word < 2 ^ 64 := by
  cases f with
  | vf op x => exact pack_lt_of_widths vfWidths rfl (by decide)
  | vi op x => exact pack_lt_of_widths viWidths rfl (by decide)
  | sf op x => exact pack_lt_of_widths sfWidths rfl (by decide)
  | mem op x => exact pack_lt_of_widths memWidths rfl (by decide)
  | ctl op x => exact pack_lt_of_widths ctlWidths rfl (by decide)
  | eng op x => exact pack_lt_of_widths engWidths rfl (by decide)
  | gfx op x => exact pack_lt_of_widths gfxWidths rfl (by decide)
  | pair op x y => exact pack_lt_of_widths pairWidths rfl (by decide)
  | lit => decide
  | event => decide

/-! ### Operands and destinations -/

/-- Whether a field's code names the source again: it is read as no code, and reads the literal that follows its word. -/
def Src.Named (lit : Word) : Src → Prop
  | .code _ => False
  | .lit w => w = lit
  | _ => True

theorem Src.toCode_lt (x : Src) : x.toCode < 2 ^ 8 := by
  cases x <;> simp only [Src.toCode] <;> omega

theorem Src.ofCode_toCode {lit : Word} {x : Src} (h : x.Named lit) : Src.ofCode lit x.toCode = some x := by
  cases x with
  | v n =>
    show Src.ofCode lit n.val = _
    unfold Src.ofCode
    rw [if_pos n.isLt]
    exact congrArg (fun k => some (Src.v k)) (Fin.ext (Nat.mod_eq_of_lt n.isLt))
  | s n =>
    show Src.ofCode lit (0x80 + n.val) = _
    unfold Src.ofCode
    rw [if_neg (by omega), if_pos (by omega)]
    exact congrArg (fun k => some (Src.s k)) (Fin.ext (show (0x80 + n.val) % 64 = n.val by omega))
  | c n =>
    show Src.ofCode lit (0xC0 + n.val) = _
    unfold Src.ofCode
    rw [if_neg (by omega), if_neg (by omega), if_pos (by omega)]
    exact congrArg (fun k => some (Src.c k)) (Fin.ext (show (0xC0 + n.val) % 32 = n.val by omega))
  | const n =>
    show Src.ofCode lit (0xE0 + n.val) = _
    unfold Src.ofCode
    rw [if_neg (by omega), if_neg (by omega), if_neg (by omega), if_pos (by omega)]
    exact congrArg (fun k => some (Src.const k)) (Fin.ext (show (0xE0 + n.val) % 8 = n.val by omega))
  | q n => fin_cases n <;> rfl
  | lit w => exact congrArg (fun v => some (Src.lit v)) (Eq.symm h)
  | code n => exact h.elim
  | _ => rfl


theorem Dst.toCode_lt (d : Dst) : d.toCode < 2 ^ 8 := by
  cases d <;> simp only [Dst.toCode] <;> omega

theorem Dst.ofField_toCode {k : DstKind} {d : Dst} (h : d.okFor k = true) : Dst.ofField k d.toCode = some d := by
  match k, d, h with
  | .v, .v n, _ =>
    refine (if_pos n.isLt).trans ?_
    exact congrArg (fun j => some (Dst.v j)) (Fin.ext (Nat.mod_eq_of_lt n.isLt))
  | .vq, .v n, _ =>
    refine (if_pos n.isLt).trans ?_
    exact congrArg (fun j => some (Dst.v j)) (Fin.ext (Nat.mod_eq_of_lt n.isLt))
  | .vq, .q n, _ => fin_cases n <;> rfl
  | .s, .s n, _ =>
    refine (if_pos (show 0x80 ≤ 0x80 + n.val ∧ 0x80 + n.val < 0xC0 by omega)).trans ?_
    exact congrArg (fun j => some (Dst.s j)) (Fin.ext (show (0x80 + n.val) % 64 = n.val by omega))
  | .p, .p n, _ => fin_cases n <;> rfl
  | .unused, .none, _ => rfl

/-- A field that its opcode reads as a code holds one. -/
theorem Src.code_of_okFor {any : Src → Bool} {k : SrcKind} {x : Src} (hk : k.isCode = true) (h : x.okFor any k = true) : ∃ n, x = .code n := by
  cases x with
  | code n => exact ⟨n, rfl⟩
  | _ =>
    cases k with
    | below _ | conv | convEf | convSr => cases h
    | _ => cases hk

/-- A field that its opcode reads as a source holds one, of those the format allows. -/
theorem Src.named_of_okFor {lit : Word} {any : Src → Bool} {k : SrcKind} {x : Src} (hany : ∀ n, any (.code n) = false) (hk : k.isCode = false)
    (h : x.okFor any k = true) (hl : ∀ w, x.lit? = some w → w = lit) : x.Named lit := by
  cases x with
  | code n =>
    cases k with
    | src => exact absurd h (by rw [Src.okFor, hany]; exact Bool.false_ne_true)
    | below _ | conv | convEf | convSr => cases hk
    | _ => cases h
  | lit w => exact hl w rfl
  | _ => trivial

theorem Src.ofField_toCode {lit : Word} {any : Src → Bool} {k : SrcKind} {x : Src} (hany : ∀ n, any (.code n) = false)
    (h : x.okFor any k = true) (hl : ∀ w, x.lit? = some w → w = lit) : Src.ofField k.isCode lit x.toCode = some x := by
  cases hk : k.isCode with
  | true =>
    obtain ⟨n, rfl⟩ := Src.code_of_okFor hk h
    simp [Src.ofField, Src.toCode]
  | false => exact Src.ofCode_toCode (Src.named_of_okFor hany hk h hl)

theorem bit_lt (b : Bool) : bit b < 2 ^ 1 := by cases b <;> decide

@[simp] theorem bit_eq_one (b : Bool) : (bit b == 1) = b := by cases b <;> rfl

@[simp] theorem bits3_bits (v : BitVec 3) : bits3 (bit v[2]) (bit v[1]) (bit v[0]) = v := by
  revert v
  decide

@[simp] theorem bits2_bits (v : BitVec 2) : bits2 (bit v[1]) (bit v[0]) = v := by
  revert v
  decide

theorem unpack_of_widths {fs : List (Nat × Nat)} (ws : List Nat) (hfs : fs.map Prod.fst = ws) (hfits : Fits fs) :
    unpack ws (pack fs) = fs.map Prod.snd := by
  subst hfs
  exact unpack_pack hfits

/-! ### The words of the formats (R109) -/

theorem parseVF_word {lit : Word} {op : Nat} {x : VF} (hop : op < 2 ^ 8) (hd : x.dst.okFor (vecSpec op).dst = true)
    (ha : Src.ofField (vecSpec op).a.isCode lit x.a.toCode = some x.a) (hb : Src.ofField (vecSpec op).b.isCode lit x.b.toCode = some x.b)
    (hc : Src.ofField (vecSpec op).c.isCode lit x.c.toCode = some x.c) : parseVF lit (Form.vf op x).word = some (.vf op x) := by
  unfold parseVF Form.word
  dsimp only
  rw [unpack_of_widths vfWidths rfl]
  · simp [Dst.ofField_toCode hd, ha, hb, hc]
  · simp only [fits_cons, fits_nil, bit_lt, Src.toCode_lt, Dst.toCode_lt, hop, BitVec.isLt, true_and]
    decide

theorem parseVI_word {lit : Word} {op : Nat} {x : VI} (hop : op < 2 ^ 8) (hd : x.dst.okFor (vecSpec op).dst = true)
    (ha : x.a.Named lit) (hb : x.b.Named lit) : parseVI lit (Form.vi op x).word = some (.vi op x) := by
  unfold parseVI Form.word
  dsimp only
  rw [unpack_of_widths viWidths rfl]
  · simp [Dst.ofField_toCode hd, Src.ofCode_toCode ha, Src.ofCode_toCode hb]
  · simp only [fits_cons, fits_nil, bit_lt, Src.toCode_lt, Dst.toCode_lt, hop, BitVec.isLt, true_and]
    decide

theorem parseSF_word {lit : Word} {op : Nat} {x : SF} (hop : op < 2 ^ 8) (hd : x.dst.okFor (sfSpec op).1 = true)
    (ha : x.a.Named lit) (hb : x.b.Named lit) (hc : Src.ofField (sfSpec op).2.2.2.isCode lit x.c.toCode = some x.c) :
    parseSF lit (Form.sf op x).word = some (.sf op x) := by
  unfold parseSF Form.word
  dsimp only
  rw [unpack_of_widths sfWidths rfl]
  · simp [Dst.ofField_toCode hd, Src.ofCode_toCode ha, Src.ofCode_toCode hb, hc]
  · simp only [fits_cons, fits_nil, Src.toCode_lt, Dst.toCode_lt, hop, BitVec.isLt, true_and]
    decide

theorem parseMEM_word {lit : Word} {op : Nat} {x : MEM} (hop : op < 2 ^ 8) (hd : x.data.Named lit) (ha : x.base.Named lit)
    (hb : x.sb.Named lit) : parseMEM lit (Form.mem op x).word = some (.mem op x) := by
  unfold parseMEM Form.word
  dsimp only
  rw [unpack_of_widths memWidths rfl]
  · simp [Src.ofCode_toCode hd, Src.ofCode_toCode ha, Src.ofCode_toCode hb]
  · simp only [fits_cons, fits_nil, bit_lt, Src.toCode_lt, hop, BitVec.isLt, true_and]
    decide

theorem parseCTL_word {op : Nat} {x : CTL} (hop : op < 2 ^ 8) (hc : Src.ofField (condIsCode op) 0#32 x.cond.toCode = some x.cond) :
    parseCTL (Form.ctl op x).word = some (.ctl op x) := by
  unfold parseCTL Form.word
  dsimp only
  rw [unpack_of_widths ctlWidths rfl]
  · simp [hc]
  · simp only [fits_cons, fits_nil, Src.toCode_lt, hop, BitVec.isLt, true_and]
    decide

theorem parseENG_word {op : Nat} {x : ENG} (hop : op < 2 ^ 8) (ha : x.a.Named 0#32) (hb : x.b.Named 0#32) (hc : x.c.Named 0#32) :
    parseENG (Form.eng op x).word = some (.eng op x) := by
  unfold parseENG Form.word
  dsimp only
  rw [unpack_of_widths engWidths rfl]
  · simp [Src.ofCode_toCode ha, Src.ofCode_toCode hb, Src.ofCode_toCode hc]
  · simp only [fits_cons, fits_nil, bit_lt, Src.toCode_lt, hop, BitVec.isLt, true_and]
    decide

theorem parseGFX_word {op : Nat} {x : GFX} (hop : op < 2 ^ 8) (hd : x.dst.Named 0#32) (ha : x.a.Named 0#32) (hb : x.b.Named 0#32) (hc : x.c.Named 0#32) :
    parseGFX (Form.gfx op x).word = some (.gfx op x) := by
  unfold parseGFX Form.word
  dsimp only
  rw [unpack_of_widths gfxWidths rfl]
  · simp [Src.ofCode_toCode hd, Src.ofCode_toCode ha, Src.ofCode_toCode hb, Src.ofCode_toCode hc]
  · simp only [fits_cons, fits_nil, Src.toCode_lt, hop, BitVec.isLt, true_and]
    decide

theorem SlotOp.toCode_lt (op : SlotOp) : op.toCode < 2 ^ 6 := by cases op <;> decide

theorem SlotOp.ofCode?_toCode (op : SlotOp) : SlotOp.ofCode? op.toCode = some op := by cases op <;> rfl

theorem parseSlot_fields {x : SlotArgs} (ha : x.a.Named 0#32) (hb : x.b.Named 0#32) : parseSlot x.dst.val x.a.toCode x.b.toCode = some x := by
  unfold parseSlot
  rw [if_pos x.dst.isLt]
  simp [Src.ofCode_toCode ha, Src.ofCode_toCode hb]

theorem parsePAIR_word {op : SlotOp} {x : SlotArgs} {y : PairSlot} (hxa : x.a.Named 0#32) (hxb : x.b.Named 0#32) (hya : y.args.a.Named 0#32)
    (hyb : y.args.b.Named 0#32) : parsePAIR (Form.pair op x y).word = some (.pair op x y) := by
  unfold parsePAIR Form.word
  dsimp only
  rw [unpack_of_widths pairWidths rfl]
  · simp [SlotOp.ofCode?_toCode, parseSlot_fields hxa hxb, parseSlot_fields hya hyb]
  · have hdst : ∀ n : Fin 128, n.val < 2 ^ 8 := fun n => by omega
    simp only [fits_cons, fits_nil, Src.toCode_lt, SlotOp.toCode_lt, hdst, true_and]
    decide

/-! ### The fields that the checks leave (R110 to R131) -/

theorem vecOk_code (n : BitVec 8) : Src.vecOk (.code n) = false := rfl
theorem scalarOk_code (n : BitVec 8) : Src.scalarOk (.code n) = false := rfl

/-- No VI opcode reads a source as a code (R112). -/
theorem vecSpec_isCode {op : Nat} (h : 1 ≤ (vecSpec op).viSrcs) : (vecSpec op).a.isCode = false ∧ (vecSpec op).b.isCode = false := by
  unfold vecSpec at h ⊢
  split <;> first | exact ⟨rfl, rfl⟩ | cases h

/-- No SF opcode reads A or B as a code (R252). -/
theorem sfSpec_isCode (op : Nat) : (sfSpec op).2.1.isCode = false ∧ (sfSpec op).2.2.1.isCode = false := by
  unfold sfSpec
  split <;> exact ⟨rfl, rfl⟩

theorem viKind_isCode {used : Bool} {k : SrcKind} (h : k.isCode = false) : (viKind used k).isCode = false := by
  cases used
  · rfl
  · exact h

/-- Every literal of a list is the literal its words agree on (R114). -/
theorem eq_of_litsAgree {xs : List Src} {lit : Word} (h : litsAgree xs = true) (hl : ∀ v, (xs.filterMap Src.lit?).head? = some v → v = lit)
    {x : Src} (hx : x ∈ xs) : ∀ w, x.lit? = some w → w = lit := by
  intro w hw
  have hin : w ∈ xs.filterMap Src.lit? := List.mem_filterMap.mpr ⟨x, hx, hw⟩
  unfold litsAgree at h
  cases hls : xs.filterMap Src.lit? with
  | nil => rw [hls] at hin; cases hin
  | cons y ys =>
    rw [hls] at h hl hin
    rw [← hl y rfl]
    rcases List.mem_cons.mp hin with rfl | hin
    · rfl
    · exact beq_iff_eq.mp (List.all_eq_true.mp h w hin)

/-- A field that is neither a code nor a literal, so that its code alone names it. -/
def Src.Plain : Src → Prop
  | .code _ | .lit _ => False
  | _ => True

theorem Src.Plain.named {lit : Word} {x : Src} (h : x.Plain) : x.Named lit := by
  cases x with
  | code n | lit n => exact h.elim
  | _ => trivial

theorem Src.Plain.lit? {x : Src} (h : x.Plain) : x.lit? = none := by
  cases x with
  | lit n => exact h.elim
  | _ => rfl

theorem plain_of_isVRun {x : Src} {len align : Nat} (h : x.isVRun len align = true) : x.Plain := by
  cases x with
  | v n => trivial
  | _ => cases h

theorem plain_of_isSRun {x : Src} {len align : Nat} (h : x.isSRun len align = true) : x.Plain := by
  cases x with
  | s n => trivial
  | _ => cases h

theorem plain_of_isVS {x : Src} (h : x.isVS = true) : x.Plain :=
  (Bool.or_eq_true_iff.mp h).elim plain_of_isVRun plain_of_isSRun

theorem plain_of_eq_unused {x : Src} (h : x = .unused) : x.Plain := by subst h; trivial

theorem plain_of_eq_zeroField {x : Src} (h : x = .zeroField) : x.Plain := by subst h; trivial

/-- No MEM field is read as a code, and only SB takes a literal (R131). -/
theorem MEM.fieldsOk_plain {op : Nat} {x : MEM} (h : x.fieldsOk op = true) : x.data.Plain ∧ x.base.Plain ∧ ∀ n, x.sb ≠ .code n := by
  obtain ⟨data, base, sb, offset, fe, scope, acq, rel, sync, nt, flag⟩ := x
  refine ⟨?_, ?_, ?_⟩
  · cases data with
    | code n | lit n => simp [MEM.fieldsOk, Src.isVRun, Src.isSRun, Src.isVS] at h
    | _ => trivial
  · cases base with
    | code n | lit n => simp [MEM.fieldsOk, Src.isVRun, Src.isSRun, Src.isVS, Src.isPair] at h
    | _ => trivial
  · rintro n rfl
    simp [MEM.fieldsOk, Src.isSRun, Src.memSbOk] at h

/-- A GFX field is a register or nothing (R306, R335, R357). -/
theorem GFX.fieldsOk_plain {op : Nat} {x : GFX} (h : x.fieldsOk op = true) :
    x.dst.Plain ∧ x.a.Plain ∧ x.b.Plain ∧ x.c.Plain := by
  unfold GFX.fieldsOk at h
  split at h <;> grind -ring -linarith -lia -order [plain_of_isVRun, plain_of_isVS, plain_of_eq_unused, plain_of_eq_zeroField]

/-- An ENG field is a register or nothing (R183, R289, R387). -/
theorem ENG.fieldsOk_plain {op : Nat} {x : ENG} (h : x.fieldsOk op = true) : x.a.Plain ∧ x.b.Plain ∧ x.c.Plain := by
  unfold ENG.fieldsOk drainOk at h
  split at h <;> grind -ring -linarith -lia -order [plain_of_isSRun, plain_of_eq_unused]

theorem slotOk_plain {op : SlotOp} {x : SlotArgs} (h : slotOk op x = true) : x.a.Plain ∧ x.b.Plain := by
  obtain ⟨dst, a, b⟩ := x
  have hsrc : ∀ {y : Src}, y.slotOk = true → y.Plain := fun {y} hy => by
    cases y with
    | code n | lit n => cases hy
    | _ => trivial
  cases op with
  | nop => cases beq_iff_eq.mp h; exact ⟨trivial, trivial⟩
  | mov =>
    obtain ⟨ha, hb⟩ := Bool.and_eq_true_iff.mp h
    exact ⟨hsrc ha, plain_of_eq_unused (beq_iff_eq.mp hb)⟩
  | _ =>
    obtain ⟨ha, hb⟩ := Bool.and_eq_true_iff.mp h
    exact ⟨hsrc ha, hsrc hb⟩

/-- COND holds a code in BRA and PPUSH, and a scalar register or nothing elsewhere (R190). -/
theorem CTL.ofField_cond {op : Nat} {x : CTL} (h : x.wf op = true) : Src.ofField (condIsCode op) 0#32 x.cond.toCode = some x.cond := by
  obtain ⟨cond, f12, offset⟩ := x
  by_cases hop : op = 0x00 ∨ op = 0x04
  · have hcode : ∃ n, cond = .code n := by
      cases cond with
      | code n => exact ⟨n, rfl⟩
      | _ => rcases hop with rfl | rfl <;> cases h
    obtain ⟨n, rfl⟩ := hcode
    simp [condIsCode, hop, Src.ofField, Src.toCode]
  · have hplain : cond.Plain := by
      unfold CTL.wf at h
      cases cond with
      | code n | lit w => dsimp only at h; split at h <;> simp_all [Src.isSRun]
      | _ => trivial
    rw [show condIsCode op = false by simpa [condIsCode] using hop]
    exact Src.ofCode_toCode hplain.named

/-! ### Words and instructions -/

theorem opcode_lt (i : Instr) : Laws.Opcode.Statement i := by
  cases i <;> exact Nat.le_of_ble_eq_true rfl

/-- What reads the fields of a form's word, by its format (R108). -/
def Form.parser (lit : Word) : Form → Nat → Option Form
  | .vf _ _ => parseVF lit
  | .vi _ _ => parseVI lit
  | .sf _ _ => parseSF lit
  | .mem _ _ => parseMEM lit
  | .ctl _ _ => parseCTL
  | .eng _ _ => parseENG
  | .gfx _ _ => parseGFX
  | .pair _ _ _ => parsePAIR
  | .lit => fun _ => some .lit
  | .event => fun _ => none

theorem parse_word {lit : Word} {f : Form} (h : f.parser lit f.word = some f) : parse lit f.word = .ok f := by
  unfold parse
  rw [f.word_format]
  cases f with
  | lit => rfl
  | event => cases h
  | _ =>
    simp only [Form.parser] at h
    simp only [Form.format, h]

theorem VF.wf_fields {op : Nat} {x : VF} (h : x.wf op = true) :
    x.dst.okFor (vecSpec op).dst = true ∧ x.a.okFor Src.vecOk (vecSpec op).a = true ∧ x.b.okFor Src.vecOk (vecSpec op).b = true ∧
      x.c.okFor Src.vecOk (vecSpec op).c = true ∧ litsAgree [x.a, x.b, x.c] = true := by
  unfold VF.wf at h
  simp only [Bool.and_eq_true] at h
  obtain ⟨⟨⟨⟨⟨⟨⟨⟨⟨⟨hd, ha⟩, hb⟩, hc⟩, -⟩, -⟩, -⟩, -⟩, -⟩, -⟩, hlits⟩ := h
  exact ⟨hd, ha, hb, hc, hlits⟩

theorem VI.wf_fields {op : Nat} {x : VI} (h : x.wf op = true) :
    1 ≤ (vecSpec op).viSrcs ∧ x.dst.okFor (vecSpec op).dst = true ∧
      x.a.okFor Src.vecOk (viKind (decide (2 ≤ (vecSpec op).viSrcs)) (vecSpec op).a) = true ∧
      x.b.okFor Src.vecOk (viKind (decide (3 ≤ (vecSpec op).viSrcs)) (vecSpec op).b) = true ∧ litsAgree [x.a, x.b] = true := by
  unfold VI.wf at h
  simp only [Bool.and_eq_true, decide_eq_true_eq] at h
  obtain ⟨⟨⟨⟨⟨⟨⟨hsrcs, hd⟩, ha⟩, hb⟩, -⟩, -⟩, -⟩, hlits⟩ := h
  exact ⟨hsrcs, hd, ha, hb, hlits⟩

theorem SF.wf_fields {op : Nat} {x : SF} (h : x.wf op = true) :
    x.dst.okFor (sfSpec op).1 = true ∧ x.a.okFor Src.scalarOk (sfSpec op).2.1 = true ∧ x.b.okFor Src.scalarOk (sfSpec op).2.2.1 = true ∧
      x.c.okFor Src.scalarOk (sfSpec op).2.2.2 = true ∧ litsAgree [x.a, x.b, x.c] = true := by
  unfold SF.wf at h
  simp only [Bool.and_eq_true] at h
  obtain ⟨⟨⟨⟨⟨⟨⟨hd, ha⟩, hb⟩, hc⟩, -⟩, hlits⟩, -⟩, -⟩ := h
  exact ⟨hd, ha, hb, hc, hlits⟩

theorem MEM.wf_fields {op : Nat} {x : MEM} (h : x.wf op = true) : x.data.Plain ∧ x.base.Plain ∧ ∀ n, x.sb ≠ .code n := by
  unfold MEM.wf at h
  simp only [Bool.and_eq_true] at h
  obtain ⟨⟨hfields, -⟩, -⟩ := h
  exact MEM.fieldsOk_plain hfields

theorem ENG.wf_fields {op : Nat} {x : ENG} (h : x.wf op = true) : x.a.Plain ∧ x.b.Plain ∧ x.c.Plain := by
  unfold ENG.wf at h
  simp only [Bool.and_eq_true] at h
  obtain ⟨⟨hfields, -⟩, -⟩ := h
  exact ENG.fieldsOk_plain hfields

theorem GFX.wf_fields {op : Nat} {x : GFX} (h : x.wf op = true) : x.dst.Plain ∧ x.a.Plain ∧ x.b.Plain ∧ x.c.Plain := by
  unfold GFX.wf at h
  rw [Bool.and_eq_true] at h
  obtain ⟨hfields, -⟩ := h
  exact GFX.fieldsOk_plain hfields

/-- SB of a MEM word is the one field that takes its literal. -/
theorem MEM.sb_named {lit : Word} {op : Nat} {x : MEM} (h : x.wf op = true) (hl : ∀ v, (Form.mem op x).lit? = some v → v = lit) :
    x.sb.Named lit := by
  obtain ⟨hdata, hbase, hsb⟩ := MEM.wf_fields h
  cases hx : x.sb with
  | code n => exact hsb n hx
  | lit w =>
    have hlit : x.sb.lit? = some w := by rw [hx]; rfl
    refine hl w ?_
    simp [Form.lit?, Form.srcs, hdata.lit?, hbase.lit?, hlit]
  | _ => trivial

/-- The word of a well-formed instruction is parsed to its form again, given the literal that it takes. -/
theorem parse_form {lit : Word} {i : Instr} (h : i.form.wf = true) (hl : ∀ v, i.lit? = some v → v = lit) :
    parse lit i.form.word = .ok i.form := by
  have hop := opcode_lt i
  unfold Laws.Opcode.Statement at hop
  unfold Instr.lit? at hl
  generalize i.form = f at h hl hop
  refine parse_word ?_
  unfold Form.parser
  cases f with
  | vf op x =>
    obtain ⟨hd, ha, hb, hc, hlits⟩ := VF.wf_fields h
    have hlit {y : Src} (hy : y ∈ [x.a, x.b, x.c]) : ∀ w, y.lit? = some w → w = lit := eq_of_litsAgree hlits hl hy
    exact parseVF_word hop hd (Src.ofField_toCode vecOk_code ha (hlit (by simp)))
      (Src.ofField_toCode vecOk_code hb (hlit (by simp))) (Src.ofField_toCode vecOk_code hc (hlit (by simp)))
  | vi op x =>
    obtain ⟨hsrcs, hd, ha, hb, hlits⟩ := VI.wf_fields h
    obtain ⟨hka, hkb⟩ := vecSpec_isCode hsrcs
    have hlit {y : Src} (hy : y ∈ [x.a, x.b]) : ∀ w, y.lit? = some w → w = lit := eq_of_litsAgree hlits hl hy
    exact parseVI_word hop hd (Src.named_of_okFor vecOk_code (viKind_isCode hka) ha (hlit (by simp)))
      (Src.named_of_okFor vecOk_code (viKind_isCode hkb) hb (hlit (by simp)))
  | sf op x =>
    obtain ⟨hd, ha, hb, hc, hlits⟩ := SF.wf_fields h
    obtain ⟨hka, hkb⟩ := sfSpec_isCode op
    have hlit {y : Src} (hy : y ∈ [x.a, x.b, x.c]) : ∀ w, y.lit? = some w → w = lit := eq_of_litsAgree hlits hl hy
    exact parseSF_word hop hd (Src.named_of_okFor scalarOk_code hka ha (hlit (by simp)))
      (Src.named_of_okFor scalarOk_code hkb hb (hlit (by simp))) (Src.ofField_toCode scalarOk_code hc (hlit (by simp)))
  | mem op x =>
    obtain ⟨hdata, hbase, -⟩ := MEM.wf_fields h
    exact parseMEM_word hop hdata.named hbase.named (MEM.sb_named h hl)
  | ctl op x => exact parseCTL_word hop (CTL.ofField_cond h)
  | eng op x =>
    obtain ⟨ha, hb, hc⟩ := ENG.wf_fields h
    exact parseENG_word hop ha.named hb.named hc.named
  | gfx op x =>
    obtain ⟨hd, ha, hb, hc⟩ := GFX.wf_fields h
    exact parseGFX_word hop hd.named ha.named hb.named hc.named
  | pair op x y =>
    simp only [Form.wf, Bool.and_eq_true] at h
    obtain ⟨⟨hx, hy⟩, -⟩ := h
    obtain ⟨hxa, hxb⟩ := slotOk_plain hx
    obtain ⟨hya, hyb⟩ := slotOk_plain hy
    exact parsePAIR_word hxa.named hxb.named hya.named hyb.named
  | lit => rfl
  | event => cases h

theorem Instr.wf_iff {i : Instr} : i.wf = true ↔ i.form.wf = true ∧ i.form.instr? = some i := by
  unfold Instr.wf
  rw [Bool.and_eq_true, decide_eq_true_eq]

/-- A well-formed instruction's word and the word that follows decode to it, where the second holds the literal that it takes (R114). -/
theorem decode_form {i : Instr} {next : BitVec 64} (h : i.wf = true)
    (hnext : ∀ v, i.lit? = some v → isLitWord next = true ∧ v = BitVec.ofNat 32 next.toNat) : decode (BitVec.ofNat 64 i.form.word) next = .ok i := by
  obtain ⟨hform, hinstr⟩ := Instr.wf_iff.mp h
  have hword : (BitVec.ofNat 64 i.form.word).toNat = i.form.word := by rw [BitVec.toNat_ofNat, Nat.mod_eq_of_lt i.form.word_lt]
  have hliteral : (i.form.lit?.isSome && !isLitWord next) = false := by
    cases hl : i.form.lit? with
    | none => rfl
    | some v =>
      obtain ⟨hgood, -⟩ := hnext v hl
      rw [hgood]
      rfl
  unfold decode
  rw [hword, parse_form hform fun v hv => (hnext v hv).2]
  dsimp only
  rw [hinstr]
  dsimp only
  rw [hform, hliteral]
  rfl

theorem wordTakesLit_form {i : Instr} (h : i.wf = true) (hl : i.lit? = none) : wordTakesLit (BitVec.ofNat 64 i.form.word) = false := by
  unfold wordTakesLit
  rw [decode_form h (by rw [hl]; exact fun _ hv => nomatch hv)]
  dsimp only
  rw [hl]
  rfl

/-- The literal word of a value holds it (R114). -/
theorem litWord_spec (v : Word) : isLitWord (BitVec.ofNat 64 (0xF000000000000000 + v.toNat)) = true ∧
    v = BitVec.ofNat 32 (BitVec.ofNat 64 (0xF000000000000000 + v.toNat)).toNat := by
  have hv := v.isLt
  have hn : (BitVec.ofNat 64 (0xF000000000000000 + v.toNat)).toNat = 0xF000000000000000 + v.toNat := by
    rw [BitVec.toNat_ofNat]
    omega
  refine ⟨?_, ?_⟩
  · unfold isLitWord
    rw [hn, beq_iff_eq]
    omega
  · rw [hn]
    apply BitVec.eq_of_toNat_eq
    rw [BitVec.toNat_ofNat]
    omega

/-! ### The statement -/

/-- Settles O55: the fields of a word unpack as they were packed, each code names its operand again, and the opcode map gives the form its row. -/
theorem decodeUndoesEncode : Obligations.DecodeUndoesEncode := by
  unfold Obligations.DecodeUndoesEncode
  intro i _ h
  unfold encode
  cases hl : i.lit? with
  | none =>
    show (if wordTakesLit _ then _ else _) = _
    rw [wordTakesLit_form h hl]
    exact decode_form h (by rw [hl]; exact fun _ hv => nomatch hv)
  | some v =>
    refine decode_form h fun u hu => ?_
    cases hl.symm.trans hu
    exact litWord_spec v

end Sys2Proof
end

section
/-! SUPPORT. ABS and NEG on an operand's words, by the class of its opcode (R116, R117), and O28. -/

namespace Sys2Proof.Machine

open Sys2Proof

/-! ### Signs -/

theorem modSign_abs (mask w : Word) : modSign mask false true w = w &&& ~~~mask := rfl

theorem modSign_neg (mask w : Word) : modSign mask true false w = w ^^^ mask := rfl

/-- ABS and then NEG set the sign bits. -/
theorem modSign_abs_neg (mask w : Word) : modSign mask true true w = w ||| mask := by
  show (w &&& ~~~mask) ^^^ mask = w ||| mask
  ext k hk
  simp only [BitVec.getElem_xor, BitVec.getElem_and, BitVec.getElem_not, BitVec.getElem_or]
  cases w[k] <;> cases mask[k] <;> rfl

/-! ### Two's complement -/

theorem ofInt_neg_toInt (w : Word) : BitVec.ofInt 32 (-w.toInt) = -w := by
  rw [BitVec.ofInt_neg, BitVec.ofInt_toInt]

theorem modInt_abs (w : Word) : modInt false true w = BitVec.ofInt 32 |w.toInt| := by
  show (if true && w.msb then -w else w) = _
  rw [Bool.true_and]
  cases hm : w.msb with
  | true =>
    have hneg : w.toInt < 0 := BitVec.toInt_neg_of_msb_true hm
    rw [abs_of_neg hneg, ofInt_neg_toInt]
    rfl
  | false =>
    have hpos : 0 ≤ w.toInt := BitVec.toInt_nonneg_of_msb_false hm
    rw [abs_of_nonneg hpos, BitVec.ofInt_toInt]
    rfl

theorem modInt_abs_neg (w : Word) : modInt true true w = BitVec.ofInt 32 (-|w.toInt|) := by
  rw [BitVec.ofInt_neg, ← modInt_abs]
  rfl

/-- Settles O28, class by class. -/
theorem modifiersApply : Obligations.ModifiersApply := by
  unfold Obligations.ModifiersApply
  refine ⟨fun w => ⟨modSign_abs _ w, modSign_neg _ w, modSign_abs_neg _ w⟩, fun w => ⟨modSign_abs _ w, modSign_neg _ w, modSign_abs_neg _ w⟩,
    fun w => ⟨modInt_abs w, (ofInt_neg_toInt w).symm, modInt_abs_neg w⟩, fun cls fl w => ?_⟩
  cases cls with
  | C => cases fl <;> rfl
  | _ => rfl

end Sys2Proof.Machine
end

section
/-! SUPPORT. What comes before the effect of every instruction of a program (R126, R187, R383, R406), and O22. -/

namespace Sys2Proof.Machine

open Sys2Proof Claim

variable {i : Instr} {s : State} {c : Ctx} {body : Ctx → State → Out}

/-- Every instruction of a program goes through the issue of its gang: its arm of `exec` is an `issue`, and an event is no program's. -/
theorem exec_eq_issue (h : isProgram i = true) : ∃ body, ∀ s, exec i s = issue i s body := by
  cases i <;> first | exact (Bool.false_ne_true h).elim | exact ⟨_, fun _ => rfl⟩

/-- A late trap due at an instruction is taken before its effect, or stops a speculative task (R32, R383). -/
theorem issue_late (hc : issueCtx s = some c) (hw : inWaitHalf i c = false) (hq : inQueueHalf i c = false) (ht : issueTrap i c s = none)
    {late : LateTrap} {g : Group} (hl : lateDue i c.g = some (late, g)) :
    issue i s body = if s.speculative c.g then .next (s.deferTask c.g c.lowest (.late late))
      else .next ((s.modGroup c.g.gid (fun _ => g)).takeTrap c.g.gid c.lowest c.pc late.cause late.sub late.addr late.ipaAddr) := by
  simp [issue, hc, hw, hq, ht, hl]

/-- A boundary holds a memory, local or engine instruction back (R90, R144). -/
theorem issue_held (hc : issueCtx s = some c) (hw : inWaitHalf i c = false) (hq : inQueueHalf i c = false) (ht : issueTrap i c s = none)
    (hl : lateDue i c.g = none) (hm : formIsMemory i.form = true) (hb : s.memHold c.g.gid = true) :
    issue i s body = .next (c.waitOn .boundary s) := by
  simp [issue, hc, hw, hq, ht, hl, hm, hb]

/-- In a deterministic launch what is in flight of the team holds an instruction back that may meet it. -/
theorem issue_inTurn (hc : issueCtx s = some c) (hw : inWaitHalf i c = false) (hq : inQueueHalf i c = false) (ht : issueTrap i c s = none)
    (hl : lateDue i c.g = none) (hfree : (formIsMemory i.form && s.memHold c.g.gid) = false) (hdet : c.det = true)
    (hteam : s.teamHold c.g (formClass i.form) = true) : issue i s body = .next (c.block s) := by
  simp only [issue, hc, hw, hq, ht, hl, hfree, hdet, hteam]
  simp

/-- Settles O22: each check in turn ends the issue that every instruction goes through. -/
theorem issueComesFirst : Obligations.IssueComesFirst := by
  unfold Obligations.IssueComesFirst
  intro i hi s
  obtain ⟨body, hexec⟩ := exec_eq_issue hi
  rw [hexec]
  refine ⟨issue_none, fun c hc hw hq => ⟨fun cause sub addr => issue_trap hc hw hq, fun ht late g => issue_late hc hw hq ht, fun ht hl => ⟨?_, ?_⟩⟩⟩
  · exact issue_held hc hw hq ht hl
  · exact issue_inTurn hc hw hq ht hl

end Sys2Proof.Machine
end

section
/-! SUPPORT. What a turn of the machine is: the group that the agenda names fetches, an event is its own exec, and a cycle passes
(R107, R114, R187, R188, R255, R279); and O57. -/

namespace Sys2Proof.Machine

open Sys2Proof Claim

/-! ### Turns -/

variable {s : State} {gid : Nat} {rest : List Turn} {c : Ctx}

theorem step_turn {t : Turn} (h : s.agenda = t :: rest) : step s = stepTurn t (turnState s rest) := by
  unfold step
  rw [h]
  rfl

theorem step_default (h : s.agenda = []) : step s = step { s with agenda := [s.cycle.defaultTurn] } := by
  have hs : { s with agenda := [] } = s := by rw [← h]
  rw [step_turn (s := { s with agenda := [s.cycle.defaultTurn] }) rfl]
  unfold step turnState
  rw [h]
  dsimp only
  rw [hs]

theorem step_notPicked (h : s.agenda = .issue gid :: rest) (hp : (pickState s rest gid).isPicked gid = false) :
    step s = .next (pickState s rest gid) := by
  rw [step_turn h]
  show stepIssue gid (pickState s rest gid) = _
  unfold stepIssue
  rw [hp]
  rfl

theorem step_event {i : Instr} {x : EvArgs} (h : s.agenda = .ev i x :: rest) (hi : isEvent i = true) :
    step s = exec i { turnState s rest with ev := x } := by
  rw [step_turn h]
  unfold stepTurn
  exact if_pos hi

/-- What a step does with what the gang's fetch brings. -/
def afterFetch (c : Ctx) (f : Fetched × State) : Out :=
  match f with
  | (.stalled, s) => .next s
  | (.instr i, s) => exec i (s.noteFetch c i)
  | (.illegal w, s) => exec .illegalInstruction { s with word := w }
  | (.bad cause sub pc, s) => exec .fetchFault { s with ev := { EvArgs.zero with a := cause, b := sub, val := BitVec.ofNat 64 pc } }

theorem step_offered (h : Offered s rest gid c) : step s = afterFetch c (fetch c.g.ranges c.pc (fetchState s rest gid)) := by
  obtain ⟨hnamed, hpicked, hgang, hfull⟩ := h
  rw [step_turn hnamed]
  show stepIssue gid (pickState s rest gid) = _
  unfold stepIssue
  rw [hpicked]
  unfold fetchState at hgang hfull
  dsimp only
  rw [Bool.not_true, if_neg Bool.false_ne_true, hgang]
  dsimp only
  rw [if_neg (not_not.mpr hfull)]
  rfl

/-! ### Fetches -/

section
variable {α β : Type} {m : Mem α} {u : State} {stall : State → β} {ok : α → State → β} {bad : Nat → Nat → Nat → State → β}

theorem Mem.on_error {cause sub ipa : Nat} (h : m.run s = (.error (cause, sub, ipa), u)) :
    m.on s stall ok bad = if cause = 0 then stall (s.keepFull u) else bad cause sub ipa u := by
  unfold Mem.on
  rw [h]

end

section
variable {ranges : Table (BitVec 64)} {pc : Addr} {w next : BitVec 64} {u v : State} {cause sub ipa : Nat}

theorem fetch_word (hw : (fetchWord ranges pc.toNat).run s = (.ok w, u)) (hl : wordTakesLit w = false) : fetch ranges pc s = (fetchedOf w 0, u) := by
  unfold fetch
  rw [Mem.on_ok hw, hl]
  rfl

theorem fetch_words (hw : (fetchWord ranges pc.toNat).run s = (.ok w, u)) (hl : wordTakesLit w = true)
    (hn : (fetchWord ranges (pc + 8).toNat).run u = (.ok next, v)) : fetch ranges pc s = (fetchedOf w next, v) := by
  unfold fetch
  rw [Mem.on_ok hw, if_pos hl]
  exact Mem.on_ok hn _ _ _

theorem fetch_error (hw : (fetchWord ranges pc.toNat).run s = (.error (cause, sub, ipa), u)) :
    fetch ranges pc s = if cause = 0 then (.stalled, s.keepFull u) else (.bad cause sub pc.toNat, u) := by
  unfold fetch
  exact Mem.on_error hw

theorem fetch_literalError (hw : (fetchWord ranges pc.toNat).run s = (.ok w, u)) (hl : wordTakesLit w = true)
    (hn : (fetchWord ranges (pc + 8).toNat).run u = (.error (cause, sub, ipa), v)) :
    fetch ranges pc s = if cause = 0 then (.stalled, u.keepFull v) else (.bad cause sub (pc + 8).toNat, v) := by
  unfold fetch
  rw [Mem.on_ok hw, if_pos hl]
  exact Mem.on_error hn

theorem afterFetch_ok {i : Instr} (h : decode w next = .ok i) : afterFetch c (fetchedOf w next, u) = exec i (u.noteFetch c i) := by
  unfold fetchedOf
  rw [h]
  rfl

theorem afterFetch_error {e : Reject} (h : decode w next = .error e) :
    afterFetch c (fetchedOf w next, u) = exec .illegalInstruction { u with word := w } := by
  unfold fetchedOf
  rw [h]
  rfl

/-- A fetch that fails: cause 0 is a stall, which leaves the gang where it stands. -/
theorem afterFetch_failed {n : Nat} {t u : State} : afterFetch c (if cause = 0 then (.stalled, t) else (.bad cause sub n, u)) =
    if cause = 0 then .next t
    else exec .fetchFault { u with ev := { EvArgs.zero with a := cause, b := sub, val := BitVec.ofNat 64 n } } := by
  split <;> rfl

end

/-! ### A cycle (R255, R449) -/

@[simp] theorem State.pass_frame (s : State) (n : Nat) :
    (s.pass n).groups = s.groups ∧ (s.pass n).domains = s.domains ∧ (s.pass n).posted = s.posted ∧ (s.pass n).teams = s.teams ∧ (s.pass n).hbm = s.hbm := by
  unfold State.pass State.countTime
  dsimp only
  split <;> exact ⟨rfl, rfl, rfl, rfl, rfl⟩

/-- The entries of ISTAB that take effect touch the cores alone. -/
theorem State.tick_eq (s : State) : ∃ cores, s.tick = { s.pass (if s.boot.phase = 4 then 1 else 3) with clock := s.clock + 1, cores := cores } := by
  unfold State.tick
  generalize (if s.boot.phase = 4 then 1 else 3) = n
  dsimp only
  rw [State.pass_clock]
  split
  · exact ⟨_, rfl⟩
  · exact ⟨(s.pass n).cores, rfl⟩

/-- What a tick of the clock leaves: it counts time, and may let entries of ISTAB take effect. -/
theorem State.tick_frame (s : State) : s.tick.groups = s.groups ∧ s.tick.domains = s.domains ∧ s.tick.posted = s.posted ∧
    s.tick.teams = s.teams ∧ s.tick.hbm = s.hbm ∧ s.tick.clock = s.clock + 1 := by
  obtain ⟨hgroups, hdomains, hposted, hteams, hhbm⟩ := s.pass_frame (if s.boot.phase = 4 then 1 else 3)
  obtain ⟨cores, htick⟩ := s.tick_eq
  rw [htick]
  exact ⟨hgroups, hdomains, hposted, hteams, hhbm, rfl⟩

theorem State.tick_timeb (hphase : s.boot.phase = 4) (hahead : s.timebAhead = 0) : s.tick.timeb = s.timeb + (s.thirds + 1) / 3 := by
  have hpass : (s.pass 1).timeb = s.timeb + (s.thirds + 1) / 3 := by
    unfold State.pass State.countTime
    dsimp only
    rw [if_pos hahead]
  obtain ⟨cores, htick⟩ := s.tick_eq
  rw [htick, if_pos hphase]
  exact hpass

/-- No store waits for its slice, so none is tried again. -/
theorem State.retryPosted_nil (h : s.posted = []) : s.retryPosted = s := by
  unfold State.retryPosted
  rw [h]
  show { s with posted := [] } = s
  rw [← h]

/-- Without a task domain no task is parked at a TASK. -/
theorem State.wakeSlots_nil (h : s.domains = []) : s.wakeSlots = s := by
  unfold State.wakeSlots
  generalize (tvalues s.groups).filter _ = gs
  induction gs with
  | nil => rfl
  | cons g gs ih =>
    rw [List.foldl_cons]
    have hnone : tfind g.launch s.domains = none := by rw [h]; rfl
    rw [hnone]
    split
    · next hd => cases hd
    · exact ih

theorem State.showTasks_nil (h : s.domains = []) : s.showTasks = s := by
  unfold State.showTasks
  rw [h]
  rfl

/-- The image of a resident team stands in no save area. -/
theorem State.saveImage_resident {t : Team} (h : t.preempted = false) : s.saveImage t = s := by
  unfold State.saveImage
  rw [h]

theorem State.saveImages_resident (h : ∀ e ∈ s.teams, e.2.preempted = false) : s.saveImages = s := by
  unfold State.saveImages
  have hall : ∀ t ∈ tvalues s.teams, t.preempted = false := fun t ht => by
    obtain ⟨e, he, rfl⟩ := List.mem_map.mp ht
    exact h e he
  revert hall
  generalize tvalues s.teams = ts
  intro hall
  induction ts with
  | nil => rfl
  | cons t ts ih =>
    rw [List.foldl_cons, State.saveImage_resident (hall t (.head _))]
    exact ih fun t ht => hall t (.tail _ ht)

/-- A group's entry but for the cycle from which it has been ready. -/
def unready (e : Nat × Group) : Nat × Group := (e.1, { e.2 with readyFrom := 0 })

theorem State.noteReady_groups (s : State) : s.noteReady.groups.map unready = s.groups.map unready := by
  unfold State.noteReady
  rw [List.map_map]
  refine List.map_congr_left fun e _ => ?_
  show unready (if _ then _ else _) = _
  split <;> rfl

/-- A cycle in which nothing but time passes: no task domain, no store that waits, and every team resident. -/
theorem State.cycle_quiet (hdomains : s.domains = []) (hposted : s.posted = []) (hteams : ∀ e ∈ s.teams, e.2.preempted = false) :
    s.cycle = s.tick.noteReady := by
  obtain ⟨-, htickDomains, htickPosted, htickTeams, -, -⟩ := s.tick_frame
  unfold State.cycle
  rw [State.retryPosted_nil (htickPosted.trans hposted), State.wakeSlots_nil (htickDomains.trans hdomains),
    State.showTasks_nil (htickDomains.trans hdomains)]
  exact State.saveImages_resident (by rw [← htickTeams] at hteams; exact hteams)

/-! ### The statement -/

/-- Settles O57: each turn of the agenda, and what a quiet cycle changes. -/
theorem stepRunsDecoded : Obligations.StepRunsDecoded := by
  unfold Obligations.StepRunsDecoded
  refine ⟨fun s gid rest c w u ho hw hl => ⟨fun i hi => ?_, fun e he => ?_⟩, fun s gid rest c w next u v ho hw hl hn => ⟨fun i hi => ?_, fun e he => ?_⟩,
    fun s gid rest c u cause sub ipa ho hw => ?_, fun s gid rest c w u v cause sub ipa ho hw hl hn => ?_, fun _ _ _ => step_notPicked,
    fun _ _ _ _ => step_event, fun _ => step_default, fun s rest hdomains hposted hteams => ?_⟩
  · rw [step_offered ho, fetch_word hw hl, afterFetch_ok hi]
  · rw [step_offered ho, fetch_word hw hl, afterFetch_error he]
  · rw [step_offered ho, fetch_words hw hl hn, afterFetch_ok hi]
  · rw [step_offered ho, fetch_words hw hl hn, afterFetch_error he]
  · rw [step_offered ho, fetch_error hw, afterFetch_failed]
  · rw [step_offered ho, fetch_literalError hw hl hn, afterFetch_failed]
  · have hturn : turnState s rest = ({ s with agenda := rest } : State).tick.noteReady := State.cycle_quiet hdomains hposted hteams
    obtain ⟨hgroups, -, -, -, hhbm, hclock⟩ := State.tick_frame { s with agenda := rest }
    rw [hturn]
    refine ⟨hclock, ?_, hhbm, fun hphase hahead => State.tick_timeb (s := { s with agenda := rest }) hphase hahead⟩
    exact (State.noteReady_groups _).trans (congrArg (List.map unready) hgroups)

end Sys2Proof.Machine
end

section
/-! SUPPORT. How a vector word issues: it lists its pops first, and with them served writes its results (R113, R115, R231); O27 and O4. -/

namespace Sys2Proof.Machine

open Sys2Proof Claim

variable {i : Instr} {s : State} {c : Ctx} {g : Group} {lanes ls : List Nat} {pops : Table Word} {k : Table Word → Out} {kept : List (Nat × Nat)}

/-! ### Pops (R113) -/

/-- The forms of vector words. -/
def formIsVector : Form → Bool
  | .vf _ _ | .vi _ _ => true
  | _ => false

/-- The effect of every vector word waits for its pops: its arm of `exec` says so, and no other word is of these forms. -/
theorem exec_eq_withPops (h : formIsVector i.form = true) :
    ∃ k : Ctx → State → Table Word → Out, ∀ s, exec i s = issue i s (fun c s => withPops i (formActing i.form c) c s (k c s)) := by
  cases i <;> first | exact (Bool.false_ne_true h).elim | exact ⟨_, fun _ => rfl⟩

/-- The pops of a word that starts, which none has been served of. -/
def firstPops (i : Instr) (lanes : List Nat) (c : Ctx) (s : State) : Pending :=
  ⟨c.lowest, i, ((formPops i.form).map (fun e => lanes.map (fun l => (e.1, e.2, l)))).flatten, [], [], false, c.pc + BitVec.ofNat 64 i.size, s.clock⟩

theorem withPops_first (hf : formPops i.form ≠ []) (hl : lanes ≠ []) (hp : tfind c.lowest c.g.pending = none) :
    withPops i lanes c s k =
      .next (c.block (s.modGroup c.g.gid (fun g => { g with pending := tinsert c.lowest (firstPops i lanes c s) g.pending }))) := by
  unfold withPops
  rw [hp]
  split
  · next h => exact absurd h hf
  · exact if_neg hl

/-- Where its pops have been served, a word runs on what they brought. -/
theorem withPops_fed (h : Fed i lanes c pops) : withPops i lanes c s k = k pops := by
  unfold withPops
  unfold Fed at h
  split
  · next hf =>
    rw [if_pos hf] at h
    obtain ⟨hnone, rfl⟩ := h
    rw [hnone]
    rfl
  · next ps hf =>
    rw [if_neg hf] at h
    split
    · next hl =>
      rw [if_pos hl] at h
      rw [h]
    · next hl =>
      rw [if_neg hl] at h
      obtain ⟨p, hp, hpops, hpush, rfl⟩ := h
      rw [hp]
      exact if_pos ⟨hpops, hpush⟩

/-- What an instruction does that reaches its effect, or has begun it. -/
theorem issue_of_reaches (h : Reaches i s c) (body : Ctx → State → Out) : issue i s body = body c s := by
  rcases h with h | ⟨hc, hq⟩
  · exact issue_of_issues h body
  · simp [issue, hc, hq]

/-! ### Blocking and completing -/

theorem Ctx.block_modGroup (c : Ctx) (s : State) (f : Group → Group) :
    c.block (s.modGroup c.g.gid f) = s.modGroup c.g.gid (fun g => (f g).modStrands c.strands (fun _ st => { st with wait := .retry })) :=
  State.modGroup_modGroup s _ _ _

/-- One update of the issuing gang's group changes it alone. -/
theorem modGroup_ends (hc : issueCtx s = some c) {f : Group → Group} {P : Group → Prop} (h : P (f c.g)) : GroupEnds s c (s.modGroup c.g.gid f) P :=
  ⟨⟨rfl, fun _ hk => State.tfind_modGroup_ne s _ hk⟩, _, State.tfind_modGroup _ (issueCtx_group hc), h⟩

/-- The strands of the gang wait, whatever else of its group has changed. -/
theorem Ctx.waits_retry (hc : issueCtx s = some c) (hg : g.strands = c.g.strands) :
    Claim.Waits c .retry (g.modStrands c.strands (fun _ st => { st with wait := .retry })) := by
  intro t
  have hs : g.strand t = c.g.strand t := by simp [Group.strand, hg]
  rw [Group.strand_modStrands, hs, hg]
  by_cases ht : t ∈ c.strands
  · rw [if_pos ⟨ht, issueCtx_strands hc ht⟩, if_pos ht]
  · rw [if_neg fun h => ht h.1, if_neg ht]

/-- A gang that waits stays where it is. -/
theorem stays_of_waits {w : GangWait} (h : Claim.Waits c w g) : Stays c g := by
  intro t
  rw [h t]
  split <;> exact ⟨rfl, rfl, rfl, rfl⟩

/-- Settles O27: a word without pending operands lists its pops and waits. -/
theorem queueSourcesPopFirst : Obligations.QueueSourcesPopFirst := by
  unfold Obligations.QueueSourcesPopFirst
  intro i hform _ s c hi hpops hlanes hnone
  have hvec : formIsVector i.form = true := by
    obtain ⟨op, x, h | ⟨y, h⟩⟩ := hform <;> rw [h] <;> rfl
  obtain ⟨k, hexec⟩ := exec_eq_withPops hvec
  rw [hexec, issue_of_issues hi, withPops_first hpops hlanes hnone, Ctx.block_modGroup]
  refine ⟨_, rfl, modGroup_ends hi.gang ⟨rfl, stays_of_waits (Ctx.waits_retry hi.gang rfl), tfind_tinsert_self _ _ _, fun k hk => ?_⟩⟩
  exact tfind_tinsert_ne hk _ _

/-! ### Results (R113, R231) -/

theorem pendingDone_of_erased (h : g.pending = terase c.lowest c.g.pending) : PendingDone c g := by
  rw [PendingDone, OthersPending, h]
  exact ⟨tfind_terase_self _ _, fun k hk => tfind_terase_ne hk _⟩

theorem Group.writeLanes_wrote (g : Group) (n : Nat) (ls : List Nat) (f : Nat → Word) :
    VecWrote n ls f g (g.writeLanes n (ls.map (fun l => (l, f l)))) := g.vget_writeLanes_map n ls f

theorem Group.writeBits_wrote (g : Group) (n : Fin 7) (ls : List Nat) (f : Nat → Bool) :
    PredWrote n.val ls f g (g.writeBits n.val (ls.map (fun l => (l, f l)))) := by
  have hn : n.val ≠ 7 := by omega
  refine ⟨fun l hl => ?_, fun m hm => ?_⟩
  · rw [Group.writeBits, Group.pget_pset, if_neg hn, if_pos rfl, getLsbD_setBits _ _ _ _ hl]
  · rw [Group.writeBits, Group.pget_pset, if_neg hm]
    split
    · next h => rw [h]; rfl
    · rfl

section
variable {f : Nat → Word} {u : Group → Group} {latch : List (Nat × Nat)}

theorem vecEnds_v (hc : issueCtx s = some c) {n : Fin 128} {v : Table Word} (hw : VecWrote n.val ls f c.g { c.g with v := v })
    (hu : u c.g = { c.g with v := v, pending := terase c.lowest c.g.pending, latch := latch }) :
    VecEnds i (.v n) ls f s c (s.modGroup c.g.gid (fun g => c.stepped i (u g))) := by
  refine modGroup_ends hc ?_
  rw [hu]
  exact ⟨Ctx.strand_stepped hc i rfl, hw, pendingDone_of_erased rfl, rfl⟩

theorem vecEnds_p (hc : issueCtx s = some c) {n : Fin 7} {p : Table (BitVec 32)} (hw : PredWrote n.val ls (fun l => f l != 0) c.g { c.g with p := p })
    (hu : u c.g = { c.g with p := p, pending := terase c.lowest c.g.pending, latch := latch }) :
    VecEnds i (.p n) ls f s c (s.modGroup c.g.gid (fun g => c.stepped i (u g))) := by
  refine modGroup_ends hc ?_
  rw [hu]
  exact ⟨Ctx.strand_stepped hc i rfl, hw, pendingDone_of_erased rfl, rfl⟩

/-- No lane acts, so nothing is pushed. -/
theorem vecEnds_noPush (hc : issueCtx s = some c) {n : Fin 8} (hu : u c.g = { c.g with pending := terase c.lowest c.g.pending, latch := latch }) :
    VecEnds i (.q n) [] f s c (s.modGroup c.g.gid (fun g => c.stepped i (u g))) := by
  refine modGroup_ends hc ?_
  rw [hu]
  exact ⟨⟨Ctx.strand_stepped hc i rfl, pendingDone_of_erased rfl⟩, rfl⟩

theorem vecEnds_push (hc : issueCtx s = some c) {n : Fin 8} (hl : ls ≠ []) (hu : u c.g = { c.g with
      pending := tinsert c.lowest ⟨c.lowest, i, [], [], ls.map (fun l => (n.val, l, f l)), true, c.pc + BitVec.ofNat 64 i.size, s.clock⟩ c.g.pending,
      latch := latch }) :
    VecEnds i (.q n) ls f s c (s.modGroup c.g.gid (fun g => (u g).modStrands c.strands (fun _ st => { st with wait := .retry }))) := by
  refine modGroup_ends hc ?_
  rw [hu]
  refine ⟨?_, rfl⟩
  rw [if_neg hl]
  exact ⟨Ctx.waits_retry hc rfl, fun k hk => tfind_tinsert_ne hk _ _, tfind_tinsert_self _ _ _⟩

end

/-- The results of the acting lanes go where the destination is. -/
theorem vecWrite_ends (hc : issueCtx s = some c) (d : Dst) (f : Nat → Word) :
    ∃ t, vecWrite i kept d (ls.map (fun l => (l, f l))) c s = .next t ∧ VecEnds i d ls f s c t := by
  cases d with
  | v n =>
    have hw := c.g.writeLanes_wrote n.val ls f
    rw [Group.writeLanes_eq] at hw
    rw [vecWrite, finish_eq]
    refine ⟨_, rfl, vecEnds_v hc hw (latch := latchAfter c.g.latch kept [n.val]) ?_⟩
    rw [Group.writeLanes_eq]
    rfl
  | p n =>
    rw [vecWrite, finish_eq, List.map_map]
    exact ⟨_, rfl, vecEnds_p hc (c.g.writeBits_wrote n ls _) (latch := latchAfter c.g.latch kept []) rfl⟩
  | q n =>
    unfold vecWrite
    dsimp only
    by_cases hl : ls = []
    · subst hl
      rw [List.map_nil, if_pos rfl, finish_eq]
      exact ⟨_, rfl, vecEnds_noPush hc (latch := latchAfter c.g.latch kept []) rfl⟩
    · rw [if_neg (by simpa using hl), Ctx.block_modGroup, List.map_map]
      exact ⟨_, rfl, vecEnds_push hc hl (latch := latchAfter c.g.latch kept []) rfl⟩
  | s n =>
    show ∃ t, finish c i _ s = .next t ∧ _
    exact ⟨_, finish_eq c i _ s, modGroup_ends hc trivial⟩
  | none =>
    show ∃ t, finish c i _ s = .next t ∧ _
    exact ⟨_, finish_eq c i _ s, modGroup_ends hc trivial⟩

/-- A word that works lane by lane completes with what its lanes compute. -/
theorem completes_of_lanes {α : Type} {k : α → Instr} {rule : α → LaneRule} {kept : α → List (Nat × Nat)}
    (h : ∀ x s, exec (k x) s = issue (k x) s (fun c s => withPops (k x) ((rule x).lanes c) c s (fun pops =>
      vecWrite (k x) (kept x) (rule x).dst (((rule x).lanes c).map (fun l => (l, (rule x).value c pops l))) c s))) : Completes k rule := by
  intro x s c pops _ hr hf
  have hc : issueCtx s = some c := by
    rcases hr with hi | ⟨hc, -⟩
    · exact hi.gang
    · exact hc
  rw [h, issue_of_reaches hr, withPops_fed hf]
  exact vecWrite_ends hc _ _

/-! ### FP32 arithmetic (R118, R232) -/

theorem Exact.scale_zero (y : Exact) : y.scale 0 = y := by
  cases y <;> simp [Exact.scale]

/-- Without SCALE and CLAMP a result is rounded once. -/
theorem finishF_none (y : Exact) : BitVec.ofNat 32 (finishF f32 Finish.none y) = rne32 y :=
  congrArg (fun y => BitVec.ofNat 32 (f32.round .rne y)) (Exact.scale_zero y)

section
variable {op : Nat} {f : FOp} {e : Word → Word → Word → Exact}

theorem float_completes {k : VF → Instr} (h : ∀ x s, exec (k x) s = vfLanes (k x) op x (fun fin a b d _ => op32 f fin a b d) s)
    (hf : ∀ fin a b d, op32 f fin a b d = BitVec.ofNat 32 (finishF f32 fin (e a b d))) :
    Completes k (fun x => onVF op x (fun a b d _ => finished x (e a b d))) :=
  completes_of_lanes (kept := reuseKept) fun x s => by
    rw [h]
    simp only [vfLanes, vfResults, hf]
    rfl

theorem floatImm_completes {k : VI → Instr} (h : ∀ x s, exec (k x) s = viLanes (k x) op x (fun fin a b d _ => op32 f fin a b d) s)
    (hf : ∀ fin a b d, op32 f fin a b d = BitVec.ofNat 32 (finishF f32 fin (e a b d))) :
    Completes k (fun x => onVI op x (fun a b d => rne32 (e a b d))) :=
  completes_of_lanes (kept := fun _ => []) fun x s => by
    rw [h]
    simp only [viLanes, viResults, hf, finishF_none]
    rfl

end

/-- Settles O4: each opcode's exact value is the one its lanes round. -/
theorem floatOpcodesCompute : Obligations.FloatOpcodesCompute := by
  unfold Obligations.FloatOpcodesCompute
  refine ⟨?_, ?_, ?_, ?_, ?_, ?_, ?_, ?_, ?_, ?_⟩
  · exact float_completes (f := .add) (fun _ _ => rfl) fun _ _ _ _ => rfl
  · exact floatImm_completes (f := .add) (fun _ _ => rfl) fun _ _ _ _ => rfl
  · exact float_completes (f := .mul) (fun _ _ => rfl) fun _ _ _ _ => rfl
  · exact floatImm_completes (f := .mul) (fun _ _ => rfl) fun _ _ _ _ => rfl
  · exact float_completes (f := .fma) (fun _ _ => rfl) fun _ _ _ _ => rfl
  · exact floatImm_completes (f := .fma) (fun _ _ => rfl) fun _ _ _ _ => rfl
  · exact float_completes (f := .min) (fun _ _ => rfl) fun _ _ _ _ => rfl
  · exact floatImm_completes (f := .min) (fun _ _ => rfl) fun _ _ _ _ => rfl
  · exact float_completes (f := .max) (fun _ _ => rfl) fun _ _ _ _ => rfl
  · exact floatImm_completes (f := .max) (fun _ _ => rfl) fun _ _ _ _ => rfl

end Sys2Proof.Machine
end

section
/-! SUPPORT. The two slots of a PAIR word, one after the other on registers both read before (R122, R258), and O11. -/

namespace Sys2Proof.Machine

open Sys2Proof Claim

variable {s : State} {c : Ctx}

/-! ### What a slot computes -/

/-- A count of 32 or more shifts every bit out (R239). -/
theorem bitOp_shl (a b : Word) : bitOp .shl a b = a <<< b.toNat := by
  unfold bitOp
  dsimp only
  split
  · rfl
  · next h => exact (BitVec.shiftLeft_eq_zero (by omega)).symm

theorem bitOp_shr (a b : Word) : bitOp .shr a b = a >>> b.toNat := by
  unfold bitOp
  dsimp only
  split
  · rfl
  · next h => exact (BitVec.ushiftRight_eq_zero (by omega)).symm

theorem bitOp_sar (a b : Word) : bitOp .sar a b = a.sshiftRight b.toNat := by
  unfold bitOp
  dsimp only
  split
  · rfl
  · next h =>
    ext k hk
    rw [BitVec.getElem_sshiftRight, BitVec.getElem_sshiftRight, dif_neg (c := b.toNat + k < 32) (by omega)]
    split
    · have hk0 : k = 0 := by omega
      subst hk0
      exact (BitVec.msb_eq_getLsbD_last a).symm
    · rfl

theorem slotFn_eq (op : SlotOp) (a b : Word) : slotFn op a b = slotValue op a b := by
  cases op with
  | fadd | fmul | fmin | fmax => exact finishF_none _
  | shl => exact bitOp_shl a b
  | shr => exact bitOp_shr a b
  | sar => exact bitOp_sar a b
  | _ => rfl

/-! ### What a slot writes -/

theorem slotWrite_frame (op : SlotOp) (x : SlotArgs) (c : Ctx) (g : Group) : ∃ v, slotWrite op x c g = { g with v := v } := by
  unfold slotWrite
  split
  · exact ⟨g.v, rfl⟩
  · exact ⟨_, g.writeLanes_eq _ _⟩

theorem slotWrite_vget {op : SlotOp} {x : SlotArgs} (hlt : ∀ l ∈ c.active, l < 32) (g : Group) (m : Nat) {l : Nat} (hl : l < 32) :
    (slotWrite op x c g).vget m l = slotLeaves c op x m l (g.vget m l) := by
  unfold slotWrite slotLeaves
  by_cases hop : op = .nop
  · rw [if_pos hop, if_neg fun h => h.1 hop]
  · rw [if_neg hop]
    obtain ⟨hin, hout⟩ := g.vget_writeLanes_map x.dst.val c.active
      (fun l => slotFn op (c.read (slotHalf op) 0 0 x.a l) (c.read (slotHalf op) 0 0 x.b l))
    split
    · next h =>
      obtain ⟨-, rfl, hact⟩ := h
      exact (hin l hact).trans (slotFn_eq _ _ _)
    · next h =>
      refine hout m l fun k hk heq => h ⟨hop, ?_⟩
      have := hlt k hk
      have hlk : l = k := by omega
      exact ⟨by omega, hlk ▸ hk⟩

/-- A PAIR word writes both slots' results and goes on. -/
theorem pair_completes {k : SlotArgs → PairSlot → Instr} {op : SlotOp} (h : ∀ x y s, exec (k x y) s = pairInstr (k x y) op x y s) :
    PairCompletes k op := by
  intro x y s c _ hs hi
  obtain ⟨v, hv⟩ := slotWrite_frame op x c c.g
  obtain ⟨w, hw⟩ := slotWrite_frame y.op y.args c (slotWrite op x c c.g)
  have hlt : ∀ l ∈ c.active, l < 32 := fun l => active_lt hs hi.gang
  rw [h, pairInstr, issue_of_issues hi, finish_eq]
  refine ⟨_, rfl, modGroup_ends hi.gang ⟨Ctx.strand_stepped hi.gang _ ?_, ?_, fun m l hl => ?_⟩⟩
  · rw [hw, hv]
  · rw [hw, hv]
    rfl
  · rw [← slotWrite_vget hlt c.g m hl, ← slotWrite_vget hlt _ m hl]
    rfl

/-- Settles O11, opcode by opcode. -/
theorem pairOpcodesCompute : Obligations.PairOpcodesCompute := by
  unfold Obligations.PairOpcodesCompute
  and_intros
  all_goals exact pair_completes fun _ _ _ => rfl

end Sys2Proof.Machine
end

section
/-! SUPPORT. Loads as they issue, and the words a loaded value gives its run (R120, R121, R135 to R139); O29. -/

namespace Sys2Proof.Machine

open Sys2Proof Claim

variable {s : State} {c : Ctx}

/-! ### The words of a loaded value (R135) -/

theorem signExtend_ofNat {n v : Nat} (hn : n ≤ 32) (hv : v < 2 ^ n) :
    (BitVec.ofNat n v).signExtend 32 = if v < 2 ^ (n - 1) then BitVec.ofNat 32 v else BitVec.ofNat 32 (v + 2 ^ 32 - 2 ^ n) := by
  have hpow : 2 ^ n ≤ 2 ^ 32 := Nat.pow_le_pow_right (by decide) hn
  have hlt : v < 2 ^ 32 := hv.trans_le hpow
  apply BitVec.eq_of_toNat_eq
  rw [BitVec.toNat_signExtend, BitVec.msb_eq_decide, BitVec.toNat_setWidth, BitVec.toNat_ofNat, Nat.mod_eq_of_lt hv, Nat.mod_eq_of_lt hlt]
  by_cases h : v < 2 ^ (n - 1)
  · rw [if_pos h, decide_eq_false (by omega), BitVec.toNat_ofNat, Nat.mod_eq_of_lt hlt]
    rfl
  · rw [if_neg h, decide_eq_true (by omega), if_pos rfl, BitVec.toNat_ofNat, Nat.mod_eq_of_lt (by omega)]
    omega

theorem loadWords_signed {size v : Nat} (hsize : 8 * size ≤ 32) (hv : v < 2 ^ (8 * size)) :
    loadWords size 1 true v = [loaded size 1 true v 0] := by
  rw [loadWords, loaded, if_pos rfl, if_pos rfl, signExtend_ofNat hsize hv]

theorem loadWords_plain (size run v : Nat) : loadWords size run false v = (List.range run).map (loaded size run false v) :=
  List.map_congr_left fun _ hk => (if_pos (List.mem_range.mp hk)).symm

/-! ### The instructions -/

section
variable {k : MEM → Instr} {n size run : Nat}

/-- The kind of a load, which SYNC makes immediate (R137). -/
def loadKind (x : MEM) (size run : Nat) (sgn scalar : Bool) : OpKind :=
  if x.sync then .immLoad size run (dataReg x.data) sgn scalar else .load size run (dataReg x.data) sgn scalar

theorem loadCompletes {sgn : Bool} (hform : ∀ x, (k x).form = .mem n x) (hdsts : ∀ x, opDsts (.mem n x) = runCodes x.data run)
    (hexec : ∀ x s, exec (k x) s = loadOp (k x) x size run sgn s) : LoadCompletes k size run sgn := by
  intro x s c loc _ hi hl
  let ls := c.active.map (fun l => (l, c.va x l, loc l))
  have hissued := Ctx.op_asIssued (s := s) (hform x) c (loadKind x size run sgn false) (ls.map (laneReq size (fun _ => 0))) [] (decide (ls = []))
  obtain ⟨p, hsent, hp⟩ := Ctx.send_sent hi.gang hissued
  rw [hform, hdsts] at hsent
  refine ⟨_, p, ?_, hsent, congrArg Op.kind hp, ?_, ?_⟩
  · rw [hexec, loadOp, memAccess, issue_of_issues hi, located_lands hl]
    rfl
  · rw [congrArg Op.reqs hp]
    exact List.map_map
  · rw [congrArg Op.performed hp]
    exact decide_eq_true_iff.trans List.map_eq_nil_iff

theorem uniformLoadCompletes (hform : ∀ x, (k x).form = .mem n x) (hdsts : ∀ x, opDsts (.mem n x) = runCodes x.data run)
    (hexec : ∀ x s, exec (k x) s = lduOp (k x) x size run s) : UniformLoadCompletes k size run := by
  intro x s c loc _ hi hl
  obtain ⟨hisOf, hrel, hacq, hscope, hresults, hatOnce, hrelId⟩ := Ctx.op_asIssued (s := s) (hform x) c (loadKind x size run false true)
    [asked c x loc size 0 (4 * c.lowest)] [] false
  have hissued : AsIssued (k x) x s c
      { c.op (k x) (loadKind x size run false true) [asked c x loc size 0 (4 * c.lowest)] [] s with lanes := c.strands } :=
    ⟨hisOf, hrel, hacq, hscope, hresults, hatOnce, hrelId⟩
  obtain ⟨p, hsent, hp⟩ := Ctx.send_sent hi.gang hissued
  rw [hform, hdsts] at hsent
  refine ⟨_, p, ?_, hsent, congrArg Op.kind hp, congrArg Op.reqs hp, congrArg Op.lanes hp, congrArg Op.performed hp⟩
  rw [hexec, lduOp, memAccess, issue_of_issues hi, located_lands hl]
  rfl

end

/-- Settles O29, form by form. -/
theorem loadsStart : Obligations.LoadsStart := by
  unfold Obligations.LoadsStart
  refine ⟨?_, ?_, ?_, ?_, ?_, ?_, ?_, ?_, ?_, fun v => loadWords_signed (size := 1) (by decide), fun v => loadWords_signed (size := 2) (by decide),
    loadWords_plain⟩
  · exact loadCompletes (n := 0x00) (fun _ => rfl) (fun _ => rfl) fun _ _ => rfl
  · exact loadCompletes (n := 0x01) (fun _ => rfl) (fun _ => rfl) fun _ _ => rfl
  · exact loadCompletes (n := 0x02) (fun _ => rfl) (fun _ => rfl) fun _ _ => rfl
  · exact loadCompletes (n := 0x03) (fun _ => rfl) (fun _ => rfl) fun _ _ => rfl
  · exact loadCompletes (n := 0x04) (fun _ => rfl) (fun _ => rfl) fun _ _ => rfl
  · exact loadCompletes (n := 0x05) (fun _ => rfl) (fun _ => rfl) fun _ _ => rfl
  · exact loadCompletes (n := 0x06) (fun _ => rfl) (fun _ => rfl) fun _ _ => rfl
  · exact uniformLoadCompletes (n := 0x10) (fun _ => rfl) (fun _ => rfl) fun _ _ => rfl
  · exact uniformLoadCompletes (n := 0x11) (fun _ => rfl) (fun _ => rfl) fun _ _ => rfl

end Sys2Proof.Machine
end

section
/-! SUPPORT. Copies, bank modes, queue bindings and WAKE as they start (R120, R146 to R149, R151), and O35. -/

namespace Sys2Proof.Machine

open Sys2Proof Claim

variable {i : Instr} {x : MEM} {s u : State} {c : Ctx} {o : Op} {va la n : Nat}

/-! ### Copies (R146, R147) -/

/-- Bit 0 of OFFSET tells a copy's direction. -/
theorem cpyIn_direction (h : (Instr.cpyIn x).wf = true) : x.offset.getLsbD 0 = false := by
  have hi : (if x.offset.toNat % 2 = 0 then Instr.cpyIn x else .cpyOut x) = .cpyIn x := Option.some.inj (Instr.wf_iff.mp h).2
  split at hi
  · next heven => simpa [BitVec.getLsbD, Nat.testBit_zero] using heven
  · cases hi

theorem cpyOut_direction (h : (Instr.cpyOut x).wf = true) : x.offset.getLsbD 0 = true := by
  have hi : (if x.offset.toNat % 2 = 0 then Instr.cpyIn x else .cpyOut x) = .cpyOut x := Option.some.inj (Instr.wf_iff.mp h).2
  split at hi
  · cases hi
  · next hodd => simpa [BitVec.getLsbD, Nat.testBit_zero] using hodd

theorem spanBanks_eq (h : n ≠ 0) : spanBanks la n = spanOf la n := by
  unfold spanBanks spanOf
  rw [if_neg h]
  exact List.filter_congr fun b _ => (Bool.decide_and _ _).symm

/-- A copy that passes its checks, and no bank of whose span changes, leads to a location. -/
theorem cpyTrap_none (h : cpyTrap x c s = none) (hn : (c.scalar x.sb).toNat ≠ 0)
    (hbanks : (spanBanks (c.scalar x.data).toNat (c.scalar x.sb).toNat).any (s.bankChanging (clusterOf c.core)) = false) :
    ∃ loc, translate c.g.ranges (c.pair x.base) (c.scalar x.sb).toNat (!x.offset.getLsbD 0) (x.offset.getLsbD 0) false = .ok loc := by
  unfold cpyTrap at h
  dsimp only at h
  rw [if_neg hn] at h
  split at h
  · cases h
  · split at h
    · cases h
    · rw [if_neg (Bool.eq_false_iff.mp hbanks)] at h
      split at h
      · cases h
      · split at h
        · cases h
        · next loc hok => exact ⟨loc, hok⟩

/-- A copy asks for the granules from where its memory address leads. -/
theorem cpyReqs_of_translate {rd wr : Bool} {loc : Loc} (h : translate c.g.ranges va n rd wr false = .ok loc) :
    (cpyReqs c va n).map (fun r => (r.lane, r.va, r.loc.ipa, r.state)) =
      (List.range (n / 16)).map (fun j => (j, va + 16 * j, loc.ipa + 16 * j, ReqState.waiting)) := by
  obtain ⟨k, hk⟩ := allows_of_translate h
  rw [translate_of_allows hk] at h
  cases h
  unfold cpyReqs
  rw [hk.hit]
  exact List.map_map

theorem cpyOp_nothing {out : Bool} (hi : Issues i s c) (hn : (c.scalar x.sb).toNat = 0) : cpyOp i x out s =
    .next (c.start i { c.op i (.cpy out (c.scalar x.data).toNat (c.pair x.base) 0 false) [] [] s with performed := true } s) := by
  unfold cpyOp
  rw [issue_of_issues hi]
  dsimp only
  rw [if_pos hn]

/-- A copy in flight as it starts. -/
def cpyIssued (c : Ctx) (i : Instr) (x : MEM) (out : Bool) (s : State) : Op :=
  { c.op i (.cpy out (c.scalar x.data).toNat (c.pair x.base) (c.scalar x.sb).toNat (x.offset.getLsbD 1))
      (cpyReqs c (c.pair x.base) (c.scalar x.sb).toNat) [] s with
    banks := spanBanks (c.scalar x.data).toNat (c.scalar x.sb).toNat }

theorem cpyOp_starts {out : Bool} (hi : Issues i s c) (hn : (c.scalar x.sb).toNat ≠ 0)
    (hbanks : (spanBanks (c.scalar x.data).toNat (c.scalar x.sb).toNat).any (s.bankChanging (clusterOf c.core)) = false)
    (hroom : x.offset.getLsbD 1 = true → c.g.q9.length + c.g.q9Promised < 16) : cpyOp i x out s =
    .next (if x.offset.getLsbD 1 then (c.start i (cpyIssued c i x out s) s).modGroup c.g.gid (fun g => { g with q9Promised := g.q9Promised + 1 })
      else c.start i (cpyIssued c i x out s) s) := by
  have hfree : (x.offset.getLsbD 1 && decide (16 ≤ c.g.q9.length + c.g.q9Promised)) = false := by
    rw [Bool.and_eq_false_imp]
    exact fun h => decide_eq_false (Nat.not_le.mpr (hroom h))
  unfold cpyOp
  rw [issue_of_issues hi]
  dsimp only
  rw [if_neg hn, hbanks, hfree, Bool.or_self, if_neg Bool.false_ne_true]
  rfl

theorem addressTrap_of_issues (h : Issues i s c) : addressTrap i c s = none := by
  have hchecks := h.checks
  unfold issueTrap at hchecks
  split at hchecks
  · cases hchecks
  · exact hchecks

theorem copyCompletes {k : MEM → Instr} {out : Bool} (hform : ∀ x, (k x).form = .mem 0x48 x)
    (hdirection : ∀ x, (k x).wf = true → x.offset.getLsbD 0 = out) (hexec : ∀ x s, exec (k x) s = cpyOp (k x) x out s) : CopyCompletes k out := by
  rintro x s c va la n hwf hi rfl rfl rfl
  have hdsts : opDsts (k x).form = [] := by rw [hform]; rfl
  have hstart := fun o => Ctx.start_started hi.gang rfl (k x) o
  rw [hdsts] at hstart
  refine ⟨fun hn => ⟨_, _, (hexec x s).trans (cpyOp_nothing hi hn), hstart _, (Ctx.op_asIssued (hform x) c _ _ _ _).isOf, rfl, rfl, rfl⟩,
    fun hn hspan hroom => ?_⟩
  have hbanks : (spanBanks (c.scalar x.data).toNat (c.scalar x.sb).toNat).any (s.bankChanging (clusterOf c.core)) = false := by
    rw [spanBanks_eq hn]
    exact List.any_eq_false.mpr fun b hb => Bool.eq_false_iff.mp (hspan b hb)
  have htrap : cpyTrap x c s = none := by
    have haddr := addressTrap_of_issues hi
    unfold addressTrap at haddr
    rw [hform] at haddr
    exact haddr
  obtain ⟨loc, hloc⟩ := cpyTrap_none htrap hn hbanks
  rw [hdirection x hwf] at hloc
  exact ⟨_, _, cpyIssued c (k x) x out s, loc, (hexec x s).trans (cpyOp_starts hi hn hbanks hroom), hstart _, c.op_isOf (k x) .fixed [] [] s, rfl, rfl,
    spanBanks_eq hn, hloc, cpyReqs_of_translate hloc, rfl⟩

/-! ### Bank modes (R148) -/

/-- The banks a CBANK names. -/
def namedBanks (x : MEM) : List Nat := (List.range 16).filter (fun b => x.offset.getLsbD b)

/-- A change of bank modes in flight as it starts. -/
def cbankIssued (c : Ctx) (x : MEM) (s : State) : Op :=
  { c.op (.cbank x) (.cbank (clusterOf c.core) x.fe.toNat (namedBanks x)) [] [] s with performed := namedBanks x = [] }

/-- The machine once the instruction has started. -/
def cbankStarted (c : Ctx) (x : MEM) (s : State) : State := c.start (.cbank x) (cbankIssued c x s) s

/-- The changes of mode that a CBANK asks for. -/
def cbankChanges (c : Ctx) (x : MEM) (s : State) : List BankChange :=
  (namedBanks x).map (fun b => ⟨clusterOf c.core, b, x.fe.toNat, some s.nextId⟩)

theorem cbank_starts (hi : Issues (.cbank x) s c) : exec (.cbank x) s =
    .next { cbankStarted c x s with changes := (cbankStarted c x s).changes ++ cbankChanges c x s } := by
  have hexec : exec (.cbank x) s = execCbank x s := rfl
  rw [hexec, execCbank, issue_of_issues hi]
  rfl

theorem cbankStarted_changes : (cbankStarted c x s).changes = s.changes := rfl

theorem namedBanks_eq_nil : namedBanks x = [] ↔ ∀ b < 16, x.offset.getLsbD b = false := by
  unfold namedBanks
  simp

theorem cbankCompletes (hi : Issues (.cbank x) s c) :
    ∃ t u o, exec (.cbank x) s = .next t ∧ Started (.cbank x) [] [] s c o u ∧ IsOf (.cbank x) s c o ∧
      t = { u with changes := t.changes } ∧ t.changes = s.changes ++ ((List.range 16).filter (fun b => x.offset.getLsbD b)).map
        (fun b => ⟨clusterOf c.core, b, x.fe.toNat, some o.id⟩) ∧
      (o.performed = true ↔ ∀ b < 16, x.offset.getLsbD b = false) := by
  refine ⟨_, cbankStarted c x s, cbankIssued c x s, cbank_starts hi, Ctx.start_started hi.gang rfl (.cbank x) _, c.op_isOf (.cbank x) .fixed [] [] s, rfl, ?_, ?_⟩
  · exact congrArg (· ++ cbankChanges c x s) cbankStarted_changes
  · exact decide_eq_true_iff.trans namedBanks_eq_nil

/-! ### Queue bindings (R149) -/

/-- An instruction without results, which no fault has met, completes: it clears its flag (R120). -/
theorem Group.complete_plain {g : Group} (hheld : g.heldBy = none) (hkind : o.kind = .fixed) (hresults : o.results = []) (hlate : o.lateTrap = none) :
    ∃ fl, g.complete o = { g with flags := fl } ∧
      ∀ n, tget Flag.clear fl n = if n = o.flag ∧ n < 12 then { g.flag n with busy := false } else g.flag n := by
  have hg : { g with heldBy := none } = g := by rw [← hheld]
  have hcomplete : g.complete o = if o.flag < 12 then g.modFlag o.flag (fun f => { f with busy := false }) else g := by
    unfold Group.complete Group.takeToken
    rw [hkind, hresults, hlate]
    dsimp only [List.foldl_nil]
    rw [hheld, ite_self, hg]
  rw [hcomplete]
  by_cases hflag : o.flag < 12
  · rw [if_pos hflag]
    refine ⟨_, rfl, fun n => ?_⟩
    rw [tget_tset]
    by_cases hn : n = o.flag
    · rw [if_pos hn, if_pos ⟨hn, hn ▸ hflag⟩, hn]
    · rw [if_neg hn, if_neg fun h => hn h.1]
      rfl
  · rw [if_neg hflag]
    refine ⟨g.flags, rfl, fun n => ?_⟩
    rw [if_neg fun h : n = o.flag ∧ n < 12 => hflag (h.1 ▸ h.2)]
    rfl

theorem State.completeOp_plain {g : Group} (hg : tfind o.gid u.groups = some g) (hlate : o.lateTrap = none) :
    u.completeOp o = { u with ops := u.ops.filter (fun p => p.id != o.id) }.modGroup o.gid (fun g => g.complete o) := by
  unfold State.completeOp
  dsimp only
  rw [hg]
  dsimp only
  rw [hlate, Option.isSome_none, Bool.and_false, if_neg Bool.false_ne_true]

/-- A QBIND in flight, which completes at once. -/
def qbindIssued (c : Ctx) (x : MEM) (s : State) : Op := c.op (.qbind x) .fixed [] [] s

/-- The group once its binding of a queue is as given. -/
def Group.bindQueue (g : Group) (q : Nat) (b : QBind) : Group := { g with qbinds := tset ⟨0, 0, 0, 0⟩ g.qbinds q b }

/-- The machine once a QBIND has bound its queue. -/
def qbindDone (c : Ctx) (x : MEM) (q : Nat) (b : QBind) (s : State) : State :=
  ((c.start (.qbind x) (qbindIssued c x s) s).completeOp (qbindIssued c x s)).modGroup c.g.gid (fun g => g.bindQueue q b)

section
variable {q : Fin 10}

theorem qbind_unbinds (hi : Issues (.qbind x) s c) (hq : x.data = .q q) (hsize : (c.scalar x.sb).toNat = 0) :
    exec (.qbind x) s = .next (qbindDone c x q.val ⟨0, 0, 0, 0⟩ s) := by
  have hexec : exec (.qbind x) s = execQbind x s := rfl
  rw [hexec, execQbind, issue_of_issues hi, hq]
  exact if_pos hsize

theorem qbind_binds (hi : Issues (.qbind x) s c) (hq : x.data = .q q) (hsize : (c.scalar x.sb).toNat ≠ 0)
    (halign : (c.scalar x.base).toNat % 16 = 0) (hlength : (c.scalar x.sb).toNat % 16 = 0) (hin : (c.scalar x.base).toNat < 2 ^ 22)
    (hbank : bankOf ((c.scalar x.base).toNat + (c.scalar x.sb).toNat - 1) = bankOf (c.scalar x.base).toNat)
    (hmode : s.bankMode (clusterOf c.core) (bankOf (c.scalar x.base).toNat) = 2) :
    exec (.qbind x) s = .next (qbindDone c x q.val ⟨(c.scalar x.base).toNat, (c.scalar x.sb).toNat, 0, 0⟩ s) := by
  have hexec : exec (.qbind x) s = execQbind x s := rfl
  have hrange : ¬((c.scalar x.base).toNat ≥ 2 ^ 22 ∨ bankOf ((c.scalar x.base).toNat + (c.scalar x.sb).toNat - 1) ≠ bankOf (c.scalar x.base).toNat) :=
    not_or.mpr ⟨not_le.mpr hin, not_not.mpr hbank⟩
  rw [hexec, execQbind, issue_of_issues hi, hq]
  dsimp only
  rw [if_neg hsize, if_neg (not_not.mpr halign), if_neg (not_not.mpr hlength), if_neg hrange, if_neg (not_not.mpr hmode)]
  rfl

/-- What a binding leaves: its flag owned and clear, its queue bound, and all else as it was. -/
theorem qbindDone_ends (hi : Issues (.qbind x) s c) (b : QBind) :
    ∃ g, qbindDone c x q.val b s =
        { s with groups := (qbindDone c x q.val b s).groups, ops := s.ops.filter (fun p => p.id != s.nextId), nextId := s.nextId + 1 } ∧
      (∀ k, k ≠ c.g.gid → tfind k (qbindDone c x q.val b s).groups = tfind k s.groups) ∧ Has (qbindDone c x q.val b s) c g ∧
      Advances (.qbind x) c g ∧ { g with qbinds := c.g.qbinds, flags := c.g.flags, strands := c.g.strands } = c.g ∧
      (∀ n, g.flag n = if n = x.flag.toNat ∧ n < 12 then ⟨false, true, [], (c.g.flag n).late⟩ else c.g.flag n) ∧
      tget ⟨0, 0, 0, 0⟩ g.qbinds q.val = b ∧ ∀ n, n ≠ q.val → tget ⟨0, 0, 0, 0⟩ g.qbinds n = tget ⟨0, 0, 0, 0⟩ c.g.qbinds n := by
  obtain ⟨-, hothers, g, hg, hadv, hframe, hflags⟩ := Ctx.start_started hi.gang rfl (.qbind x) (qbindIssued c x s)
  have hheld : g.heldBy = none := by
    rw [← issueCtx_heldBy hi.gang]
    split at hflags
    · obtain ⟨-, -, hsame⟩ := hflags
      exact hsame
    · obtain ⟨-, hsame⟩ := hflags
      exact hsame
  have hdone : qbindDone c x q.val b s = ({ c.start (.qbind x) (qbindIssued c x s) s with
      ops := (c.start (.qbind x) (qbindIssued c x s) s).ops.filter (fun p => p.id != s.nextId) } : State).modGroup c.g.gid
        (fun g => (g.complete (qbindIssued c x s)).bindQueue q.val b) := by
    unfold qbindDone
    rw [State.completeOp_plain (o := qbindIssued c x s) hg rfl]
    exact State.modGroup_modGroup ..
  have hops : (c.start (.qbind x) (qbindIssued c x s) s).ops.filter (fun p => p.id != s.nextId) = s.ops.filter (fun p => p.id != s.nextId) := by
    show (s.ops ++ [qbindIssued c x s]).filter _ = _
    rw [List.filter_append]
    simp [qbindIssued, Ctx.op]
  obtain ⟨fl, hcomplete, hfl⟩ := Group.complete_plain (g := g) (o := qbindIssued c x s) hheld rfl rfl rfl
  have hqbinds : g.qbinds = c.g.qbinds := by rw [← hframe]
  rw [issueCtx_heldBy hi.gang, ← hheld] at hframe
  rw [hops] at hdone
  rw [hdone]
  refine ⟨_, rfl, fun k hk => (State.tfind_modGroup_ne _ _ hk).trans (hothers k hk), State.tfind_modGroup _ hg, ?_⟩
  rw [hcomplete]
  refine ⟨hadv, ?_, fun n => (hfl n).trans ?_, tget_tset_self _ _ _ _, fun n hn => ?_⟩
  · show { g with qbinds := c.g.qbinds, flags := c.g.flags, strands := c.g.strands } = c.g
    rw [← hqbinds]
    exact hframe
  · change (if n = x.flag.toNat ∧ n < 12 then _ else _) = _
    by_cases hn : n = x.flag.toNat ∧ n < 12
    · rw [if_pos hn, if_pos hn]
      obtain ⟨rfl, hlt⟩ := hn
      rw [if_pos (show (qbindIssued c x s).flag < 12 from hlt)] at hflags
      obtain ⟨hflag, -, -⟩ := hflags
      exact congrArg (fun f : Flag => { f with busy := false }) hflag
    · rw [if_neg hn, if_neg hn]
      split at hflags
      · next hlt =>
        obtain ⟨-, hflag, -⟩ := hflags
        exact hflag n fun h => hn ⟨h, h ▸ hlt⟩
      · obtain ⟨hflag, -⟩ := hflags
        exact congrArg (fun fs => tget Flag.clear fs n) hflag
  · rw [← hqbinds]
    exact tget_tset_ne _ _ hn _

end

/-! ### WAKE (R151) -/

/-- An access that has been sent again: no release holds it parked and, where it is an instruction's, its request is sent. -/
structure SentAgain (ofRelease : Bool) (a : Nat × Nat) (t : State) : Prop where
  parked : ∀ r ∈ t.rels, r.id = a.1 → a.2 ∉ r.parked
  waiting : ofRelease = false → ∀ p ∈ t.ops, p.id = a.1 → ∀ r, p.reqs[a.2]? = some r → r.state = .waiting

section
variable {a b : Nat × Nat} {as : List (Nat × Nat)} {ofRelease : Bool}

/-- Whether a number is a release's (R92). -/
def State.isRelease (s : State) (id : Nat) : Bool := s.rels.any (fun r => r.id == id)

theorem wakeAccess_launch (h : a.1 = 0) : s.wakeAccess a = s.modLaunch a.2 (fun l => { l with ovfFull := false }) := if_pos h

theorem wakeAccess_release (h : a.1 ≠ 0) (hr : s.isRelease a.1 = true) : s.wakeAccess a =
    s.modRel a.1 (fun r => { r with parked := r.parked.filter (· != a.2), sent := r.sent ++ r.parked.filter (· == a.2) }) :=
  (if_neg h).trans (if_pos hr)

theorem wakeAccess_request (h : a.1 ≠ 0) (hr : s.isRelease a.1 = false) : s.wakeAccess a = s.setReq a.1 a.2 .waiting :=
  (if_neg h).trans (if_neg (Bool.eq_false_iff.mp hr))

/-- An access sent again changes no group and no entry of the wait table, and no release's number. -/
theorem wakeAccess_frame (s : State) (a : Nat × Nat) : (s.wakeAccess a).groups = s.groups ∧ (s.wakeAccess a).waits = s.waits ∧
    (∀ id, (s.wakeAccess a).isRelease id = s.isRelease id) := by
  by_cases h : a.1 = 0
  · rw [wakeAccess_launch h]
    exact ⟨rfl, rfl, fun _ => rfl⟩
  · cases hr : s.isRelease a.1 with
    | true =>
      rw [wakeAccess_release h hr]
      refine ⟨rfl, rfl, fun id => ?_⟩
      unfold State.isRelease State.modRel
      rw [List.any_map]
      congr 1
      funext r
      dsimp only [Function.comp]
      split <;> rfl
    | false =>
      rw [wakeAccess_request h hr]
      exact ⟨rfl, rfl, fun _ => rfl⟩

/-- Elements of a table some of which have been updated by their number. -/
theorem mem_map_update {α : Type} {xs : List α} {num : α → Nat} {id : Nat} {f : α → α} {y : α}
    (h : y ∈ xs.map (fun x => if num x = id then f x else x)) : (∃ x ∈ xs, num x = id ∧ y = f x) ∨ (y ∈ xs ∧ num y ≠ id) := by
  obtain ⟨x, hx, rfl⟩ := List.mem_map.mp h
  by_cases hid : num x = id
  · rw [if_pos hid]
    exact .inl ⟨x, hx, hid, rfl⟩
  · rw [if_neg hid]
    exact .inr ⟨hx, hid⟩

/-- Where one request has been sent, each other one that waited still does. -/
theorem sent_request {rs : List Req} {n m : Nat} {r : Req} (h : (lset rs n (fun r => { r with state := .waiting }))[m]? = some r) :
    ∃ r', rs[m]? = some r' ∧ (r'.state = .waiting → r.state = .waiting) := by
  rw [lset_eq_modify, List.getElem?_modify] at h
  obtain ⟨r', hr', rfl⟩ := Option.map_eq_some_iff.mp h
  refine ⟨r', hr', fun hw => ?_⟩
  split
  · rfl
  · exact hw

theorem sent_request_self {rs : List Req} {n : Nat} {r : Req} (h : (lset rs n (fun r => { r with state := .waiting }))[n]? = some r) :
    r.state = .waiting := by
  rw [lset_eq_modify, List.getElem?_modify_eq] at h
  obtain ⟨r', -, rfl⟩ := Option.map_eq_some_iff.mp h
  rfl

theorem wakeAccess_sends (h : a.1 ≠ 0) : SentAgain (s.isRelease a.1) a (s.wakeAccess a) := by
  cases hr : s.isRelease a.1 with
  | true =>
    rw [wakeAccess_release h hr]
    refine ⟨fun r hr' hid hin => ?_, fun h => nomatch h⟩
    obtain ⟨q, -, -, rfl⟩ | ⟨-, hne⟩ := mem_map_update hr'
    · exact absurd (List.mem_filter.mp hin).2 (by simp)
    · exact hne hid
  | false =>
    rw [wakeAccess_request h hr]
    refine ⟨fun r hr' hid => ?_, fun _ p hp hid r hreq => ?_⟩
    · have hne := List.any_eq_false.mp hr r hr'
      exact absurd hid (by simpa using hne)
    · obtain ⟨q, -, -, rfl⟩ | ⟨-, hne⟩ := mem_map_update hp
      · exact sent_request_self hreq
      · exact absurd hid hne

/-- What has been sent again stays so while other accesses are. -/
theorem wakeAccess_keeps (h : SentAgain ofRelease a s) : SentAgain ofRelease a (s.wakeAccess b) := by
  obtain ⟨hparked, hwaiting⟩ := h
  by_cases hb : b.1 = 0
  · rw [wakeAccess_launch hb]
    exact ⟨hparked, hwaiting⟩
  · cases hr : s.isRelease b.1 with
    | true =>
      rw [wakeAccess_release hb hr]
      refine ⟨fun r hr' hid hin => ?_, hwaiting⟩
      obtain ⟨q, hq, -, rfl⟩ | ⟨hq, -⟩ := mem_map_update hr'
      · exact hparked q hq hid (List.mem_filter.mp hin).1
      · exact hparked r hq hid hin
    | false =>
      rw [wakeAccess_request hb hr]
      refine ⟨hparked, fun hof p hp hid r hreq => ?_⟩
      obtain ⟨q, hq, -, rfl⟩ | ⟨hq, -⟩ := mem_map_update hp
      · obtain ⟨r', hr', hw⟩ := sent_request hreq
        exact hw (hwaiting hof q hq hid r' hr')
      · exact hwaiting hof p hq hid r hreq

theorem foldl_wakeAccess_frame (s : State) (as : List (Nat × Nat)) : (as.foldl State.wakeAccess s).groups = s.groups ∧
    (as.foldl State.wakeAccess s).waits = s.waits := by
  induction as generalizing s with
  | nil => exact ⟨rfl, rfl⟩
  | cons b as ih =>
    obtain ⟨hgroups, hwaits⟩ := ih (s.wakeAccess b)
    obtain ⟨hgroups', hwaits', -⟩ := wakeAccess_frame s b
    exact ⟨hgroups.trans hgroups', hwaits.trans hwaits'⟩

theorem foldl_wakeAccess_keeps (h : SentAgain ofRelease a s) (as : List (Nat × Nat)) : SentAgain ofRelease a (as.foldl State.wakeAccess s) := by
  induction as generalizing s with
  | nil => exact h
  | cons b as ih => exact ih (wakeAccess_keeps h)

theorem foldl_wakeAccess_sends (ha : a ∈ as) (h : a.1 ≠ 0) : SentAgain (s.isRelease a.1) a (as.foldl State.wakeAccess s) := by
  induction as generalizing s with
  | nil => cases ha
  | cons b as ih =>
    rcases List.mem_cons.mp ha with rfl | hin
    · exact foldl_wakeAccess_keeps (wakeAccess_sends h) as
    · obtain ⟨-, -, hreleases⟩ := wakeAccess_frame s b
      rw [← hreleases]
      exact ih hin

end

/-- What WAKE of an entry changes, and that it sends again what the entry holds. -/
theorem wake_sends (u : State) (w : WaitEntry) : (u.wake w).waits = u.waits.filter (fun v => v.token != w.token) ∧ (u.wake w).groups = u.groups ∧
    ∀ a ∈ w.accesses, a.1 ≠ 0 → SentAgain (u.isRelease a.1) a (u.wake w) := by
  obtain ⟨hgroups, hwaits⟩ := foldl_wakeAccess_frame u w.accesses
  refine ⟨congrArg (List.filter _) hwaits, hgroups, fun a ha h => ?_⟩
  obtain ⟨hparked, hwaiting⟩ := foldl_wakeAccess_sends (s := u) ha h
  exact ⟨hparked, hwaiting⟩

/-- A WAKE in flight, which is performed at once. -/
def wakeIssued (c : Ctx) (i : Instr) (s : State) : Op := { c.op i .wake [] [] s with performed := true }

theorem wakeOp_starts {here : Ctx → WaitEntry → Bool} (hi : Issues i s c) : wakeOp i here s = match s.waits.find? (here c) with
    | some w => .next ((c.start i (wakeIssued c i s) s).wake w)
    | none => .next (c.start i (wakeIssued c i s) s) := by
  unfold wakeOp
  rw [issue_of_issues hi]
  rfl

theorem wakeCompletes {k : MEM → Instr} {here : Ctx → MEM → WaitEntry → Bool} {m : Nat} (hform : ∀ x, (k x).form = .mem m x)
    (hdsts : ∀ x, opDsts (.mem m x) = []) (hexec : ∀ x s, exec (k x) s = wakeOp (k x) (fun c w => here c x w) s) : WakeCompletes k here := by
  intro x s c _ hi
  have hstart := Ctx.start_started hi.gang rfl (k x) (wakeIssued c (k x) s)
  have hisOf := c.op_isOf (k x) .wake [] [] s
  rw [hform, hdsts] at hstart
  rw [hexec, wakeOp_starts hi]
  cases hw : s.waits.find? (here c x) with
  | none => exact ⟨_, _, wakeIssued c (k x) s, rfl, hstart, hisOf, rfl, fun _ => rfl, fun w h => nomatch h⟩
  | some w =>
    obtain ⟨hwaits, hgroups, hsent⟩ := wake_sends (c.start (k x) (wakeIssued c (k x) s) s) w
    refine ⟨_, _, wakeIssued c (k x) s, rfl, hstart, hisOf, rfl, fun h => (Option.some_ne_none w h).elim, fun w' h => ?_⟩
    cases h
    refine ⟨hwaits, hgroups, fun a ha h => ?_⟩
    obtain ⟨hparked, hwaiting⟩ := hsent a ha h
    exact ⟨hparked, fun hof p hp => hwaiting hof p (List.mem_of_find?_eq_some hp) (op?_id hp)⟩

/-- Settles O35, instruction by instruction. -/
theorem copiesAndBanksStart : Obligations.CopiesAndBanksStart := by
  unfold Obligations.CopiesAndBanksStart
  refine ⟨copyCompletes (fun _ => rfl) (fun _ => cpyIn_direction) fun _ _ => rfl, copyCompletes (fun _ => rfl) (fun _ => cpyOut_direction) fun _ _ => rfl,
    fun x s c _ => cbankCompletes, ?_, wakeCompletes (fun _ => rfl) (fun _ => rfl) fun _ _ => rfl,
    wakeCompletes (fun _ => rfl) (fun _ => rfl) fun _ _ => rfl⟩
  rintro x s c q _ hq hi la size rfl rfl hallowed
  by_cases hsize : (c.scalar x.sb).toNat = 0
  · rw [if_pos hsize]
    obtain ⟨g, hends⟩ := qbindDone_ends hi ⟨0, 0, 0, 0⟩
    exact ⟨_, g, qbind_unbinds hi hq hsize, hends⟩
  · obtain ⟨halign, hlength, hin, hbank, hmode⟩ := hallowed.resolve_left hsize
    rw [if_neg hsize]
    obtain ⟨g, hends⟩ := qbindDone_ends hi ⟨(c.scalar x.base).toNat, (c.scalar x.sb).toNat, 0, 0⟩
    exact ⟨_, g, qbind_binds hi hq hsize halign hlength hin hbank hmode, hends⟩

end Sys2Proof.Machine
end

section
/-! SUPPORT. A lane of an engine instruction that finishes: its run of registers written and its request done (R124, R315); O47. -/

namespace Sys2Proof.Machine

open Sys2Proof Claim

variable {s u : State} {o : Op} {g : Group} {dst l : Nat} {ws : List Word}

/-! ### A run of registers written in one lane (R124, R315) -/

/-- A lane's words stand in its run of registers, and the group is otherwise as it was but for the reuse latch, which has lost the run. -/
structure RunWritten (dst l : Nat) (ws : List Word) (g g' : Group) : Prop where
  frame : { g' with v := g.v, latch := g.latch } = g
  run : ∀ k w, ws[k]? = some w → g'.vget (dst + k) l = w
  others : ∀ m j, j < 32 → (j ≠ l ∨ m < dst ∨ dst + ws.length ≤ m) → g'.vget m j = g.vget m j
  latch : ∀ e, e ∈ g'.latch ↔ e ∈ g.latch ∧ (e.2 < dst ∨ dst + ws.length ≤ e.2)

theorem runElems_cons (dst l : Nat) (w : Word) (ws : List Word) : runElems dst l (w :: ws) = (.v dst l, w) :: runElems (dst + 1) l ws := by
  unfold runElems
  rw [List.mapIdx_cons]
  congr 2
  funext k w
  rw [Nat.add_right_comm, Nat.add_assoc]

/-- One element written empties its register's entry of the latch. -/
theorem writeElem_v (g : Group) (n l : Nat) (w : Word) : g.writeElem (.v n l, w) = { g.vset n l w with latch := g.latch.filter (fun p => p.2 != n) } := rfl

theorem foldl_runElems (hl : l < 32) (g : Group) (dst : Nat) (ws : List Word) :
    RunWritten dst l ws g ((runElems dst l ws).foldl Group.writeElem g) := by
  induction ws generalizing g dst with
  | nil => exact ⟨rfl, fun k w h => (nomatch h), fun _ _ _ _ => rfl, fun e => ⟨fun h => ⟨h, Nat.lt_or_ge e.2 dst⟩, fun h => h.1⟩⟩
  | cons w ws ih =>
    obtain ⟨hframe, hrun, hothers, hlatch⟩ := ih (g.writeElem (.v dst l, w)) (dst + 1)
    rw [runElems_cons, List.foldl_cons]
    have hfirst (m j : Nat) : (g.writeElem (.v dst l, w)).vget m j = if 32 * m + j = 32 * dst + l then w else g.vget m j := g.vget_vset dst l m j w
    refine ⟨congrArg (fun h : Group => { h with v := g.v, latch := g.latch }) hframe, fun k w' hk => ?_, fun m j hj hout => ?_, fun e => ?_⟩
    · cases k with
      | zero =>
        cases hk
        exact (hothers dst l hl (by omega)).trans ((hfirst dst l).trans (if_pos rfl))
      | succ k => exact (congrArg (fun n => Group.vget _ n l) (by omega)).trans (hrun k w' hk)
    · rw [List.length_cons] at hout
      exact (hothers m j hj (by omega)).trans ((hfirst m j).trans (if_neg (by omega)))
    · rw [hlatch, writeElem_v, List.length_cons, List.mem_filter, bne_iff_ne, and_assoc]
      exact and_congr_right fun _ => by omega

/-! ### A lane that finishes (R315) -/

/-- The machine once a lane's words are written and its request is done. -/
def laneDone (u : State) (o : Op) (n : Nat) (elems : List (RegElem × Word)) : State := ((u.writeLane o elems).setReq o.id n .done).settlePerformed o.id

theorem rayLaneFinish_done {i : Instr} {r : Req} (ho : s.op? s.ev.a = some o) (hkind : o.kind = .ray i) (hr : o.reqs[s.ev.b]? = some r)
    (hperformed : o.performed = false) (hwaiting : r.state = .waiting) (hruns : s.unitRuns o = true)
    (htrace : (rayLane o (s.mayCopy o) i r.lane).run s = (.ok ws, u)) :
    exec .rayLaneFinish s = .next (laneDone u o s.ev.b (runElems (rayDst i) r.lane ws)) := by
  have hexec : exec .rayLaneFinish s = execRayLaneFinish s := rfl
  rw [hexec, execRayLaneFinish, ho]
  dsimp only
  rw [hkind, hr]
  dsimp only
  rw [hperformed, hwaiting, hruns, htrace]
  rfl

/-- An instruction one of whose requests is done: it has been performed once all are. -/
def Op.laneEnded (o : Op) (n : Nat) : Op :=
  { o with reqs := doneReqs [n] o.reqs, performed := o.performed || (doneReqs [n] o.reqs).all (fun r => r.state == .done) }

theorem Op.laneEnded_requestIs (o : Op) (n : Nat) : RequestIs { o with performed := (o.laneEnded n).performed } (o.laneEnded n) n .done := by
  have hreqs : (o.laneEnded n).reqs = o.reqs.modify n (fun r => { r with state := .done }) := lset_eq_modify _ _ _
  refine ⟨rfl, ?_, fun m r hm => ?_⟩
  · rw [hreqs, List.length_modify]
  · have hm' : o.reqs[m]? = some r := hm
    rw [hreqs, List.getElem?_modify, hm', Option.map_eq_map, Option.map_some]
    by_cases h : n = m
    · rw [if_pos h, if_pos h.symm]
    · rw [if_neg h, if_neg (Ne.symm h)]

theorem Op.laneEnded_performed {n : Nat} (h : o.performed = false) :
    (o.laneEnded n).performed = true ↔ ∀ m q, m ≠ n → o.reqs[m]? = some q → q.state = .done := by
  change (o.performed || (doneReqs [n] o.reqs).all _) = true ↔ _
  rw [h, Bool.false_or, doneReqs_all]
  simp only [List.mem_singleton]

/-- An instruction of another number, where one's update keeps every number. -/
theorem State.modOp_others {id : Nat} {f : Op → Op} {n : Nat} {q : Op} (hq : s.ops[n]? = some q) (hne : q.id ≠ id) :
    (s.modOp id f).ops[n]? = some q := by
  rw [State.modOp_ops, List.getElem?_map, hq, Option.map_some, if_neg hne]

section
variable {n : Nat} {elems : List (RegElem × Word)}

theorem laneDone_op? (h : u.op? o.id = some o) : (laneDone u o n elems).op? o.id = some (o.laneEnded n) :=
  settlePerformed_op? (s := (u.writeLane o elems).setReq o.id n .done) (o := o) (op?_modOp_self (s := u.writeLane o elems) h fun _ => rfl)

/-- What a lane that finishes changes: its group, and the instructions in flight of its number. -/
theorem laneDone_frame (u : State) (o : Op) (n : Nat) (elems : List (RegElem × Word)) :
    laneDone u o n elems = { u with groups := (u.writeLane o elems).groups, ops := (laneDone u o n elems).ops } ∧
    (laneDone u o n elems).ops.length = u.ops.length ∧
    ∀ (m : Nat) q, u.ops[m]? = some q → q.id ≠ o.id → (laneDone u o n elems).ops[m]? = some q := by
  refine ⟨rfl, ?_, fun m q hq hne => State.modOp_others (State.modOp_others (s := u.writeLane o elems) hq hne) hne⟩
  unfold laneDone State.settlePerformed State.setReq State.modReq
  rw [State.modOp_ops, List.length_map, State.modOp_ops, List.length_map]
  rfl

end

/-- Settles O47: the lane's words are written, and its request is done. -/
theorem rayLanesFinish : Obligations.RayLanesFinish := by
  unfold Obligations.RayLanesFinish
  intro s u o i r ws g ho hkind hr hperformed hwaiting hruns htrace hu hg hl
  obtain ⟨hframe, hrun, hothers, hlatch⟩ := foldl_runElems hl g (rayDst i) ws
  obtain ⟨hstate, hlength, hops⟩ := laneDone_frame u o s.ev.b (runElems (rayDst i) r.lane ws)
  have hgroups : (laneDone u o s.ev.b (runElems (rayDst i) r.lane ws)).groups = (u.writeLane o (runElems (rayDst i) r.lane ws)).groups := rfl
  refine ⟨_, _, _, rayLaneFinish_done ho hkind hr hperformed hwaiting hruns htrace, hstate, fun k hk => ?_, State.tfind_modGroup _ hg, hframe, hrun, hothers,
    hlatch, laneDone_op? hu, o.laneEnded_requestIs s.ev.b, Op.laneEnded_performed hperformed, hlength, hops⟩
  exact (congrArg (tfind k) hgroups).trans (State.tfind_modGroup_ne u _ hk)

end Sys2Proof.Machine
end

section
/-! SUPPORT. PHASE and PREF as they start (R98, R144, R145), and O34. -/

namespace Sys2Proof.Machine

open Sys2Proof Claim

variable {x : MEM} {s : State} {c : Ctx}

/-! ### PHASE (R144) -/

/-- A PHASE in flight as it starts, before its boundary: in a task it has no scope (R152). -/
def phaseIssued (c : Ctx) (x : MEM) (s : State) : Op :=
  { c.op (.phase x) .phase [] [] s with scope := if c.g.task.isSome then 0 else x.scope.toNat }

theorem phase_scoped_eq (c : Ctx) (x : MEM) (s : State) : (c.op (.phase x) .phase [] [] s).scoped = phaseIssued c x s := by
  have htask : (c.op (.phase x) .phase [] [] s).task.isSome = c.g.task.isSome := Option.isSome_map
  rw [Op.scoped_eq, htask]
  rfl

/-- A PHASE without scope: it is performed as it starts. -/
def phaseDone (c : Ctx) (x : MEM) (s : State) : Op := { phaseIssued c x s with performed := true }

/-- A PHASE with a scope: it waits for its release. -/
def phaseWaiting (c : Ctx) (x : MEM) (s : State) : Op := { phaseIssued c x s with relId := some (s.nextId + 1) }

/-- The release that a PHASE asks for: it covers the core's pending bytes where REL is set. -/
def phaseRelease (c : Ctx) (x : MEM) (s : State) : Rel :=
  ⟨s.nextId + 1, c.core, if x.rel then (phaseWaiting c x s).scope else 0, .op s.nextId, .pending c.core, false, [], [], [], none⟩

/-- What PHASE does once it passes its checks: it is performed, and the group's later accesses stay behind it (R90), or its release is asked for. -/
theorem phase_starts (hi : Issues (.phase x) s c) : exec (.phase x) s =
    if x.scope = 0 then
      .next ((c.start (.phase x) (phaseDone c x s) s).modGroup c.g.gid (fun g => { g with fence := s.nextId }))
    else
      .next { c.start (.phase x) (phaseWaiting c x s) s with
        rels := (c.start (.phase x) (phaseWaiting c x s) s).rels ++ [phaseRelease c x s]
        nextId := (c.start (.phase x) (phaseWaiting c x s) s).nextId + 1 } := by
  have hexec : exec (.phase x) s = execPhase x s := rfl
  have hscoped := phase_scoped_eq c x s
  unfold Op.scoped at hscoped
  rw [hexec, execPhase, issue_of_issues hi]
  dsimp only
  rw [hscoped]
  rfl

/-! ### Lanes that do not fault, and requests that name one location (R98, R145) -/

theorem mem_located {ls : List (Nat × Nat × Xlate)} {l va : Nat} {loc : Loc} : (l, va, loc) ∈ located ls ↔ (l, va, .ok loc) ∈ ls := by
  induction ls with
  | nil => exact ⟨nofun, nofun⟩
  | cons e ls ih =>
    obtain ⟨k, a, found | ⟨cause, sub⟩⟩ := e
    · rw [located, List.mem_cons, List.mem_cons, ih, Prod.mk.injEq, Prod.mk.injEq, Prod.mk.injEq, Prod.mk.injEq, Xlate.ok.injEq]
    · rw [located, ih, List.mem_cons]
      exact ⟨.inr, fun h => h.resolve_left nofun⟩

section
variable {r : Req} {rs : List Req}

theorem lastWriters_cons (r : Req) (rs : List Req) :
    lastWriters (r :: rs) = if ∃ q ∈ rs, q.loc = r.loc then lastWriters rs else r :: lastWriters rs := by
  simp only [lastWriters, List.any_eq_true, beq_iff_eq]

theorem lastWriters_sublist (rs : List Req) : (lastWriters rs).Sublist rs := by
  induction rs with
  | nil => exact .slnil
  | cons r rs ih =>
    rw [lastWriters_cons]
    split
    · exact ih.cons r
    · exact ih.cons_cons r

/-- Every location that a request names is still named: a request gives way only to a later one of its location. -/
theorem exists_lastWriter (h : r ∈ rs) : ∃ q ∈ lastWriters rs, q.loc = r.loc := by
  induction rs generalizing r with
  | nil => cases h
  | cons p rs ih =>
    rw [lastWriters_cons]
    rcases List.mem_cons.mp h with rfl | hr
    · split
      · next hlater =>
        obtain ⟨q, hq, heq⟩ := hlater
        exact heq ▸ ih hq
      · exact ⟨r, .head _, rfl⟩
    · obtain ⟨w, hw, heq⟩ := ih hr
      split
      · exact ⟨w, hw, heq⟩
      · exact ⟨w, .tail _ hw, heq⟩

theorem lastWriters_nodup (rs : List Req) : ((lastWriters rs).map (·.loc)).Nodup := by
  induction rs with
  | nil => exact .nil
  | cons r rs ih =>
    rw [lastWriters_cons]
    split
    · exact ih
    · next hlast =>
      rw [List.map_cons, List.nodup_cons]
      refine ⟨fun hin => hlast ?_, ih⟩
      obtain ⟨q, hq, heq⟩ := List.mem_map.mp hin
      exact ⟨q, (lastWriters_sublist rs).mem hq, heq⟩

end

/-! ### PREF (R145) -/

/-- The request for the line that holds a location. -/
def prefLine (e : Nat × Nat × Loc) : Req := laneReq 16 (fun _ => 0) (e.1, e.2.1, e.2.2.sector 0)

/-- The active lanes that may read their address, with address and location. -/
def prefLanes (c : Ctx) (x : MEM) : List (Nat × Nat × Loc) :=
  located (c.active.map (fun l => (l, c.va x l, translate c.g.ranges (c.va x l) 1 true false false)))

/-- The requests of a PREF, one a line. -/
def prefReqs (c : Ctx) (x : MEM) : List Req := lastWriters ((prefLanes c x).map prefLine)

/-- A PREF in flight as it starts. -/
def prefIssued (c : Ctx) (x : MEM) (s : State) : Op :=
  { c.op (.pref x) .pref (prefReqs c x) [] s with performed := prefReqs c x = [] }

theorem pref_starts (hi : Issues (.pref x) s c) : exec (.pref x) s = .next (c.start (.pref x) (prefIssued c x s) s) := by
  have hexec : exec (.pref x) s = execPref x s := rfl
  rw [hexec, execPref, issue_of_issues hi]
  rfl

theorem mem_prefLanes {l va : Nat} {loc : Loc} : (l, va, loc) ∈ prefLanes c x ↔
    l ∈ c.active ∧ va = c.va x l ∧ translate c.g.ranges (c.va x l) 1 true false false = .ok loc := by
  unfold prefLanes
  rw [mem_located, List.mem_map]
  constructor
  · rintro ⟨k, hk, heq⟩
    obtain ⟨rfl, hrest⟩ := Prod.mk.inj heq
    obtain ⟨rfl, hok⟩ := Prod.mk.inj hrest
    exact ⟨hk, rfl, hok⟩
  · rintro ⟨hl, rfl, hok⟩
    exact ⟨l, hl, by rw [hok]⟩

/-- Settles O34: a PHASE starts with its release, or performed where it has no scope, and a PREF with a request for each line. -/
theorem boundariesStart : Obligations.BoundariesStart := by
  unfold Obligations.BoundariesStart
  constructor
  · intro x s c _ hi
    have hisOf := c.op_isOf (.phase x) .phase [] [] s
    have hstart := fun o => Ctx.start_started hi.gang rfl (.phase x) o
    rw [phase_starts hi]
    by_cases hscope : x.scope = 0
    · simp only [if_pos hscope]
      exact ⟨_, phaseDone c x s, rfl, hisOf, rfl, rfl, rfl, rfl, rfl, _, hstart _, rfl⟩
    · simp only [if_neg hscope]
      exact ⟨_, phaseWaiting c x s, rfl, hisOf, rfl, rfl, rfl, rfl, rfl, started_withRel (hstart _) (phaseRelease c x s)⟩
  · intro x s c _ hi
    refine ⟨_, prefIssued c x s, pref_starts hi, c.op_isOf (.pref x) .pref [] [] s, rfl, Ctx.start_started hi.gang rfl (.pref x) _,
      lastWriters_nodup _, decide_eq_true_iff, fun l hl loc hok => ?_, fun r hr => ?_⟩
    · exact exists_lastWriter (List.mem_map_of_mem (f := prefLine) (mem_prefLanes.mpr ⟨hl, rfl, hok⟩))
    · obtain ⟨⟨l, va, loc⟩, he, rfl⟩ := List.mem_map.mp ((lastWriters_sublist _).mem hr)
      obtain ⟨hl, -, hok⟩ := mem_prefLanes.mp he
      exact ⟨rfl, rfl, l, hl, loc, hok, rfl⟩

end Sys2Proof.Machine
end

section
/-! SUPPORT. What a safe run keeps, as a relation between two states: the canonical form of the memories and the width of the groups (R168), and the
numbers under which groups, teams and launches stand (R172, R182). Each update of a table keeps both. -/

namespace Sys2Proof.Machine

open Sys2Proof

/- One proof at a time: those of this section would else wait for one another's equation lemmas in more threads than the memory limit allows. -/
set_option Elab.async false

/-! ### Groups -/

/-- No more strands than a group may have (R168), in its handler or not. -/
def Group.Narrow (g : Group) : Prop := g.strands.length ≤ 8 ∧ ∀ h, g.inHandler = some h → h.strands.length ≤ 8

/-- The same group, and no wider. -/
def Group.Like (g g' : Group) : Prop := g'.gid = g.gid ∧ (g.Narrow → g'.Narrow)

namespace Group.Like

variable {g g' g'' : Group}

theorem refl (g : Group) : g.Like g := ⟨rfl, id⟩

theorem trans (h : g.Like g') (k : g'.Like g'') : g.Like g'' := ⟨k.1.trans h.1, k.2 ∘ h.2⟩

theorem ite {c : Prop} [Decidable c] (h : g.Like g') (k : g.Like g'') : g.Like (if c then g' else g'') := by split <;> assumption

theorem foldl {α : Type} {f : Group → α → Group} (xs : List α) (h : g.Like g')
    (hf : ∀ (g : Group) x, g.Like (f g x) := by exact fun _ _ => ⟨rfl, id⟩) : g.Like (xs.foldl f g') := by
  induction xs generalizing g' with
  | nil => exact h
  | cons x xs ih => exact ih (h.trans (hf g' x))

/-- Strands changed one by one. -/
theorem strands {sts : List Strand} (h : g.Like g') (hl : sts.length = g'.strands.length) : g.Like { g' with strands := sts } :=
  ⟨h.1, fun hg => ⟨hl.trans_le (h.2 hg).1, (h.2 hg).2⟩⟩

theorem modStrands (h : g.Like g') (ts : List Nat) (f : Nat → Strand → Strand) : g.Like (g'.modStrands ts f) :=
  h.strands List.length_mapIdx

end Group.Like

/-! ### The relation -/

/-- What a safe run keeps carries over from the first state to the second. -/
def Carries (s t : State) : Prop := (Safe s → Safe t) ∧ (Keyed s → Keyed t)

variable {s t u : State}

namespace Carries

theorem refl (s : State) : Carries s s := ⟨id, id⟩

theorem trans (h : Carries s t) (k : Carries t u) : Carries s u := ⟨k.1 ∘ h.1, k.2 ∘ h.2⟩

/-- A state that differs in nothing that a safe run keeps. -/
theorem frame (h : Carries s t) (hgroups : u.groups = t.groups := by rfl) (hteams : u.teams = t.teams := by rfl)
    (hlaunches : u.launches = t.launches := by rfl) (hnext : u.nextId = t.nextId := by rfl) (hhbm : u.hbm = t.hbm := by rfl)
    (hbanks : u.banks = t.banks := by rfl) (hremote : u.remote = t.remote := by rfl) (hhost : u.hostMem = t.hostMem := by rfl) : Carries s u := by
  unfold Carries Safe Shaped Keyed
  rw [hgroups, hteams, hlaunches, hnext, hhbm, hbanks, hremote, hhost]
  exact h

theorem ite {c : Prop} [Decidable c] (h : Carries s t) (k : Carries s u) : Carries s (if c then t else u) := by split <;> assumption

theorem foldl {α : Type} {f : State → α → State} (xs : List α) (h : Carries s t)
    (hf : ∀ t x, Carries t (f t x) := by exact fun t _ => .refl t) : Carries s (xs.foldl f t) := by
  induction xs generalizing t with
  | nil => exact h
  | cons x xs ih => exact ih (h.trans (hf t x))

theorem getD {o : Option State} (ho : ∀ v, o = some v → Carries s v) (h : Carries s t) : Carries s (o.getD t) := by
  cases o with
  | none => exact h
  | some v => exact ho v rfl

/-! ### Memories -/

/-- Memories rewritten in their canonical form. -/
theorem memories (h : Carries s t) {hbm banks remote hostMem : Table Byte}
    (hm : t.Formed → State.Formed { t with hbm := hbm, banks := banks, remote := remote, hostMem := hostMem }) :
    Carries s { t with hbm := hbm, banks := banks, remote := remote, hostMem := hostMem } :=
  ⟨fun hs => ⟨hm (h.1 hs).1, (h.1 hs).2⟩, h.2⟩

theorem physWrite (h : Carries s t) (pa v n : Nat) : Carries s (t.physWrite pa v n) := h.memories fun hf => hf.physWrite pa v n

theorem localWrite (h : Carries s t) (cluster la v n : Nat) : Carries s (t.localWrite cluster la v n) :=
  h.memories fun hf => hf.localWrite cluster la v n

theorem clearBank (h : Carries s t) (cluster bank : Nat) : Carries s (t.clearBank cluster bank) := h.memories fun hf => hf.clearBank cluster bank

theorem copyPhys (h : Carries s t) (src dst len : Nat) : Carries s (t.copyPhys src dst len) := h.memories fun hf => hf.copyPhys src dst len

theorem saveImage (h : Carries s t) (x : Team) : Carries s (t.saveImage x) := by
  unfold State.saveImage
  split
  · exact h.memories fun hf => ⟨wf_tsplice hf.1 _ _, hf.2⟩
  · exact h

theorem saveImages (h : Carries s t) : Carries s t.saveImages := foldl _ h fun t x => (refl t).saveImage x

/-! ### Tables of groups, teams and launches -/

/-- Numbers given out. -/
theorem nextId (h : Carries s t) {n : Nat} (hn : t.nextId ≤ n) : Carries s { t with nextId := n } :=
  ⟨fun hs => ⟨(h.1 hs).1, (h.1 hs).2.1, fun e he => ⟨((h.1 hs).2.2 e he).1.trans_le hn, ((h.1 hs).2.2 e he).2⟩⟩, h.2⟩

/-- A table of groups each of which stood there, as it is or changed. -/
theorem groups (h : Carries s t) {gs : Table Group} (hkeys : Keyed t → ∀ e ∈ gs, e.2.gid = e.1)
    (hwidths : Safe s → Safe t → ∀ e ∈ gs, e.1 < t.nextId ∧ e.2.Narrow) : Carries s { t with groups := gs } :=
  ⟨fun hs => ⟨(h.1 hs).1, (h.1 hs).2.1, hwidths hs (h.1 hs)⟩, fun hk => ⟨hkeys (h.2 hk), (h.2 hk).2⟩⟩

theorem teams (h : Carries s t) {ts : Table Team} (hkeys : Keyed t → ∀ e ∈ ts, e.2.id = e.1) : Carries s { t with teams := ts } :=
  ⟨h.1, fun hk => ⟨(h.2 hk).1, hkeys (h.2 hk), (h.2 hk).2.2⟩⟩

theorem launches (h : Carries s t) {ls : Table Launch} (hkeys : Keyed t → ∀ e ∈ ls, e.2.id = e.1)
    (hwidths : Safe s → Safe t → ∀ e ∈ ls, e.2.record.nstrands ≤ 8) : Carries s { t with launches := ls } :=
  ⟨fun hs => ⟨(h.1 hs).1, hwidths hs (h.1 hs), (h.1 hs).2.2⟩, fun hk => ⟨(h.2 hk).1, (h.2 hk).2.1, hkeys (h.2 hk)⟩⟩

end Carries

/-- An entry of a table with one entry updated is an entry of the table, or the one updated. -/
theorem mem_tmodify {α : Type} {k : Nat} {f : α → α} {t : Table α} {e : Nat × α} (he : e ∈ tmodify k f t) :
    e ∈ t ∨ ∃ v, (k, v) ∈ t ∧ e = (k, f v) := by
  induction t with
  | nil => cases he
  | cons d t ih =>
    obtain ⟨j, v⟩ := d
    simp only [tmodify] at he
    split at he
    · next hk =>
      subst hk
      rcases List.mem_cons.mp he with rfl | he
      · exact .inr ⟨v, .head _, rfl⟩
      · exact .inl (.tail _ he)
    · rcases List.mem_cons.mp he with rfl | he
      · exact .inl (.head _)
      · exact (ih he).imp (.tail _) fun ⟨w, hw, hwe⟩ => ⟨w, .tail _ hw, hwe⟩

namespace Carries

/-- One group updated: it keeps its number, and a group of a safe run stays narrow. -/
theorem modGroup_of (h : Carries s t) {gid : Nat} {f : Group → Group} (hgid : ∀ g, g.gid = gid → (f g).gid = gid)
    (hwidth : Safe s → ∀ g, g.Narrow → (f g).Narrow) : Carries s (t.modGroup gid f) := by
  refine h.groups (fun hk e he => ?_) (fun hs ht e he => ?_)
  · rcases mem_tmodify he with he | ⟨v, hv, rfl⟩
    · exact hk.1 e he
    · exact hgid v (hk.1 _ hv)
  · rcases mem_tmodify he with he | ⟨v, hv, rfl⟩
    · exact ht.2.2 e he
    · exact ⟨(ht.2.2 _ hv).1, hwidth hs v (ht.2.2 _ hv).2⟩

theorem modGroup (h : Carries s t) (gid : Nat) (f : Group → Group) (hf : ∀ g : Group, g.Like (f g) := by exact fun _ => ⟨rfl, id⟩) :
    Carries s (t.modGroup gid f) :=
  h.modGroup_of (fun g hg => (hf g).1.trans hg) fun _ g => (hf g).2

/-- Each group updated in its place. -/
theorem mapGroups (h : Carries s t) {f : Nat × Group → Nat × Group} (hf : ∀ e, (f e).1 = e.1 ∧ e.2.Like (f e).2) :
    Carries s { t with groups := t.groups.map f } := by
  refine h.groups (fun hk e he => ?_) (fun _ ht e he => ?_) <;> obtain ⟨d, hd, rfl⟩ := List.mem_map.mp he
  · rw [(hf d).1, (hf d).2.1, hk.1 d hd]
  · rw [(hf d).1]; exact ⟨(ht.2.2 d hd).1, (hf d).2.2 (ht.2.2 d hd).2⟩

theorem dropGroup (h : Carries s t) (gid : Nat) : Carries s { t with groups := terase gid t.groups } :=
  h.groups (fun hk e he => hk.1 e (mem_terase he)) fun _ ht e he => ht.2.2 e (mem_terase he)

/-- A new group takes the next number. -/
theorem addGroup (h : Carries s t) {g : Group} (hgid : g.gid = t.nextId) (hwidth : Safe s → g.Narrow) :
    Carries s { t with groups := tinsert t.nextId g t.groups, nextId := t.nextId + 1 } := by
  refine (h.nextId (Nat.le_succ t.nextId)).groups (fun hk e he => ?_) (fun hs ht e he => ?_)
  · rcases mem_tinsert he with rfl | he
    · exact hgid
    · exact hk.1 e he
  · rcases mem_tinsert he with rfl | he
    · exact ⟨Nat.lt_succ_self _, hwidth hs⟩
    · exact ht.2.2 e he

theorem modTeam (h : Carries s t) (id : Nat) (f : Team → Team) (hf : ∀ x, (f x).id = x.id := by exact fun _ => rfl) : Carries s (t.modTeam id f) := by
  refine h.teams fun hk e he => ?_
  rcases mem_tmodify he with he | ⟨v, hv, rfl⟩
  · exact hk.2.1 e he
  · exact (hf v).trans (hk.2.1 _ hv)

theorem mapTeams (h : Carries s t) {f : Nat × Team → Nat × Team} (hf : ∀ e, (f e).1 = e.1 ∧ (f e).2.id = e.2.id) :
    Carries s { t with teams := t.teams.map f } := by
  refine h.teams fun hk e he => ?_
  obtain ⟨d, hd, rfl⟩ := List.mem_map.mp he
  rw [(hf d).1, (hf d).2, hk.2.1 d hd]

theorem dropTeam (h : Carries s t) (id : Nat) : Carries s { t with teams := terase id t.teams } := h.teams fun hk e he => hk.2.1 e (mem_terase he)

theorem addTeam (h : Carries s t) {k : Nat} {x : Team} (hid : x.id = k) :
    Carries s { t with teams := tinsert k x t.teams, nextId := t.nextId + 1 } := by
  refine (h.nextId (Nat.le_succ t.nextId)).teams fun hk e he => ?_
  rcases mem_tinsert he with rfl | he
  · exact hid
  · exact hk.2.1 e he

theorem modLaunch (h : Carries s t) (id : Nat) (f : Launch → Launch)
    (hf : ∀ l, (f l).id = l.id ∧ (f l).record = l.record := by exact fun _ => ⟨rfl, rfl⟩) : Carries s (t.modLaunch id f) := by
  refine h.launches (fun hk e he => ?_) (fun _ ht e he => ?_)
  · rcases mem_tmodify he with he | ⟨v, hv, rfl⟩
    · exact hk.2.2 e he
    · exact (hf v).1.trans (hk.2.2 _ hv)
  · rcases mem_tmodify he with he | ⟨v, hv, rfl⟩
    · exact ht.2.1 e he
    · exact (congrArg LaunchRec.nstrands (hf v).2).trans_le (ht.2.1 _ hv)

theorem mapLaunches (h : Carries s t) {f : Nat × Launch → Nat × Launch}
    (hf : ∀ e, (f e).1 = e.1 ∧ (f e).2.id = e.2.id ∧ (f e).2.record = e.2.record) : Carries s { t with launches := t.launches.map f } := by
  refine h.launches (fun hk e he => ?_) (fun _ ht e he => ?_) <;> obtain ⟨d, hd, rfl⟩ := List.mem_map.mp he
  · rw [(hf d).1, (hf d).2.1, hk.2.2 d hd]
  · rw [(hf d).2.2]; exact ht.2.1 d hd

theorem dropLaunch (h : Carries s t) (id : Nat) : Carries s { t with launches := terase id t.launches } :=
  h.launches (fun hk e he => hk.2.2 e (mem_terase he)) fun _ ht e he => ht.2.1 e (mem_terase he)

theorem addLaunch (h : Carries s t) {l : Launch} (hid : l.id = t.nextId) (hwidth : Safe s → l.record.nstrands ≤ 8) :
    Carries s { t with launches := tinsert t.nextId l t.launches, nextId := t.nextId + 1 } := by
  refine (h.nextId (Nat.le_succ t.nextId)).launches (fun hk e he => ?_) (fun hs ht e he => ?_)
  · rcases mem_tinsert he with rfl | he
    · exact hid
    · exact hk.2.2 e he
  · rcases mem_tinsert he with rfl | he
    · exact hwidth hs
    · exact ht.2.1 e he

end Carries

/-! ### Outcomes -/

/-- A next state to which what a safe run keeps carries over, or the fault of a worker that finds its task's record overwritten (R371). -/
def Sound (s : State) : Out → Prop
  | .next t => Carries s t
  | .fault f => f = .taskQueueWritten
  | .refused _ => False

namespace Sound

variable {o p : Out}

theorem trans (h : Carries s t) (ho : Sound t o) : Sound s o := by
  cases o with
  | next u => exact h.trans ho
  | fault f => exact ho
  | refused r => exact ho

theorem ite {c : Prop} [Decidable c] (h : Sound s o) (k : Sound s p) : Sound s (if c then o else p) := by split <;> assumption

end Sound

end Sys2Proof.Machine
end

section
/-! SUPPORT. The operations that instructions share keep a safe run safe: the updates of a group, traps, the end of an instruction, and what comes
before its effect (R126, R186, R212, R405 to R410). -/

namespace Sys2Proof.Machine

open Sys2Proof

/- One proof at a time: those of this section would else wait for one another's equation lemmas in more threads than the memory limit allows. -/
set_option Elab.async false

variable {s t : State} {c : Ctx} {i : Instr}

/-! ### Updates of a group -/

namespace Group.Like

variable {g g' : Group}

theorem end_ (g : Group) : g.Like g.end_ := (refl g).strands (List.length_map _)

theorem idle (g : Group) : g.Like g.idle := ⟨rfl, fun hg => ⟨(List.length_map _).trans_le hg.1, nofun⟩⟩

theorem enterHandler (g : Group) (gang : Nat) : g.Like (g.enterHandler gang) := by
  have hlike : g.Like ((List.range g.strands.length).foldl (fun g t => g.spairSet 60 t g.hdata.toNat)
      (g.modStrands g.live fun _ _ => ⟨g.handler, [0xF#4], false, lowestOf g.live, .ready⟩)) :=
    foldl _ ((refl g).modStrands _ _)
  have hlen : (g.modStrands g.live fun _ _ => ⟨g.handler, [0xF#4], false, lowestOf g.live, .ready⟩).strands.length = g.strands.length :=
    List.length_mapIdx
  unfold Group.enterHandler
  dsimp only
  rw [hlen]
  exact ⟨hlike.1, fun hg => ⟨(hlike.2 hg).1, fun h hh => by cases hh; exact hg.1⟩⟩

/-- A return to strands that a trap has saved of a group of eight strands at most. -/
theorem leaveHandler (g : Group) (h : HandlerSave) : (g.leaveHandler h).gid = g.gid ∧ (h.strands.length ≤ 8 → (g.leaveHandler h).Narrow) := by
  let back : Group := { g with
    strands := h.strands.map fun st =>
      if st.gang = (h.strands.getD h.trapGang ⟨0, [], true, 0, .ready⟩).gang ∧ st.exited = false then { st with pc := g.trapPc, wait := .ready } else st
    pending := h.queues (h.strands.getD h.trapGang ⟨0, [], true, 0, .ready⟩).gang g.trapPc
    inHandler := none }
  have hback : back.Like (g.leaveHandler h) := foldl _ (refl back) fun g _ => foldl _ (refl g)
  exact ⟨hback.1, fun hh => hback.2 ⟨(List.length_map _).trans_le hh, nofun⟩⟩

theorem modFlag (h : g.Like g') (n : Nat) (f : Flag → Flag) : g.Like (g'.modFlag n f) := h

theorem firstLate {x : LateTrap} (h : g.firstLate = some (x, g')) : g.Like g' := by
  unfold Group.firstLate at h
  split at h
  · obtain ⟨_, -, heq⟩ := Option.map_eq_some_iff.mp h
    cases heq; exact refl g
  · split at h
    · cases h; exact refl g
    · cases h

theorem lateDue {x : LateTrap} (h : lateDue i g = some (x, g')) : g.Like g' := by
  unfold Machine.lateDue at h
  dsimp only at h
  split at h
  · cases h; exact refl g
  · split at h
    · cases h; exact refl g
    · cases h

end Group.Like

theorem Issued.narrow (hc : issueCtx s = some c) (hs : Safe s) : c.g.Narrow := (hs.2.2 _ (mem_of_tfind (issueCtx_spec hc).1)).2

/-! ### Traps -/

namespace Carries

theorem retireGroup (h : Carries s t) (gid : Nat) : Carries s (t.retireGroup gid) := by
  unfold State.retireGroup
  split
  · exact h
  · split
    · exact h
    · exact .modGroup (.modTeam h _ _) _ _ .end_

theorem halt (h : Carries s t) (gid : Nat) : Carries s (t.halt gid) := by
  unfold State.halt
  split
  · exact h
  · exact h.modGroup gid fun g => { g with halted := true }

theorem takeTrap (h : Carries s t) (gid gang : Nat) (pc : Addr) (cause sub : Nat) (addr : Addr) (ipaAddr : Bool) :
    Carries s (t.takeTrap gid gang pc cause sub addr ipaAddr) := by
  have hset : Carries s (t.modGroup gid fun g => g.setTrap pc cause sub addr ipaAddr) := h.modGroup _ _
  unfold State.takeTrap
  split
  · exact h
  · exact ite (hset.halt gid) (hset.modGroup _ _ fun g => .enterHandler g gang)

theorem deferTask (h : Carries s t) (g : Group) (lowest : Nat) (d : Deferred) : Carries s (t.deferTask g lowest d) := by
  have hset : Carries s (t.modGroup g.gid fun g => { g with deferred := some (lowest, d) }) := h.modGroup _ _
  unfold State.deferTask
  dsimp only
  split <;> exact hset

/-- A late trap of a group is given to it or kept for the frontier: one of its traps fewer stands at the group. -/
theorem takeLate {g : Group} (hc : issueCtx s = some c) (hg : c.g.Like g) (x : LateTrap) :
    Carries s ((s.modGroup c.g.gid fun _ => g).takeTrap c.g.gid c.lowest c.pc x.cause x.sub x.addr x.ipaAddr) :=
  .takeTrap (.modGroup_of (.refl s) (fun _ _ => hg.1) fun hs _ _ => hg.2 (Issued.narrow hc hs)) _ _ _ _ _ _ _

theorem modGang (h : Carries s t) (gid : Nat) (ts : List Nat) (f : Nat → Strand → Strand) : Carries s (t.modGroup gid fun g => g.modStrands ts f) :=
  h.modGroup _ _ fun g => (Group.Like.refl g).modStrands ts f

theorem advance (h : Carries s t) (c : Ctx) (i : Instr) : Carries s (c.advance i t) := h.modGang _ _ _

theorem waitOn (h : Carries s t) (c : Ctx) (w : GangWait) : Carries s (c.waitOn w t) := h.modGang _ _ _

theorem block (h : Carries s t) (c : Ctx) : Carries s (c.block t) := h.waitOn c .retry

end Carries

/-! ### Instructions -/

namespace Sound

theorem raise (h : Carries s t) (c : Ctx) (pc : Addr) (cause sub addr : Nat) : Sound s (raise c pc cause sub addr t) :=
  ite (h.deferTask c.g c.lowest .issue) (h.takeTrap _ _ _ _ _ _ _)

theorem raiseHere (h : Carries s t) (c : Ctx) (cause sub addr : Nat) : Sound s (raiseHere c cause sub addr t) := raise h c c.pc cause sub addr

/-- An instruction is sound where its effect is: what comes before is (R126, R187, R383, R406). -/
theorem issue {body : Ctx → State → Out} (hbody : ∀ c, issueCtx s = some c → Sound s (body c s)) : Sound s (issue i s body) := by
  unfold Machine.issue
  split
  · exact Carries.refl s
  next c hc =>
  refine ite (hbody c hc) ?_
  split
  · exact raiseHere (.refl s) c _ _ _
  split
  · next x g hlate => exact ite (.deferTask (.refl s) c.g c.lowest (.late x)) (.takeLate hc (.lateDue hlate) x)
  · exact ite (.waitOn (.refl s) c .boundary) (ite (.block (.refl s) c) (hbody c hc))

theorem finish (h : Carries s t) (c : Ctx) (i : Instr) {f : Group → Group} (hf : ∀ g : Group, g.Like (f g) := by exact fun _ => ⟨rfl, id⟩) :
    Sound s (finish c i f t) := .advance (.modGroup h _ f hf) c i

theorem trapWord (cause : Nat) : Sound s (trapWord cause s) := by
  unfold Machine.trapWord
  split
  · exact Carries.refl s
  · exact raiseHere (.refl s) _ _ _ _

/-! ### Vector, scalar and paired instructions -/

theorem withPops (h : Carries s t) {lanes : List Nat} {k : Table Word → Out} (hk : ∀ pops, Sound s (k pops)) : Sound s (withPops i lanes c t k) := by
  unfold Machine.withPops
  split
  · exact ite (h.block c) (hk _)
  · refine ite (hk _) ?_
    split
    · exact ite (hk _) (h.block c)
    · exact .block (.modGroup h _ _) c

theorem vecWrite (h : Carries s t) (i : Instr) (kept : List (Nat × Nat)) (d : Dst) (ws : List (Nat × Word)) (c : Ctx) :
    Sound s (vecWrite i kept d ws c t) := by
  unfold Machine.vecWrite
  split
  · exact finish h c i fun g => by rw [Group.writeLanes_eq]; exact ⟨rfl, id⟩
  · exact finish h c i
  · exact ite (finish h c i) (.block (.modGroup h _ _) c)
  · exact finish h c i

/-- A vector instruction: its pops, and then its results. -/
theorem vector {lanes : Ctx → List Nat} {kept : List (Nat × Nat)} {d : Dst} {ws : Ctx → Table Word → List (Nat × Word)} :
    Sound s (Machine.issue i s fun c s => Machine.withPops i (lanes c) c s fun pops => Machine.vecWrite i kept d (ws c pops) c s) :=
  issue fun c _ => withPops (.refl s) fun _ => vecWrite (.refl s) _ _ _ _ c

theorem vfLanes (i : Instr) (op : Nat) (x : VF) (f : LaneFn) : Sound s (vfLanes i op x f s) := vector

theorem viLanes (i : Instr) (op : Nat) (x : VI) (f : LaneFn) : Sound s (viLanes i op x f s) := vector

theorem dotInstr (i : Instr) (f : Fmt) (op : Nat) (x : VF) : Sound s (dotInstr i f op x s) := vector

/-- An instruction that ends with updates of its group alone. -/
theorem ends {f : Ctx → Group → Group} (hf : ∀ c (g : Group), g.Like (f c g)) : Sound s (Machine.issue i s fun c s => Machine.finish c i (f c) s) :=
  issue fun c _ => finish (.refl s) c i (hf c)

end Sound

theorem Group.Like.writeStrands (g : Group) (d : Dst) (ts : List Nat) (f : Nat → Word) : g.Like (g.writeStrands d ts f) := by
  unfold Group.writeStrands
  split
  · exact foldl _ (refl g)
  · exact refl g

namespace Sound

theorem sfStrands (i : Instr) (op : Nat) (x : SF) (f : Word → Word → Word → Word) : Sound s (sfStrands i op x f s) :=
  ends fun _ g => .writeStrands g _ _ _

theorem pairInstr (i : Instr) (op : SlotOp) (x : SlotArgs) (y : PairSlot) : Sound s (pairInstr i op x y s) := by
  have hslot : ∀ (op : SlotOp) (x : SlotArgs) c (g : Group), g.Like (slotWrite op x c g) := fun op x c g =>
    .ite (.refl g) (by rw [Group.writeLanes_eq]; exact ⟨rfl, id⟩)
  exact ends fun c g => (hslot op x c g).trans (hslot y.op y.args c _)

theorem execSsetp (x : SF) : Sound s (execSsetp x s) := ends fun _ g => by split <;> exact .refl g

theorem execSsel (x : SF) : Sound s (execSsel x s) := ends fun _ g => .writeStrands g _ _ _

theorem execSfromv (x : SF) : Sound s (execSfromv x s) := ends fun _ g => .writeStrands g _ _ _

theorem execVidx (x : VF) : Sound s (execVidx x s) := issue fun c _ => withPops (.refl s) fun pops => by
  dsimp only
  split
  · exact raiseHere (.refl s) c _ _ _
  · exact vecWrite (.refl s) _ _ _ _ c

theorem execVidxw (x : VF) : Sound s (execVidxw x s) := issue fun c _ => withPops (.refl s) fun pops => by
  dsimp only
  split
  · exact raiseHere (.refl s) c _ _ _
  · exact finish (.refl s) c _ fun g => Group.Like.foldl _ (.refl g)

theorem execCvtef (x : VF) : Sound s (execCvtef x s) := issue fun c _ => withPops (.refl s) fun pops =>
  vecWrite (.modGroup (.refl s) _ _ fun g => .foldl _ (.refl g)) _ _ _ _ c

end Sound

end Sys2Proof.Machine
end

section
/-! SUPPORT. The memory side and the cores' caches keep a safe run safe: aborts, the end of a domain, room for version blocks, loads and stores at L1, and
boundaries at the home slices (R47 to R93, R376 to R386, R401). -/

namespace Sys2Proof.Machine

open Sys2Proof

/- One proof at a time: those of this section would else wait for one another's equation lemmas in more threads than the memory limit allows. -/
set_option Elab.async false

variable {s t : State}

/-! ### Aborts (R380, R381) -/

namespace Carries

theorem keepFull (h : Carries s t) (u : State) : Carries s (t.keepFull u) :=
  ite (.mapLaunches h fun _ => ⟨rfl, rfl, rfl⟩) h

theorem freeWorker (h : Carries s t) (gid : Nat) : Carries s (t.freeWorker gid) := h.modGroup gid _ .idle

theorem killTask (h : Carries s t) (launch slot : Nat) : Carries s (t.killTask launch slot) := by
  unfold State.killTask
  split
  · exact h
  split
  · exact h
  dsimp only
  split
  · exact h.freeWorker _
  · exact h

theorem abortTasks (h : Carries s t) (launch : Nat) (slots : List Nat) : Carries s (t.abortTasks launch slots) := by
  unfold State.abortTasks
  split
  · exact h
  · exact foldl _ (foldl _ h fun t k => (refl t).killTask launch k) fun t k => (refl t).killTask launch k

end Carries

/-- What a safe run keeps is a property that the memory side keeps. -/
theorem carries_homeSide (s : State) : HomeSide (Carries s) where
  caches t u h e := by rw [e]; exact h
  phys t pa v n h := h.physWrite pa v n
  remote t a v n h := h.memories fun hf => ⟨hf.1, hf.2.1, wf_twriteLE hf.2.2.1 a v n, hf.2.2.2⟩
  host t a v n h := h.memories fun hf => ⟨hf.1, hf.2.1, hf.2.2.1, wf_twriteLE hf.2.2.2 a v n⟩
  aborts t launch slots h := h.abortTasks launch slots
  rings t ipa h := h
  full t u h := h.keepFull u
  posts t ps h := h

/-- One of two actions, and then a third. -/
theorem Keeps.ite_bind {α β : Type} {P : State → Prop} {c : Prop} [Decidable c] {m n : Mem α} {k : α → Mem β} (hm : Keeps P m) (hn : Keeps P n)
    (hk : ∀ a, Keeps P (k a)) : Keeps P (if c then m >>= k else n >>= k) := Keeps.ite (Keeps.bind hm hk) (Keeps.bind hn hk)

/-- An action that changes nothing that a safe run keeps. -/
theorem carries_update {f : State → State} (hf : ∀ t, Carries s t → Carries s (f t) := by exact fun _ h => h) :
    Keeps (Carries s) (modify f : Mem Unit) := Keeps.update hf

theorem carries_confirm (l : Loc) (write : Bool) : Keeps (Carries s) (confirm l write) := (carries_homeSide s).confirm l write

theorem carries_committed (l : Loc) : Keeps (Carries s) (committed l) := (carries_homeSide s).committed l

theorem carries_immRead (l : Loc) (size : Nat) : Keeps (Carries s) (immRead l size) := (carries_homeSide s).immRead l size

theorem carries_immWrite (l : Loc) (size v : Nat) : Keeps (Carries s) (immWrite l size v) := (carries_homeSide s).immWrite l size v

theorem carries_commitAt (l : Loc) (m : BitVec 16) (d : BitVec 128) (by_ : Option (Nat × Nat)) : Keeps (Carries s) (commitAt l m d by_) :=
  (carries_homeSide s).commitAt l m d by_

theorem carries_commitLine (l : Loc) (md v : Nat) : Keeps (Carries s) (commitLine l md v) :=
  Keeps.bind ((carries_homeSide s).commitWhole l md v) fun _ => carries_update fun _ h =>
    .foldl _ h fun t _ => (carries_homeSide t).writeConflict t _ _ _ (.refl t)

/-! ### The end of a domain (R386) -/

namespace Carries

theorem specConflict (h : Carries s t) (launch slot home sec : Nat) : Carries s (t.specConflict launch slot home sec) := by
  unfold State.specConflict
  split
  · exact h
  split
  · exact h
  · exact ite h (h.abortTasks launch _)

theorem enterWait (h : Carries s t) {ipa kind : Nat} {access : List (Nat × Nat)} {e : Nat × State} (he : t.enterWait ipa kind access = some e) :
    Carries s e.2 := by
  unfold State.enterWait at he
  dsimp only at he
  split at he
  · cases he; exact h
  · split at he
    · cases he
    · cases he; exact h.frame

theorem putImm (h : Carries s t) (l : Loc) (size v : Nat) : Carries s (t.putImm l size v) := (carries_homeSide s).putImm t l size v h

theorem domainPut (h : Carries s t) (r : Table (BitVec 64)) (va size v : Nat) : Carries s (t.domainPut r va size v) := by
  unfold State.domainPut
  split
  · exact h.putImm _ _ _
  · exact h

theorem writeDomain (h : Carries s t) (r : Table (BitVec 64)) (d : Domain) (dstatus : Nat) : Carries s (t.writeDomain r d dstatus) :=
  ((h.domainPut r _ 4 dstatus).domainPut r _ 8 d.commits).domainPut r _ 8 d.lastts

theorem endDomain (h : Carries s t) (launch dstatus : Nat) : Carries s (t.endDomain launch dstatus) := by
  unfold State.endDomain
  split
  · next d l _ _ =>
    dsimp only
    refine foldl _ ?_ fun t g => (refl t).retireGroup g.gid
    refine .modLaunch ?_ launch fun l => { l with teams := l.placed.length }
    have hdone := foldl d.shown (h.writeDomain l.ranges d dstatus) fun t e => (refl t).domainPut l.ranges ((d.slotVa e.1 + 0x38) % 2 ^ 64) 2 0
    exact hdone
  · exact h

theorem stopDomain (h : Carries s t) (launch dstatus sub : Nat) : Carries s (t.stopDomain launch dstatus sub) := by
  unfold State.stopDomain
  split
  · exact h
  · refine ite h (.endDomain ?_ launch dstatus)
    exact foldl _ h fun t e => (refl t).killTask launch e.1

/-! ### Version blocks (R59, R66, R67, R382, R401) -/

theorem wayFor (h : Carries s t) {home line : Nat} {u : State} (hu : t.wayFor home line = some u) : Carries s u :=
  (carries_homeSide s).toMemSide.wayFor t u home line h hu

theorem ovfFault (h : Carries s t) (l ipa : Nat) : Carries s (t.ovfFault l ipa) := by
  unfold State.ovfFault
  refine .modLaunch ?_ l fun la => { la with ovfFull := true }
  split
  · next he => exact h.enterWait he
  · exact h

theorem moveOrdered (h : Carries s t) (home line l n : Nat) : Carries s (t.moveOrdered home line l n).1 := by
  unfold State.moveOrdered
  split
  · exact h
  split
  · exact h.ovfFault l 0
  · exact (carries_confirm _ true).on_of (Q := fun r : State × Bool => Carries s r.1) h (fun u hu => h.keepFull u)
      (fun _ u hu => .modLaunch hu l fun la => { la with ovfUsed := la.ovfUsed + 1 }) fun _ _ ipa u hu => hu.ovfFault l ipa

theorem makeRoom (h : Carries s t) (home : Nat) (inSet : List (VKind × Nat)) : Carries s (t.makeRoom home inSet).1 := by
  unfold State.makeRoom
  split
  · exact h.abortTasks _ _
  split
  · exact h
  split
  · exact h.moveOrdered _ _ _ _
  · exact h

theorem block? (h : Carries s t) (home line : Nat) (k : VKind) : Carries s (t.block? home line k).1 := by
  have hway : Carries s (match t.wayFor home line with | some u => (u, some Place.set) | none => (t, none)).1 := by
    split
    · next u hu => exact h.wayFor hu
    · exact h
  have hroom := h.makeRoom home (t.setBlocks home line)
  unfold State.block?
  dsimp only
  split
  · exact h
  split
  · exact h
  split
  · exact hway
  split
  · exact hway
  split <;> (next heq => rw [heq] at hroom; exact hroom)

theorem limitStop (h : Carries s t) (home line : Nat) (k : VKind) : Carries s (t.limitStop home line k) := by
  unfold State.limitStop
  split
  · split
    · exact ite (h.stopDomain _ 3 2) h
    · exact h
  · exact h

theorem addBytes (h : Carries s t) (v : Version) : Carries s (t.addBytes v) := by
  unfold State.addBytes
  exact ite h h

theorem addCopy (h : Carries s t) (core : Nat) (l : Loc) : Carries s (t.addCopy core l) := by
  unfold State.addCopy
  exact ite h h

end Carries

theorem carries_takeBlock (l : Loc) (k : VKind) : Keeps (Carries s) (takeBlock l k) := by
  refine Keeps.bind (carries_update fun t h => h.limitStop l.home l.line k) fun _ => Keeps.get fun t h => ?_
  have hb := h.block? l.home l.line k
  split <;> (next heq => rw [heq] at hb; exact hb)

theorem carries_putVersion (k : VKind) (l : Loc) (m : BitVec 16) (d : BitVec 128) (whole : Bool) (fault : Option Nat) :
    Keeps (Carries s) (putVersion k l m d whole fault) :=
  Keeps.bind (carries_takeBlock l k) fun _ => carries_update fun _ h => .ite (h.addBytes _) h

/-! ### A core's view of memory (R47 to R51, R63, R78 to R83) -/

theorem carries_sendPending (core : Nat) (whole : Bool) (x : CoreSector) : Keeps (Carries s) (sendPending core whole x) := by
  unfold sendPending
  exact Keeps.ite (Keeps.pure _) (Keeps.bind (carries_putVersion _ _ _ _ _ _) fun _ => carries_update)

theorem carries_sendSectors (core : Nat) (line mine : List CoreSector) : Keeps (Carries s) (sendSectors core line mine) :=
  Keeps.eachDo fun x _ => carries_sendPending core _ x

theorem carries_evictLineL1 (core home line bank : Nat) : Keeps (Carries s) (evictLineL1 core home line bank) := by
  refine Keeps.get fun t h => ?_
  refine Keeps.ite (Keeps.fault _ _ _) ?_ t h
  refine Keeps.ite_bind (carries_sendSectors _ _ _) (Keeps.pure ()) fun _ => Keeps.bind (Keeps.eachDo fun x _ => ?_) fun _ =>
    carries_update fun _ h => .foldl _ h
  split
  · exact carries_putVersion _ _ _ _ _ _
  · exact Keeps.pure _

theorem carries_evictBankLine (core home line : Nat) : Keeps (Carries s) (evictBankLine core home line) :=
  Keeps.get fun t h => Keeps.ite (Keeps.fault _ _ _) (carries_sendSectors _ _ _) t h

namespace Carries

theorem after (h : Carries s t) {m : Mem Unit} (hm : Keeps (Carries s) m) : Carries s (t.after m) :=
  hm.on h (fun u _ => h.keepFull u) (fun _ _ hu => hu) fun _ _ _ _ hu => hu

theorem evictL1 (h : Carries s t) (core home line bank : Nat) : Carries s (t.evictL1 core home line bank) :=
  h.after (carries_evictLineL1 core home line bank)

theorem evictBank (h : Carries s t) (core home line : Nat) : Carries s (t.evictBank core home line) := h.after (carries_evictBankLine core home line)

theorem evictFirstL1 (h : Carries s t) {core : Nat} {ls : List (Nat × Nat)} {u : State} (hu : evictFirstL1 core t ls = some u) : Carries s u := by
  induction ls with
  | nil => cases hu
  | cons e ls ih =>
    unfold Machine.evictFirstL1 at hu
    dsimp only at hu
    split at hu
    · exact ih hu
    · cases hu; exact h.evictL1 _ _ _ _

theorem hint (h : Carries s t) {m : Mem Unit} (hm : Keeps (Carries s) m) : Carries s (t.hint m) :=
  hm.on h (fun u _ => h.keepFull u) (fun _ _ hu => hu) fun _ _ _ _ _ => h

end Carries

theorem carries_scout (core home md : Nat) : Keeps (Carries s) (scout core home md) := by
  refine Keeps.get fun t h => ?_
  split
  · exact Keeps.bind ((carries_homeSide s).lineCount _ _) (fun _ => carries_update) t h
  · exact Keeps.bind ((carries_homeSide s).sector _ _ _) (fun _ => carries_update) t h

theorem Carries.scoutLoad (h : Carries s t) (core gid : Nat) (ranges : Table (BitVec 64)) (va : Nat) (l : Loc) :
    Carries s (t.scoutLoad core gid ranges va l) := by
  unfold State.scoutLoad
  split
  · next md n _ _ =>
    have hs : Carries s ((t.modCore core fun c => { c with streams := (streamStep (t.coreState core).streams gid n l.line).1 }).hint
      (scout core l.home md)) := .hint (by exact h) (carries_scout core l.home md)
    exact ite (hs.hint (carries_scout core _ _)) hs
  · exact h

theorem carries_l1Room (core home line : Nat) : Keeps (Carries s) (l1Room core home line) := by
  refine Keeps.get fun t h => ?_
  refine Keeps.ite (Keeps.pure _) ?_ t h
  split
  · next u hu => exact fun _ _ => h.evictFirstL1 hu
  · exact Keeps.fault _ _ _

theorem carries_pin (core : Nat) (l : Loc) : Keeps (Carries s) (pin core l) := by
  refine Keeps.get fun t h => ?_
  refine Keeps.ite (Keeps.pure _) ?_ t h
  exact Keeps.bind (carries_confirm l false) fun _ => Keeps.bind (carries_committed l) fun _ => Keeps.bind (carries_l1Room _ _ _) fun _ =>
    carries_update fun _ h => .addCopy (by exact h) core l

theorem carries_tryFill {m : Mem Unit} (hm : Keeps (Carries s) m) : Keeps (Carries s) (tryFill m) := fun _ h =>
  hm.on_of (Q := fun r : Except (Nat × Nat × Nat) Unit × State => Carries s r.2) h (fun u _ => h.keepFull u) (fun _ _ hu => hu) fun _ _ _ _ _ => h

theorem carries_plainLoad (core : Nat) (l : Loc) (size : Nat) : Keeps (Carries s) (plainLoad core l size) := by
  refine Keeps.get fun t h => ?_
  refine Keeps.ite_bind (carries_tryFill (carries_pin core l)) (carries_pin core l) (fun _ => ?_) t h
  exact Keeps.get fun _ h => h

namespace Carries

theorem plainStore (h : Carries s t) (core : Nat) (l : Loc) (size v : Nat) : Carries s (t.plainStore core l size v) := by
  unfold State.plainStore
  dsimp only
  split <;> exact h

theorem markWhole (h : Carries s t) (core : Nat) (reqs : List Req) : Carries s (t.markWhole core reqs) := foldl _ h fun t _ => ite (.refl t) (.refl t)

theorem markFault (h : Carries s t) (core : Nat) (l : Loc) (va : Nat) : Carries s (t.markFault core l va) :=
  foldl _ h fun t _ => ite (.refl t) (.refl t)

end Carries

theorem carries_storeLine (core : Nat) (reqs : List Req) (l : Loc) : Keeps (Carries s) (storeLine core reqs l) :=
  Keeps.bind (carries_l1Room _ _ _) fun _ => carries_update fun _ h => .markWhole (.foldl _ h fun t _ => (Carries.refl t).plainStore _ _ _ _) _ _

theorem carries_storeAll (core : Nat) (reqs : List Req) : Keeps (Carries s) (storeAll core reqs) :=
  Keeps.eachDo fun l _ => carries_storeLine core reqs l

theorem carries_engineWrite (core : Nat) (k : VKind) (l : Loc) (m : BitVec 16) (d : BitVec 128) : Keeps (Carries s) (engineWrite core k l m d) := by
  refine Keeps.get fun t h => ?_
  exact Keeps.ite_bind carries_update (carries_sendSectors _ _ _) (fun _ => Keeps.bind (carries_putVersion _ _ _ _ _ _) fun _ =>
    carries_update) t h

end Sys2Proof.Machine
end

section
/-! SUPPORT. Instructions in flight, turns, control instructions, barriers and boundaries keep a safe run safe (R49, R50, R91 to R93, R120, R189 to R212). -/

namespace Sys2Proof.Machine

open Sys2Proof

/- One proof at a time: those of this section would else wait for one another's equation lemmas in more threads than the memory limit allows. -/
set_option Elab.async false

variable {s t : State} {c : Ctx} {i : Instr}

/-! ### Instructions in flight (R120, R121) -/

namespace Group.Like

variable {g g' : Group}

theorem own (g : Group) (o : Op) (dsts : List Nat) : g.Like (g.own o dsts) := by
  unfold Group.own
  exact .ite (refl g) (.ite (refl g) (refl g))

theorem writeElem (g : Group) (e : RegElem × Word) : g.Like (g.writeElem e) := by
  unfold Group.writeElem
  split <;> exact refl g

theorem writeElems (h : g.Like g') (ws : List (RegElem × Word)) : g.Like (ws.foldl Group.writeElem g') := foldl ws h writeElem

theorem takeToken (g : Group) (o : Op) : g.Like (g.takeToken o) := by
  unfold Group.takeToken
  split <;> exact refl g

theorem complete (g : Group) (o : Op) : g.Like (g.complete o) := by
  have hwritten : g.Like (o.results.foldl Group.writeElem (g.takeToken o)) := (takeToken g o).writeElems o.results
  unfold Group.complete
  dsimp only
  split
  · exact ite hwritten hwritten
  · exact ite (ite hwritten hwritten) (ite hwritten hwritten)

end Group.Like

namespace Carries

theorem start (h : Carries s t) (c : Ctx) (i : Instr) (o : Op) : Carries s (c.start i o t) := by
  refine .advance ?_ c i
  exact .modGroup (h.nextId (Nat.le_succ t.nextId)) c.g.gid _ fun g => .own g o (opDsts i.form)

theorem landResults (h : Carries s t) (id : Nat) : Carries s (t.landResults id) := by
  unfold State.landResults
  split
  · next o _ => exact h.modGroup o.gid _ fun g => .writeElems (.refl g) _
  · exact h

theorem completeOp (h : Carries s t) (o : Op) : Carries s (t.completeOp o) := by
  have hgroup : ∀ p : Op, Carries s (t.modGroup o.gid fun g => g.complete p) := fun p => h.modGroup o.gid _ fun g => .complete g p
  unfold State.completeOp
  dsimp only
  split
  · exact h
  · exact ite (hgroup _) (hgroup o)

/-! ### Turns (R188, R189) -/

theorem passTurn (h : Carries s t) (team : Nat) : Carries s (t.passTurn team) := by
  unfold State.passTurn
  split
  · exact h
  · exact h.modTeam _ _

theorem settleTurn (h : Carries s t) (team : Nat) : Carries s (t.settleTurn team) := by
  unfold State.settleTurn
  split
  · exact h
  split
  · exact ite (h.passTurn team) h
  · exact h.passTurn team

theorem waitTurn (h : Carries s t) (c : Ctx) (w : GangWait) (e : Bool) : Carries s (c.waitTurn w e t) :=
  ite (.passTurn (.waitOn h c w) _) (.waitOn h c w)

theorem offer (h : Carries s t) (gid : Nat) : Carries s (t.offer gid) := by
  unfold State.offer
  split
  · exact h.frame
  next g _ =>
  dsimp only
  have hserved := h.mapGroups (f := fun e =>
      if e.1 = gid then (e.1, { e.2 with served := t.nextGang g + 1, readyFrom := t.clock })
      else if t.sameQuarter g e.2 then
        (e.1, { e.2 with latch := [], offers := if e.2.yielded.isSome then gid :: e.2.offers else e.2.offers })
      else e) fun e => by
    split
    · exact ⟨rfl, .refl e.2⟩
    · split <;> exact ⟨rfl, .refl e.2⟩
  exact ite (.settleTurn hserved.frame _) hserved.frame

end Carries

theorem Carries.modBar (h : Carries s t) (team b : Nat) (f : Barrier → Barrier) : Carries s (t.modBar team b f) := h.modTeam _ _

/-! ### Control instructions (R190 to R206) -/

theorem Group.Like.goto {g g' : Group} (h : g.Like g') (strands : List Nat) (dest : Nat → Addr) : g.Like (g'.goto strands dest) := h.modStrands _ _

theorem Group.Like.endTracking (g : Group) (fs : List Nat) : g.Like (g.endTracking fs) := foldl fs (refl g)

namespace Sound

theorem branchTo (h : Carries s t) (c : Ctx) {f : Group → Group} (dest : Nat → Addr) (hf : ∀ g : Group, g.Like (f g) := by exact .refl) :
    Sound s (branchTo c f dest t) := h.modGroup c.g.gid _ fun g => (hf g).goto _ _

theorem execBra (x : CTL) : Sound s (execBra x s) := issue fun c _ => branchTo (.refl s) c _

theorem execBrx (x : CTL) : Sound s (execBrx x s) := issue fun c _ => by
  split
  · exact raiseHere (.refl s) c _ _ _
  · exact branchTo (.refl s) c _

theorem execCall (x : CTL) : Sound s (execCall x s) := issue fun c _ => branchTo (.refl s) c _ fun g => by
  split
  · exact .foldl _ (.refl g)
  · exact .refl g

theorem execRet (x : CTL) : Sound s (execRet x s) := issue fun c _ => ite (raiseHere (.refl s) c _ _ _) (branchTo (.refl s) c _)

theorem execSloop (x : CTL) : Sound s (execSloop x s) := issue fun c _ => by
  split
  · exact branchTo (.refl s) c _ fun g => .foldl _ (.refl g)
  · exact .advance (.refl s) c _

theorem stackOp (i : Instr) (bad : Strand → Bool) (f : Nat → Strand → List (BitVec 4)) : Sound s (stackOp i bad f s) := issue fun c _ => by
  split
  · exact raiseHere (.refl s) c _ _ _
  · exact finish (.refl s) c i fun g => .modStrands (.refl g) _ _

theorem execPpush (x : CTL) : Sound s (execPpush x s) := issue fun c _ => by
  split
  · exact raiseHere (.refl s) c _ _ _
  · exact finish (.refl s) c _ fun g => .modStrands (.refl g) _ _

theorem execRegang : Sound s (execRegang s) := issue fun c _ => ite (finish (.refl s) c _) (.modGang (.refl s) _ _ _)

theorem execWaitf (x : CTL) : Sound s (execWaitf x s) := issue fun c _ =>
  ite (.waitTurn (.refl s) c _ _) (finish (.refl s) c _ fun g => .endTracking g _)

theorem execYield : Sound s (execYield s) := issue fun c _ =>
  ite (.passTurn (.advance (.refl s) c _) _) (.modGroup (.advance (.refl s) c _) _ _)

theorem execExit : Sound s (execExit s) := issue fun c hc => by
  refine ite (.block (.refl s) c) ?_
  split
  · next x g _ _ hlate => exact ite (.deferTask (.refl s) _ _ _) (.takeLate hc (.firstLate hlate) x)
  · have hleft : Carries s (s.modGroup c.g.gid fun g =>
        g.modStrands (exitStrands c) fun _ st => { st with exited := true, wait := .ready }) := .modGang (.refl s) _ _ _
    exact ite hleft (ite (.passTurn (.retireGroup hleft _) _) (.retireGroup hleft _))

theorem execTrap (x : CTL) : Sound s (execTrap x s) := issue fun c _ => raise (.refl s) c _ _ _ _

theorem execSyscall (x : CTL) : Sound s (execSyscall x s) := issue fun _ _ => .modGang (.refl s) _ _ _

theorem execTrapret : Sound s (execTrapret s) := issue fun c hc => by
  refine ite (raiseHere (.refl s) c _ _ _) ?_
  split
  · exact .refl s
  · next save hsave =>
    exact .modGroup_of (.refl s) (fun g hg => (Group.Like.leaveHandler g save).1.trans hg)
      fun hs g _ => (Group.Like.leaveHandler g save).2 ((Issued.narrow hc hs).2 save hsave)

/-! ### Barriers (R208 to R212) -/

theorem barTrap (h : Carries s t) (c : Ctx) (b sub : Nat) : Sound s (barTrap c b sub t) := raiseHere h c _ _ _

theorem barWaitOn (h : Carries s t) (i : Instr) (c : Ctx) (b mark : Nat) : Sound s (barWaitOn i c b mark t) :=
  ite (.advance (.modBar h _ _ _) c i) (.waitTurn h c _ _)

theorem execBarInit (x : CTL) : Sound s (execBarInit x s) := issue fun c _ =>
  ite (barTrap (.refl s) c _ _) (.advance (.modBar (.refl s) _ _ _) c _)

theorem execBarArv (x : CTL) : Sound s (execBarArv x s) := issue fun c _ => by
  refine ite (.block (.refl s) c) ?_
  split
  · exact barTrap (.refl s) c _ _
  · exact .advance (.modBar (.refl s) _ _ _) c _

theorem execBarWait (x : CTL) : Sound s (execBarWait x s) := issue fun c _ => ite (barTrap (.refl s) c _ _) (barWaitOn (.refl s) _ c _ _)

theorem execBarSync (x : CTL) : Sound s (execBarSync x s) := issue fun c _ => by
  refine ite (barWaitOn (.refl s) _ c _ _) (ite (.block (.refl s) c) ?_)
  split
  · exact barTrap (.refl s) c _ _
  · exact barWaitOn (.modBar (.refl s) _ _ _) _ c _ _

theorem execBarDrop (x : CTL) : Sound s (execBarDrop x s) := issue fun c _ =>
  ite (barTrap (.refl s) c _ _) (ite (barTrap (.refl s) c _ _) (.advance (.modBar (.refl s) _ _ _) c _))

end Sound

/-! ### Boundaries (R49, R50, R91 to R93) -/

theorem carries_sendSector (r : Rel) (k : Nat) : Keeps (Carries s) (sendSector r k) := by
  refine Keeps.get fun t h => ?_
  refine Keeps.ite (Keeps.fault _ _ _) ?_ t h
  exact Keeps.ite_bind (carries_sendSectors _ _ _) (Keeps.pure ()) fun _ => carries_update

theorem carries_publishSector (r : Rel) (k : Nat) : Keeps (Carries s) (publishSector r k) := by
  refine Keeps.get fun t h => ?_
  split
  · exact h
  · refine Keeps.bind (carries_confirm _ true) (fun _ => ?_) t h
    split
    · exact Keeps.bind (carries_commitLine _ _ _) fun _ => carries_update fun _ h => .foldl _ h
    · exact Keeps.bind (carries_commitAt _ _ _ _) fun _ => carries_update

namespace Carries

theorem discardLine (h : Carries s t) (core home line : Nat) : Carries s (t.discardLine core home line) := foldl _ (by exact h)

theorem faultRel (h : Carries s t) (r : Rel) (k cause sub : Nat) : Carries s (t.faultRel r k cause sub) :=
  ite (by exact h) (.discardLine (by exact h) _ _ _)

theorem parkRel (h : Carries s t) (r : Rel) (k ipa : Nat) : Carries s (t.parkRel r k ipa) := by
  unfold State.parkRel
  dsimp only
  split
  · exact h.faultRel r k _ _
  next token u he =>
  have hu : Carries s u := h.enterWait he
  split
  · exact ite (.modGroup (by exact hu) _ _) hu
  · exact hu

theorem publishOne (h : Carries s t) (id k : Nat) : Carries s (t.publishOne id k) := by
  unfold State.publishOne
  split
  · exact h
  next r _ =>
  exact ite h ((carries_publishSector r k).on h (fun u _ => h.keepFull u) (fun _ _ hu => hu)
    fun cause sub ipa u hu => ite (hu.parkRel r k ipa) (hu.faultRel r k cause sub))

theorem newAcq (h : Carries s t) (core scope : Nat) (src : BoundarySource) : Carries s (t.newAcq core scope src) :=
  h.nextId (Nat.le_succ t.nextId)

theorem startRel (h : Carries s t) (core scope : Nat) (src : BoundarySource) : Carries s (t.startRel core scope src) :=
  h.nextId (Nat.le_succ t.nextId)

theorem trapAtRelease (h : Carries s t) (o : Op) (x : LateTrap) : Carries s (t.trapAtRelease o x) := by
  have hdone : Carries s (t.completeOp { o with results := [], lateTrap := none }) := h.completeOp _
  unfold State.trapAtRelease
  dsimp only
  split
  · exact hdone
  · refine ite hdone (ite (.takeTrap (ite (hdone.modGroup _ _) hdone) _ _ _ _ _ _ _) (hdone.modGroup _ _))

theorem endCommand (h : Carries s t) (o : Op) : Carries s (t.endCommand o) := by
  unfold State.endCommand
  dsimp only
  split
  · exact foldl _ (by exact h) fun t _ => (refl t).addBytes _
  · exact h

theorem afterRelease (h : Carries s t) (id : Nat) (fault : Option LateTrap) : Carries s (t.afterRelease id fault) := by
  unfold State.afterRelease
  split
  · exact h
  next o _ =>
  dsimp only
  split
  · exact ite (endCommand (by exact h) o) (trapAtRelease (by exact h) o _)
  · split
    · exact ite (newAcq (by exact h) _ _ _) h
    all_goals exact h

theorem finishRel (h : Carries s t) (id : Nat) : Carries s (t.finishRel id) := by
  unfold State.finishRel
  split
  · exact h
  split
  · dsimp only
    split
    · exact afterRelease (by exact h) _ _
    · exact modLaunch (by exact h) _ _
    · exact h
  · exact h

theorem releaseOne (h : Carries s t) (id : Nat) (only : Bool) (k : Nat) : Carries s (t.releaseOne id only k) := by
  have hsent : Carries s (match t.rels.find? (fun r => r.id == id) with
      | some r => if r.todo.contains k then t.after (sendSector r k) else t
      | none => t) := by
    split
    · exact ite (h.after (carries_sendSector _ k)) h
    · exact h
  exact ite hsent (hsent.publishOne id k)

theorem afterAcquire (h : Carries s t) (a : Acq) : Carries s (t.afterAcquire a) := by
  unfold State.afterAcquire
  split
  · exact h
  · exact h.modTeam _ _
  · exact h

theorem implicitRelease (h : Carries s t) (core : Nat) : Carries s (t.implicitRelease core) := by
  have hdone : ∀ scope (ks : List Nat),
      Carries s ((ks.foldl (fun s k => s.releaseOne t.nextId false k) (t.startRel core scope .implicit)).finishRel t.nextId) :=
    fun scope ks => .finishRel (.foldl ks (h.startRel core scope .implicit) fun t k => (refl t).releaseOne _ _ _) _
  unfold State.implicitRelease
  dsimp only
  generalize hu : State.finishRel _ _ = u
  have hu' : Carries s u := by rw [← hu]; exact hdone _ _
  exact hu'

end Carries

namespace Sound

theorem execReleaseBoundary : Sound s (execReleaseBoundary s) := by
  unfold Machine.execReleaseBoundary
  split
  · exact Carries.refl s
  next r _ =>
  have htaken : Carries s ((if r.begun then s else s.beginRel r).takeIn r.id s.ev.late) := Carries.ite (.refl s) (.refl s)
  dsimp only
  exact ite (Carries.refl s) (.finishRel (.foldl _ htaken fun t k => (Carries.refl t).releaseOne _ _ _) _)

theorem execAcquireBoundary : Sound s (execAcquireBoundary s) := by
  unfold Machine.execAcquireBoundary
  split
  · exact Carries.refl s
  next a _ =>
  have hdone : Carries s (if a.scope = 0 then s else s.acquire a.core) := .ite (.refl s) (.refl s)
  exact .afterAcquire (by exact hdone) a

theorem execImplicitBoundary : Sound s (execImplicitBoundary s) := by
  have hstay : Sound s (.next s) := Carries.refl s
  have hacquired : Sound s (.next (((s.acquire s.ev.a).modCore s.ev.a fun c => { c with implicitAcq := c.implicitAcq + 1 }).count
      (careIndex careImplicit (dieOf s.ev.a)))) := Carries.refl s
  have hreleased : Sound s (.next (s.implicitRelease s.ev.a)) := .implicitRelease (.refl s) _
  exact ite (ite hstay hacquired) (ite hstay hreleased)

end Sound

end Sys2Proof.Machine
end

section
/-! SUPPORT. Memory instructions, and what the memory side does with accesses in flight, keep a safe run safe (R31 to R34, R89, R90, R98, R130 to R145). -/

namespace Sys2Proof.Machine

open Sys2Proof

/- One proof at a time: those of this section would else wait for one another's equation lemmas in more threads than the memory limit allows. -/
set_option Elab.async false

variable {s t : State} {c : Ctx} {i : Instr}

/-! ### Instructions as they issue (R130 to R145) -/

namespace Carries

/-- A release asked for by the instruction that just started. -/
theorem addRel (h : Carries s t) (rs : List Rel) : Carries s { t with rels := rs, nextId := t.nextId + 1 } := h.nextId (Nat.le_succ t.nextId)

theorem send (h : Carries s t) (c : Ctx) (i : Instr) (o : Op) : Carries s (c.send i o t) := by
  unfold Ctx.send
  exact ite ((start h c i _).addRel _) (start h c i _)

theorem endHeldTurn (h : Carries s t) (c : Ctx) (o : Op) : Carries s (c.endHeldTurn o t) := ite (h.passTurn _) h

end Carries

namespace Sound

theorem memAccess {x : MEM} {size : Nat} {rd wr : Bool} {lanes : Ctx → List Nat} {body : Ctx → List (Nat × Nat × Loc) → State → Out}
    (hbody : ∀ c ls, Sound s (body c ls s)) : Sound s (memAccess i x size rd wr lanes s body) := issue fun c _ => hbody c _

theorem loadOp (i : Instr) (x : MEM) (size run : Nat) (sgn : Bool) : Sound s (loadOp i x size run sgn s) := memAccess fun c _ => .send (.refl s) c i _

theorem lduOp (i : Instr) (x : MEM) (size run : Nat) : Sound s (lduOp i x size run s) := memAccess fun c _ => .send (.refl s) c i _

theorem execLdc (x : MEM) : Sound s (execLdc x s) := issue fun c _ => by
  dsimp only
  split
  · exact raiseHere (.refl s) c _ _ _
  · exact .start (.refl s) c _ _

theorem storeOp (i : Instr) (x : MEM) (size run : Nat) : Sound s (storeOp i x size run s) := memAccess fun c ls => by
  have hsend : ∀ o, Sound s (.next (c.send i o s)) := .send (.refl s) c i
  refine ite (hsend _) (ite (hsend _) (ite (hsend _) (ite (.block (.refl s) c) ?_)))
  exact (carries_storeAll _ _).on_of (.refl s) (fun t _ => .block (.keepFull (.refl s) t) c) (fun _ t ht => .send ht c i _)
    fun _ _ _ t ht => .block ht c

theorem atomOp (i : Instr) (x : MEM) (op : AtomOp) (ret : Bool) : Sound s (atomOp i x op ret s) := memAccess fun c ls => by
  dsimp only
  split
  · exact .waitTurn (.refl s) c _ _
  · exact .endHeldTurn (.send (.refl s) c i _) c _

theorem execPhase (x : MEM) : Sound s (execPhase x s) := issue fun c _ => by
  dsimp only
  split
  · exact .modGroup (.start (.refl s) c _ _) _ _
  · exact (Carries.start (.refl s) c _ _).addRel _

theorem execPref (x : MEM) : Sound s (execPref x s) := issue fun c _ => .start (.refl s) c _ _

end Sound

/-! ### Faults and parks (R33, R34) -/

namespace Carries

theorem parkReq (h : Carries s t) (o : Op) (n : Nat) (r : Req) (ipa : Nat) : Carries s (t.parkReq o n r ipa) := by
  unfold State.parkReq
  split
  · next token u he =>
    have hu : Carries s u := h.enterWait he
    exact ite (.modGroup (by exact hu) _ _) hu
  · exact h

theorem taskNotPresent (h : Carries s t) {launch slot ipa : Nat} {u : State} (hu : t.taskNotPresent launch slot ipa = some u) : Carries s u := by
  unfold State.taskNotPresent at hu
  split at hu
  · cases hu
  · next token v he =>
    have hv : Carries s v := h.enterWait he
    cases hu
    exact hv.abortTasks launch [slot]

theorem faultReq (h : Carries s t) (o : Op) (n : Nat) (r : Req) (cause sub ipa : Nat) : Carries s (t.faultReq o n r cause sub ipa) := by
  unfold State.faultReq
  split
  · exact h
  split
  · split
    · exact h.parkReq o n r ipa
    · exact ite (getD (fun _ hu => h.taskNotPresent hu) h) h
  · exact h

theorem mark (h : Carries s t) (launch slot home sec : Nat) (froms : List Nat) (comm : Bool) (place : Place) :
    Carries s (t.mark launch slot home sec froms comm place) := ite h (ite h h)

theorem endFaulted (h : Carries s t) (o : Op) (r : Req) : Carries s (t.endFaulted o r) := by
  have hmarked : Carries s (if o.task.isSome || !storesPlain o.kind then t else
      (o.reqs.filter (fun (q : Req) => q.state.bad)).reverse.foldl (fun (s : State) (q : Req) => s.markFault o.core q.loc q.va) t) :=
    ite h (foldl _ h fun t q => (refl t).markFault _ _ _)
  exact hmarked

end Carries

/-! ### Accesses performed (R63, R89, R375) -/

theorem carries_taskRead (launch slot : Nat) (l : Loc) (size : Nat) : Keeps (Carries s) (taskRead launch slot l size) := by
  refine Keeps.bind (carries_committed l) fun _ => Keeps.bind (carries_takeBlock _ _) fun _ => Keeps.get fun t h => ?_
  exact Keeps.bind (carries_update fun _ h => h.mark _ _ _ _ _ _ _) (fun _ => Keeps.pure _) t h

theorem carries_taskWrite (launch slot : Nat) (l : Loc) (size v : Nat) : Keeps (Carries s) (taskWrite launch slot l size v) :=
  Keeps.bind (carries_putVersion _ _ _ _ _ _) fun _ => carries_update fun _ h => h.specConflict _ _ _ _

theorem carries_answerStore (o : Op) (r : Req) : Keeps (Carries s) (answerStore o r) := by
  refine Keeps.get fun t h => ?_
  refine Keeps.ite (Keeps.pure ()) (Keeps.bind (carries_confirm r.loc true) fun _ => carries_update fun u hu => ?_) t h
  exact .ite hu (by exact hu)

theorem carries_answer (o : Op) (r : Req) : Keeps (Carries s) (answer o r) := by
  have hstore : Keeps (Carries s) (if o.task.isSome then confirm r.loc true else answerStore o r) :=
    Keeps.ite (carries_confirm _ _) (carries_answerStore o r)
  refine Keeps.get fun t h => ?_
  refine Keeps.ite (Keeps.fault _ _ _) (Keeps.ite (Keeps.pure _) (Keeps.ite hstore ?_)) t h
  split
  · exact hstore
  · exact carries_confirm _ _
  · exact Keeps.bind (carries_confirm _ _) fun _ => Keeps.bind (carries_committed _) fun _ => Keeps.pure _
  · exact carries_confirm _ _
  · exact carries_confirm _ _
  · refine Keeps.bind (carries_confirm _ _) fun _ => ?_
    have hlines : ∀ n, Keeps (Carries s) (do let _ ← storedLine r.loc n; modify fun s => s.addCopy o.core r.loc) := fun n =>
      Keeps.bind ((carries_homeSide s).storedLine _ _) fun _ => carries_update fun _ h => h.addCopy _ _
    split
    · exact Keeps.bind ((carries_homeSide s).lineCount _ _) hlines
    · exact hlines 8
  · exact Keeps.bind (carries_confirm _ _) fun _ => Keeps.bind (carries_committed _) fun _ => Keeps.pure _

theorem carries_loadValue (o : Op) (r : Req) : Keeps (Carries s) (loadValue o r) := by
  refine Keeps.get fun t h => ?_
  refine Keeps.ite_bind (carries_update fun _ h => h.scoutLoad _ _ _ _ _) (Keeps.pure ()) (fun _ => ?_) t h
  split
  · exact carries_taskRead _ _ _ _
  · exact Keeps.ite (carries_plainLoad _ _ _) (carries_immRead _ _)

namespace Carries

theorem performReq (h : Carries s t) (o : Op) (n : Nat) (r : Req) : Carries s (t.performReq o n r) := by
  unfold State.performReq
  refine ite h ?_
  split
  · exact (carries_loadValue o r).on h (fun u _ => h.keepFull u) (fun _ _ hu => hu) fun _ _ _ _ hu => hu.faultReq o n r _ _ _
  · split
    · exact (carries_taskWrite _ _ _ _ _).on h (fun u _ => h.keepFull u) (fun _ _ hu => hu) fun _ _ _ _ hu => hu
    · exact h
  · exact h

theorem settlePerformed (h : Carries s t) (id : Nat) : Carries s (t.settlePerformed id) := h

theorem performAll (h : Carries s t) (o : Op) : Carries s (t.performAll o) := by
  have hall := foldl (numbered o.reqs) h fun t e => (refl t).performReq o e.1 e.2
  unfold State.performAll
  dsimp only
  split
  · exact hall
  · refine ite (h.keepFull _) (ite (by exact hall) ?_)
    split
    · exact hall.endFaulted _ _
    · exact hall

theorem cascade (h : Carries s t) (gid : Nat) (os : List Op) : Carries s (t.cascade gid os) := by
  induction os generalizing t with
  | nil => exact h
  | cons o os ih =>
    unfold State.cascade
    refine ite (ih h) (ite h ?_)
    split
    · exact ite (h.performAll o) (ih (h.performAll o))
    · exact ite (h.performAll o) (ih (h.performAll o))
    · exact h

theorem settleOp (h : Carries s t) (id : Nat) : Carries s (t.settleOp id) := by
  unfold State.settleOp
  split
  · exact h
  refine ite h ?_
  split
  · exact (h.endFaulted _ _).cascade _ _
  · split
    · exact ite (h.cascade _ _) h
    · exact h.cascade _ _
    all_goals exact h

end Carries

theorem carries_movedStore (o : Op) (r : Req) : Keeps (Carries s) (movedStore o r) := by
  refine Keeps.get fun t h => ?_
  refine Keeps.ite (Keeps.pure _) (Keeps.ite ?_ (carries_immWrite _ _ _)) t h
  refine Keeps.bind (carries_l1Room _ _ _) fun _ => carries_update fun u hu => ?_
  have hstored := hu.plainStore o.core r.loc r.size r.data
  exact .ite (by exact hstored) hstored

theorem carries_answerAll (o : Op) (r : Req) : Keeps (Carries s) (answerAll o r) := by
  refine Keeps.bind (carries_answer o r) fun _ => ?_
  split
  · exact Keeps.ite (carries_movedStore o r) (Keeps.pure _)
  · exact Keeps.pure _

theorem Sound.execTranslationAnswer : Sound s (execTranslationAnswer s) := by
  unfold Machine.execTranslationAnswer
  split
  · exact Carries.refl s
  split
  · exact Carries.refl s
  next o _ _ r _ =>
  refine ite (Carries.refl s) (ite (.settleOp (.refl s) _) (ite (Carries.refl s) ?_))
  exact (carries_answerAll o r).on (.refl s) (fun u _ => .keepFull (.refl s) u) (fun _ _ hu => .settleOp (by exact hu) _)
    fun _ _ _ _ hu => (hu.faultReq o _ r _ _ _).settleOp _

/-! ### Requests at their home slices (R98, R142, R403) -/

namespace Carries

theorem afterHome (h : Carries s t) (o : Op) : Carries s (t.afterHome o) := by
  unfold State.afterHome
  dsimp only
  split
  · next p _ =>
    have hacq : Carries s (if p.acq then (t.settlePerformed o.id).newAcq p.core p.scope (.group p.gid) else t.settlePerformed o.id) :=
      ite (.newAcq (by exact h) _ _ _) h
    exact ite (ite (hacq.cascade _ _) hacq) h
  · exact h

theorem atHome (h : Carries s t) {stall : State} (hstall : Carries s stall) {m : Mem (List (RegElem × Word))} (hm : Keeps (Carries s) m) (o : Op) (n : Nat) (r : Req) :
    Carries s (t.atHome o n r stall m) :=
  hm.on h (fun u hu => hstall.keepFull _) (fun _ _ hu => .afterHome (by exact hu) o) fun _ _ _ _ hu => (hu.faultReq o n r _ _ _).settleOp _

end Carries

theorem carries_immPerform (o : Op) (r : Req) : Keeps (Carries s) (immPerform o r) := by
  unfold immPerform
  split
  · exact Keeps.bind (carries_immRead _ _) fun _ => Keeps.pure _
  · exact Keeps.bind (carries_taskRead _ _ _ _) fun _ => Keeps.pure _
  · exact Keeps.bind (carries_immWrite _ _ _) fun _ => Keeps.pure _
  · exact Keeps.bind (carries_taskWrite _ _ _ _ _) fun _ => Keeps.pure _
  · exact Keeps.pure _

theorem carries_immLine (l : Loc) (v : Nat) : Keeps (Carries s) (immLine l v) := by
  refine Keeps.bind (carries_confirm l true) fun _ => ?_
  split
  · exact carries_commitLine _ _ _
  · exact Keeps.pure _

theorem carries_atomPerform (o : Op) (op : AtomOp) (dst : Option Nat) (r : Req) : Keeps (Carries s) (atomPerform o op dst r) := by
  unfold atomPerform
  generalize o.task = task
  cases task with
  | some k => exact Keeps.bind (carries_taskRead _ _ _ _) fun _ => Keeps.bind (carries_taskWrite _ _ _ _ _) fun _ => Keeps.pure _
  | none => exact Keeps.bind (carries_confirm _ _) fun _ => Keeps.bind (carries_immRead _ _) fun _ => Keeps.bind (carries_immWrite _ _ _) fun _ => Keeps.pure _

theorem Carries.bufferReq (h : Carries s t) (o : Op) (n : Nat) (r : Req) : Carries s (t.bufferReq o n r) := by
  unfold State.bufferReq
  split
  · exact h
  next g _ =>
  have hb := h.block? r.loc.home r.loc.line (.ordered g.launch g.index.toNat)
  dsimp only
  generalize t.block? _ _ _ = e at hb
  obtain ⟨u, _ | place⟩ := e
  · exact hb
  · exact (hb.addBytes _).frame

namespace Sound

theorem execImmediateAtHome : Sound s (execImmediateAtHome s) := by
  have himm : ∀ (o : Op) (r : Req), Sound s (if !s.homeReady o r then .next s
      else match wholeImmediate o r with
        | [] => .next (s.atHome o s.ev.b r s (immPerform o r))
        | rs =>
          if !rs.all (fun e => s.homeReady o e.2) then .next s
          else .next ((immLine r.loc (lineOf rs)).on s id
            (fun _ s => (rs.foldl (fun s e => s.setReq o.id e.1 .done) s).afterHome o)
            (fun cause sub ipa s => (s.faultReq o s.ev.b r cause sub ipa).settleOp o.id))) := fun o r => by
    refine ite (Carries.refl s) ?_
    split
    · exact .atHome (.refl s) (.refl s) (carries_immPerform o r) o _ r
    · exact ite (Carries.refl s) ((carries_immLine _ _).on (.refl s) (fun u _ => .keepFull (.refl s) u)
        (fun _ _ hu => .afterHome (.foldl _ hu) o) fun _ _ _ _ hu => (hu.faultReq o _ r _ _ _).settleOp _)
  unfold Machine.execImmediateAtHome
  split
  · exact Carries.refl s
  split
  · exact himm _ _
  · exact himm _ _
  · exact Carries.refl s

theorem execAtomicAtHome : Sound s (execAtomicAtHome s) := by
  unfold Machine.execAtomicAtHome
  split
  · exact Carries.refl s
  split
  · exact ite (Carries.refl s) (ite (.bufferReq (.refl s) _ _ _) (ite (Carries.refl s) (ite (Carries.refl s)
      (.atHome (.refl s) (.refl s) (carries_atomPerform _ _ _ _) _ _ _))))
  · exact Carries.refl s

theorem execForeignAtomicApply : Sound s (execForeignAtomicApply s) := by
  unfold Machine.execForeignAtomicApply
  split
  · exact Carries.refl s
  split
  · split
    · refine ite (Carries.refl s) ?_
      exact .atHome (.foldl _ (.refl s) fun t l => .modLaunch (.refl t) _ _) (.refl s) (carries_atomPerform _ _ _ _) _ _ _
    · exact Carries.refl s
  · exact Carries.refl s

/-! ### Faulting fetches (R34, R405) -/

theorem fetchTrap (h : Carries s t) (c : Ctx) (cause sub : Nat) : Sound s (fetchTrap c cause sub t) := raiseHere h c _ _ _

theorem parkFetch (h : Carries s t) (c : Ctx) (l : Loc) (ipa : Nat) : Sound s (parkFetch c l ipa t) := by
  unfold Machine.parkFetch
  dsimp only
  split
  · next token u he =>
    have hu : Carries s u := by
      refine .enterWait ?_ he
      exact h.nextId (Nat.le_succ _)
    exact .modGroup (by exact hu) _ _
  · exact fetchTrap h c _ _

theorem execFetchFault : Sound s (execFetchFault s) := by
  unfold Machine.execFetchFault
  split
  · exact Carries.refl s
  next c _ =>
  have htrap : ∀ cause sub, Sound s (Machine.fetchTrap c cause sub s) := fetchTrap (.refl s) c
  refine ite (htrap _ _) ?_
  split
  · exact htrap _ _
  · exact parkFetch (.refl s) c _ _
  · refine ite (htrap _ _) ?_
    split
    · next u hu => exact .taskNotPresent (.refl s) hu
    · exact htrap _ _

theorem execIllegalInstruction : Sound s (execIllegalInstruction s) := trapWord _

end Sound

end Sys2Proof.Machine
end

section
/-! SUPPORT. Local memory and its queues, the engines of CPY and CBANK, translation commands, registers, rings, host accesses, boot and the links keep
a safe run safe (R21, R31 to R45, R57, R113, R141 to R153, R400, R416 to R437). -/

namespace Sys2Proof.Machine

open Sys2Proof

/- One proof at a time: those of this section would else wait for one another's equation lemmas in more threads than the memory limit allows. -/
set_option Elab.async false

variable {s t : State} {c : Ctx} {i : Instr}

/-! ### LDS, STS and CPY (R57, R141, R146) -/

namespace Carries

theorem settleLocal (h : Carries s t) (id : Nat) : Carries s (t.settleLocal id) := by
  unfold State.settleLocal
  split
  · exact h
  refine ite h ?_
  split
  · exact h.endFaulted _ _
  · exact h

theorem granuleStore (h : Carries s t) (o : Op) (cl size : Nat) (r : Req) : Carries s (granuleStore o cl size r t) :=
  foldl _ h fun t _ => (refl t).localWrite _ _ _ _

theorem serveLocal (h : Carries s t) (o : Op) (n : Nat) (store : Bool) (fe size dst : Nat) (r : Req) :
    Carries s (t.serveLocal o n store fe size dst r) := by
  have hstored : Carries s (if store then Machine.granuleStore o (clusterOf o.core) size r t else t) := ite (h.granuleStore _ _ _ _) h
  unfold State.serveLocal
  refine ite (settleLocal (by exact h) _) (settleLocal ?_ _)
  generalize (if store then Machine.granuleStore o (clusterOf o.core) size r t else t) = u at hstored
  have hflagged : Carries s (if store then (if fe = 3 then u.setFull (clusterOf o.core) r.va true else u)
      else if fe = 2 then u.setFull (clusterOf o.core) r.va false else u) := ite (ite hstored hstored) (ite hstored hstored)
  exact hflagged

theorem engineRelease (h : Carries s t) (o : Op) : Carries s (t.engineRelease o) := by
  unfold State.engineRelease
  dsimp only
  split
  · exact h
  · exact h.nextId (Nat.le_succ t.nextId)

end Carries

theorem carries_cpyMove (o : Op) (out : Bool) (la : Nat) (r : Req) : Keeps (Carries s) (cpyMove o out la r) :=
  Keeps.ite (Keeps.get fun _ h => carries_engineWrite _ _ _ _ _ _ h)
    (Keeps.bind (carries_committed _) fun _ => carries_update fun _ h => h.localWrite _ _ _ _)

theorem Carries.serveCpy (h : Carries s t) (o : Op) (n : Nat) (out : Bool) (la : Nat) (r : Req) : Carries s (t.serveCpy o n out la r) := by
  refine ite h ((carries_cpyMove o out la r).on h (fun u _ => h.keepFull u) (fun _ u hu => ?_)
    fun _ _ _ _ hu => (hu.faultReq o n r _ _ _).settleOp _)
  dsimp only
  split
  · exact ite (engineRelease (by exact hu) _) hu
  · exact hu

namespace Sound

theorem localOp (i : Instr) (x : MEM) (store : Bool) (size run : Nat) : Sound s (localOp i x store size run s) :=
  issue fun c _ => .start (.refl s) c i _

theorem cpyOp (i : Instr) (x : MEM) (out : Bool) : Sound s (cpyOp i x out s) := issue fun c _ => by
  have hstart : ∀ o, Carries s (c.start i o s) := .start (.refl s) c i
  exact ite (hstart _) (ite (Carries.block (.refl s) c) (Carries.ite ((hstart _).modGroup _ _) (hstart _)))

/-! ### Queues (R113, R149 to R153) -/

theorem execQbind (x : MEM) : Sound s (execQbind x s) := issue fun c _ => by
  have hbind : ∀ (q : Nat) (b : QBind), Carries s (((c.start (.qbind x) (c.op (.qbind x) .fixed [] [] s) s).completeOp
      (c.op (.qbind x) .fixed [] [] s)).modGroup c.g.gid fun g => { g with qbinds := tset ⟨0, 0, 0, 0⟩ g.qbinds q b }) :=
    fun q b => ((Carries.start (.refl s) c _ _).completeOp _).modGroup _ _
  have htrap : ∀ cause sub addr, Sound s (Machine.raiseHere c cause sub addr s) := fun _ _ _ => raiseHere (.refl s) c _ _ _
  exact ite (hbind _ _) (ite (htrap _ _ _) (ite (htrap _ _ _) (ite (htrap _ _ _) (ite (htrap _ _ _) (hbind _ _)))))

end Sound

namespace Carries

theorem queueTrapAt (h : Carries s t) (g : Group) (gang q : Nat) : Carries s (t.queueTrapAt g gang q) :=
  have hended := h.modGroup g.gid fun g => g.endPending gang
  ite (hended.deferTask _ _ _) (hended.takeTrap _ _ _ _ _ _ _)

theorem serveTokens (h : Carries s t) (g : Group) (p : Pending) (q : Nat) (have_ : List Word) (promised : Nat) {keep : State → List Word → State}
    (hkeep : ∀ ws, Carries s (keep t ws)) : Carries s (t.serveTokens g p q have_ promised keep) :=
  ite (ite (h.queueTrapAt _ _ _) h) ((hkeep _).modGroup _ _)

theorem servePop (h : Carries s t) (g : Group) (p : Pending) : Carries s (t.servePop g p) := by
  unfold State.servePop
  split
  · exact h
  refine ite (h.serveTokens _ _ _ _ _ fun ws => h.modGroup _ _) (ite (h.serveTokens _ _ _ _ _ fun ws => h) ?_)
  split
  · exact h.queueTrapAt _ _ _
  · exact ite h (modGroup (by exact h) _ _)

theorem servePush (h : Carries s t) (g : Group) (p : Pending) : Carries s (t.servePush g p) := by
  unfold State.servePush
  split
  · exact h
  split
  · exact h.queueTrapAt _ _ _
  · refine ite h (modGroup (by exact h.localWrite _ _ _ _) _ _ fun g => ?_)
    exact .ite (.modStrands (by exact .refl g) _ _) (by exact .refl g)

end Carries

theorem Sound.execQueueElementServe : Sound s (execQueueElementServe s) := by
  unfold Machine.execQueueElementServe
  split
  · exact Carries.refl s
  split
  · exact Carries.refl s
  · exact ite (Carries.refl s) (ite (.servePush (.refl s) _ _) (.servePop (.refl s) _ _))

/-! ### Bank modes and wakes (R34, R147, R148) -/

namespace Carries

theorem voidBindings (h : Carries s t) (cluster bank : Nat) : Carries s (t.voidBindings cluster bank) :=
  h.mapGroups fun e => by
    split
    · exact ⟨rfl, .refl e.2⟩
    · exact ⟨rfl, .refl e.2⟩

theorem emptyBank (h : Carries s t) (cluster bank : Nat) : Carries s (t.emptyBank cluster bank) :=
  foldl _ h fun t _ => ite ((refl t).after (carries_sendPending _ _ _)) (refl t)

theorem changeBank (h : Carries s t) (b : BankChange) : Carries s (t.changeBank b) := by
  have hcleared : Carries s (if t.bankMode b.cluster b.bank = 0 then
      { t with copies := t.copies.filterMap (fun e =>
          let m := e.2 - e.2 / 2 ^ b.cluster % 2 * 2 ^ b.cluster
          if m = 0 then none else some (e.1, m)) }
    else t.clearBank b.cluster b.bank) := ite h (h.clearBank _ _)
  unfold State.changeBank
  dsimp only
  generalize (if t.bankMode b.cluster b.bank = 0 then _ else t.clearBank b.cluster b.bank) = u at hcleared
  have hvoided : Carries s (if t.bankMode b.cluster b.bank = 2 ∧ b.mode ≠ 2 then u.voidBindings b.cluster b.bank else u) :=
    ite (hcleared.voidBindings _ _) hcleared
  exact hvoided

theorem wakeAccess (h : Carries s t) (a : Nat × Nat) : Carries s (t.wakeAccess a) := ite (h.modLaunch _ _) (ite h h)

theorem wake (h : Carries s t) (w : WaitEntry) : Carries s (t.wake w) := by
  have hwoken : Carries s (w.accesses.foldl State.wakeAccess t) := foldl _ h fun t a => (refl t).wakeAccess a
  exact hwoken

end Carries

namespace Sound

theorem execCbank (x : MEM) : Sound s (execCbank x s) := issue fun c _ => (Carries.start (.refl s) c (.cbank x) _).frame

theorem execClbmodeWrite : Sound s (execClbmodeWrite s) := ite (Carries.refl s) (Carries.refl s)

theorem execBankModeChange : Sound s (execBankModeChange s) := by
  refine ite (Carries.refl s) ?_
  split
  · exact Carries.refl s
  next b _ =>
  have hempty : Carries s (s.emptyBank b.cluster b.bank) := .emptyBank (.refl s) _ _
  have hchanged := hempty.changeBank b
  refine ite (Carries.refl s) ?_
  dsimp only
  refine ite hempty ?_
  split
  · exact hchanged
  · exact hchanged

theorem wakeOp (i : Instr) (find : Ctx → WaitEntry → Bool) : Sound s (wakeOp i find s) := issue fun c _ => by
  have hstart : ∀ o, Carries s (c.start i o s) := .start (.refl s) c i
  dsimp only
  split
  · exact (hstart _).wake _
  · exact hstart _

end Sound

/-! ### Translation commands (R37 to R41, R400) -/

namespace Carries

theorem flushLine (h : Carries s t) (home line : Nat) : Carries s (t.flushLine home line) := by
  have hcleaned : Carries s (t.cleanLine home line) := (carries_homeSide s).cleanLine t home line h
  exact ite hcleaned hcleaned

theorem flushLines (h : Carries s t) (first len : Nat) : Carries s (t.flushLines first len) := foldl _ h fun t _ => (refl t).flushLine _ _

theorem flushSpan (h : Carries s t) (first len : Nat) : Carries s (t.flushSpan first len) := h.flushLines first len

theorem tcStart (h : Carries s t) (op : Nat) (ok : Bool) {f : State → State} (hf : ∀ u, Carries s u → Carries s (f u)) :
    Carries s (t.tcStart op ok f) := ite h (hf _ h)

theorem postHeld (h : Carries s t) (x : HeldWb) : Carries s (t.postHeld x) := ite h h

theorem rewalk (h : Carries s t) (x : HeldWb) : Carries s (t.rewalk x) := by
  have hwalked := (carries_homeSide s).walk (16 * x.sector) t h
  unfold State.rewalk
  split
  · next heq =>
    rw [heq] at hwalked
    exact ite hwalked (hwalked.physWrite _ _ _)
  · next heq =>
    rw [heq] at hwalked
    exact hwalked.postHeld x

theorem ovfAgain (h : Carries s t) (met : Nat → Bool) (launch : Nat) (l : Launch) : Carries s (t.ovfAgain met launch l) := by
  unfold State.ovfAgain
  split
  · exact ite h ((carries_confirm _ true).on h (fun u _ => h.keepFull u) (fun _ _ hu => hu.modLaunch _ _) fun _ _ _ _ hu => hu)
  · exact h

end Carries

namespace Sound

theorem execTcInv : Sound s (execTcInv s) := Carries.tcStart (.refl s) _ _ fun _ h => h

theorem execTcInvFlush : Sound s (execTcInvFlush s) := Carries.tcStart (.refl s) _ _ fun u h => .flushSpan (t := u.dropSpan _ _) h _ _

theorem execTcInvAll : Sound s (execTcInvAll s) := Carries.tcStart (.refl s) _ _ fun _ h => h

theorem execTcPcopy : Sound s (execTcPcopy s) := Carries.tcStart (.refl s) _ _ fun _ h => h.copyPhys _ _ _

theorem execTccmdInvalid : Sound s (execTccmdInvalid s) := ite (Carries.refl s) (Carries.refl s)

theorem execTcCommandDone : Sound s (execTcCommandDone s) := by
  refine ite (Carries.refl s) ?_
  have hflushed : Carries s (if s.tc.runOp = 2 then s.flushLines s.tc.runFirst (s.tc.runCount * 65536) else s) :=
    .ite (.flushLines (.refl s) _ _) (.refl s)
  dsimp only
  generalize (if s.tc.runOp = 2 then s.flushLines s.tc.runFirst (s.tc.runCount * 65536) else s) = u at hflushed
  refine ite hflushed (.frame ?_)
  exact .foldl _ (.foldl _ hflushed fun t _ => (Carries.refl t).rewalk _) fun t _ => (Carries.refl t).ovfAgain _ _ _

theorem execTcstatRead : Sound s (execTcstatRead s) := Carries.refl s

theorem execPageTableWrite : Sound s (execPageTableWrite s) := ite (Carries.refl s) (.physWrite (.refl s) _ _ _)

end Sound

/-! ### Registers and rings (R416 to R427) -/

theorem Carries.apexWrite (h : Carries s t) (off size : Nat) (v : BitVec 64) : Carries s (t.apexWrite off size v) :=
  ite h (ite h (ite h (ite h h)))

namespace Sound

theorem execRegisterWrite : Sound s (execRegisterWrite s) := by
  have hstay := Carries.refl s
  exact ite hstay (ite (.apexWrite hstay _ _ _) (ite hstay.frame (ite hstay.frame (ite hstay.frame (ite hstay.frame (ite hstay.frame hstay))))))

end Sound

theorem Carries.setRing (h : Carries s t) (service : Bool) (r : Ring) : Carries s (t.setRing service r) := ite h h

namespace Sound

theorem execRingPosting : Sound s (execRingPosting s) := by
  unfold Machine.execRingPosting
  dsimp only
  split
  · exact Carries.refl s
  refine ite (Carries.refl s) (ite (.setRing (.refl s) _ _) ?_)
  have hwritten := fun pa v n r => ((Carries.refl s).physWrite pa v n).setRing s.ev.on r
  exact ite (hwritten _ _ _ _) (hwritten _ _ _ _)

theorem execRingRegWrite : Sound s (execRingRegWrite s) := by
  have hset : ∀ r, Carries s (s.setRing s.ev.on r) := .setRing (.refl s) _
  exact ite (Carries.refl s) (ite (hset _) (hset _))

end Sound

theorem carries_immBytes (ipa : Nat) (bs : List Byte) (n : Nat) : Keeps (Carries s) (immBytes ipa bs n) := by
  induction n generalizing ipa bs with
  | zero => exact Keeps.pure _
  | succ n ih => exact Keeps.bind (carries_immWrite _ _ _) fun _ => ih _ _

namespace Sound

theorem execEventPost : Sound s (execEventPost s) := by
  unfold Machine.execEventPost
  split
  · exact Carries.refl s
  refine ite (Carries.refl s) (ite (Carries.refl s) (ite (Carries.refl s) ?_))
  exact (carries_immBytes _ _ _).on_of (.refl s) (fun u _ => .keepFull (.refl s) u) (fun _ _ hu => hu) fun _ _ _ _ hu => hu

theorem execEvqRegWrite : Sound s (execEvqRegWrite s) := ite (Carries.refl s) (ite (Carries.refl s) (Carries.refl s))

end Sound

/-! ### Answers, kills and host accesses (R410, R425 to R431) -/

/-- An answer's two words given to strands change the scalars only. -/
theorem foldl_answer_only (a0 a1 : Word) (ts : List Nat) (g : Group) :
    ∃ r, ts.foldl (fun g t => (g.sset 0 t a0).sset 1 t a1) g = { g with s := r } := by
  induction ts generalizing g with
  | nil => exact ⟨g.s, rfl⟩
  | cons t ts ih => exact ih _

theorem Group.Like.answer (g : Group) (seq : Nat) (a0 a1 : Word) : g.Like (g.answer seq a0 a1) := by
  have hanswered : ∀ sts, sts.length ≤ 8 → (answered seq sts).length ≤ 8 := fun _ h => (List.length_map _).trans_le h
  unfold Group.answer
  dsimp only
  obtain ⟨r, hr⟩ := foldl_answer_only a0 a1 (waitersOf seq g.strands) g
  rw [hr]
  split
  · exact ⟨rfl, fun hg => ⟨hanswered _ hg.1, hg.2⟩⟩
  · next h hh =>
    obtain ⟨r', hr'⟩ := foldl_answer_only a0 a1 (waitersOf seq h.strands) { g with s := r, strands := answered seq g.strands }
    rw [hr']
    refine ⟨rfl, fun hg => ⟨hanswered _ hg.1, fun h' hh' => ?_⟩⟩
    cases hh'
    exact hanswered _ (hg.2 h hh)

namespace Sound

theorem execSyscallAnswer : Sound s (execSyscallAnswer s) :=
  ((Carries.refl s).mapGroups (f := fun e => (e.1, e.2.answer _ _ _)) fun e => ⟨rfl, .answer e.2 _ _ _⟩).frame

theorem execGkill : Sound s (execGkill s) := Carries.foldl _ (.refl s) fun t g => by
  dsimp only
  split
  · exact .retireGroup (.abortTasks (.refl t) _ _) _
  · exact .retireGroup (.refl t) _

theorem execCareClear : Sound s (execCareClear s) := Carries.refl s

end Sound

theorem carries_hostReadBytes (ipa n : Nat) : Keeps (Carries s) (hostReadBytes ipa n) := by
  induction n generalizing ipa with
  | zero => exact Keeps.pure _
  | succ n ih => exact Keeps.bind (carries_immRead _ _) fun _ => Keeps.bind (ih _) fun _ => Keeps.pure _

theorem carries_hostWriteBytes (ipa v n : Nat) : Keeps (Carries s) (hostWriteBytes ipa v n) := by
  induction n generalizing ipa v with
  | zero => exact Keeps.pure _
  | succ n ih => exact Keeps.bind (carries_immWrite _ _ _) fun _ => ih _ _

namespace Sound

theorem execHostIpaAccess : Sound s (execHostIpaAccess s) := by
  refine ite (Carries.refl s) (ite ?_ ?_)
  · exact (Keeps.ite (carries_immWrite _ _ _) (carries_hostWriteBytes _ _ _)).on_of (.refl s) (fun u _ => .keepFull (.refl s) u)
      (fun _ _ hu => hu) fun _ _ _ _ hu => hu
  · exact (Keeps.ite (carries_immRead _ _) (carries_hostReadBytes _ _)).on_of (.refl s) (fun u _ => .keepFull (.refl s) u)
      (fun _ _ hu => hu) fun _ _ _ _ hu => hu

/-! ### Boot, attestation and the links (R432 to R447) -/

theorem execBootRom : Sound s (execBootRom s) := ite (Carries.refl s) (Carries.refl s)

theorem execImageVerify : Sound s (execImageVerify s) :=
  ite (Carries.refl s) (ite (Carries.refl s) (ite (Carries.refl s) (Carries.refl s)))

theorem execFullServiceStart : Sound s (execFullServiceStart s) := ite (Carries.refl s) (Carries.refl s)

theorem execAcmd : Sound s (execAcmd s) := ite (Carries.refl s) (ite (Carries.refl s) (Carries.refl s))

theorem execAttestReportReady : Sound s (execAttestReportReady s) := ite (Carries.refl s) (Carries.refl s)

theorem execFlitReceive : Sound s (execFlitReceive s) := ite (Carries.refl s) (Carries.refl s)

theorem execFlitReplay : Sound s (execFlitReplay s) := ite (Carries.refl s) (Carries.refl s)

theorem execLaneFailure : Sound s (execLaneFailure s) := ite (Carries.refl s) (Carries.refl s)

theorem execTimebSync : Sound s (execTimebSync s) := ite (Carries.refl s) (ite (Carries.refl s) (Carries.refl s))

end Sound

end Sys2Proof.Machine
end

section
/-! SUPPORT. Ray, texture and closure instructions keep a safe run safe (R103, R302 to R367). -/

namespace Sys2Proof.Machine

open Sys2Proof

/- One proof at a time: those of this section would else wait for one another's equation lemmas in more threads than the memory limit allows. -/
set_option Elab.async false

variable {s t u : State} {c : Ctx} {i : Instr} {α β : Type}

/-! ### Engine actions -/

/-- What a safe run keeps carries over an engine's action, whether it succeeds or faults. -/
def EngCarries (s : State) (m : Eng α) : Prop := ∀ t, Carries s t → Carries s (m.run t).2

/-- An engine's action and then another: the second runs only after an answer. -/
theorem eng_run_bind (m : Eng α) (k : α → Eng β) (t : State) :
    (m >>= k).run t = match m.run t with | (.ok a, u) => (k a).run u | (.error f, u) => (.error f, u) := by
  show (ExceptT.bind m k).run t = _
  unfold ExceptT.bind ExceptT.run ExceptT.mk ExceptT.bindCont
  show (bind (m := StateM State) m _) t = _
  rcases h : m t with ⟨f | a, u⟩ <;> simp [bind, StateT.bind, h]
  rfl

namespace EngCarries

theorem pure (a : α) : EngCarries s (pure a : Eng α) := fun _ h => h

theorem fault (f : EngFault) : EngCarries s (engFault f : Eng α) := fun _ h => h

theorem bind {m : Eng α} {k : α → Eng β} (hm : EngCarries s m) (hk : ∀ a, EngCarries s (k a)) : EngCarries s (m >>= k) := by
  intro t h
  have hmt := hm t h
  rw [eng_run_bind]
  rcases hr : m.run t with ⟨f | a, u⟩ <;> rw [hr] at hmt
  · exact hmt
  · exact hk a u hmt

theorem update {f : State → State} (hf : ∀ t, Carries s t → Carries s (f t)) : EngCarries s (modify f : Eng Unit) := fun t h => hf t h

theorem ite {p : Prop} [Decidable p] {m n : Eng α} (hm : EngCarries s m) (hn : EngCarries s n) : EngCarries s (if p then m else n) := by
  split <;> assumption

theorem lift (va : Nat) {m : Mem α} (hm : Keeps (Carries s) m) : EngCarries s (Eng.lift va m) := fun _ h =>
  hm.on_of (Q := fun r : Except EngFault α × State => Carries s r.2) h (fun u _ => h.keepFull u) (fun _ _ hu => hu) fun _ _ _ _ hu => hu

theorem of_run {m : Eng α} {r : Except EngFault α} (hm : EngCarries s m) (h : Carries s t) (hr : m.run t = (r, u)) : Carries s u := by
  have hmt := hm t h
  rw [hr] at hmt
  exact hmt

/-! ### Objects and records (R10, R103) -/

theorem engSector (o : Op) (unit : Nat) (copies : Bool) (base : Nat) (l : Loc) : EngCarries s (engSector o unit copies base l) := by
  have hread : EngCarries s (do
      let d ← Eng.lift base (confirm l false >>= fun _ => committed l)
      modify (fun s => if unitKeeps unit then (s.keepCopy o.core (copyKey unit l) d).countRead else s)
      Pure.pure d : Eng (BitVec 128)) :=
    bind (lift base (Keeps.bind (carries_confirm l false) fun _ => carries_committed l)) fun d =>
      bind (update fun _ h => .ite (.ite h h) h) fun _ => pure d
  intro t h
  have hcount : ∀ k, Carries s (t.countCopy k) := fun k => .ite h h
  unfold Machine.engSector
  dsimp only [ExceptT.run]
  split
  · exact hcount _
  split
  · exact h
  · exact hread t h

theorem engSectors (o : Op) (unit : Nat) (copies : Bool) (base a n : Nat) : EngCarries s (engSectors o unit copies base a n) := by
  induction n generalizing a with
  | zero => exact pure _
  | succ n ih =>
    unfold Machine.engSectors
    split
    · exact fault _
    · exact bind (engSector _ _ _ _ _) fun _ => bind (ih _) fun _ => pure _

theorem engObject (o : Op) (unit : Nat) (copies : Bool) (va n : Nat) : EngCarries s (engObject o unit copies va n) := by
  unfold Machine.engObject
  split
  · exact fault _
  · exact bind (engSectors _ _ _ _ _ _) fun _ => pure _

theorem engRecord (o : Op) (unit : Nat) (copies : Bool) (index : Nat) : EngCarries s (engRecord o unit copies index) :=
  bind (engObject _ _ _ _ _) fun _ => pure _

/-! ### Rays (R302 to R318) -/

theorem bvhLine (o : Op) (copies : Bool) (va : Nat) : EngCarries s (bvhLine o copies va) := engObject _ _ _ _ _

theorem bvhBad (sub va : Nat) : EngCarries s (bvhBad sub va : Eng α) := fault _

theorem beyondBound (best : Option Hit) {m : Eng (Option Hit)} (hm : EngCarries s m) : EngCarries s (beyondBound best m) := by
  intro t h
  unfold Machine.beyondBound
  dsimp only [ExceptT.run]
  split
  · next hr => exact hm.of_run h hr
  · next hr =>
    have hu := hm.of_run h hr
    split
    · exact hu
    · exact h

theorem traceChildren (v : Nat) (r : Ray) (any soft : Bool) {enter : Enter} (henter : ∀ b k va r best, EngCarries s (enter b k va r best))
    (cs : List Nat) (best : Option Hit) : EngCarries s (traceChildren v r any soft enter cs best) := by
  induction cs generalizing best with
  | nil => exact pure _
  | cons c cs ih =>
    unfold Machine.traceChildren
    refine ite (pure _) (ite (ih _) ?_)
    dsimp only
    split
    · exact bind (beyondBound best (henter _ _ _ _ _)) fun _ => ih _
    · exact bind (henter _ _ _ _ _) fun _ => ih _

theorem traceNode (o : Op) (copies any : Bool) {leaf : Nat → Enter} (hleaf : ∀ n b k va r best, EngCarries s (leaf n b k va r best))
    (fuel : Nat) (soft : Bool) (va : Nat) (r : Ray) (best : Option Hit) : EngCarries s (traceNode o copies any leaf fuel soft va r best) := by
  induction fuel generalizing soft va r best with
  | zero => exact bvhBad _ _
  | succ fuel ih =>
    refine bind (bvhLine o copies va) fun v => ite (bvhBad _ _) (traceChildren v r any soft (fun b k va' r best => ?_) _ _)
    exact ite (ih _ _ _ _) (hleaf _ _ _ _ _ _)

theorem bottomLeaf (o : Op) (copies any : Bool) (instVa line node : Nat) (b : Bool) (k va : Nat) (r : Ray) (best : Option Hit) :
    EngCarries s (bottomLeaf o copies any instVa line node b k va r best) :=
  ite (bvhBad _ _) (bind (bvhLine o copies va) fun _ => ite (bvhBad _ _) (pure _))

theorem topLeaf (o : Op) (copies any : Bool) (node : Nat) (b : Bool) (k va : Nat) (r : Ray) (best : Option Hit) :
    EngCarries s (topLeaf o copies any node b k va r best) := by
  refine ite (bvhBad _ _) (bind (bvhLine o copies va) fun v => ?_)
  split
  · exact pure _
  · exact ite (bvhBad _ _) (traceNode o copies any (bottomLeaf o copies any va v) _ _ _ _ _)

theorem traceRay (o : Op) (copies any : Bool) (index : Nat) (r : Ray) : EngCarries s (traceRay o copies any index r) := by
  refine bind (engRecord o 1 copies index) fun e => ?_
  exact ite (bvhBad _ _) (ite (bvhBad _ _) (traceNode o copies any (topLeaf o copies any) _ _ _ _ _))

theorem rayLane (o : Op) (copies : Bool) (i : Instr) (l : Nat) : EngCarries s (rayLane o copies i l) := by
  have htrace : ∀ any index r (k : Option Hit → List Word), EngCarries s (do let h ← Machine.traceRay o copies any index r; Pure.pure (k h)) :=
    fun any index r k => bind (traceRay o copies any index r) fun _ => pure _
  unfold Machine.rayLane
  dsimp only
  split
  · exact ite (pure _) (htrace _ _ _ _)
  · exact ite (pure _) (htrace _ _ _ _)
  · exact ite (pure _) (htrace _ _ _ _)

end EngCarries

/-! ### Lanes of the engines (R34, R103, R308) -/

namespace Carries

theorem dropCopiesOf (h : Carries s t) (core unit : Nat) : Carries s (t.dropCopiesOf core unit) := h

theorem endEngine (h : Carries s t) (o : Op) (x : LateTrap) : Carries s (t.endEngine o x) := h

theorem engineFault (h : Carries s t) (o : Op) (n : Nat) (f : EngFault) : Carries s (t.engineFault o n f) := by
  unfold State.engineFault
  refine ite h (ite ?_ (h.endEngine o _))
  split
  · split
    · next he => exact h.enterWait he
    · exact h.endEngine o _
  · exact ite (getD (fun _ hu => h.taskNotPresent hu) (h.endEngine o _)) (h.endEngine o _)

theorem writeLane (h : Carries s t) (o : Op) (ws : List (RegElem × Word)) : Carries s (t.writeLane o ws) :=
  h.modGroup _ _ fun g => .writeElems (.refl g) ws

theorem gfxStart (h : Carries s t) (i : Instr) (kind : OpKind) (x : GFX) (run unit : Nat) (acq : Bool) (more : List Req) (c : Ctx) :
    Carries s (gfxStart i kind x run unit acq more c t) := by
  refine .start (ite ?_ h) c i _
  exact h.dropCopiesOf _ _

end Carries

namespace Sound

theorem rayStart (i : Instr) (x : GFX) : Sound s (rayStart i x s) := issue fun c _ =>
  ite (.waitOn (.refl s) c _) (.gfxStart (.refl s) i _ x _ _ _ _ c)

theorem execRayLaneFinish : Sound s (execRayLaneFinish s) := by
  unfold Machine.execRayLaneFinish
  split
  · exact Carries.refl s
  next o _ =>
  split
  · next i r _ _ =>
    refine ite (Carries.refl s) ?_
    dsimp only
    split
    · next ws u hr =>
      have hu : Carries s u := EngCarries.of_run (EngCarries.rayLane _ _ _ _) (.refl s) hr
      exact hu.writeLane o _
    · next f u hr => exact (EngCarries.of_run (EngCarries.rayLane _ _ _ _) (.refl s) hr).engineFault _ _ _
  · exact Carries.refl s

end Sound

/-! ### Textures (R319 to R343) -/

namespace EngCarries

theorem texRecord (o : Op) (copies : Bool) (index : Nat) : EngCarries s (texRecord o copies index) :=
  bind (engRecord _ _ _ _) fun _ => ite (fault _) (ite (fault _) (pure _))

theorem tryEng {m : Eng α} (hm : EngCarries s m) : EngCarries s (tryEng m) := by
  intro t h
  unfold Machine.tryEng
  dsimp only [ExceptT.run]
  split
  · next hr => exact hm.of_run h hr
  · next hr =>
    have hu := hm.of_run h hr
    split
    · exact hu
    · exact hu

theorem texelRead (o : Op) (copies : Bool) (x : TexRec) (layer n a b : Nat) : EngCarries s (texelRead o copies x layer n a b) :=
  bind (tryEng (engObject _ _ _ _ _)) fun _ => pure _

theorem tapsRead (o : Op) (copies : Bool) (x : TexRec) (layer n : Nat) (taps : List (Nat × Nat × Nat)) :
    EngCarries s (tapsRead o copies x layer n taps) := by
  induction taps with
  | nil => exact pure _
  | cons tap taps ih => exact bind (texelRead _ _ _ _ _ _ _) fun _ => bind ih fun _ => pure _

theorem mapByte (o : Op) (copies : Bool) (x : TexRec) (q : TexLane) : EngCarries s (mapByte o copies x q) := engObject _ _ _ _ _

theorem sampleLevel (o : Op) (copies : Bool) (x : TexRec) (q : TexLane) (l g : Nat) : EngCarries s (sampleLevel o copies x q l g) :=
  bind (tapsRead _ _ _ _ _ _) fun _ => ite (pure _) (bind (tapsRead _ _ _ _ _ _) fun _ => pure _)

theorem fallback (o : Op) (copies : Bool) (x : TexRec) (q : TexLane) (fuel l g status : Nat) : EngCarries s (fallback o copies x q fuel l g status) := by
  induction fuel generalizing l g status with
  | zero => exact pure _
  | succ fuel ih =>
    refine bind (sampleLevel _ _ _ _ _ _) fun c => ?_
    split
    · exact pure _
    · exact ite (pure _) (ih _ _ _)

theorem texSample (o : Op) (copies : Bool) (x : GFX) (load : Bool) (lane : Nat) : EngCarries s (texSample o copies x load lane) :=
  bind (texRecord _ _ _) fun _ => bind (mapByte _ _ _ _) fun _ => bind (fallback _ _ _ _ _ _ _ _) fun _ => pure _

theorem texQuery (o : Op) (copies : Bool) (lane : Nat) : EngCarries s (texQuery o copies lane) :=
  bind (texRecord _ _ _) fun _ => bind (mapByte _ _ _ _) fun _ => pure _

theorem texLane (o : Op) (copies : Bool) (i : Instr) (lane : Nat) : EngCarries s (texLane o copies i lane) := by
  unfold Machine.texLane
  split
  · exact texSample _ _ _ _ _
  · exact texSample _ _ _ _ _
  · exact texQuery _ _ _

theorem engLoc (o : Op) (va : Nat) (rd : Bool) : EngCarries s (engLoc o va rd) := by
  unfold Machine.engLoc
  split
  · exact fault _
  · exact pure _

theorem reserveSlot (o : Op) (c : FeedbackCand) : EngCarries s (reserveSlot o c) := by
  refine bind (engLoc _ _ _) fun l => bind (lift _ (carries_immRead _ _)) fun v => ite ?_ ?_
  · exact bind (lift _ (carries_immWrite _ _ _)) fun _ => pure _
  · exact bind (lift _ (carries_immWrite _ _ _)) fun _ => pure _

theorem writeEntry (o : Op) (c : FeedbackCand) (k : Nat) : EngCarries s (writeEntry o c k) :=
  bind (engLoc _ _ _) fun _ => lift _ (carries_immWrite _ _ _)

end EngCarries

namespace Carries

theorem setCands (h : Carries s t) (id : Nat) (cs : List FeedbackCand) : Carries s (t.setCands id cs) := h

theorem acceptKey (h : Carries s t) (core : Nat) (c : FeedbackCand) : Carries s (t.acceptKey core c) := h

theorem writeCands (h : Carries s t) (o : Op) (n : Nat) (cs : List FeedbackCand) : Carries s (t.writeCands o n cs) := by
  induction cs generalizing t with
  | nil => exact h
  | cons c cs ih =>
    have hkey : Carries s (if c.passed then t else t.acceptKey o.core c) := ite h (h.acceptKey _ _)
    unfold State.writeCands
    refine ite (ih h) ?_
    dsimp only
    split
    · split
      · next hr => exact ih ((EngCarries.writeEntry _ _ _).of_run hkey hr)
      · next hr =>
        have hu := (EngCarries.writeEntry _ _ _).of_run hkey hr
        exact engineFault (by exact hu) _ _ _
    split
    · next hr =>
      have hu := (EngCarries.reserveSlot _ _).of_run hkey hr
      exact engineFault (by exact hu) _ _ _
    · next hr => exact ih (((EngCarries.reserveSlot _ _).of_run hkey hr).modGroup _ _)
    · next hr =>
      have hu := (EngCarries.reserveSlot _ _).of_run hkey hr
      split
      · next hw => exact ih ((EngCarries.writeEntry _ _ _).of_run hu hw)
      · next hw =>
        have hv := (EngCarries.writeEntry _ _ _).of_run hu hw
        exact engineFault (by exact hv) _ _ _

theorem serveTexLane (h : Carries s t) (id n : Nat) : Carries s (t.serveTexLane id n) := by
  unfold State.serveTexLane
  split
  · exact h
  next o _ =>
  split
  · refine ite h ?_
    split
    · next ws cand u hr =>
      have hu : Carries s u := (EngCarries.texLane _ _ _ _).of_run h hr
      exact hu.writeLane o _
    · next hr => exact ((EngCarries.texLane _ _ _ _).of_run h hr).engineFault _ _ _
  · exact h

theorem serveTex (h : Carries s t) (id : Nat) : Carries s (t.serveTex id) := by
  unfold State.serveTex
  split
  · exact h
  next o _ =>
  have hlanes := foldl (f := fun s k => s.serveTexLane id k) (texOrder o) h fun t _ => (refl t).serveTexLane _ _
  dsimp only
  split
  · exact hlanes
  split
  · exact ite hlanes (settlePerformed (hlanes.writeCands _ _ _) _)
  · exact hlanes

end Carries

theorem Sound.texStart (i : Instr) (x : GFX) : Sound s (texStart i x s) := issue fun c _ => .gfxStart (.refl s) i _ x _ _ _ _ c

/-! ### Closures (R344 to R367) -/

namespace EngCarries

theorem readNet (o : Op) (copies : Bool) (index : Nat) : EngCarries s (readNet o copies index) := by
  refine bind (engRecord _ _ _ _) fun _ => ite (fault _) (ite (fault _) (ite (fault _) ?_))
  exact bind (engObject _ _ _ _ _) fun _ => ite (fault _) (pure _)

theorem readNets (o : Op) (copies : Bool) (ns : List Nat) : EngCarries s (readNets o copies ns) := by
  induction ns with
  | nil => exact pure _
  | cons n ns ih => exact bind (readNet _ _ _) fun _ => bind ih fun _ => pure _

end EngCarries

namespace Group.Like

theorem kset (g : Group) (n l v : Nat) : g.Like (g.kset n l v) := ⟨rfl, id⟩

theorem buildLane (g : Group) (i : Instr) (l : Nat) (ws : List Word) : g.Like (g.buildLane i l ws) := by
  unfold Group.buildLane
  dsimp only
  split
  · exact (kset g _ _ _).trans (ite (refl _) ⟨rfl, id⟩)
  · exact ite (refl g) ⟨rfl, id⟩

theorem closureLane (g : Group) (i : Instr) (o : Op) (nets : List Net) (l : Nat) : g.Like (g.closureLane i o nets l) := by
  have hwrite : ∀ ws : List (RegElem × Word), g.Like (ws.foldl Group.writeElem g) := writeElems (refl g)
  unfold Group.closureLane
  dsimp only
  split
  · exact kset g _ _ _
  · exact buildLane g _ _ _
  · exact buildLane g _ _ _
  · exact buildLane g _ _ _
  · exact buildLane g _ _ _
  · exact hwrite _
  · exact hwrite _
  · exact hwrite _
  · exact hwrite _
  · exact kset g _ _ _
  · exact refl g

end Group.Like

namespace Carries

theorem gatherNets (h : Carries s t) (o : Op) (i : Instr) (g : Group) (rs : List (Nat × Req)) : Carries s (t.gatherNets o i g rs).1 := by
  induction rs generalizing t with
  | nil => exact h
  | cons e rs ih =>
    unfold State.gatherNets
    split
    · next f u hr =>
      have hu := ((EngCarries.readNets _ _ _).of_run h hr).engineFault o e.1 f
      dsimp only
      split
      · split
        · exact hu
        · exact ih hu
      · exact hu
    · next hr =>
      have hu := ih ((EngCarries.readNets _ _ _).of_run h hr)
      split <;> (next heq => rw [heq] at hu; exact hu)

theorem closureLanes (h : Carries s t) (o : Op) (i : Instr) (lanes : List (Nat × List Net)) : Carries s (t.closureLanes o i lanes) := by
  have hlanes : ∀ g : Group, g.Like (lanes.foldl (fun g e => g.closureLane i o e.2 e.1) g) := fun g =>
    Group.Like.foldl lanes (Group.Like.refl g) fun g e => Group.Like.closureLane g i o e.2 e.1
  exact h.modGroup o.gid _ hlanes

theorem serveClosure (h : Carries s t) (o : Op) (i : Instr) : Carries s (t.serveClosure o i) := by
  unfold State.serveClosure
  split
  · exact h
  next g _ =>
  dsimp only
  split
  · exact h.endEngine o _
  refine ite h ?_
  have hgathered := h.gatherNets o i g o.waitingLanes
  split
  · next heq =>
    rw [heq] at hgathered
    exact hgathered
  · next heq =>
    rw [heq] at hgathered
    exact settlePerformed (hgathered.closureLanes o i _) _

theorem finishClosure (h : Carries s t) (fuel id : Nat) (i : Instr) : Carries s (State.finishClosure fuel t id i) := by
  induction fuel generalizing t with
  | zero => exact h
  | succ fuel ih =>
    unfold State.finishClosure
    split
    · exact h
    next o _ =>
    split
    · exact h
    next g _ =>
    refine ite h ?_
    have hgathered := h.gatherNets o i g o.waitingLanes
    split
    · next heq =>
      rw [heq] at hgathered
      exact settlePerformed (hgathered.closureLanes o i _) _
    · next heq =>
      rw [heq] at hgathered
      exact ih hgathered

theorem fillReq (h : Carries s t) (o : Op) (k n : Nat) (r : Req) : Carries s (t.fillReq o k n r) :=
  (carries_loadValue o r).on h (fun u _ => h.keepFull u) (fun _ _ hu => hu) fun _ _ _ _ hu => hu.faultReq o n r _ _ _

theorem fillAll (h : Carries s t) (o : Op) (k : Nat) (rs : List (Nat × Req)) (hu : t.fillAll o k rs = some u) : Carries s u := by
  have hfilled := foldl (f := fun s e => if (s.op? o.id).isNone then s else s.fillReq o k e.1 e.2) rs h
    fun t e => ite (refl t) ((refl t).fillReq _ _ _ _)
  unfold State.fillAll at hu
  dsimp only at hu
  split at hu
  · split at hu
    · cases hu
    · cases hu; exact hfilled
  · cases hu; exact hfilled

theorem reqsDone (h : Carries s t) (id : Nat) (rs : List (Nat × Req)) : Carries s (t.reqsDone id rs) := foldl rs h

theorem spillAll (h : Carries s t) (o : Op) (g : Group) (k : Nat) (rs : List (Nat × Req)) : ∀ u, t.spillAll o g k rs = some u → Carries s u := by
  have hdone : ∀ {m : Mem Unit}, Keeps (Carries s) m → ∀ u,
      m.on t (fun _ => (none : Option State)) (fun _ s => some s) (fun _ _ _ s => some s) = some u → Carries s u := fun hm =>
    hm.on_of (Q := fun v : Option State => ∀ u, v = some u → Carries s u) h (fun _ _ _ hu => nomatch hu)
      (fun _ _ hv _ hu => by cases hu; exact hv) fun _ _ _ _ hv _ hu => by cases hu; exact hv
  unfold State.spillAll
  dsimp only
  split
  · exact hdone (carries_storeAll _ _)
  · exact hdone (Keeps.eachDo fun _ _ => carries_taskWrite _ _ _ _ _)

theorem endIfFaulted (h : Carries s t) (id : Nat) : Carries s (t.endIfFaulted id) := by
  unfold State.endIfFaulted
  split
  · refine ite h ?_
    split
    · exact h.endFaulted _ _
    · exact h
  · exact h

theorem spillFill (h : Carries s t) (o : Op) (i : Instr) (rs : List (Nat × Req)) (hu : t.spillFill o i rs = some u) : Carries s u := by
  unfold State.spillFill at hu
  split at hu
  · cases hu; exact h
  dsimp only at hu
  split at hu
  · split at hu
    · cases hu; exact h
    · obtain ⟨v, hv, rfl⟩ := Option.map_eq_some_iff.mp hu
      exact reqsDone (h.spillAll _ _ _ _ v hv) _ _
  · split at hu
    · cases hu; exact h
    · exact h.fillAll _ _ _ hu

theorem serveSpillFill (h : Carries s t) (o : Op) (i : Instr) : Carries s (t.serveSpillFill o i) := by
  refine ite h ?_
  split
  · next u hu => exact endIfFaulted (settlePerformed (h.spillFill _ _ _ hu) _) _
  · exact h

theorem finishSpillFill (h : Carries s t) (o : Op) (i : Instr) : Carries s (t.finishSpillFill o i) :=
  landResults (getD (fun _ hu => h.spillFill _ _ _ hu) h) _

theorem serveFacet (h : Carries s t) (o : Op) : Carries s (t.serveFacet o) := by
  refine ite h ?_
  split
  · exact h.serveClosure _ _
  · exact h.serveSpillFill _ _
  · exact h

end Carries

namespace Sound

theorem closureOp (i : Instr) (x : GFX) (run : Nat) (acq : Bool) : Sound s (closureOp i x run acq s) :=
  issue fun c _ => .gfxStart (.refl s) i _ x _ _ _ _ c

theorem spillFillOp (i : Instr) (x : GFX) (store : Bool) : Sound s (spillFillOp i x store s) := issue fun c _ => .start (.refl s) c i _

end Sound

end Sys2Proof.Machine
end

section
/-! SUPPORT. Prism, completions, fetches, system registers and the scheduling of groups and teams keep a safe run safe (R35, R172 to R185, R255, R284
to R297, R369 to R397). -/

namespace Sys2Proof.Machine

open Sys2Proof

/- One proof at a time: those of this section would else wait for one another's equation lemmas in more threads than the memory limit allows. -/
set_option Elab.async false

variable {s t u : State} {c : Ctx} {i : Instr}

/-! ### Prism (R283 to R297) -/

namespace Carries

theorem modCore (h : Carries s t) (core : Nat) (f : CoreState → CoreState) : Carries s (t.modCore core f) := h

theorem modPrism (h : Carries s t) (core : Nat) (f : Prism → Prism) : Carries s (t.modPrism core f) := h

theorem modOp (h : Carries s t) (id : Nat) (f : Op → Op) : Carries s (t.modOp id f) := h

theorem modCmd (h : Carries s t) (id : Nat) (f : PrismCmd → PrismCmd) : Carries s (t.modCmd id f) := h

theorem arrive (h : Carries s t) (id : Nat) : Carries s (t.arrive id) := h

theorem finishCmd (h : Carries s t) (o : Op) : Carries s (t.finishCmd o) := (h.modOp _ _).modPrism _ _

theorem prismSend (h : Carries s t) (i : Instr) (c : Ctx) (p : PrismCmd) (banks : List Nat) : Carries s (prismSend i c p banks t) :=
  .modPrism (.start h c i _) _ _

theorem faultCmd (h : Carries s t) (o : Op) (f : EngFault) : Carries s (t.faultCmd o f) := by
  have hends : ∀ x, Carries s (State.faultCmd.ends o x t) := fun x => by
    unfold State.faultCmd.ends
    split
    · exact (h.modOp _ _).modCmd _ _
    · exact ((h.modOp _ _).modPrism _ _).finishCmd _
    · exact ((h.endCommand o).modOp _ _).finishCmd _
  refine ite h (ite ?_ (hends _))
  split
  · next he => exact h.enterWait he
  · exact hends _

theorem loadTile (h : Carries s t) (o : Op) (x : ENG) (va : Nat) : Carries s (t.loadTile o x va) := by
  have hread : ∀ mw, EngCarries s (readTile o va mw) := fun _ => .engObject _ _ _ _ _
  unfold State.loadTile
  dsimp only
  split
  · next hr => exact (((hread _).of_run h hr).modPrism _ _).finishCmd _
  · next hr => exact ((hread _).of_run h hr).faultCmd _ _

theorem pushStat (h : Carries s t) (o : Op) (x : ENG) (pos : Nat) : Carries s (t.pushStat o x pos) :=
  ite (h.modCmd _ _) ((h.modPrism _ _).finishCmd _)

theorem stepTile (h : Carries s t) (o : Op) (p : PrismCmd) (k : Nat) : Carries s (t.stepTile o p k) := by
  have hread : ∀ va mw, EngCarries s (readTile o va mw) := fun _ _ => .engObject _ _ _ _ _
  unfold State.stepTile
  dsimp only
  split
  · next hr => exact (((hread _ _).of_run h hr).modPrism _ _).modCmd _ _
  · next hr => exact ((hread _ _).of_run h hr).faultCmd _ _

theorem setFull (h : Carries s t) (cluster la : Nat) (b : Bool) : Carries s (t.setFull cluster la b) := h

theorem runGranule (h : Carries s t) (o : Op) (x : ENG) (p : PrismCmd) : Carries s (t.runGranule o x p) := by
  have htaken : ∀ cl la f, Carries s (((t.setFull cl la false).modCmd o.id f).arrive o.id) := fun _ _ _ => ((h.setFull _ _ _).modCmd _ _).arrive _
  have hadded : ∀ cl la f g (d : Bool), Carries s (if d then (((t.setFull cl la false).modCmd o.id f).arrive o.id).modPrism o.core g
      else ((t.setFull cl la false).modCmd o.id f).arrive o.id) := fun _ _ _ _ _ => ite ((htaken _ _ _).modPrism _ _) (htaken _ _ _)
  unfold State.runGranule
  dsimp only
  exact ite (h.stepTile _ _ _) (ite h (ite ((hadded _ _ _ _ _).finishCmd _) (hadded _ _ _ _ _)))

theorem drainRun {o : Op} {i : Instr} {x : ENG} {p : PrismCmd} {g pos : Nat} {r : Except EngFault Bool} (h : Carries s t)
    (hr : (drainPut o i x p g pos).run t = (r, u)) : Carries s u := by
  have hstore : ∀ va l k v, EngCarries s (do
      Eng.lift va (confirm l true >>= fun _ => engineWrite o.core k l (BitVec.allOnes 16) (BitVec.ofNat 128 v))
      pure true : Eng Bool) := fun _ _ _ _ => .bind (.lift _ (Keeps.bind (carries_confirm _ _) fun _ => carries_engineWrite _ _ _ _ _)) fun _ => .pure _
  unfold drainPut at hr
  dsimp only [ExceptT.run] at hr
  split at hr
  · split at hr
    · cases hr; exact h
    · split at hr
      · cases hr; exact h
      · exact (hstore _ _ _ _).of_run h hr
  · cases hr; exact h.localWrite _ _ _ _
  · split at hr
    · cases hr; exact h
    · cases hr; exact h.localWrite _ _ _ _
  · split at hr <;> cases hr <;> exact h

theorem endDrain (h : Carries s t) (o : Op) (i : Instr) : Carries s (t.endDrain o i) := by
  unfold State.endDrain
  split
  · exact h.engineRelease o
  · exact h

theorem drainGranule (h : Carries s t) (o : Op) (i : Instr) (x : ENG) (p : PrismCmd) : Carries s (t.drainGranule o i x p) := by
  unfold State.drainGranule
  dsimp only
  split
  · next hr => exact h.drainRun hr
  · next hr => exact (h.drainRun hr).faultCmd _ _
  · next v hr =>
    have hv : ∀ q, Carries s ((v.modCmd o.id q).arrive o.id) := fun _ => ((h.drainRun hr).modCmd _ _).arrive _
    have hmoved : ∀ q acc (d : Prop) [Decidable d], Carries s (if d then ((v.modCmd o.id q).arrive o.id).modPrism o.core acc
        else (v.modCmd o.id q).arrive o.id) := fun q _ _ => ite ((hv q).modPrism _ _) (hv q)
    exact ite ((hmoved _ _ _).endDrain o i) (hmoved _ _ _)

theorem prismGranule (h : Carries s t) (o : Op) : Carries s (t.prismGranule o) := by
  unfold State.prismGranule
  split
  · refine ite h ?_
    split
    · exact h.runGranule _ _ _
    · exact h.drainGranule _ _ _ _
    · exact h.drainGranule _ _ _ _
    · exact h.drainGranule _ _ _ _
    · exact h.drainGranule _ _ _ _
    · exact h
  · exact h

end Carries

namespace Sound

theorem prismIssue {body : Ctx → State → Out} (hbody : ∀ c, Sound s (body c s)) : Sound s (prismIssue i s body) := issue fun c _ => by
  split
  · exact ite (hbody c) (.waitOn (.refl s) c _)
  · exact hbody c

theorem prismTrap (h : Carries s t) (c : Ctx) (sub addr : Nat) : Sound s (prismTrap c sub addr t) := raiseHere h c _ _ _

theorem execMmload (x : ENG) : Sound s (execMmload x s) := prismIssue fun c => by
  refine ite (raiseHere (.refl s) c _ _ _) ?_
  split
  · exact raiseHere (.refl s) c _ _ _
  · exact ite (prismTrap (.refl s) c _ _) (.prismSend (.refl s) _ c _ _)

theorem execMmrun (x : ENG) : Sound s (execMmrun x s) := prismIssue fun c => by
  dsimp only
  split
  · exact raiseHere (.refl s) c _ _ _
  split
  · exact raiseHere (.refl s) c _ _ _
  split
  · exact prismTrap (.refl s) c _ _
  · exact ite (prismTrap (.refl s) c _ _) (ite (.block (.refl s) c) (ite (prismTrap (.refl s) c _ _)
      (.modGroup (.prismSend (.refl s) _ c _ _) _ _)))

theorem drainChecked (x : ENG) (c : Ctx) (addr : Nat) {k : Nat → Nat → State → Out} (hk : ∀ row count, Sound s (k row count s)) :
    Sound s (drainChecked x c addr s k) := by
  unfold Machine.drainChecked
  dsimp only
  split
  · exact prismTrap (.refl s) c _ _
  · exact ite (prismTrap (.refl s) c _ _) (hk _ _)

theorem execMmdrainMem (x : ENG) : Sound s (execMmdrainMem x s) := prismIssue fun c => by
  refine ite (raiseHere (.refl s) c _ _ _) (ite (raiseHere (.refl s) c _ _ _) ?_)
  split
  · exact raiseHere (.refl s) c _ _ _
  split
  · exact prismTrap (.refl s) c _ _
  · exact ite (prismTrap (.refl s) c _ _) (drainChecked x c _ fun _ _ => .prismSend (.refl s) _ c _ _)

theorem execMmdrainLoc (x : ENG) : Sound s (execMmdrainLoc x s) := prismIssue fun c =>
  ite (raiseHere (.refl s) c _ _ _) (ite (raiseHere (.refl s) c _ _ _) (ite (.block (.refl s) c) (ite (raiseHere (.refl s) c _ _ _)
    (drainChecked x c _ fun _ _ => .prismSend (.refl s) _ c _ _))))

theorem execMmdrainRing (x : ENG) : Sound s (execMmdrainRing x s) := prismIssue fun c => by
  dsimp only
  split
  · exact raiseHere (.refl s) c _ _ _
  · exact drainChecked x c _ fun _ _ => ite (.block (.refl s) c) (.modGroup (.prismSend (.refl s) _ c _ _) _ _)

theorem execMmdrainQ8 (x : ENG) : Sound s (execMmdrainQ8 x s) := prismIssue fun c =>
  drainChecked x c _ fun _ _ => .prismSend (.refl s) _ c _ _

theorem execMmdrainStat (x : ENG) : Sound s (execMmdrainStat x s) := prismIssue fun c => .prismSend (.refl s) _ c _ _

theorem execPrismCommandStart : Sound s (execPrismCommandStart s) := by
  have hstay := Carries.refl s
  unfold Machine.execPrismCommandStart
  split
  · exact hstay
  split
  · exact .loadTile hstay _ _ _
  · exact .pushStat hstay _ _ _
  · next o _ _ _ _ _ =>
    have hbegun : ∀ f, Carries s ((s.modCmd o.id f).arrive o.id) := fun f => (hstay.modCmd _ f).arrive _
    exact ite hstay (ite ((hbegun _).modOp _ _) (ite ((hbegun _).modPrism _ _) (hbegun _)))
  · exact Carries.ite hstay ((hstay.modCmd _ _).arrive _)
  · exact hstay

/-! ### Completions (R89, R120) -/

theorem execGranuleServe : Sound s (execGranuleServe s) := by
  have hstay := Carries.refl s
  unfold Machine.execGranuleServe
  split
  · exact hstay
  split
  · exact ite (hstay.prismGranule _) hstay
  · exact ite (hstay.serveLocal _ _ _ _ _ _ _) hstay
  · exact ite (hstay.serveCpy _ _ _ _ _) hstay
  · exact hstay

end Sound

theorem Carries.serveUnit (h : Carries s t) (o : Op) : Carries s (t.serveUnit o) := by
  refine ite h ?_
  split
  · exact h.serveTex _
  · exact h.serveFacet _
  · exact h.serveFacet _
  · exact h

theorem Sound.execLongLatencyComplete : Sound s (execLongLatencyComplete s) := by
  unfold Machine.execLongLatencyComplete
  split
  · exact Carries.refl s
  next o _ =>
  have hserved : Carries s (s.serveUnit o) := .serveUnit (.refl s) o
  dsimp only
  split
  · exact ite (hserved.completeOp _) hserved
  · exact hserved

/-! ### Fetches and time (R15, R17, R42, R127) -/

theorem carries_fetchLoc (ranges : Table (BitVec 64)) (pc : Nat) : Keeps (Carries s) (fetchLoc ranges pc) := by
  refine Keeps.ite (Keeps.fault _ _ _) ?_
  split
  · exact Keeps.pure _
  · exact Keeps.fault _ _ _

theorem carries_fetchWord (ranges : Table (BitVec 64)) (pc : Nat) : Keeps (Carries s) (fetchWord ranges pc) :=
  Keeps.bind (carries_fetchLoc _ _) fun _ => Keeps.bind (carries_confirm _ _) fun _ =>
    Keeps.bind ((carries_homeSide s).sector _ _ _) fun _ => Keeps.pure _

namespace Carries

theorem fetch (h : Carries s t) (ranges : Table (BitVec 64)) (pc : Addr) : Carries s (fetch ranges pc t).2 := by
  have hon : ∀ {ok : BitVec 64 → State → Fetched × State} {bad : Nat → Nat → Nat → State → Fetched × State} (at' : Nat) (v : State), Carries s v →
      (∀ w u, Carries s u → Carries s (ok w u).2) → (∀ cause sub ipa u, Carries s u → Carries s (bad cause sub ipa u).2) →
      Carries s ((fetchWord ranges at').on v (fun t => (.stalled, t)) ok bad).2 := fun at' v hv hok hbad =>
    (carries_fetchWord ranges at').on_of (Q := fun r : Fetched × State => Carries s r.2) hv (fun u _ => hv.keepFull u) hok hbad
  refine hon _ t h (fun w u hu => ?_) fun _ _ _ _ hu => hu
  split
  · exact hon _ u hu (fun _ _ hv => hv) fun _ _ _ _ hv => hv
  · exact hu

theorem noteFetch (h : Carries s t) (c : Ctx) (i : Instr) : Carries s (t.noteFetch c i) := h

theorem pass (h : Carries s t) (thirds : Nat) : Carries s (t.pass thirds) := by
  have hcounted : Carries s (t.countTime ((t.thirds + thirds) / 3)) := ite h h
  exact hcounted.frame

theorem tick (h : Carries s t) : Carries s t.tick := by
  have hpassed := h.pass (if t.boot.phase = 4 then 1 else 3)
  exact ite hpassed.frame hpassed.frame

end Carries

/-! ### System registers (R255) -/

theorem Group.Like.sset (g : Group) (n k : Nat) (w : Word) : g.Like (g.sset n k w) := ⟨rfl, id⟩

theorem Group.Like.spairSet (g : Group) (n k v : Nat) : g.Like (g.spairSet n k v) := ⟨rfl, id⟩

theorem Group.Like.sysWrite (g : Group) (n : Nat) (v : BitVec 64) : g.Like (g.sysWrite n v) := by
  unfold Group.sysWrite
  split <;> exact ⟨rfl, id⟩

namespace Sound

theorem execSread (x : SF) : Sound s (execSread x s) := issue fun c _ => finish (.refl s) c _ fun g => by
  split
  · exact .foldl _ (.refl g) fun g t => .ite (.spairSet g _ _ _) (.sset g _ _ _)
  · exact .refl g

theorem execSwrite (x : SF) : Sound s (execSwrite x s) := ends fun _ g => Group.Like.sysWrite g x.imm.toNat _

end Sound

/-! ### Range sets (R168) -/

theorem carries_launchSets (r : Table (BitVec 64)) (l : LaunchRec) : Keeps (Carries s) (launchSets r l) :=
  (carries_homeSide s).toMemSide.launchSets r l

theorem carries_loadRanges (launch : Nat) : Keeps (Carries s) (loadRanges launch) := by
  intro t h
  unfold loadRanges
  dsimp only [ExceptT.run]
  split
  · exact h
  · exact (carries_launchSets _ _).on_of (Q := fun r : Except (Nat × Nat × Nat) (Table (BitVec 64)) × State => Carries s r.2) h
      (fun u _ => h.keepFull u) (fun _ _ hu => hu.modLaunch _ _) fun _ _ _ _ hu => hu

/-! ### Turns of groups (R186 to R189, R201, R203) -/

namespace Sound

theorem execRegangMeet : Sound s (execRegangMeet s) := by
  unfold Machine.execRegangMeet
  split
  · exact Carries.refl s
  next g _ =>
  refine ite (Carries.refl s) ?_
  dsimp only
  split
  · exact .modGang (.refl s) _ _ _
  · exact ite (.deferTask (.refl s) _ _ _) (.takeTrap (.modGang (.refl s) _ _ _) _ _ _ _ _ _ _)

theorem execYieldEnd : Sound s (execYieldEnd s) := by
  unfold Machine.execYieldEnd
  split
  · exact Carries.refl s
  split
  · exact Carries.refl s
  · exact ite (.modGroup (.refl s) _ _) (Carries.refl s)

end Sound

theorem Carries.moveSet (h : Carries s t) (g : Group) (on : Bool) : Carries s (t.moveSet g on) := h.modGroup _ _

namespace Sound

theorem execActiveSetExchange : Sound s (execActiveSetExchange s) := by
  have hout : ∀ out : List Group, Carries s (out.foldl (fun s g => s.moveSet g false) s) := fun out =>
    .foldl out (.refl s) fun t g => .moveSet (.refl t) g false
  unfold Machine.execActiveSetExchange
  dsimp only
  split
  · exact hout _
  · refine ite ((hout _).moveSet _ _) ?_
    split
    · exact ((hout _).moveSet _ _).moveSet _ _
    · exact hout _

theorem execIstabWrite : Sound s (execIstabWrite s) := ite (Carries.refl s) (.modCore (.refl s) _ _)

end Sound

/-! ### Groups that start (R168, R182 to R184) -/

theorem Group.start_narrow {p : Placement} (h : p.nstrands ≤ 8) : (Group.start p).Narrow := ⟨List.length_replicate.trans_le h, nofun⟩

/-- A launch of a safe run has groups of eight strands at most (R168). -/
theorem Carries.launch_narrow (h : Carries s t) {k : Nat} {l : Launch} (hl : tfind k t.launches = some l) (hs : Safe s) : l.record.nstrands ≤ 8 :=
  (h.1 hs).2.1 _ (mem_of_tfind hl)

namespace Carries

theorem clearQ8 (h : Carries s t) (team pos : Nat) : Carries s (t.clearQ8 team pos) :=
  ite (by exact h.modTeam team _) (h.modTeam team _)

theorem startGroup (h : Carries s t) {l : Launch} (hl : Safe s → l.record.nstrands ≤ 8) (r : Table (BitVec 64)) (team pos index core quarter : Nat)
    (spawned : Bool) (entry : Addr) (args : List Word) : Carries s (t.startGroup l r team pos index core quarter spawned entry args) :=
  modLaunch (clearQ8 (h.addGroup rfl fun hs => Group.start_narrow (hl hs)) _ _) _ _

end Carries

theorem carries_spawnAt (c : Ctx) (entry : Nat) (args : List Word) : Keeps (Carries s) (spawnAt c entry args) := by
  refine Keeps.get fun t h => ?_
  dsimp only
  split
  · next l x hl _ =>
    have hlaunch : Safe s → l.record.nstrands ≤ 8 := h.launch_narrow hl
    split
    · exact h
    split
    · refine Keeps.bind (carries_loadRanges _) (fun r => Keeps.bind (carries_update fun u hu => ?_) fun _ => Keeps.pure _) t h
      exact .startGroup (.modTeam (.modLaunch hu _ _) _ _) hlaunch _ _ _ _ _ _ _ _ _
    · exact h
  · exact h

theorem Sound.execSpawn (x : ENG) : Sound s (execSpawn x s) := issue fun c _ => by
  refine ite (raiseHere (.refl s) c _ _ _) ?_
  exact (carries_spawnAt _ _ _).on_of (.refl s) (fun u _ => .block (.keepFull (.refl s) u) c) (fun _ _ hu => .start hu c _ _)
    fun _ _ _ _ hu => .block hu c

/-! ### Groups that end, and their launch (R169, R173, R185) -/

namespace Carries

theorem putDesc (h : Carries s t) (ipa off n v : Nat) : Carries s (t.putDesc ipa off n v) := h.putImm _ _ _

theorem finishLaunch (h : Carries s t) (queue number : Nat) : Carries s (t.finishLaunch queue number) := by
  unfold State.finishLaunch
  split
  · exact h
  · exact ite h (putDesc (by exact h) _ _ _ _)

theorem checkDeadline (h : Carries s t) (launch : Nat) : Carries s (t.checkDeadline launch) := by
  unfold State.checkDeadline
  split
  · exact h
  · refine ite h (frame ?_)
    exact h.modLaunch launch fun l => { l with missed := true }

theorem reportLaunch (h : Carries s t) (launch : Nat) : Carries s (t.reportLaunch launch) := by
  unfold State.reportLaunch
  split
  · exact h
  next l _ =>
  exact ite h ((h.finishLaunch l.queue l.number).dropLaunch launch).frame

theorem endTeam (h : Carries s t) (team : Nat) : Carries s (t.endTeam team) := by
  unfold State.endTeam
  split
  · exact h
  next x _ =>
  have hretired := h.modLaunch x.launch fun l => { l with retired := x.number :: l.retired }
  refine ite h (dropTeam ?_ team)
  exact ite hretired hretired

theorem leaveCore (h : Carries s t) (launch core : Nat) : Carries s (t.leaveCore launch core) := by
  have hleft : Carries s (if t.launchOn launch (· == core) true then t
      else match tfind launch t.launches with
        | none => t
        | some l =>
          if l.coresRun.contains core then
            (t.startRel core 2 (.launch launch)).modLaunch launch (fun l =>
              { l with coresRun := l.coresRun.filter (· != core), releases := l.releases ++ [t.nextId] })
          else t) := by
    refine ite h ?_
    split
    · exact h
    · exact ite (modLaunch (h.startRel _ _ _) _ _) h
  exact ite hleft (hleft.modLaunch launch _)

theorem freeGroup (h : Carries s t) (g : Group) : Carries s (t.freeGroup g) := by
  have hfreed : Carries s ((({ t with groups := terase g.gid t.groups }.clearQ8 g.team g.pos).checkDeadline g.launch).modLaunch g.launch
      fun l => { l with live := l.live - 1 }) := modLaunch (checkDeadline (clearQ8 (h.dropGroup g.gid) _ _) _) _ _
  exact leaveCore (endTeam (ite (hfreed.settleTurn _) hfreed) _) _ _

end Carries

theorem Sound.execGroupRetire : Sound s (execGroupRetire s) := by
  refine Carries.reportLaunch ?_ _
  split
  · exact .refl s
  · refine .ite (.refl s) ?_
    split
    · exact .refl s
    · exact .ite (.refl s) (.freeGroup (.refl s) _)

/-! ### Placement (R172 to R181) -/

theorem mem_of_leastLaunch {key : Launch → Nat × Nat × Nat} {ls : List Launch} {l : Launch} (h : leastLaunch key ls = some l) : l ∈ ls := by
  induction ls with
  | nil => cases h
  | cons m ls ih =>
    unfold leastLaunch at h
    split at h
    · cases h; exact .head _
    · next hleast =>
      split at h
      · cases h; exact .tail _ (ih hleast)
      · cases h; exact .head _

/-- The launch placed next is one of the state's. -/
theorem mem_of_placementHead {l : Launch} (h : s.placementHead = some l) : l ∈ tvalues s.launches := by
  obtain ⟨k, _, hk⟩ := List.exists_of_findSome?_eq_some h
  exact List.mem_of_mem_filter (List.mem_of_mem_filter (mem_of_leastLaunch hk))

/-- A value of a table stands there under some key. -/
theorem exists_mem_of_tvalues {α : Type} {a : α} {x : Table α} (h : a ∈ tvalues x) : ∃ k, (k, a) ∈ x := by
  obtain ⟨e, he, rfl⟩ := List.mem_map.mp h
  exact ⟨e.1, he⟩

namespace Carries

theorem claimScratch (h : Carries s t) (launch cluster : Nat) : Carries s (t.claimScratch launch cluster) := by
  unfold State.claimScratch
  split
  · exact h
  · refine ite h ?_
    split
    · exact h.modLaunch _ _
    · exact h

theorem enterCore (h : Carries s t) (launch core : Nat) : Carries s (t.enterCore launch core) := by
  unfold State.enterCore
  split
  · exact h
  · exact ite h ((h.newAcq _ _ _).modLaunch _ _)

theorem notePlaced (h : Carries s t) (l : Launch) (number core : Nat) : Carries s (t.notePlaced l number core) := by
  have hnoted := h.modLaunch l.id fun l => { l.noteUnits number core with placed := number :: l.placed, started := true }
  exact ite hnoted hnoted

theorem placeTeam (h : Carries s t) {l : Launch} (hl : Safe s → l.record.nstrands ≤ 8) (r : Table (BitVec 64)) (number core : Nat) :
    Carries s (t.placeTeam l r number core) := by
  have hclaimed := h.claimScratch l.id (clusterOf core)
  have hlaunch : Safe s → ((tfind l.id (t.claimScratch l.id (clusterOf core)).launches).getD l).record.nstrands ≤ 8 := fun hs => by
    cases hf : tfind l.id (t.claimScratch l.id (clusterOf core)).launches with
    | none => exact hl hs
    | some m => exact hclaimed.launch_narrow hf hs
  unfold State.placeTeam
  refine notePlaced (enterCore ?_ _ _) l number core
  generalize t.claimScratch l.id (clusterOf core) = v at hclaimed hlaunch
  have hteam : Carries s { v with
      teams := tinsert t.nextId (Team.start t.nextId l.id number (l.record.fabpos * l.teams + number) core v.clock l.record.teamSize) v.teams
      nextId := v.nextId + 1 } := hclaimed.addTeam rfl
  exact List.foldlRecOn _ _ hteam fun u hu pos _ => hu.startGroup hlaunch _ _ _ _ _ _ _ _ _

theorem placeAll (h : Carries s t) (launch : Nat) (r : Table (BitVec 64)) (number : Nat) (used cores : List Nat)
    (hu : t.placeAll launch r number used cores = some u) : Carries s u := by
  induction cores generalizing t number used with
  | nil =>
    unfold State.placeAll at hu
    split at hu
    · split at hu
      · cases hu; exact h
      · cases hu
    · cases hu
  | cons core cores ih =>
    unfold State.placeAll at hu
    split at hu
    · cases hu
    next l hl =>
    split at hu
    · cases hu
    · exact ih (h.placeTeam (h.launch_narrow hl) _ _ _) _ _ hu

theorem stopTeams (h : Carries s t) (ids : List Nat) (stay : Bool) : Carries s (t.stopTeams ids stay) :=
  foldl ids h fun t id => (refl t).modTeam id _ fun x => by split <;> rfl

theorem preemptFor (h : Carries s t) (l : Launch) : Carries s (t.preemptFor l) := by
  refine ite h ?_
  dsimp only
  split
  · exact h.stopTeams _ _
  · exact h

end Carries

theorem Sound.execTeamPlacement : Sound s (execTeamPlacement s) := by
  have hpreempt : ∀ l, Carries s (s.preemptFor l) := .preemptFor (.refl s)
  have hon : ∀ (launch : Nat) {ok : Table (BitVec 64) → State → Out}, (∀ r u, Carries s u → Sound s (ok r u)) →
      Sound s ((loadRanges launch).on s .next ok fun _ _ _ s => .next s) := fun launch _ hok =>
    (carries_loadRanges launch).on_of (.refl s) (fun u _ => .keepFull (.refl s) u) hok fun _ _ _ _ hu => hu
  unfold Machine.execTeamPlacement
  split
  · exact Carries.refl s
  next l hl =>
  refine ite (Carries.refl s) (ite (hon _ fun r u hu => ?_) (ite (hon _ fun r u hu => ?_) (hpreempt l)))
  · exact .getD (fun _ hv => hu.placeAll _ _ _ _ _ hv) (hu.preemptFor l)
  · obtain ⟨k, hk⟩ := exists_mem_of_tvalues (mem_of_placementHead hl)
    exact hu.placeTeam (fun hs => hs.2.1 (k, l) hk) _ _ _

theorem Sound.execDeadlineMiss : Sound s (execDeadlineMiss s) := .checkDeadline (.refl s) _

end Sys2Proof.Machine
end

section
/-! SUPPORT. Tasks, queues and packets, errors, and teams that leave and return keep a safe run safe (R157 to R183, R262 to R275, R371 to R397, R437 to
R446). -/

namespace Sys2Proof.Machine

open Sys2Proof

/- One proof at a time: those of this section would else wait for one another's equation lemmas in more threads than the memory limit allows. -/
set_option Elab.async false

variable {s t u : State} {c : Ctx} {i : Instr}

/-! ### The task unit (R371 to R397) -/

theorem carries_domainWrite (r : Table (BitVec 64)) (va size v : Nat) : Keeps (Carries s) (domainWrite r va size v) := by
  unfold domainWrite
  split
  · exact Keeps.fault _ _ _
  · exact carries_immWrite _ _ _

theorem carries_domainWriteAll (r : Table (BitVec 64)) (va : Nat) (vs : List Nat) : Keeps (Carries s) (domainWriteAll r va vs) := by
  induction vs generalizing va with
  | nil => exact Keeps.pure _
  | cons v vs ih => exact Keeps.bind (carries_domainWrite _ _ _ _) fun _ => ih _

theorem carries_domainReadAll (r : Table (BitVec 64)) (va n : Nat) : Keeps (Carries s) (domainReadAll r va n) := by
  induction n generalizing va with
  | zero => exact Keeps.pure _
  | succ n ih =>
    unfold domainReadAll
    split
    · exact Keeps.fault _ _ _
    · exact Keeps.bind (carries_immRead _ _) fun _ => Keeps.bind (ih _) fun _ => Keeps.pure _

namespace Carries

theorem modTask (h : Carries s t) (launch slot : Nat) (f : TaskRec → TaskRec) : Carries s (t.modTask launch slot f) := h

theorem modDomain (h : Carries s t) (launch : Nat) (f : Domain → Domain) : Carries s (t.modDomain launch f) := h

theorem putTask (h : Carries s t) (launch slot : Nat) (r : TaskRec) : Carries s (t.putTask launch slot r) := by
  unfold State.putTask
  split
  · exact (carries_domainWriteAll _ _ _).on h (fun u _ => h.keepFull u) (fun _ _ hu => hu.modDomain _ _) fun _ _ _ _ hu => hu.stopDomain _ _ _
  · exact h

theorem showSlot (h : Carries s t) (launch : Nat) (e : Nat × Nat) : Carries s (t.showSlot launch e) := by
  unfold State.showSlot
  split
  · exact ite h ((carries_domainWrite _ _ _ _).on h (fun u _ => h.keepFull u) (fun _ _ hu => hu.modDomain _ _)
      fun _ _ _ _ hu => hu.stopDomain _ _ _)
  · exact h

theorem showTasks (h : Carries s t) : Carries s t.showTasks :=
  foldl _ h fun t _ => foldl _ (refl t) fun t _ => (refl t).showSlot _ _

theorem wakeSlots (h : Carries s t) : Carries s t.wakeSlots := foldl _ h fun t g => by
  split
  · exact ite (modTask ((refl t).modGroup _ _) _ _ _) (refl t)
  · exact refl t

end Carries

namespace Sound

theorem execTask (x : ENG) : Sound s (execTask x s) := issue fun c _ => by
  have hdone : ∀ {t : State} status id, Carries s t → Carries s (c.start (.task x) { c.op (.task x) .fixed [] [] t with
      performed := true, results := pairResult c x.a status id } t) := fun _ _ h => h.start c _ _
  have hput : ∀ k f slot r, Carries s ((s.modTask c.g.launch k f).putTask c.g.launch slot r) := fun k f _ _ =>
    .putTask (.modTask (.refl s) c.g.launch k f) _ _ _
  refine ite (raiseHere (.refl s) c _ _ _) ?_
  split
  · exact Carries.refl s
  split
  · exact hdone _ _ (.refl s)
  refine ite (ite (.stopDomain (.refl s) _ _ _) (.deferTask (.refl s) _ _ _)) ?_
  exact ite (.block (.refl s) c) (ite (hput _ _ _ _) (hdone _ _ (hput _ _ _ _)))

theorem execTabortRetry : Sound s (execTabortRetry s) := issue fun c _ => by
  split
  · exact Carries.refl s
  · exact .modTask (.abortTasks (.refl s) _ _) _ _ _

theorem execTabortDrop : Sound s (execTabortDrop s) := issue fun c _ => by
  split
  · exact Carries.refl s
  · exact .modTask (.abortTasks (.refl s) _ _) _ _ _

theorem execTwait (x : ENG) : Sound s (execTwait x s) := issue fun c _ => by
  split
  · exact Carries.refl s
  · exact ite (finish (.refl s) c _) (.block (.refl s) c)

end Sound

theorem Group.startTask_gid (g : Group) (l : Launch) (ranges : Table (BitVec 64)) (core slot : Nat) (r : TaskRec) :
    (g.startTask l ranges core slot r).gid = g.gid := rfl

theorem Group.startTask_narrow (g : Group) {l : Launch} (hl : l.record.nstrands ≤ 8) {ranges : Table (BitVec 64)} {core slot : Nat} {r : TaskRec} :
    (g.startTask l ranges core slot r).Narrow := ⟨List.length_replicate.trans_le hl, nofun⟩

namespace Sound

theorem giveTask (h : Carries s t) (launch slot gid : Nat) : Sound s (t.giveTask launch slot gid) := by
  unfold State.giveTask
  split
  · next d l g _ hl hg =>
    split
    · exact h
    next r _ =>
    refine (carries_domainReadAll _ _ _).on_of h (fun u _ => h.keepFull u) (fun ws u hu => ?_) fun _ _ _ u hu => hu.stopDomain _ _ _
    dsimp only
    split
    · exact rfl
    refine (carries_loadRanges launch).on_of hu (fun v _ => hu.keepFull v) (fun ranges v hv => ?_) fun _ _ _ _ hv => hv
    refine Carries.modTask (.clearQ8 (hv.modGroup_of (fun g hg => (g.startTask_gid _ _ _ _ _).trans hg) fun hs g _ => ?_) _ _) _ _ _
    exact g.startTask_narrow (h.launch_narrow hl hs)
  · exact h

theorem execTaskDispatch : Sound s (execTaskDispatch s) := by
  have hstay := Carries.refl s
  unfold Machine.execTaskDispatch
  split
  · exact hstay
  split
  · exact hstay
  refine ite hstay (ite (giveTask hstay _ _ _) (ite ?_ hstay))
  split
  · exact hstay
  · exact ite (giveTask (hstay.abortTasks _ _) _ _ _) (hstay.abortTasks _ _)

theorem execTaskFinish : Sound s (execTaskFinish s) := by
  unfold Machine.execTaskFinish
  split
  · exact Carries.refl s
  split
  · exact Carries.refl s
  · exact ite (Carries.refl s) (.modTask (.modGroup (.refl s) _ _ .idle) _ _ _)

end Sound

theorem Group.Like.dropLate (g : Group) (x : LateTrap) : g.Like (g.dropLate x) := by
  unfold Group.dropLate
  split <;> exact ⟨rfl, id⟩

/-! ### Commits (R378 to R391) -/

theorem carries_confirmAll (vs : List Version) : Keeps (Carries s) (confirmAll vs) := by
  induction vs with
  | nil => exact Keeps.pure _
  | cons v vs ih => exact Keeps.bind (carries_confirm _ _) fun _ => Keeps.bind (carries_committed _) fun _ => ih

namespace Carries

theorem fillLate (h : Carries s t) (g : Group) (x : LateTrap) : Carries s (t.fillLate g x) := by
  unfold State.fillLate
  refine frame ?_
  exact h.modGroup g.gid fun g => { g with
    flags := g.flags.map (fun e => (e.1, { e.2 with late := e.2.late.map fun u => if u = x then u.full else u }))
    late := g.late.map (fun e => (e.1, if e.2 = x then e.2.full else e.2)) }

theorem settleFrontier (h : Carries s t) (launch : Nat) : Carries s (t.settleFrontier launch) := by
  have hrun : ∀ gid k f, Carries s ((t.modGroup gid fun g => { g with deferred := none }).modTask launch k f) := fun _ _ _ =>
    modTask (h.modGroup _ _) _ _ _
  unfold State.settleFrontier
  split
  · exact h
  split
  · exact h
  split
  · exact h
  next g _ =>
  dsimp only
  split
  · exact hrun _ _ _
  · exact hrun _ _ _
  · have htrap : ∀ gid k f x gang pc cause sub addr ipa, Carries s ((((t.modGroup gid fun g => { g with deferred := none }).modTask launch k f).modGroup gid
        fun g => g.dropLate x).takeTrap gid gang pc cause sub addr ipa) := fun _ _ _ x _ _ _ _ _ _ =>
      ((hrun _ _ _).modGroup _ _ fun g => .dropLate g x).takeTrap _ _ _ _ _ _ _
    exact ite (getD (fun _ hu => h.taskNotPresent hu) (htrap _ _ _ _ _ _ _ _ _ _)) (htrap _ _ _ _ _ _ _ _ _ _)
  · split
    · exact getD (fun _ hu => h.taskNotPresent hu) (h.fillLate _ _)
    · exact h

theorem mergeVersion (h : Carries s t) (launch slot : Nat) (v : Version) : Carries s (t.mergeVersion launch slot v) := by
  refine (carries_commitAt _ _ _ _).on h (fun u _ => h.keepFull u) (fun _ _ hu => hu) fun _ _ ipa u hu => ite ?_ hu
  cases he : t.enterWait ipa 5 [] with
  | none => exact h
  | some e => exact h.enterWait he

theorem retireTask (h : Carries s t) (launch slot : Nat) (r : TaskRec) : Carries s (t.retireTask launch slot r) := by
  unfold State.retireTask
  dsimp only
  split
  · exact h
  · exact ite (endDomain (by exact h) _ _) (settleFrontier (by exact h) _)

theorem mergeTask (h : Carries s t) (launch slot : Nat) (r : TaskRec) : Carries s (t.mergeTask launch slot r) := by
  have hmerged : ∀ vs : List Version, Carries s (vs.foldl (fun s v => s.mergeVersion launch slot v) t) := fun vs =>
    foldl vs h fun t v => (refl t).mergeVersion launch slot v
  exact ite ((hmerged _).retireTask _ _ _) (hmerged _)

end Carries

theorem Sound.execTaskCommit : Sound s (execTaskCommit s) := by
  unfold Machine.execTaskCommit
  dsimp only
  split
  · exact Carries.refl s
  split
  · exact Carries.refl s
  refine ite (Carries.refl s) (ite (.mergeTask (.refl s) _ _ _) ?_)
  refine (carries_confirmAll _).on_of (.refl s) (fun u _ => .keepFull (.refl s) u) (fun _ u hu => ?_) fun _ _ _ u hu => ?_
  · exact .mergeTask (by exact hu) _ _ _
  · exact Carries.ite (.getD (fun _ hv => hu.taskNotPresent hv) (hu.abortTasks _ _)) (hu.abortTasks _ _)

/-! ### Ordered launches (R144, R145) -/

namespace Carries

theorem dropOrdered (h : Carries s t) (q : OrderedReq) : Carries s (t.dropOrdered q) := by
  exact ite h (ite (modLaunch (by exact h) _ _) h)

theorem drainOne (h : Carries s t) (q : OrderedReq) : Carries s (t.drainOne q) := by
  have hdropped := h.dropOrdered q
  unfold State.drainOne
  dsimp only
  split
  · exact hdropped
  split
  · exact hdropped.atHome h (carries_atomPerform _ _ _ _) _ _ _
  · exact hdropped

theorem drainAll (h : Carries s t) (stalled : List Nat) (qs : List OrderedReq) : Carries s (t.drainAll stalled qs) := by
  induction qs generalizing t stalled with
  | nil => exact h
  | cons q qs ih => exact ite (ih h _) (ih (h.drainOne q) _)

end Carries

theorem Sound.execTokenPass : Sound s (execTokenPass s) := by
  unfold Machine.execTokenPass
  split
  · exact Carries.refl s
  refine ite (Carries.refl s) ?_
  split
  · exact ite (.modLaunch (.refl s) _ _) (Carries.refl s)
  split
  · exact ite (.modLaunch (.refl s) _ _) (Carries.refl s)
  · exact .drainAll (.refl s) _ _

end Sys2Proof.Machine
end

section
/-! SUPPORT. Queues and packets, errors, and teams that leave and return keep a safe run safe (R157 to R183, R262 to R275, R437 to R446). -/

namespace Sys2Proof.Machine

open Sys2Proof

/- One proof at a time: those of this section would else wait for one another's equation lemmas in more threads than the memory limit allows. -/
set_option Elab.async false

variable {s t u : State}

/-! ### Queues and packets (R262 to R275) -/

theorem carries_readUnits (ipa n : Nat) : Keeps (Carries s) (readUnits ipa n) := by
  induction n generalizing ipa with
  | zero => exact Keeps.pure _
  | succ n ih => exact Keeps.bind (carries_immRead _ _) fun _ => Keeps.bind (ih _) fun _ => Keeps.pure _

theorem carries_readDwords (ipa n : Nat) : Keeps (Carries s) (readDwords ipa n) := by
  induction n generalizing ipa with
  | zero => exact Keeps.pure _
  | succ n ih => exact Keeps.bind (carries_immRead _ _) fun _ => Keeps.bind (ih _) fun _ => Keeps.pure _

theorem carries_viaRanges (r : Table (BitVec 64)) (va size : Nat) (wr : Bool) : Keeps (Carries s) (viaRanges r va size wr) := by
  unfold viaRanges
  split
  · exact Keeps.pure _
  · exact Keeps.fault _ _ _

theorem carries_vaRead (r : Table (BitVec 64)) (va size : Nat) : Keeps (Carries s) (vaRead r va size) :=
  (carries_homeSide s).toMemSide.vaRead r va size

theorem carries_vaReadAll (r : Table (BitVec 64)) (va n : Nat) : Keeps (Carries s) (vaReadAll r va n) :=
  (carries_homeSide s).toMemSide.vaReadAll r va n

theorem carries_vaWriteAll (r : Table (BitVec 64)) (va v n : Nat) : Keeps (Carries s) (vaWriteAll r va v n) := by
  induction n generalizing va v with
  | zero => exact Keeps.pure _
  | succ n ih => exact Keeps.bind (carries_viaRanges _ _ _ _) fun _ => Keeps.bind (carries_immWrite _ _ _) fun _ => ih _ _

theorem carries_readPacket (q : UQueue) (count : Nat) : Keeps (Carries s) (readPacket q count) :=
  Keeps.bind (carries_readUnits _ _) fun _ => Keeps.pure _

theorem carries_signalWord (r : Table (BitVec 64)) (p : Packet) : Keeps (Carries s) (signalWord r p) :=
  Keeps.bind (carries_viaRanges _ _ _ _) fun _ =>
    Keeps.ite (Keeps.bind (carries_immRead _ _) fun _ => carries_immWrite _ _ _) (carries_immWrite _ _ _)

theorem carries_skipDepth (q : UQueue) (count n depth : Nat) : Keeps (Carries s) (skipDepth q count n depth) := by
  induction n generalizing count depth with
  | zero => exact Keeps.pure _
  | succ n ih => exact Keeps.bind (carries_readPacket _ _) fun _ => Keeps.ite (ih _ _) (Keeps.ite (Keeps.ite (Keeps.pure _) (ih _ _)) (ih _ _))

namespace Carries

theorem modQueue (h : Carries s t) (id : Nat) (f : UQueue → UQueue) : Carries s (t.modQueue id f) := h

theorem postEvent (h : Carries s t) (rec_ : List Byte) : Carries s (t.postEvent rec_) := h

theorem haltQueue (h : Carries s t) (id code : Nat) : Carries s (t.haltQueue id code) := by
  unfold State.haltQueue
  split
  · exact h
  · exact .postEvent (.modQueue (((h.putDesc _ _ _ _).putDesc _ _ _ _).putDesc _ _ _ _) _ _) _

theorem lookAhead (h : Carries s t) (id : Nat) : Carries s (t.lookAhead id) := by
  unfold State.lookAhead
  split
  · exact h
  · exact ite h ((carries_readPacket _ _).on h (fun u _ => h.keepFull u) (fun _ _ hu => ite (hu.haltQueue _ _) hu)
      fun _ _ _ _ hu => hu.haltQueue _ _)

theorem goOn (h : Carries s t) (id : Nat) (q : UQueue) (cursor : Nat) (loops : List (Nat × Nat)) : Carries s (t.goOn id q cursor loops) :=
  lookAhead (ite (putDesc (h.modQueue _ _) _ _ _ _) (h.modQueue _ _)) id

theorem mapQueue (h : Carries s t) (id slot : Nat) : Carries s (t.mapQueue id slot) := lookAhead (h.modQueue _ _) _

theorem mapWaiting (h : Carries s t) (n : Nat) : Carries s (t.mapWaiting n) := by
  induction n generalizing t with
  | zero => exact h
  | succ n ih =>
    unfold State.mapWaiting
    split
    · exact ih (mapQueue (by exact h) _ _)
    · exact h

theorem waitSlot (h : Carries s t) (id : Nat) : Carries s (t.waitSlot id) := by
  unfold State.waitSlot
  split
  · exact ite h (mapWaiting (by exact h) _)
  · exact h

theorem doorbell (h : Carries s t) (ipa : Nat) : Carries s (t.doorbell ipa) := by
  unfold State.doorbell
  split
  · exact h
  · exact (carries_readUnits _ _).on h (fun u _ => h.keepFull u) (fun _ u hu => waitSlot (lookAhead (hu.modQueue _ _) _) _) fun _ _ _ _ hu => hu

theorem nextPacket (h : Carries s t) (id : Nat) (q : UQueue) : Carries s (t.nextPacket id q) := h.goOn _ _ _ _

theorem holdPacket (h : Carries s t) (id : Nat) : Carries s (t.holdPacket id) := h.modQueue _ _

theorem viaQueue {α : Type} (h : Carries s t) (id : Nat) (q : UQueue) {m : Table (BitVec 64) → Mem α} (hm : ∀ r, Keeps (Carries s) (m r))
    {k : α → State → State} (hk : ∀ a u, Carries s u → Carries s (k a u)) : Carries s (viaQueue id q m t k) :=
  (Keeps.bind (carries_readDwords _ _) fun _ => hm _).on h (fun u _ => h.keepFull u) hk fun _ _ _ _ hu => hu.haltQueue _ _

theorem waitWord (h : Carries s t) (id : Nat) (q : UQueue) (p : Packet) : Carries s (t.waitWord id q p) :=
  h.viaQueue id q (fun _ => carries_vaRead _ _ _) fun _ _ hu => ite (hu.nextPacket _ _) (hu.holdPacket _)

theorem skipPackets (h : Carries s t) (id : Nat) (q : UQueue) (p : Packet) : Carries s (t.skipPackets id q p) :=
  ite (h.holdPacket _) ((carries_skipDepth _ _ _ _).on h (fun u _ => h.keepFull u) (fun _ _ hu => ite (hu.goOn _ _ _ _) (hu.haltQueue _ _))
    fun _ _ _ _ hu => hu.haltQueue _ _)

end Carries

namespace Sound

theorem execQdoor : Sound s (execQdoor s) := by
  refine ite ?_ (ite (Carries.refl s) (.doorbell (.refl s) _))
  split
  · exact ite (Carries.refl s) (.doorbell (by exact .refl s) _)
  · exact Carries.refl s

theorem packetEvent (type : Nat) {body : Nat → UQueue → Packet → State → State}
    (hbody : ∀ id q p t, Carries s t → Carries s (body id q p t)) : Sound s (packetEvent type s body) := by
  unfold Machine.packetEvent
  dsimp only
  split
  · exact Carries.refl s
  refine ite (Carries.refl s) ((carries_readPacket _ _).on_of (.refl s) (fun u _ => .keepFull (.refl s) u) (fun p u hu => ?_)
    fun _ _ _ u hu => hu.haltQueue _ _)
  refine ite (hu.haltQueue _ _) (ite hu ?_)
  split
  · exact hu.haltQueue _ _
  · exact hbody _ _ _ u hu

theorem execNopPacket : Sound s (execNopPacket s) := packetEvent _ fun _ _ _ _ h => h.nextPacket _ _

theorem execWaitPacket : Sound s (execWaitPacket s) := packetEvent _ fun _ _ _ _ h => .ite h (h.waitWord _ _ _)

theorem execWaitRecheck : Sound s (execWaitRecheck s) := packetEvent _ fun _ _ _ _ h => .ite (h.waitWord _ _ _) h

theorem execSignalPacket : Sound s (execSignalPacket s) := packetEvent _ fun id q _ _ h =>
  .ite (h.viaQueue id q (fun _ => carries_signalWord _ _) fun _ _ hu => hu.nextPacket _ _) (h.holdPacket _)

theorem execCopyPacket : Sound s (execCopyPacket s) := packetEvent _ fun id q _ _ h =>
  .ite (h.viaQueue id q (fun _ => Keeps.bind (carries_vaReadAll _ _ _) fun _ => carries_vaWriteAll _ _ _ _) fun _ _ hu => hu.nextPacket _ _)
    (h.holdPacket _)

theorem execLoopPacket : Sound s (execLoopPacket s) := packetEvent _ fun _ _ _ _ h => h.goOn _ _ _ _

theorem execEndLoopPacket : Sound s (execEndLoopPacket s) := packetEvent _ fun _ _ _ _ h => by
  split
  · exact h
  · exact .ite (h.goOn _ _ _ _) (h.goOn _ _ _ _)

theorem execIfPacket : Sound s (execIfPacket s) := packetEvent _ fun id q _ _ h =>
  .ite (h.skipPackets _ _ _) (h.viaQueue id q (fun _ => carries_vaRead _ _ _) fun _ _ hu => .ite (hu.nextPacket _ _) (hu.skipPackets _ _ _))

theorem execOrderPacket : Sound s (execOrderPacket s) := packetEvent _ fun _ _ _ _ h => .ite (h.nextPacket _ _) (h.holdPacket _)

end Sound

/-! ### Launches (R166 to R169, R264) -/

/-- A launch that is accepted has groups of eight strands at most (R168). -/
theorem nstrands_of_launchStatus {q : UQueue} {addr v : Nat} {levels : List Level} {r : LaunchRec} {count : Option Nat}
    (h : s.launchStatus q addr v levels r count = none) : r.nstrands ≤ 8 := by
  unfold State.launchStatus at h
  dsimp only at h
  split at h
  · cases h
  split at h
  · cases h
  split at h
  · cases h
  · next hcounts =>
    simp only [not_or] at hcounts
    obtain ⟨_, _, _, _, hwide⟩ := hcounts
    exact Nat.le_of_not_lt hwide

namespace Carries

theorem acceptLaunch (h : Carries s t) (id : Nat) (q : UQueue) (p : Packet) {r : LaunchRec} (hr : r.nstrands ≤ 8) (ranges via : Table (BitVec 64))
    (dom : Option Nat) : Carries s (t.acceptLaunch id q p r ranges via dom) := by
  have hadded := h.addLaunch (l := Launch.start t.nextId r p.addr (q.slot.getD 0) id q.count q.tenant ranges via r.teamCount) rfl fun _ => hr
  unfold State.acceptLaunch
  dsimp only
  split
  · exact hadded
  · exact putTask (by exact hadded) _ _ _

end Carries

theorem carries_checkDomain (r : LaunchRec) (ranges : Table (BitVec 64)) : Keeps (Carries s) (checkDomain r ranges) :=
  Keeps.ite (Keeps.pure _) (Keeps.ite (Keeps.pure _) (Keeps.bind (carries_vaReadAll _ _ _) fun _ => Keeps.pure _))

namespace Carries

theorem tryLaunch (h : Carries s t) (id : Nat) (q : UQueue) (p : Packet) (count : Option Nat) (v : Nat) (ranges via : Table (BitVec 64)) :
    Carries s (t.tryLaunch id q p count v ranges via) := by
  unfold State.tryLaunch
  dsimp only
  split
  · exact h.haltQueue _ _
  next hstatus =>
  refine ite (nextPacket (finishLaunch (h.modQueue _ _) _ _) _ _) ?_
  refine (carries_checkDomain _ _).on h (fun u _ => h.keepFull u) (fun d u hu => ?_) fun _ _ _ _ hu => hu.haltQueue _ _
  split
  · exact hu.haltQueue _ _
  · exact ite hu (nextPacket (hu.acceptLaunch id q p (nstrands_of_launchStatus hstatus) _ _ _) _ _)

theorem readLaunch (h : Carries s t) (id : Nat) (q : UQueue) (p : Packet) (ind : Bool) : Carries s (t.readLaunch id q p ind) := by
  refine h.viaQueue id q (fun _ => ?_) fun _ u hu => ?_
  · exact Keeps.ite_bind (carries_vaRead _ _ _) (Keeps.pure _) fun _ => Keeps.pure _
  · exact (Keeps.bind (carries_vaReadAll _ _ _) fun _ => Keeps.bind (carries_launchSets _ _) fun _ => Keeps.pure _).on hu
      (fun v _ => hu.keepFull v) (fun _ _ hv => hv.tryLaunch _ _ _ _ _ _ _) fun _ _ _ _ hv => hv.haltQueue _ _

end Carries

namespace Sound

theorem execLaunchPacket : Sound s (execLaunchPacket s) := packetEvent _ fun _ _ _ _ h => .ite (h.readLaunch _ _ _ _) (h.holdPacket _)

theorem execLaunchIndPacket : Sound s (execLaunchIndPacket s) := packetEvent _ fun _ _ _ _ h => .ite (h.readLaunch _ _ _ _) (h.holdPacket _)

theorem execQueueTimeslice : Sound s (execQueueTimeslice s) := by
  unfold Machine.execQueueTimeslice
  dsimp only
  split
  · exact Carries.refl s
  · exact ite (Carries.refl s) (.waitSlot (.mapWaiting (.modQueue (.refl s) _ _) _) _)

end Sound

/-! ### Queue registration (R270 to R275) -/

namespace Carries

theorem slotForPinned (h : Carries s t) : Carries s t.slotForPinned.1 := by
  unfold State.slotForPinned
  split
  · exact h
  · dsimp only
    split <;> exact h

theorem addQueue (h : Carries s t) (q : UQueue) : Carries s (t.addQueue q) := by
  have hadded : ∀ qs n, Carries s (State.putDesc { t with queues := qs, nextId := t.nextId + 1, qrstat := n, qrBusy := none } q.ipa 0x38 8 0) :=
    fun _ _ => putDesc (by exact h.nextId (Nat.le_succ t.nextId)) _ _ _ _
  unfold State.addQueue
  refine ite ?_ ((hadded _ _).waitSlot _)
  have hslot := slotForPinned (hadded (tinsert t.nextId q t.queues) 0)
  split
  · next heq =>
    rw [heq] at hslot
    exact hslot.mapQueue _ _
  · next heq =>
    rw [heq] at hslot
    exact hslot

theorem registerQueue (h : Carries s t) (ipa : Nat) : Carries s (t.registerQueue ipa) := by
  refine ite h (ite h ((carries_readUnits _ _).on h (fun u _ => h.keepFull u) (fun _ u hu => ?_) fun _ _ _ _ hu => hu))
  split
  · exact hu
  · exact hu.addQueue _

end Carries

namespace Sound

theorem execQueueRegister : Sound s (execQueueRegister s) := by
  refine ite ?_ (ite (Carries.refl s) (.registerQueue (by exact .refl s) _))
  split
  · exact .registerQueue (.refl s) _
  · exact Carries.refl s

theorem execQueueUnregister : Sound s (execQueueUnregister s) := by
  refine ite (Carries.refl s) ?_
  dsimp only
  split
  · exact Carries.refl s
  · exact .mapWaiting (by exact .refl s) _

/-! ### Errors (R427, R437 to R446) -/

theorem execSoftError : Sound s (execSoftError s) := Carries.ite (.refl s) (.refl s)

theorem execHbmSymbolError : Sound s (execHbmSymbolError s) := Carries.ite (.refl s) (.refl s)

theorem execUncorrectableGroupError : Sound s (execUncorrectableGroupError s) := by
  unfold Machine.execUncorrectableGroupError
  split
  · exact Carries.refl s
  · exact ite (Carries.refl s) (.halt (by exact .refl s) _)

theorem execL2SliceFailure : Sound s (execL2SliceFailure s) := by
  have hevict : ∀ t (ls : List Nat) slice, Carries s t → Carries s (ls.foldl (fun s l => s.evictLine slice l) t) := fun t ls slice h =>
    h.foldl ls fun u l => (carries_homeSide u).evictLine u slice l (.refl u)
  exact ite (Carries.refl s) (.frame (hevict _ _ _ (hevict _ _ _ (.refl s))))

theorem execClockStretch : Sound s (execClockStretch s) := .frame (.pass (t := { s with stretched := s.stretched + 1 }) (.refl s) _)

end Sound

/-! ### Teams that leave and return (R157 to R165, R177, R440) -/

namespace Carries

theorem withdraw (h : Carries s t) (o : Op) : Carries s (t.withdraw o) := h

theorem finishLanes (h : Carries s t) (o : Op) : Carries s (t.finishLanes o) := by
  unfold State.finishLanes
  split
  · exact (h.serveFacet _).finishClosure _ _ _
  · exact h.finishSpillFill _ _
  · exact h

theorem finishFacet (h : Carries s t) (x : Team) : Carries s (t.finishFacet x).1 := foldl _ h fun t o => (refl t).finishLanes o

theorem landLocal (h : Carries s t) (o : Op) : Carries s (t.landLocal o) := by
  unfold State.landLocal
  split
  · exact h.landResults _
  · exact h

theorem takeStore (h : Carries s t) (o : Op) : Carries s (t.takeStore o) := by
  unfold State.takeStore
  split
  · refine ite h (modOp (foldl _ h) _ _)
  · exact h

theorem dropWorkers (h : Carries s t) (team : Nat) : Carries s (t.dropWorkers team) := foldl _ h fun t g => by
  split
  · exact (refl t).abortTasks _ _
  · exact refl t

theorem settleTeam (h : Carries s t) (x : Team) : Carries s (t.settleTeam x) := by
  refine dropWorkers (foldl _ (foldl _ (foldl _ h ?_) ?_) ?_) _
  · exact fun t o => (refl t).landLocal o
  · exact fun t o => (refl t).withdraw o
  · exact fun t o => (refl t).takeStore o

/-- A launch updated unless something holds. -/
theorem modLaunchUnless {p : Prop} [Decidable p] (h : Carries s t) (id : Nat) (f : Launch → Launch)
    (hf : ∀ l, (f l).id = l.id ∧ (f l).record = l.record := by exact fun _ => ⟨rfl, rfl⟩) : Carries s (if p then t else t.modLaunch id f) :=
  ite h (h.modLaunch id f hf)

theorem evictTeam (h : Carries s t) (x : Team) : Carries s (t.evictTeam x) := by
  have hlanded := foldl (t.ops.filter fun o => t.inTeam x.id o.gid) h fun t o => (refl t).landLocal o
  have hevicted := hlanded.mapGroups (f := fun e => if e.2.team = x.id then (e.1, e.2.evicted) else e) fun e => by
    split
    · exact ⟨rfl, rfl, id⟩
    · exact ⟨rfl, .refl e.2⟩
  exact modLaunchUnless (.modTeam (ite (hevicted.modPrism _ _) hevicted) _ _) _ _

theorem returnGroup (h : Carries s t) (core : Nat) (g : Group) : Carries s (t.returnGroup core g) := h.modGroup _ _

theorem returnTeam (h : Carries s t) (x : Team) (core : Nat) : Carries s (t.returnTeam x core) := by
  have hprism : ∀ v, Carries s v → Carries s (match x.prism with | some a => v.modPrism core (fun _ => a) | none => v) := fun v hv => by
    split
    · exact hv.modPrism _ _
    · exact hv
  have hback : ∀ (gs : List Group) f, Carries s (gs.foldl (fun s g => s.returnGroup core g)
      ((t.claimScratch x.launch (clusterOf core)).modTeam x.id fun x => { x with
        core := core, placedAt := f, preempted := false, saving := true, prism := none })) := fun gs _ =>
    foldl gs ((h.claimScratch _ _).modTeam _ _) fun t g => (refl t).returnGroup core g
  have hcopies : ∀ (us : List Nat) v, Carries s v → Carries s (us.foldl (fun s u => s.dropCopiesOf core u) v) := fun us _ hv => foldl us hv
  unfold State.returnTeam
  dsimp only
  exact newAcq (modLaunchUnless (modLaunch (hprism _ (hcopies _ _ (frame (hback _ _)))) _ _) _ _) _ _ _

theorem returnAll (h : Carries s t) (used ids cores : List Nat) (hu : t.returnAll used ids cores = some u) : Carries s u := by
  induction ids generalizing t used cores with
  | nil =>
    cases cores with
    | nil => cases hu; exact h
    | cons core cores => cases hu
  | cons id ids ih =>
    cases cores with
    | nil => cases hu
    | cons core cores =>
      unfold State.returnAll at hu
      split at hu
      · cases hu
      split at hu
      · cases hu
      · exact ih (h.returnTeam _ _) _ _ hu

theorem haltTeam (h : Carries s t) (team : Nat) : Carries s (t.haltTeam team) := foldl _ h fun t g => (refl t).halt g.gid

end Carries

namespace Sound

theorem execPreemptTeam : Sound s (execPreemptTeam s) := by
  unfold Machine.execPreemptTeam
  split
  · exact Carries.refl s
  next x _ =>
  refine ite (Carries.refl s) ?_
  split
  · exact .evictTeam (.refl s) x
  refine ite (Carries.refl s) ?_
  have hfinished := Carries.finishFacet (.refl s) x
  split
  · next heq =>
    rw [heq] at hfinished
    exact hfinished
  · next heq =>
    rw [heq] at hfinished
    have hsettled := hfinished.settleTeam x
    dsimp only
    split
    · exact .startRel (hsettled.modTeam _ _) _ _ _
    · exact hfinished

theorem execResumeTeam : Sound s (execResumeTeam s) := by
  unfold Machine.execResumeTeam
  split
  · exact Carries.refl s
  · refine ite (ite (.getD (fun _ hu => .returnAll (.refl s) _ _ _ hu) (.refl s)) (Carries.refl s)) (ite (.returnTeam (.refl s) _ _) (Carries.refl s))

theorem execCoreFailure : Sound s (execCoreFailure s) := by
  have hlost : ∀ (xs : List Team) n, Carries s (xs.foldl (fun s x => s.haltTeam x.id) (s.count n)) := fun xs n =>
    .foldl xs (.refl s) fun t x => .haltTeam (.refl t) x.id
  refine ite (Carries.refl s) ?_
  dsimp only
  refine ite (.stopTeams (.frame (hlost _ _)) _ _) (.postEvent (.mapTeams (.stopTeams (.modCore (hlost _ _) _ _) _ _) fun e => ?_) _)
  split <;> exact ⟨rfl, rfl⟩

end Sound

end Sys2Proof.Machine
end

section
/-! SUPPORT. Every instruction and event, every turn and every cycle keeps a safe run safe. -/

namespace Sys2Proof.Machine

open Sys2Proof

/- One proof at a time: those of this section would else wait for one another's equation lemmas in more threads than the memory limit allows. -/
set_option Elab.async false

variable {s t : State}

theorem Sound.execNop : Sound s (execNop s) := issue fun c _ => finish (.refl s) c _

/-- Every instruction and event keeps a safe run safe, faults only where a worker finds its task's record overwritten, and is never refused. -/
theorem exec_sound (i : Instr) (s : State) : Sound s (exec i s) := by
  cases i with
  | fadd _ | fmul _ | ffma _ | fmin _ | fmax _ | frcp _ | fsqrt _ | frsq _ | fexp2 _ | flog2 _ | fsinpi _ | fcospi _ | ffloor _ | ffract _
  | fsetp _ | hadd2 _ | hmul2 _ | hfma2 _ | bfma2 _ | idp4 _ | iadd _ | isub _ | imul _ | imulh _ | umulh _ | imad _ | imin _ | imax _
  | umin _ | umax _ | isetp _ | usetp _ | and _ | or _ | xor _ | shl _ | shr _ | sar _ | bfe _ | bfi _ | popc _ | clz _ | brev _ | mov _
  | cvt _ | cvtsr _ => exact .vfLanes _ _ _ _
  | faddImm _ | fmulImm _ | ffmaImm _ | fminImm _ | fmaxImm _ | frcpImm _ | fsqrtImm _ | frsqImm _ | fexp2Imm _ | flog2Imm _ | fsinpiImm _
  | fcospiImm _ | ffloorImm _ | ffractImm _ | hadd2Imm _ | hmul2Imm _ | hfma2Imm _ | bfma2Imm _ | idp4Imm _ | iaddImm _ | isubImm _
  | imulImm _ | imulhImm _ | umulhImm _ | imadImm _ | iminImm _ | imaxImm _ | uminImm _ | umaxImm _ | andImm _ | orImm _ | xorImm _
  | shlImm _ | shrImm _ | sarImm _ | bfeImm _ | bfiImm _ | popcImm _ | clzImm _ | brevImm _ | movImm _ | rng _ => exact .viLanes _ _ _ _
  | dot16e4 _ | dot16e5 _ => exact .dotInstr _ _ _ _
  | sel _ | shfl _ | shflImm _ | putl _ | putlImm _ | vote _ | ballot _ | ballotImm _ | redux _ => exact .vector
  | nop => exact .execNop
  | vidx x => exact .execVidx x
  | vidxw x => exact .execVidxw x
  | cvtef x => exact .execCvtef x
  | faddSlot _ _ | fmulSlot _ _ | fminSlot _ _ | fmaxSlot _ _ | iaddSlot _ _ | isubSlot _ _ | imulSlot _ _ | andSlot _ _ | orSlot _ _
  | xorSlot _ _ | shlSlot _ _ | shrSlot _ _ | sarSlot _ _ | movSlot _ _ | iminSlot _ _ | imaxSlot _ _ | hadd2Slot _ _ | hmul2Slot _ _
  | slotNop _ => exact .pairInstr _ _ _ _
  | sadd _ | ssub _ | smul _ | smulh _ | sand _ | sor _ | sxor _ | sshl _ | sshr _ | ssar _ | smin _ | smax _ | smov _ | sfadd _ | sfmul _
  | sffma _ | sbfe _ | spopc _ =>
    unfold exec
    exact .sfStrands _ _ _ _
  | ssetp x => exact .execSsetp x
  | ssel x => exact .execSsel x
  | sread x => exact .execSread x
  | swrite x => exact .execSwrite x
  | sfromv x => exact .execSfromv x
  | ldB _ | ldH _ | ldW _ | ldD _ | ldQ _ | ldBs _ | ldHs _ => exact .loadOp _ _ _ _ _
  | stB _ | stH _ | stW _ | stD _ | stQ _ => exact .storeOp _ _ _ _
  | lduW _ | lduD _ => exact .lduOp _ _ _ _
  | ldc x => exact .execLdc x
  | ldsW _ | ldsD _ | ldsQ _ | stsW _ | stsD _ | stsQ _ => exact .localOp _ _ _ _ _
  | atomAdd _ | atomMin _ | atomMax _ | atomUmin _ | atomUmax _ | atomAnd _ | atomOr _ | atomXor _ | atomXchg _ | atomCas _ | atomFadd _
  | atomFmin _ | atomFmax _ | redAdd _ | redMin _ | redMax _ | redUmin _ | redUmax _ | redAnd _ | redOr _ | redXor _ | redXchg _ | redCas _
  | redFadd _ | redFmin _ | redFmax _ => exact .atomOp _ _ _ _
  | phase x => exact .execPhase x
  | pref x => exact .execPref x
  | cpyIn _ | cpyOut _ => exact .cpyOp _ _ _
  | cbank x => exact .execCbank x
  | qbind x => exact .execQbind x
  | wakeToken _ | wakePage _ => exact .wakeOp _ _
  | bra x => exact .execBra x
  | brx x => exact .execBrx x
  | call x => exact .execCall x
  | ret x => exact .execRet x
  | ppush x => exact .execPpush x
  | pinv | ppop =>
    unfold exec
    exact .stackOp _ _ _
  | regang => exact .execRegang
  | waitf x => exact .execWaitf x
  | yield => exact .execYield
  | exit => exact .execExit
  | trap x => exact .execTrap x
  | barInit x => exact .execBarInit x
  | barArv x => exact .execBarArv x
  | barWait x => exact .execBarWait x
  | barSync x => exact .execBarSync x
  | barDrop x => exact .execBarDrop x
  | sloop x => exact .execSloop x
  | trapret => exact .execTrapret
  | syscall x => exact .execSyscall x
  | litexec => exact .trapWord _
  | mmload x => exact .execMmload x
  | mmrun x => exact .execMmrun x
  | mmdrainMem x => exact .execMmdrainMem x
  | mmdrainLoc x => exact .execMmdrainLoc x
  | mmdrainRing x => exact .execMmdrainRing x
  | mmdrainQ8 x => exact .execMmdrainQ8 x
  | mmdrainStat x => exact .execMmdrainStat x
  | spawn x => exact .execSpawn x
  | task x => exact .execTask x
  | tabortRetry => exact .execTabortRetry
  | tabortDrop => exact .execTabortDrop
  | twait x => exact .execTwait x
  | texS _ | texL _ | texQ _ => exact .texStart _ _
  | rayT _ | rayO _ | rayA _ => exact .rayStart _ _
  | kclr _ | klobe _ | kmix _ | klayer _ | kscale _ | ksample _ | keval _ | kdens _ | kinfo _ | kmov _ => exact .closureOp _ _ _ _
  | kspill _ | kfill _ => exact .spillFillOp _ _ _
  | tcInv => exact .execTcInv
  | tcInvFlush => exact .execTcInvFlush
  | tcInvAll => exact .execTcInvAll
  | tcPcopy => exact .execTcPcopy
  | tccmdInvalid => exact .execTccmdInvalid
  | tcCommandDone => exact .execTcCommandDone
  | tcstatRead => exact .execTcstatRead
  | registerWrite => exact .execRegisterWrite
  | translationAnswer => exact .execTranslationAnswer
  | releaseBoundary => exact .execReleaseBoundary
  | acquireBoundary => exact .execAcquireBoundary
  | implicitBoundary => exact .execImplicitBoundary
  | immediateAtHome => exact .execImmediateAtHome
  | atomicAtHome => exact .execAtomicAtHome
  | longLatencyComplete => exact .execLongLatencyComplete
  | clbmodeWrite => exact .execClbmodeWrite
  | bankModeChange => exact .execBankModeChange
  | granuleServe => exact .execGranuleServe
  | queueElementServe => exact .execQueueElementServe
  | teamPlacement => exact .execTeamPlacement
  | groupRetire => exact .execGroupRetire
  | activeSetExchange => exact .execActiveSetExchange
  | istabWrite => exact .execIstabWrite
  | regangMeet => exact .execRegangMeet
  | yieldEnd => exact .execYieldEnd
  | qdoor => exact .execQdoor
  | nopPacket => exact .execNopPacket
  | launchPacket => exact .execLaunchPacket
  | launchIndPacket => exact .execLaunchIndPacket
  | waitPacket => exact .execWaitPacket
  | waitRecheck => exact .execWaitRecheck
  | signalPacket => exact .execSignalPacket
  | copyPacket => exact .execCopyPacket
  | loopPacket => exact .execLoopPacket
  | endLoopPacket => exact .execEndLoopPacket
  | ifPacket => exact .execIfPacket
  | orderPacket => exact .execOrderPacket
  | queueTimeslice => exact .execQueueTimeslice
  | deadlineMiss => exact .execDeadlineMiss
  | queueRegister => exact .execQueueRegister
  | queueUnregister => exact .execQueueUnregister
  | syscallAnswer => exact .execSyscallAnswer
  | ringPosting => exact .execRingPosting
  | ringRegWrite => exact .execRingRegWrite
  | eventPost => exact .execEventPost
  | evqRegWrite => exact .execEvqRegWrite
  | gkill => exact .execGkill
  | acmd => exact .execAcmd
  | attestReportReady => exact .execAttestReportReady
  | careClear => exact .execCareClear
  | hostIpaAccess => exact .execHostIpaAccess
  | flitReceive => exact .execFlitReceive
  | flitReplay => exact .execFlitReplay
  | laneFailure => exact .execLaneFailure
  | timebSync => exact .execTimebSync
  | bootRom => exact .execBootRom
  | imageVerify => exact .execImageVerify
  | fullServiceStart => exact .execFullServiceStart
  | clockStretch => exact .execClockStretch
  | coreFailure => exact .execCoreFailure
  | l2SliceFailure => exact .execL2SliceFailure
  | softError => exact .execSoftError
  | uncorrectableGroupError => exact .execUncorrectableGroupError
  | preemptTeam => exact .execPreemptTeam
  | resumeTeam => exact .execResumeTeam
  | taskDispatch => exact .execTaskDispatch
  | taskFinish => exact .execTaskFinish
  | taskCommit => exact .execTaskCommit
  | tokenPass => exact .execTokenPass
  | foreignAtomicApply => exact .execForeignAtomicApply
  | prismCommandStart => exact .execPrismCommandStart
  | rayLaneFinish => exact .execRayLaneFinish
  | illegalInstruction => exact .execIllegalInstruction
  | fetchFault => exact .execFetchFault
  | hbmSymbolError => exact .execHbmSymbolError
  | pageTableWrite => exact .execPageTableWrite

namespace Carries

/-! ### A cycle (R43, R255, R279, R370, R385, R414) -/

theorem retryPosted (h : Carries s t) : Carries s t.retryPosted := (carries_homeSide s).retryPosted t h

theorem noteReady (h : Carries s t) : Carries s t.noteReady := h.mapGroups fun e => by
  split
  · exact ⟨rfl, .refl e.2⟩
  · exact ⟨rfl, .refl e.2⟩

theorem cycle (h : Carries s t) : Carries s t.cycle := h.tick.retryPosted.wakeSlots.showTasks.noteReady.saveImages

theorem hidden (h : Carries s t) (k : Turn) : Carries s (t.hidden k) := by
  unfold State.hidden
  split
  · exact h.evictL1 _ _ _ _
  · exact h.evictBank _ _ _
  · exact (carries_homeSide s).evictLine t _ _ h
  · exact h
  · exact h
  · exact ite h h
  · exact h
  · exact h

end Carries

/-! ### Turns and steps -/

theorem Carries.exec (h : Carries s t) (i : Instr) : Sound s (exec i t) := Sound.trans h (exec_sound i t)

theorem stepIssue_sound (h : Carries s t) (gid : Nat) : Sound s (stepIssue gid t) := by
  have hoffered := h.offer gid
  unfold stepIssue
  dsimp only
  refine .ite h ?_
  split
  · exact hoffered
  next c _ =>
  refine .ite hoffered ?_
  have hfetched := hoffered.fetch c.g.ranges c.pc
  generalize fetch c.g.ranges c.pc (t.offer gid) = e at hfetched
  obtain ⟨w, u⟩ := e
  cases w with
  | stalled => exact hfetched
  | instr i => exact (hfetched.noteFetch c i).exec _
  | illegal w => exact Carries.exec (hfetched.frame) _
  | bad cause sub pc => exact Carries.exec (hfetched.frame) _

theorem stepTurn_sound (h : Carries s t) (k : Turn) : Sound s (stepTurn k t) := by
  unfold stepTurn
  split
  · exact stepIssue_sound (Carries.frame h) _
  · exact Sound.ite (Carries.exec h.frame _) h
  · exact Carries.hidden h _

/-- A step ends where what a safe run keeps carries over, or faults where a worker finds its task's record overwritten. -/
theorem step_sound (s : State) : Sound s (step s) := by
  unfold step
  split
  · next k ks _ =>
    have htaken : Carries s { s with agenda := ks } := (Carries.refl s).frame
    exact stepTurn_sound htaken.cycle k
  · generalize s.cycle.defaultTurn = k
    exact stepTurn_sound (Carries.refl s).cycle k

/-- Settles O59: each operation of the model keeps the memories canonical and the groups narrow, no instruction's meaning is a refusal, and the one
fault is a dispatch's. -/
theorem stepKeepsSafe : Obligations.StepKeepsSafe := by
  unfold Obligations.StepKeepsSafe
  intro s hs
  have hstep := step_sound s
  cases h : step s with
  | next t =>
    rw [h] at hstep
    exact .inl ⟨t, rfl, hstep.1 hs⟩
  | fault f =>
    rw [h] at hstep
    exact .inr (congrArg Host.Outcome.fault hstep)
  | refused r =>
    rw [h] at hstep
    exact hstep.elim

theorem reset_keyed : Keyed State.reset := ⟨fun _ h => (nomatch h), fun _ h => (nomatch h), fun _ h => (nomatch h)⟩

/-- Settles O60: the tables are empty after reset, and each operation of the model keeps a group, team or launch under its number, or adds it under the
one that it was given. -/
theorem stepKeepsKeys : Obligations.StepKeepsKeys := by
  unfold Obligations.StepKeepsKeys
  refine ⟨reset_keyed, fun s t hk h => ?_⟩
  have hstep := step_sound s
  rw [h] at hstep
  exact hstep.2 hk

end Sys2Proof.Machine
end

section
/-! SUPPORT. REGANG, WAITF, NOP, YIELD and EXIT: where each leaves the gang, its group and its team (R186, R199 to R204, R212, R373, R409). -/

namespace Sys2Proof.Machine

open Sys2Proof Claim

/- One proof at a time (see above). -/
set_option Elab.async false

variable {s : State} {c : Ctx} {i : Instr}

/-! ### What only a group sees -/

/-- An update of the issuing gang's group changes that group alone. -/
theorem groupEnds_modGroup (hc : issueCtx s = some c) {f : Group → Group} {P : Group → Prop} (h : P (f c.g)) :
    GroupEnds s c (s.modGroup c.g.gid f) P :=
  ⟨⟨rfl, fun _ hk => s.tfind_modGroup_ne f hk⟩, f c.g, State.tfind_modGroup f (issueCtx_group hc), h⟩

/-- The strands of the issuing gang updated. -/
theorem Ctx.strandsAre_modStrands (hc : issueCtx s = some c) (f : Nat → Strand → Strand) :
    StrandsAre c (c.g.modStrands c.strands f) fun u => f u (c.g.strand u) := fun u => by
  rw [Group.strand_modStrands]
  by_cases hu : u ∈ c.strands
  · rw [if_pos ⟨hu, issueCtx_strands hc hu⟩, if_pos hu]
  · rw [if_neg fun h => hu h.1, if_neg hu]

theorem onlyStrands_modStrands (c : Ctx) (ts : List Nat) (f : Nat → Strand → Strand) : OnlyStrands c (c.g.modStrands ts f) := rfl

/-- An instruction that goes on at once. -/
theorem groupEnds_finish (hc : issueCtx s = some c) (i : Instr) :
    ∃ t, finish c i id s = .next t ∧ GroupEnds s c t fun g => OnlyStrands c g ∧ Advances i c g :=
  ⟨_, finish_eq c i id s, groupEnds_modGroup hc ⟨rfl, Ctx.strand_stepped hc i rfl⟩⟩

/-! ### REGANG, WAITF and YIELD (R199, R201, R202) -/

theorem exec_regang (hi : Issues .regang s c) : exec .regang s =
    if c.strands.length = c.g.live.length then finish c .regang id s
    else .next (s.modGroup c.g.gid fun g => g.modStrands c.strands fun _ st => { st with wait := .regang }) := by
  show execRegang s = _
  unfold execRegang
  rw [issue_of_issues hi]

theorem exec_waitf {x : CTL} (hi : Issues (.waitf x) s c) : exec (.waitf x) s =
    if (maskFlags x.f12).any fun n => (c.g.flag n).busy then .next (c.waitTurn (.flags x.f12) (s.flagBuffered c.g.gid x.f12) s)
    else finish c (.waitf x) (fun g => g.endTracking (maskFlags x.f12)) s := by
  show execWaitf x s = _
  unfold execWaitf
  rw [issue_of_issues hi]

theorem mem_maskFlags {m : BitVec 12} {n : Nat} : n ∈ maskFlags m ↔ n < 12 ∧ m.getLsbD n = true := by
  simp [maskFlags]

theorem Group.flag_modFlag (g : Group) (n m : Nat) (f : Flag → Flag) : (g.modFlag n f).flag m = if m = n then f (g.flag n) else g.flag m := by
  simp only [Group.flag, Group.modFlag, tget_tset]

/-- The end of tracking frees the flags of the list, and no other. -/
theorem Group.flag_endTracking (g : Group) (fs : List Nat) (m : Nat) :
    (g.endTracking fs).flag m = if m ∈ fs then { g.flag m with owned := false, tracked := [] } else g.flag m := by
  induction fs generalizing g with
  | nil => rfl
  | cons n fs ih =>
    refine (ih _).trans ?_
    rw [Group.flag_modFlag]
    by_cases hm : m = n
    · subst hm; simp
    · simp [hm]

theorem Group.endTracking_only (g : Group) (fs : List Nat) : g.endTracking fs = { g with flags := (g.endTracking fs).flags } := by
  induction fs generalizing g with
  | nil => rfl
  | cons n fs ih => exact ih _

/-- Outside a deterministic launch a wait passes no turn. -/
theorem Ctx.waitTurn_of_not_det (hd : c.det = false) (w : GangWait) (e : Bool) (s : State) : c.waitTurn w e s = c.waitOn w s := by
  simp [Ctx.waitTurn, hd]

theorem exec_yield (hi : Issues .yield s c) (hd : c.det = false) : exec .yield s =
    .next (s.modGroup c.g.gid fun g => { c.stepped .yield g with yielded := some s.clock, offers := [] }) := by
  show execYield s = _
  unfold execYield
  rw [issue_of_issues hi]
  simp only [hd, Ctx.advance, State.modGroup_modGroup]
  rfl

/-! ### EXIT (R186, R203, R212, R373, R409) -/

/-- The state after an EXIT has ended its strands. -/
def Ctx.exited (c : Ctx) (s : State) : State :=
  s.modGroup c.g.gid fun g => g.modStrands (exitStrands c) fun _ st => { st with exited := true, wait := .ready }

theorem exitStrands_handler (h : c.g.inHandler ≠ none) : exitStrands c = c.g.live := if_pos (Option.isSome_iff_ne_none.mpr h)

theorem exitStrands_task (h : c.g.inHandler = none) : exitStrands c = c.strands := by simp [exitStrands, h]

theorem exitStrands_eq (c : Ctx) : exitStrands c = if c.g.inHandler = none then c.strands else c.g.live := by
  split
  · next h => exact exitStrands_task h
  · next h => exact exitStrands_handler h

theorem Group.mem_live {g : Group} {u : Nat} : u ∈ g.live ↔ u < g.strands.length ∧ (g.strand u).exited = false := by
  simp [Group.live]

/-- The strands that an EXIT ends exist. -/
theorem exitStrands_lt (hc : issueCtx s = some c) {u : Nat} (hu : u ∈ exitStrands c) : u < c.g.strands.length := by
  rw [exitStrands_eq] at hu
  split at hu
  · exact issueCtx_strands hc hu
  · exact (Group.mem_live.mp hu).1

theorem exited_strand (hc : issueCtx s = some c) (u : Nat) :
    (c.g.modStrands (exitStrands c) fun _ st => { st with exited := true, wait := .ready }).strand u =
      if u ∈ exitStrands c then { c.g.strand u with exited := true, wait := .ready } else c.g.strand u := by
  rw [Group.strand_modStrands]
  by_cases hu : u ∈ exitStrands c
  · rw [if_pos ⟨hu, exitStrands_lt hc hu⟩, if_pos hu]
  · rw [if_neg fun h => hu h.1, if_neg hu]

theorem Group.firstLate_none {g : Group} (hf : ∀ n, (g.flag n).late = none) (hl : g.late = []) : g.firstLate = none := by
  unfold Group.firstLate
  rw [List.find?_eq_none.mpr fun n _ => by simp [hf n], hl]

/-- An EXIT that is no gang's last ends its strands. -/
theorem exec_exit_part (hi : Issues .exit s c) (h : (exitStrands c).length ≠ c.g.live.length) : exec .exit s = .next (c.exited s) := by
  show execExit s = _
  unfold execExit
  rw [issue_of_issues hi]
  simp only [h, decide_false, Bool.and_false, Bool.false_and, Bool.false_eq_true, if_false, Bool.not_false, Bool.true_or, if_true]
  cases c.g.task <;> rfl

/-- A worker's EXIT with nothing in flight and no trap undelivered ends its strands (R373). -/
theorem exec_exit_worker (hi : Issues .exit s c) {k : Nat} (hk : c.g.task = some k) (ho : ∀ o ∈ s.ops, o.gid ≠ c.g.gid)
    (hl : c.g.firstLate = none) : exec .exit s = .next (c.exited s) := by
  have hq : (s.ops.any fun o => o.gid == c.g.gid) = false := by simpa using ho
  show execExit s = _
  unfold execExit
  rw [issue_of_issues hi]
  simp only [hk, hl, hq, Bool.and_false, Bool.false_eq_true, if_false, Option.isSome_some, Bool.or_true, if_true]
  cases decide ((exitStrands c).length = c.g.live.length) <;> rfl

/-- The last EXIT of a group without a task retires it. -/
theorem exec_exit_last (hi : Issues .exit s c) (hd : c.det = false) (hk : c.g.task = none)
    (h : (exitStrands c).length = c.g.live.length) : exec .exit s = .next ((c.exited s).retireGroup c.g.gid) := by
  show execExit s = _
  unfold execExit
  rw [issue_of_issues hi]
  simp only [hk, h, hd, decide_true, Option.isSome_none, Bool.false_and, Bool.false_eq_true, if_false, Bool.not_true, Bool.or_false]
  rfl

theorem groupEnds_exited (hc : issueCtx s = some c) :
    GroupEnds s c (c.exited s) fun g => OnlyStrands c g ∧
      ∀ u, g.strand u = if u ∈ exitStrands c then { c.g.strand u with exited := true, wait := .ready } else c.g.strand u :=
  groupEnds_modGroup hc ⟨onlyStrands_modStrands c _ _, exited_strand hc⟩

/-! ### Retiring (R186, R212) -/

theorem Group.live_end (g : Group) : g.end_.live = [] := by
  refine List.filter_eq_nil_iff.mpr fun u hu => ?_
  have hu' : u < g.strands.length := by simpa [Group.end_] using hu
  simp [Group.end_, Group.strand, List.getD_eq_getElem?_getD, hu']

theorem Group.flag_end_late (g : Group) (n : Nat) : (g.end_.flag n).late = none := by
  simp only [Group.flag, Group.end_, tget, tfind_map_entries n (fun e : Nat × Flag => (e.1, { e.2 with late := none })) (fun _ => rfl)]
  cases tfind n g.flags <;> rfl

/-- A group that neither retires nor has halted, from what the end of the group leaves of it. -/
theorem Group.of_end {g : Group} (hr : g.retiring = false) (hh : g.halted = false) (strands : List Strand) :
    { ({ g with strands := strands } : Group).end_ with
      strands := g.strands, retiring := false, halted := false, pending := g.pending, flags := g.flags, late := g.late } = g := by
  cases g
  cases hr
  cases hh
  rfl

/-- A barrier that a retiring group drops is one that it leaves (log 47). -/
theorem Team.dropAll_eq (t : Team) (pos : Nat) : t.dropAll pos =
    { t with barriers := t.barriers.map fun e => if e.2.part.getLsbD pos then (e.1, leaves e.2 pos) else e } := rfl

theorem careAt_countMany (s : State) (idx n m : Nat) :
    careAt (s.countMany idx n) m = careAt s m + if m = idx then BitVec.ofNat 64 n else 0 := by
  simp only [careAt, State.countMany, tget_tset]
  split
  · next h => subst h; rfl
  · exact (BitVec.add_zero _).symm

/-- What retiring a group does that does not retire yet. -/
theorem State.retireGroup_eq {g : Group} {gid : Nat} (hg : tfind gid s.groups = some g) (hr : g.retiring = false) : s.retireGroup gid =
    ((s.countMany (careIndex careLostFault (dieOf (s.teamCore g.team))) g.lateCount).modTeam g.team fun t => t.dropAll g.pos).modGroup
      gid Group.end_ := by
  simp [State.retireGroup, hg, hr]

/-- The group whose strands a last EXIT ended. -/
def Ctx.exitedGroup (c : Ctx) : Group := c.g.modStrands (exitStrands c) fun _ st => { st with exited := true, wait := .ready }

theorem Ctx.exited_group (hc : issueCtx s = some c) : tfind c.g.gid (c.exited s).groups = some c.exitedGroup :=
  State.tfind_modGroup _ (issueCtx_group hc)

theorem exited_retireGroup (hc : issueCtx s = some c) : (c.exited s).retireGroup c.g.gid =
    (((c.exited s).countMany (careIndex careLostFault (dieOf (s.teamCore c.g.team))) c.g.lateCount).modTeam c.g.team
      fun t => t.dropAll c.g.pos).modGroup c.g.gid Group.end_ := by
  obtain ⟨-, -, -, -, -, -, -, -, hr, -, -⟩ := issueCtx_spec hc
  exact State.retireGroup_eq (g := c.exitedGroup) (c.exited_group hc) hr

/-- A retired group's table of groups: its own entry ended, the others as they were. -/
theorem retired_groups (hc : issueCtx s = some c) :
    (∀ k, k ≠ c.g.gid → tfind k ((c.exited s).retireGroup c.g.gid).groups = tfind k s.groups) ∧
      Has ((c.exited s).retireGroup c.g.gid) c c.exitedGroup.end_ := by
  rw [exited_retireGroup hc]
  refine ⟨fun k hk => ?_, State.tfind_modGroup _ (c.exited_group hc)⟩
  rw [State.tfind_modGroup_ne _ _ hk]
  exact State.tfind_modGroup_ne _ _ hk

theorem retired_care (hc : issueCtx s = some c) (n : Nat) : careAt ((c.exited s).retireGroup c.g.gid) n =
    careAt s n + if n = careIndex careLostFault (dieOf (s.teamCore c.g.team)) then lostTraps c.g else 0 := by
  rw [exited_retireGroup hc]
  exact careAt_countMany (c.exited s) _ _ n

theorem retired_teams (hc : issueCtx s = some c) : ((c.exited s).retireGroup c.g.gid).teams =
    tmodify c.g.team (fun t => t.dropAll c.g.pos) s.teams := by
  rw [exited_retireGroup hc]
  rfl

theorem retired_rest (hc : issueCtx s = some c) {t : State} (ht : t = (c.exited s).retireGroup c.g.gid) :
    t = { s with groups := t.groups, teams := t.teams, care := t.care } := by
  rw [ht, exited_retireGroup hc]
  rfl

end Sys2Proof.Machine
end

section
/-! PROOF. O18: REGANG, WAITF, NOP, YIELD and EXIT. -/

namespace Sys2Proof.Machine

open Sys2Proof Claim

/- One proof at a time (see above). -/
set_option Elab.async false

variable {s : State} {c : Ctx}

theorem regang_goes_on (hi : Issues .regang s c) (h : c.strands.length = c.g.live.length) :
    ∃ t, exec .regang s = .next t ∧ GroupEnds s c t fun g => OnlyStrands c g ∧ Advances .regang c g := by
  rw [exec_regang hi, if_pos h]
  exact groupEnds_finish hi.gang _

theorem regang_waits (hi : Issues .regang s c) (h : c.strands.length ≠ c.g.live.length) :
    ∃ t, exec .regang s = .next t ∧ GroupEnds s c t fun g => OnlyStrands c g ∧
      StrandsAre c g fun u => { c.g.strand u with wait := .regang } := by
  rw [exec_regang hi, if_neg h]
  exact ⟨_, rfl, groupEnds_modGroup hi.gang ⟨onlyStrands_modStrands c _ _, Ctx.strandsAre_modStrands hi.gang _⟩⟩

theorem waitf_goes_on {x : CTL} (hi : Issues (.waitf x) s c) (h : ∀ n < 12, x.f12.getLsbD n = true → (c.g.flag n).busy = false) :
    ∃ t, exec (.waitf x) s = .next t ∧ GroupEnds s c t fun g => { g with strands := c.g.strands, flags := c.g.flags } = c.g ∧
      Advances (.waitf x) c g ∧ ∀ n, g.flag n =
        if n < 12 ∧ x.f12.getLsbD n = true then { c.g.flag n with owned := false, tracked := [] } else c.g.flag n := by
  have hq : ((maskFlags x.f12).any fun n => (c.g.flag n).busy) = false :=
    List.any_eq_false.mpr fun n hn => by simp [h n (mem_maskFlags.mp hn).1 (mem_maskFlags.mp hn).2]
  have ho := c.g.endTracking_only (maskFlags x.f12)
  rw [exec_waitf hi, hq, if_neg Bool.false_ne_true, finish_eq]
  refine ⟨_, rfl, groupEnds_modGroup hi.gang ⟨?_, Ctx.strand_stepped hi.gang _ ?_, fun n => ?_⟩⟩
  · rw [ho]; rfl
  · rw [ho]
  · simp only [← mem_maskFlags]
    exact c.g.flag_endTracking (maskFlags x.f12) n

theorem waitf_stays {x : CTL} {n : Nat} (hi : Issues (.waitf x) s c) (hd : c.det = false) (hn : n < 12) (hx : x.f12.getLsbD n = true)
    (hb : (c.g.flag n).busy = true) : ∃ t, exec (.waitf x) s = .next t ∧ GroupEnds s c t fun g => OnlyStrands c g ∧ Stays c g := by
  have hq : ((maskFlags x.f12).any fun n => (c.g.flag n).busy) = true := List.any_eq_true.mpr ⟨n, mem_maskFlags.mpr ⟨hn, hx⟩, hb⟩
  rw [exec_waitf hi, if_pos hq, Ctx.waitTurn_of_not_det hd]
  refine ⟨_, rfl, groupEnds_modGroup hi.gang ⟨onlyStrands_modStrands c _ _, fun u => ?_⟩⟩
  rw [Group.strand_modStrands]
  split
  · exact ⟨rfl, rfl, rfl, rfl⟩
  · exact ⟨rfl, rfl, rfl, rfl⟩

theorem nop_goes_on (hi : Issues .nop s c) :
    ∃ t, exec .nop s = .next t ∧ GroupEnds s c t fun g => OnlyStrands c g ∧ Advances .nop c g := by
  show ∃ t, execNop s = .next t ∧ _
  unfold execNop
  rw [issue_of_issues hi]
  exact groupEnds_finish hi.gang _

theorem yield_goes_on (hi : Issues .yield s c) (hd : c.det = false) :
    ∃ t, exec .yield s = .next t ∧ GroupEnds s c t fun g =>
      { g with strands := c.g.strands, yielded := c.g.yielded, offers := c.g.offers } = c.g ∧ Advances .yield c g ∧
      g.yielded = some s.clock ∧ g.offers = [] :=
  ⟨_, exec_yield hi hd, groupEnds_modGroup hi.gang ⟨rfl, Ctx.strand_stepped hi.gang _ rfl, rfl, rfl⟩⟩

theorem exit_parts (hi : Issues .exit s c) (hh : c.g.inHandler = none) (h : c.strands.length ≠ c.g.live.length) :
    ∃ t, exec .exit s = .next t ∧ GroupEnds s c t fun g => OnlyStrands c g ∧
      StrandsAre c g fun u => { c.g.strand u with exited := true, wait := .ready } := by
  have hx : exitStrands c = c.strands := exitStrands_task hh
  have hg := groupEnds_exited hi.gang
  rw [hx] at hg
  exact ⟨_, exec_exit_part hi (by rw [hx]; exact h), hg⟩

theorem worker_exits {k : Nat} (hi : Issues .exit s c) (hk : c.g.task = some k) (ho : ∀ o ∈ s.ops, o.gid ≠ c.g.gid)
    (hf : ∀ n, (c.g.flag n).late = none) (hl : c.g.late = []) :
    ∃ t, exec .exit s = .next t ∧ GroupEnds s c t fun g => OnlyStrands c g ∧
      ∀ u, g.strand u = if u ∈ (if c.g.inHandler = none then c.strands else c.g.live)
        then { c.g.strand u with exited := true, wait := .ready } else c.g.strand u := by
  rw [← exitStrands_eq]
  exact ⟨_, exec_exit_worker hi hk ho (Group.firstLate_none hf hl), groupEnds_exited hi.gang⟩

theorem exit_retires (hi : Issues .exit s c) (hd : c.det = false) (hk : c.g.task = none)
    (h : c.g.inHandler ≠ none ∨ c.strands.length = c.g.live.length) :
    ∃ t g, exec .exit s = .next t ∧ t = { s with groups := t.groups, teams := t.teams, care := t.care } ∧
      (∀ k, k ≠ c.g.gid → tfind k t.groups = tfind k s.groups) ∧ Has t c g ∧ g.retiring = true ∧ g.live = [] ∧
      g.late = [] ∧ (∀ n, (g.flag n).late = none) ∧ g.pending = [] ∧
      { g with strands := c.g.strands, retiring := false, halted := false, pending := c.g.pending, flags := c.g.flags, late := c.g.late } = c.g ∧
      (∀ n, careAt t n = careAt s n + if n = careIndex careLostFault (dieOf (s.teamCore c.g.team)) then lostTraps c.g else 0) ∧
      (∀ k, k ≠ c.g.team → tfind k t.teams = tfind k s.teams) ∧
      ∀ tm, tfind c.g.team s.teams = some tm → tfind c.g.team t.teams = some { tm with
        barriers := tm.barriers.map (fun e => if e.2.part.getLsbD c.g.pos then (e.1, leaves e.2 c.g.pos) else e) } := by
  have hlast : (exitStrands c).length = c.g.live.length := by
    rcases h with h | h
    · rw [exitStrands_handler h]
    · rw [exitStrands_eq]
      split
      · exact h
      · rfl
  obtain ⟨-, -, -, -, -, -, -, hh, hr, -, -⟩ := issueCtx_spec hi.gang
  obtain ⟨hrest, hown⟩ := retired_groups hi.gang
  refine ⟨_, c.exitedGroup.end_, exec_exit_last hi hd hk hlast, retired_rest hi.gang rfl, hrest, hown, rfl, Group.live_end _, rfl,
    Group.flag_end_late _, rfl, Group.of_end hr hh _, retired_care hi.gang, fun k hk => ?_, fun tm htm => ?_⟩
  · rw [retired_teams hi.gang, tfind_tmodify_ne hk]
  · rw [retired_teams hi.gang, tfind_tmodify_self, htm, Option.map_some, Team.dropAll_eq]

/-- Settles O18, a lemma for each way an instruction of the five goes on, waits or ends its strands. -/
theorem gangsGoOn : Obligations.GangsGoOn := by
  unfold Obligations.GangsGoOn
  exact ⟨fun _ _ => regang_goes_on, fun _ _ => regang_waits, fun _ _ _ => waitf_goes_on, fun _ _ _ _ => waitf_stays,
    fun _ _ => nop_goes_on, fun _ _ => yield_goes_on, fun _ _ hi _ => exit_parts hi, fun _ _ _ => worker_exits, fun _ _ => exit_retires⟩

end Sys2Proof.Machine
end

section
/-! SUPPORT. SPAWN and the task instructions: what the context allocator gives, what a task's TASK answers, and what an abort takes away (R183, R184,
R208, R380, R381, R387 to R390). -/

namespace Sys2Proof.Machine

open Sys2Proof Claim

/- One proof at a time (see above). -/
set_option Elab.async false

variable {s u : State} {c : Ctx} {i : Instr}

/-! ### The start of an instruction on a machine that holds its group -/

theorem Ctx.start_groups (c : Ctx) (i : Instr) (o : Op) (s : State) : (c.start i o s).groups =
    tmodify c.g.gid (fun g => c.stepped i (g.own o (opDsts i.form))) s.groups := by
  unfold Ctx.start Ctx.advance
  rw [State.modGroup_modGroup]
  rfl

theorem Ctx.start_has (h : Has u c c.g) (i : Instr) (o : Op) : Has (c.start i o u) c (c.stepped i (c.g.own o (opDsts i.form))) := by
  unfold Has
  rw [Ctx.start_groups, tfind_tmodify_self, h]
  rfl

/-- An instruction starts on a machine that has the issuing group as it was, whatever other groups it has. -/
theorem Ctx.start_started_of_has (hc : issueCtx s = some c) (hu : Has u c c.g) (i : Instr) (o : Op) :
    Started i (opDsts i.form) [] u c o (c.start i o u) := by
  obtain ⟨-, -, g, hg, hgroup⟩ := Ctx.start_started hc rfl i o
  have hsame : g = c.stepped i (c.g.own o (opDsts i.form)) :=
    Option.some.inj (hg.symm.trans (Ctx.start_has (issueCtx_group hc) i o))
  refine ⟨by rw [List.append_nil]; rfl, fun k hk => by rw [Ctx.start_groups, tfind_tmodify_ne hk], g, ?_, hgroup⟩
  rw [hsame]
  exact Ctx.start_has hu i o

/-- An instruction whose results are formed as it issues. -/
def Ctx.fixedOp (c : Ctx) (i : Instr) (kind : OpKind) (rs : List (RegElem × Word)) (s : State) : Op :=
  { c.op i kind [] [] s with performed := true, results := rs }

theorem Ctx.fixedOp_isOf (c : Ctx) (i : Instr) (kind : OpKind) (rs : List (RegElem × Word)) (s : State) : IsOf i s c (c.fixedOp i kind rs s) :=
  ⟨rfl, rfl, rfl, rfl, rfl, rfl, rfl, rfl, rfl⟩

/-! ### What SPAWN's allocator gives (R183, R184) -/

theorem loadRanges_keeps {γ : Type} (f : State → γ) {launch : Nat} {r : Except (Nat × Nat × Nat) (Table (BitVec 64))}
    (hf : HomeSide fun t => f t = f s) (hl : ∀ t k g, f t = f s → f (t.modLaunch k g) = f s)
    (h : (loadRanges launch).run s = (r, u)) : f u = f s := by
  have := hf.loadRanges hl launch s rfl
  rwa [h] at this

theorem loadRanges_teams {launch : Nat} {r : Except (Nat × Nat × Nat) (Table (BitVec 64))} (h : (loadRanges launch).run s = (r, u)) :
    u.teams = s.teams :=
  loadRanges_keeps State.teams (.of_frame _ _ fun s t e => by rw [e]) (fun _ _ _ h => h) h

theorem loadRanges_nextId {launch : Nat} {r : Except (Nat × Nat × Nat) (Table (BitVec 64))} (h : (loadRanges launch).run s = (r, u)) :
    u.nextId = s.nextId :=
  loadRanges_keeps State.nextId (.of_frame _ _ fun s t e => by rw [e]) (fun _ _ _ h => h) h

/-- The positions of the issuing gang's team that a group holds. -/
def State.takenPositions (s : State) (c : Ctx) : List Nat := ((tvalues s.groups).filter fun g => g.team == c.g.team).map fun g => g.pos

/-- The machine after SPAWN has started its group at a position, with the range registers that were loaded. -/
def Ctx.spawned (c : Ctx) (l : Launch) (entry : Nat) (args : List Word) (pos q : Nat) (r : Table (BitVec 64)) (s : State) : State :=
  ((s.modLaunch l.id fun m => { m with spawns := l.spawns + 1 }).modTeam c.g.team fun t => t.clearBits pos).startGroup l r c.g.team pos
    (l.record.fabpos * 2 ^ 48 + 2 ^ 47 + l.spawns) c.core q true (BitVec.ofNat 64 entry) args

/-- SPAWN starts no group and leaves the machine as it was, or starts one at a position that no group of the team holds. -/
theorem spawnAt_run {entry status index : Nat} {args : List Word} (h : (spawnAt c entry args).run s = (.ok (status, index), u)) :
    (status ≠ 0 ∧ index = 0xFFFFFFFF ∧ u = s) ∨
    ∃ l t pos q r v, status = 0 ∧ tfind c.g.launch s.launches = some l ∧ tfind c.g.team s.teams = some t ∧ t.size ≤ pos ∧ pos < 64 ∧
      pos ∉ s.takenPositions c ∧ (loadRanges l.id).run s = (.ok r, v) ∧ u = c.spawned l entry args pos q r v := by
  unfold spawnAt at h
  replace h := (run_get_bind _ s).symm.trans h
  dsimp only at h
  split at h
  · next l t hl ht =>
    split at h
    · cases h
      exact .inl ⟨by decide, rfl, rfl⟩
    · next pos hpos =>
      have hfree := List.find?_some hpos
      rw [Bool.and_eq_true, decide_eq_true_iff] at hfree
      split at h
      · next q _ =>
        obtain ⟨r, v, hr, h⟩ := run_bind_ok h
        rw [run_bind, run_modify] at h
        cases h
        exact .inr ⟨l, t, pos, q, r, v, rfl, hl, ht, hfree.1, List.mem_range.mp (List.mem_of_find?_eq_some hpos),
          by simpa [State.takenPositions] using hfree.2, hr, rfl⟩
      · split at h
        · cases h
          exact .inl ⟨by decide, rfl, rfl⟩
        · cases h
          exact .inl ⟨by decide, rfl, rfl⟩
  · cases h
    exact .inl ⟨by decide, rfl, rfl⟩

/-! ### The group that SPAWN starts -/

theorem tfind_none_of_fresh {α : Type} {t : Table α} {k : Nat} (h : ∀ e ∈ t, e.1 < k) : tfind k t = none := by
  cases hk : tfind k t with
  | none => rfl
  | some v => exact absurd (h _ (mem_of_tfind hk)) (Nat.lt_irrefl k)

theorem mem_takenPositions {n : Nat} {g : Group} (hg : (n, g) ∈ s.groups) (ht : g.team = c.g.team) : g.pos ∈ s.takenPositions c :=
  List.mem_map.mpr ⟨g, List.mem_filter.mpr ⟨List.mem_map.mpr ⟨_, hg, rfl⟩, beq_iff_eq.mpr ht⟩, rfl⟩

theorem setBit64_getLsbD_false {pos : Nat} (h : pos < 64) (m : BitVec 64) : (setBit64 m pos false).getLsbD pos = false := by
  simp [setBit64, h]

/-- A barrier with a position's bits cleared (R208). -/
def Barrier.clearBits (b : Barrier) (pos : Nat) : Barrier :=
  { b with part := setBit64 b.part pos false, pend := setBit64 b.pend pos false, arrived := setBit64 b.arrived pos false }

theorem Team.tfind_clearBits (t : Team) (pos b : Nat) : tfind b (t.clearBits pos).barriers = (tfind b t.barriers).map (·.clearBits pos) :=
  tfind_map_entries b (fun e : Nat × Barrier => (e.1, e.2.clearBits pos)) (fun _ => rfl) t.barriers

/-- A position's bits are clear in every barrier of a team that has cleared them. -/
theorem Team.clearBits_barrier {pos : Nat} (h : pos < 64) (t : Team) (b : Nat) :
    (tget Barrier.zero (t.clearBits pos).barriers b).part.getLsbD pos = false ∧
      (tget Barrier.zero (t.clearBits pos).barriers b).pend.getLsbD pos = false ∧
      (tget Barrier.zero (t.clearBits pos).barriers b).arrived.getLsbD pos = false := by
  unfold tget
  rw [Team.tfind_clearBits]
  cases tfind b t.barriers with
  | none => exact ⟨BitVec.getLsbD_zero, BitVec.getLsbD_zero, BitVec.getLsbD_zero⟩
  | some x => exact ⟨setBit64_getLsbD_false h _, setBit64_getLsbD_false h _, setBit64_getLsbD_false h _⟩

section spawned
variable (l : Launch) (entry : Nat) (args : List Word) (pos q : Nat) (r : Table (BitVec 64)) (s : State)

/-- What SPAWN's group is placed with. -/
def Ctx.spawnPlacement (c : Ctx) (l : Launch) (entry : Nat) (args : List Word) (pos q : Nat) (r : Table (BitVec 64)) (s : State) : Placement :=
  ((s.modLaunch l.id fun m => { m with spawns := l.spawns + 1 }).modTeam c.g.team fun t => t.clearBits pos).placementOf l r c.g.team pos
    (l.record.fabpos * 2 ^ 48 + 2 ^ 47 + l.spawns) c.core q true (BitVec.ofNat 64 entry) args

theorem Ctx.spawned_groups : (c.spawned l entry args pos q r s).groups =
    tinsert s.nextId (Group.start (c.spawnPlacement l entry args pos q r s)) s.groups := State.startGroup_groups ..

theorem Ctx.spawned_teams : (c.spawned l entry args pos q r s).teams =
    tmodify c.g.team (·.dropQ8 pos) (tmodify c.g.team (·.clearBits pos) s.teams) := State.startGroup_teams ..

end spawned

/-- What SPAWN leaves with status 0: a group of its own at the entry, at a position no group of the team held, whose bits every barrier of the
team has clear. -/
theorem spawned_group {entry pos q : Nat} {l : Launch} {t : Team} {args : List Word} {r : Table (BitVec 64)} {v : State} (hs : Shaped s) (hk : Keyed s)
    (hl : tfind c.g.launch s.launches = some l) (ht : tfind c.g.team s.teams = some t) (hsize : t.size ≤ pos) (h64 : pos < 64)
    (hfree : pos ∉ s.takenPositions c) (hr : (loadRanges l.id).run s = (.ok r, v)) :
    ∃ gid g tm tm', tfind gid s.groups = none ∧ tfind gid (c.spawned l entry args pos q r v).groups = some g ∧ tfind c.g.team s.teams = some tm ∧
      g.launch = c.g.launch ∧ g.team = c.g.team ∧ tm.size ≤ g.pos ∧ g.pos < 64 ∧
      (∀ e ∈ s.groups, e.2.team = c.g.team → e.2.pos ≠ g.pos) ∧ g.spawned = true ∧
      (∀ st ∈ g.strands, st = ⟨BitVec.ofNat 64 entry, [0xF], false, 0, .ready⟩) ∧
      tfind c.g.team (c.spawned l entry args pos q r v).teams = some tm' ∧ ∀ b, (tget Barrier.zero tm'.barriers b).part.getLsbD g.pos = false ∧
        (tget Barrier.zero tm'.barriers b).pend.getLsbD g.pos = false ∧ (tget Barrier.zero tm'.barriers b).arrived.getLsbD g.pos = false := by
  obtain ⟨-, hgroups⟩ := hs
  obtain ⟨-, -, hlaunches⟩ := hk
  have hfresh : tfind v.nextId s.groups = none := by
    rw [loadRanges_nextId hr]
    exact tfind_none_of_fresh fun e he => (hgroups e he).1
  refine ⟨v.nextId, Group.start (c.spawnPlacement l entry args pos q r v), t, (t.clearBits pos).dropQ8 pos, hfresh, ?_, ht,
    hlaunches _ (mem_of_tfind hl), rfl, hsize, h64, fun e he hteam hpos => hfree ?_, rfl, fun st hst => ?_, ?_, Team.clearBits_barrier h64 t⟩
  · rw [Ctx.spawned_groups, tfind_tinsert_self]
  · have := mem_takenPositions he hteam
    rw [hpos] at this
    exact this
  · exact List.eq_of_mem_replicate hst
  · rw [Ctx.spawned_teams, tfind_tmodify_self, tfind_tmodify_self, loadRanges_teams hr, ht]
    rfl

/-! ### TASK, TABORT and TWAIT (R387 to R390) -/

theorem exec_spawn {x : ENG} (hi : Issues (.spawn x) s c) (hx : c.pair x.c % 8 = 0) : exec (.spawn x) s =
    (spawnAt c (c.pair x.c) (argWords c x.b)).on s (fun s => .next (c.block s))
      (fun r s => .next (c.start (.spawn x) (c.fixedOp (.spawn x) .spawn (pairResult c x.a r.1 r.2) s) s)) fun _ _ _ s => .next (c.block s) := by
  show execSpawn x s = _
  unfold execSpawn
  rw [issue_of_issues hi]
  exact if_neg (not_not.mpr hx)

/-- What a TASK that is answered starts. -/
def Ctx.answered (c : Ctx) (x : ENG) (status id : Nat) (s : State) : State :=
  c.start (.task x) (c.fixedOp (.task x) .fixed (pairResult c x.a status id) s) s

/-- A task that may not enqueue is answered with a status (R388). -/
theorem exec_task_status {x : ENG} {d : Domain} {k status : Nat} {r : TaskRec} (hi : Issues (.task x) s c) (hx : c.pair x.c % 8 = 0)
    (hd : s.taskCtx c = some (d, k, r)) (hstatus : taskStatus r (c.pair x.a) = some status) :
    exec (.task x) s = .next (c.answered x status 0xFFFFFFFF s) := by
  show execTask x s = _
  unfold execTask
  rw [issue_of_issues hi]
  dsimp only
  rw [if_neg (not_not.mpr hx), hd]
  dsimp only
  rw [hstatus]
  rfl

/-- The machine with a task's child put into the lowest free slot. -/
def Ctx.enqueued (c : Ctx) (x : ENG) (d : Domain) (k : Nat) (r : TaskRec) (s : State) : State :=
  (s.modTask c.g.launch k fun r => { r with spawns := r.spawns + 1 }).putTask c.g.launch d.freeSlot
    ⟨c.pair x.c, argWords c x.b, c.pair x.a, 64 * r.tie + r.spawns + 1, k, 0, 1, none, none, none, false⟩

/-- A task that may enqueue, and whose record the slot then holds, is answered with the slot (R388). -/
theorem exec_task_slot {x : ENG} {d e : Domain} {k : Nat} {r : TaskRec} (hi : Issues (.task x) s c) (hx : c.pair x.c % 8 = 0)
    (hd : s.taskCtx c = some (d, k, r)) (hstatus : taskStatus r (c.pair x.a) = none) (hroom : d.recs.length < d.slotLimit k)
    (he : tfind c.g.launch (c.enqueued x d k r s).domains = some e) (hrun : e.ended = false) (hslot : (tfind d.freeSlot e.recs).isSome = true) :
    exec (.task x) s = .next (c.answered x 0 d.freeSlot (c.enqueued x d k r s)) := by
  have hfilled : (c.enqueued x d k r s).unfilled c.g.launch d.freeSlot = false := by
    unfold State.unfilled
    rw [he]
    dsimp only
    rw [Option.isNone_eq_false_iff.mpr hslot, Bool.and_false]
  show execTask x s = _
  unfold execTask
  rw [issue_of_issues hi]
  dsimp only
  rw [if_neg (not_not.mpr hx), hd]
  dsimp only
  rw [hstatus]
  dsimp only
  rw [if_neg (Nat.not_le.mpr hroom)]
  refine (if_neg (c := (c.enqueued x d k r s).unfilled c.g.launch d.freeSlot = true) (by rw [hfilled]; exact Bool.false_ne_true)).trans
    ((if_neg (c := (match tfind c.g.launch (c.enqueued x d k r s).domains with | some d => d.ended | none => true) = true) ?_).trans rfl)
  rw [he]
  dsimp only
  rw [hrun]
  exact Bool.false_ne_true

theorem exec_tabortRetry {d : Domain} {k : Nat} {r : TaskRec} (hi : Issues .tabortRetry s c) (hd : s.taskCtx c = some (d, k, r)) :
    exec .tabortRetry s = .next ((s.abortTasks c.g.launch [k]).modTask c.g.launch k fun r => { r with retryAt := some d.frontier }) := by
  show execTabortRetry s = _
  unfold execTabortRetry
  rw [issue_of_issues hi, hd]

theorem exec_tabortDrop {d : Domain} {k : Nat} {r : TaskRec} (hi : Issues .tabortDrop s c) (hd : s.taskCtx c = some (d, k, r)) :
    exec .tabortDrop s = .next ((s.abortTasks c.g.launch [k]).modTask c.g.launch k fun r => { r with state := 4 }) := by
  show execTabortDrop s = _
  unfold execTabortDrop
  rw [issue_of_issues hi, hd]

/-- TWAIT goes on for the frontier task, and once the frontier has passed its time (R390). -/
theorem exec_twait {x : ENG} {d : Domain} {k : Nat} {r : TaskRec} (hi : Issues (.twait x) s c) (hd : s.taskCtx c = some (d, k, r))
    (hpast : c.pair x.a < d.frontier ∨ d.isFrontier k = true) : exec (.twait x) s = finish c (.twait x) id s := by
  show execTwait x s = _
  unfold execTwait
  rw [issue_of_issues hi, hd]
  exact if_pos hpast

/-! ### What an abort takes away (R380, R381) -/

/-- Which tasks an abort names, its cascade aborts or removes. -/
theorem mem_abortClosure {recs : Table TaskRec} {marks : List Mark} {launch slot : Nat} (fuel : Nat) {ab rm : List Nat} (h : slot ∈ ab ∨ slot ∈ rm) :
    slot ∈ (abortClosure recs marks launch fuel ab rm).1 ∨ slot ∈ (abortClosure recs marks launch fuel ab rm).2 := by
  induction fuel generalizing ab rm with
  | zero => exact h
  | succ fuel ih =>
    refine ih ?_
    generalize hrm : rm ++ (childSlots recs (ab ++ rm)).filter (fun k => !rm.contains k) = rm'
    by_cases hmem : slot ∈ rm'
    · exact .inr hmem
    · refine .inl (List.mem_filter.mpr ⟨List.mem_append_left _ (h.resolve_right fun hslot => hmem ?_), by simpa using hmem⟩)
      rw [← hrm]
      exact List.mem_append_left _ hslot

section clean
variable (launch slot : Nat)

/-- A slot's record stands in the table of its domain. -/
def Recorded (s : State) : Prop := ∃ d r, tfind launch s.domains = some d ∧ tfind slot d.recs = some r

/-- No version is the task's, and no read mark. -/
def Cleared (s : State) : Prop := (∀ v ∈ s.versions, v.kind ≠ .spec launch slot) ∧ ∀ m ∈ s.marks, ¬(m.launch = launch ∧ m.slot = slot)

end clean

section
variable {launch slot : Nat}

theorem Recorded.modTask (h : Recorded launch slot s) (k : Nat) (f : TaskRec → TaskRec) : Recorded launch slot (s.modTask launch k f) := by
  obtain ⟨d, r, hd, hr⟩ := h
  refine ⟨{ d with recs := tmodify k f d.recs }, if slot = k then f r else r, ?_, ?_⟩
  · simp [State.modTask, State.modDomain, hd]
  · rw [tfind_tmodify]
    split
    · next hk => rw [← hk, hr]; rfl
    · exact hr

/-- A machine with no more versions and marks is as clear. -/
theorem Cleared.of_subset {t : State} (h : Cleared launch slot s) (hv : t.versions ⊆ s.versions) (hm : t.marks ⊆ s.marks) : Cleared launch slot t :=
  ⟨fun v hmem => h.1 v (hv hmem), fun m hmem => h.2 m (hm hmem)⟩

theorem State.killTask_subset (s : State) (launch k : Nat) : (s.killTask launch k).versions ⊆ s.versions ∧ (s.killTask launch k).marks ⊆ s.marks := by
  unfold State.killTask
  split
  · exact ⟨fun _ h => h, fun _ h => h⟩
  split
  · exact ⟨fun _ h => h, fun _ h => h⟩
  dsimp only
  split
  · exact ⟨List.filter_sublist.subset, List.filter_sublist.subset⟩
  · exact ⟨List.filter_sublist.subset, List.filter_sublist.subset⟩

theorem Cleared.killTask (h : Cleared launch slot s) (k : Nat) : Cleared launch slot (s.killTask launch k) :=
  h.of_subset (s.killTask_subset launch k).1 (s.killTask_subset launch k).2

theorem Recorded.killTask (h : Recorded launch slot s) (k : Nat) : Recorded launch slot (s.killTask launch k) := by
  unfold State.killTask
  split
  · exact h
  split
  · exact h
  dsimp only
  split
  · next g _ => exact Recorded.modTask (s := (s.freeWorker g).dropTask launch k) h k _
  · exact Recorded.modTask (s := s.dropTask launch k) h k _

theorem State.dropTask_cleared (s : State) (launch slot : Nat) : Cleared launch slot (s.dropTask launch slot) := by
  refine ⟨fun v hv hk => ?_, fun m hm hk => ?_⟩
  · simp [State.dropTask, isSpec, hk] at hv
  · simp [State.dropTask, hk] at hm

/-- Killing a task takes its versions and marks away. -/
theorem Recorded.killTask_cleared (h : Recorded launch slot s) : Cleared launch slot (s.killTask launch slot) := by
  obtain ⟨d, r, hd, hr⟩ := h
  unfold State.killTask
  rw [hd]
  dsimp only
  rw [hr]
  dsimp only
  exact State.dropTask_cleared _ launch slot

/-- Steps that keep a record, and clear its task once they come to it, have cleared it when they have all been taken. -/
theorem foldl_cleared {f : State → Nat → State} (hrec : ∀ s k, Recorded launch slot s → Recorded launch slot (f s k))
    (hkeep : ∀ s k, Cleared launch slot s → Cleared launch slot (f s k)) (hclear : ∀ s, Recorded launch slot s → Cleared launch slot (f s slot))
    {ks : List Nat} (hmem : slot ∈ ks) {s : State} (h : Recorded launch slot s) : Cleared launch slot (ks.foldl f s) := by
  induction ks generalizing s with
  | nil => cases hmem
  | cons k ks ih =>
    rcases List.mem_cons.mp hmem with rfl | hks
    · exact List.foldlRecOn ks f (hclear s h) fun t ht k _ => hkeep t k ht
    · exact ih hks (hrec s k h)

theorem foldl_recorded {f : State → Nat → State} (hrec : ∀ s k, Recorded launch slot s → Recorded launch slot (f s k)) (ks : List Nat)
    (h : Recorded launch slot s) : Recorded launch slot (ks.foldl f s) := List.foldlRecOn ks f h fun t ht k _ => hrec t k ht

/-- An abort of a task takes its versions and read marks away. -/
theorem Recorded.abortTasks_cleared (h : Recorded launch slot s) : Cleared launch slot (s.abortTasks launch [slot]) := by
  have h0 := h
  obtain ⟨d, r, hd, hr⟩ := h
  unfold State.abortTasks
  rw [hd]
  dsimp only
  have hin := mem_abortClosure (recs := d.recs) (marks := s.marks) (launch := launch) (slot := slot) d.recs.length (ab := [slot]) (rm := [])
    (.inl (List.mem_singleton_self slot))
  generalize abortClosure d.recs s.marks launch d.recs.length [slot] [] = closure at hin
  obtain ⟨ab, rm⟩ := closure
  dsimp only at hin ⊢
  suffices h : Cleared launch slot (rm.foldl (fun s k => s.killTask launch k) (ab.foldl (fun s k =>
      (s.killTask launch k).modTask launch k fun r => { r with state := 1, spawns := 0 }) s)) from h
  rcases hin with hab | hrm
  · refine List.foldlRecOn rm _ (foldl_cleared ?_ ?_ ?_ hab h0) fun t ht k _ => ht.killTask k
    · exact fun t k ht => (ht.killTask k).modTask k _
    · exact fun t k ht => ht.killTask k
    · exact fun t ht => ht.killTask_cleared
  · exact foldl_cleared (fun t k ht => ht.killTask k) (fun t k ht => ht.killTask k) (fun t ht => ht.killTask_cleared) hrm
      (foldl_recorded (fun t k ht => (ht.killTask k).modTask k _) ab h0)

end

end Sys2Proof.Machine
end

section
/-! PROOF. O48: SPAWN, TASK, TABORT and TWAIT. -/

namespace Sys2Proof.Machine

open Sys2Proof Claim

/- One proof at a time (see above). -/
set_option Elab.async false

variable {s u : State} {c : Ctx}

theorem spawn_starts {x : ENG} {status index : Nat} (hs : Shaped s) (hk : Keyed s) (hi : Issues (.spawn x) s c) (hx : c.pair x.c % 8 = 0)
    (h : (spawnAt c (c.pair x.c) ((List.range 8).map (fun k => c.g.sget (dataReg x.b + k) c.lowest))).run s = (.ok (status, index), u)) :
    (Has u c c.g → ∃ t, exec (.spawn x) s = .next t ∧ (∃ o, IsOf (.spawn x) u c o ∧ Started (.spawn x) (runCodes x.a 2) [] u c o t ∧
      o.performed = true ∧ o.results = statusPair c x.a status index)) ∧
    (status ≠ 0 → u = s ∧ index = 0xFFFFFFFF) ∧
    (status = 0 → ∃ gid g tm tm', tfind gid s.groups = none ∧ tfind gid u.groups = some g ∧ tfind c.g.team s.teams = some tm ∧
      g.launch = c.g.launch ∧ g.team = c.g.team ∧ tm.size ≤ g.pos ∧ g.pos < 64 ∧
      (∀ e ∈ s.groups, e.2.team = c.g.team → e.2.pos ≠ g.pos) ∧ g.spawned = true ∧
      (∀ st ∈ g.strands, st = ⟨BitVec.ofNat 64 (c.pair x.c), [0xF], false, 0, .ready⟩) ∧
      tfind c.g.team u.teams = some tm' ∧ ∀ b, (tget Barrier.zero tm'.barriers b).part.getLsbD g.pos = false ∧
        (tget Barrier.zero tm'.barriers b).pend.getLsbD g.pos = false ∧ (tget Barrier.zero tm'.barriers b).arrived.getLsbD g.pos = false) := by
  refine ⟨fun hhas => ⟨_, (exec_spawn hi hx).trans (Mem.on_ok h _ _ _), _, c.fixedOp_isOf _ _ _ u,
    Ctx.start_started_of_has hi.gang hhas (.spawn x) _, rfl, rfl⟩, fun hstatus => ?_, fun hstatus => ?_⟩
  · rcases spawnAt_run h with ⟨-, hindex, hu⟩ | ⟨l, t, pos, q, r, v, h0, -⟩
    · exact ⟨hu, hindex⟩
    · exact absurd h0 hstatus
  · rcases spawnAt_run h with ⟨h0, -⟩ | ⟨l, t, pos, q, r, v, -, hl, ht, hsize, h64, hfree, hr, rfl⟩
    · exact absurd hstatus h0
    · exact spawned_group hs hk hl ht hsize h64 hfree hr

theorem task_is_refused {x : ENG} {d : Domain} {k status : Nat} {r : TaskRec} (hi : Issues (.task x) s c) (hx : c.pair x.c % 8 = 0)
    (hd : s.taskCtx c = some (d, k, r))
    (h : if c.pair x.a < r.ts then status = 1 else if r.spawns = 63 then status = 2 else 2 ^ 32 ≤ 64 * r.tie + 64 ∧ status = 3) :
    ∃ t, exec (.task x) s = .next t ∧ FixedStart (.task x) x.a status 0xFFFFFFFF s c t := by
  have hstatus : taskStatus r (c.pair x.a) = some status := by
    unfold taskStatus
    split at h
    · next hts => rw [if_pos hts, h]
    · next hts =>
      rw [if_neg hts]
      split at h
      · next hspawns => rw [if_pos hspawns, h]
      · next hspawns => rw [if_neg hspawns, if_pos h.1, h.2]
  exact ⟨_, exec_task_status hi hx hd hstatus, _, c.fixedOp_isOf _ _ _ s, Ctx.start_started_of_has hi.gang (issueCtx_group hi.gang) (.task x) _, rfl, rfl⟩

theorem task_enqueues {x : ENG} {d : Domain} {k : Nat} {r : TaskRec} (hi : Issues (.task x) s c) (hx : c.pair x.c % 8 = 0)
    (hd : s.taskCtx c = some (d, k, r)) (hts : r.ts ≤ c.pair x.a) (hspawns : r.spawns ≠ 63) (htie : 64 * r.tie + 64 < 2 ^ 32)
    (hroom : d.recs.length < d.slotLimit k)
    (he : ∃ e, tfind c.g.launch (c.enqueued x d k r s).domains = some e ∧ e.ended = false ∧ (tfind d.freeSlot e.recs).isSome = true) :
    ∃ t o, exec (.task x) s = .next t ∧ IsOf (.task x) (c.enqueued x d k r s) c o ∧ t.ops = (c.enqueued x d k r s).ops ++ [o] ∧
      o.performed = true ∧ o.results = statusPair c x.a 0 d.freeSlot ∧ t.domains = (c.enqueued x d k r s).domains := by
  obtain ⟨e, hfind, hrun, hslot⟩ := he
  have hstatus : taskStatus r (c.pair x.a) = none := by
    unfold taskStatus
    rw [if_neg (Nat.not_lt.mpr hts), if_neg hspawns, if_neg (Nat.not_le.mpr htie)]
  exact ⟨_, _, exec_task_slot hi hx hd hstatus hroom hfind hrun hslot, c.fixedOp_isOf _ _ _ _, rfl, rfl, rfl, rfl⟩

theorem twait_goes_on {x : ENG} {d : Domain} {k : Nat} {r : TaskRec} (hi : Issues (.twait x) s c) (hd : s.taskCtx c = some (d, k, r))
    (h : c.pair x.a < d.frontier ∨ d.isFrontier k = true) :
    ∃ t, exec (.twait x) s = .next t ∧ GroupEnds s c t (fun g => OnlyStrands c g ∧ Advances (.twait x) c g) := by
  rw [exec_twait hi hd h]
  exact groupEnds_finish hi.gang _

/-- Settles O48: SPAWN by what its allocator can answer, TASK by its status, TABORT by the fold of the abort's cascade. -/
theorem spawnsAndTasks : Obligations.SpawnsAndTasks := by
  unfold Obligations.SpawnsAndTasks
  refine ⟨fun x s c u status index _ hs hk hi hx h => spawn_starts hs hk hi hx h, fun x s c d k r status _ hi hx hd h => task_is_refused hi hx hd h,
    fun x s c d k r u _ hi hx hd hts hspawns htie hroom hu he => ?_, fun s c d k r hi hd => ⟨_, exec_tabortRetry hi hd, rfl⟩,
    fun s c d k r hi hd => ⟨_, exec_tabortDrop hi hd, rfl⟩, fun s launch slot h => Recorded.abortTasks_cleared h,
    fun x s c d k r _ hi hd h => twait_goes_on hi hd h⟩
  have hu' : u = c.enqueued x d k r s := hu
  rw [hu'] at he ⊢
  exact task_enqueues hi hx hd hts hspawns htie hroom he

end Sys2Proof.Machine
end
